-- ==== Sys2Proof/Word.lean ====
section
/-! DEFINITION. The word types, the fields of an element instruction and of a hearth command, and the small
data types that the operands of the part's events are made of. -/

namespace Sys2Proof

/-- A g register, a token value, a k constant: 32 bits (R175, R176). -/
abbrev Word := BitVec 32

/-- One byte of a memory. -/
abbrev Byte := BitVec 8

/-- The scalar floating-point width that an opcode of 0x20 to 0x3F names (R295); width 3 is reserved. -/
inductive FWidth where
  | f32 | f16 | b16
  deriving DecidableEq, Repr, Inhabited

/-- The fields of a 64-bit element instruction but for OP and V (R281). -/
structure Slot where
  pmask : BitVec 8 := 0
  pval : BitVec 8 := 0
  need : BitVec 4 := 0
  tch : BitVec 2 := 0
  ten : Bool := false
  tag : BitVec 3 := 0
  deq : BitVec 4 := 0
  pidx : BitVec 3 := 0
  pmode : BitVec 3 := 0
  dst : BitVec 5 := 0
  otag : BitVec 3 := 0
  src1 : BitVec 5 := 0
  src2 : BitVec 5 := 0
  imm : Bool := false
  deriving DecidableEq, Repr, Inhabited

/-- The fields of a 128-bit hearth command but for CMD (R298). -/
structure HCmd where
  wsem : BitVec 8 := 0
  wthr : BitVec 16 := 0
  wcon : Bool := false
  ssem : BitVec 8 := 0
  sinc : BitVec 8 := 0
  sen : Bool := false
  ha : BitVec 8 := 0
  hb : BitVec 8 := 0
  imm : BitVec 64 := 0
  deriving DecidableEq, Repr, Inhabited

/-- A work packet (R50). `body` holds LEN bytes. -/
structure Packet where
  dev : Nat := 0
  tag : Nat := 0
  kind : Nat := 0
  cmode : Bool := false
  len : Nat := 0
  rsv : Nat := 0
  pid : BitVec 64 := 0
  body : List Byte := []
  deriving DecidableEq, Repr, Inhabited

/-- What HOME_ACCESS performs at a home (R240): an operation under way, or the next vestibule entry that a
committing task's cell drains (R160). `ue` lists the homes of the entry at which the drain meets an uncorrectable error
(R161): 0 for a line, the number of the record in a line of reduction records. -/
inductive AccessTarget where
  | op (id : Nat)
  | drain (cell : Nat) (ue : List Nat)
  deriving DecidableEq, Repr, Inhabited

/-- What a router may combine (R252): the request of an operation, a combined request, or a reduction record that the commit
drain of a cell sends, by its number in the line being drained. -/
inductive RequestName where
  | op (id : Nat)
  | combo (id : Nat)
  | record (cell : Nat) (n : Nat)
  deriving DecidableEq, Repr, Inhabited

/-- A request at a router, with the tick of its arrival and its input port (R253). -/
structure Request where
  name : RequestName := .op 0
  tick : Nat := 0
  port : Nat := 0
  deriving DecidableEq, Repr, Inhabited

/-- A frame as a port receives it (R29, R30): the bytes without the frame check sequence, whether the frame
check sequence holds, and the corrected ingress stamp in quarter nanoseconds. -/
structure EthFrame where
  port : Nat := 0
  stamp : Nat := 0
  bytes : List Byte := []
  fcsOk : Bool := true
  deriving DecidableEq, Repr, Inhabited

/-- The body of a whole Ewejan message (R17), with the device it comes from. A reply completes an operation
of this device and carries its value. -/
inductive EwjBody where
  | load (pa : Nat) (len : Nat)
  | store (pa : Nat) (bytes : List Byte)
  | atomic (pa : Nat) (op : BitVec 3) (a b : Word)
  | reduction (pa : Nat) (op : BitVec 3) (a : Nat)
  | packet (p : Packet)
  | reply (op : Nat)
  deriving DecidableEq, Repr, Inhabited

/-- A whole Ewejan message: source device, receiving port, sequence number (R17, R20), and the route tag and age of the task
that issued it (R280). -/
structure EwjMsg where
  src : Nat := 0
  port : Nat := 0
  seq : Nat := 0
  tag : Nat := 0xFFFF
  age : Nat := 0
  body : EwjBody := .reply 0
  deriving DecidableEq, Repr, Inhabited

/-- What a domain recovery does beside the renumbering: the rooms found lost, the ports trained again and the pages retired
(R23). -/
structure Recovery where
  absent : BitVec 64 := 0
  ports : List Nat := []
  pages : List Nat := []
  deriving DecidableEq, Repr, Inhabited

/-- Where an uncorrectable error is met (R272, R273): in a cell's logic, or where `sram` says so in its tile, accumulator or vestibule
arrays, at a home word that a cell's access reads, or at a scratchpad block of a memory cell. -/
inductive UeSite where
  | cell (c : Nat) (sram lasting : Bool)
  | home (c : Nat) (pa : Nat) (lasting : Bool)
  | spad (c : Nat) (mem : Nat) (block : Nat) (lasting : Bool)
  deriving DecidableEq, Repr, Inhabited

/-- An array that may enter retention (R44): a memory cell's scratchpad or a landing slice. -/
inductive RetArray where
  | spad (c : Nat)
  | slice (wing : Nat) (n : Nat)
  deriving DecidableEq, Repr, Inhabited

/-- What a time protocol message makes of the client's state (R31, R75). -/
structure PtpReport where
  port : Nat := 0
  offset : BitVec 32 := 0
  step : Nat := 15
  state : Nat := 0
  deriving DecidableEq, Repr, Inhabited

/-- Bit `i` of a number. -/
def natBit (n i : Nat) : Bool := n.testBit i

/-- Bits [lo + len − 1 : lo] of a number. -/
def natField (n lo len : Nat) : Nat := (n / 2 ^ lo) % 2 ^ len

/-- The two's complement reading of the low `w` bits. -/
def natToInt (w n : Nat) : Int :=
  let m := n % 2 ^ w
  if m < 2 ^ (w - 1) then (m : Int) else (m : Int) - (2 ^ w : Nat)

/-- The low `w` bits of an integer, in two's complement. -/
def intToNat (w : Nat) (z : Int) : Nat := (z % ((2 ^ w : Nat) : Int)).toNat

/-- A value as a boolean bit, 1 or 0. -/
def bit (b : Bool) : Nat := if b then 1 else 0

end Sys2Proof
end

