-- ==== Sys2Proof/Syntax.lean ====
section
/-! DEFINITION. The one inductive of the part's operations and events: one constructor for each row of
spec/opcode_table.json, those without an operand last. An element instruction carries its slot fields (R281), a hearth
command its command fields (R298); the other rows are events of the part, which have no encoding, and carry what comes
from outside the model. An event without an operand befalls the cell, room, wing or task that State.cur names. -/

namespace Sys2Proof

/-- An element instruction, a hearth command or an event of the part. -/
inductive Instr where
  /-- NOP (R334): Element instruction that does nothing and yields R = 0. -/
  | nop (f : Slot)
  /-- MOV (R334): Copies source a to the destination. -/
  | mov (f : Slot)
  /-- ADD (R334): Adds a and b modulo 2^32, giving carry and signed overflow. -/
  | add (f : Slot)
  /-- ADDC (R334): Adds a, b and the carry P[PIDX] modulo 2^32. -/
  | addc (f : Slot)
  /-- SUB (R334): Subtracts b from a modulo 2^32, giving borrow and overflow. -/
  | sub (f : Slot)
  /-- SUBB (R334): Subtracts b and the borrow P[PIDX] from a. -/
  | subb (f : Slot)
  /-- MUL (R334): Writes the low 32 bits of a × b. -/
  | mul (f : Slot)
  /-- MULH (R334): Writes the high 32 bits of the signed product. -/
  | mulh (f : Slot)
  /-- MULHU (R334): Writes the high 32 bits of the unsigned product. -/
  | mulhu (f : Slot)
  /-- DIV (R335): Signed division truncating towards zero, with defined results for the borderline cases. -/
  | div (f : Slot)
  /-- DIVU (R335): Unsigned division, with defined results for the borderline cases. -/
  | divu (f : Slot)
  /-- REM (R335): Signed remainder taking the dividend's sign. -/
  | rem (f : Slot)
  /-- REMU (R335): Unsigned remainder. -/
  | remu (f : Slot)
  /-- AND (R334): Bitwise AND of a and b. -/
  | and_ (f : Slot)
  /-- OR (R334): Bitwise OR of a and b. -/
  | or_ (f : Slot)
  /-- XOR (R334): Bitwise XOR of a and b. -/
  | xor_ (f : Slot)
  /-- ANDN (R334): Writes a AND NOT b. -/
  | andn (f : Slot)
  /-- SHL (R336): Shifts left by b[4:0] and sets C from the last bit shifted out. -/
  | shl (f : Slot)
  /-- SHR (R336): Logical right shift by b[4:0]. -/
  | shr (f : Slot)
  /-- SRA (R336): Arithmetic right shift by b[4:0]. -/
  | sra (f : Slot)
  /-- ROT (R336): Rotates a left by b[4:0]. -/
  | rot (f : Slot)
  /-- CLZ (R336): Counts the leading zero bits of a. -/
  | clz (f : Slot)
  /-- POPC (R336): Counts the one bits of a. -/
  | popc (f : Slot)
  /-- BFX (R336): Extracts a bit field of a. -/
  | bfx (f : Slot)
  /-- BFI (R336): Inserts a bit field of a into g_d. -/
  | bfi (f : Slot)
  /-- MIN (R334): Signed minimum of a and b. -/
  | min_ (f : Slot)
  /-- MAX (R334): Signed maximum of a and b. -/
  | max_ (f : Slot)
  /-- MINU (R334): Unsigned minimum of a and b. -/
  | minu (f : Slot)
  /-- MAXU (R334): Unsigned maximum of a and b. -/
  | maxu (f : Slot)
  /-- SEL (R334): Selects a or b according to the carry input P[PIDX]. -/
  | sel (f : Slot)
  /-- ICMP (R334): Integer compare under the condition in OTAG; the result is 1 or 0. -/
  | icmp (f : Slot)
  /-- PLOG (R337): Computes a truth-table function of two predicates and writes it to P[PIDX]. -/
  | plog (f : Slot)
  /-- FADD (R339): Floating-point add in the width the opcode names, rounded once. -/
  | fadd (w : FWidth) (f : Slot)
  /-- FSUB (R339): Floating-point subtract, rounded once. -/
  | fsub (w : FWidth) (f : Slot)
  /-- FMUL (R339): Floating-point multiply, rounded once. -/
  | fmul (w : FWidth) (f : Slot)
  /-- FFMA (R339): Fused multiply-add a × b + g_d, rounded once. -/
  | ffma (w : FWidth) (f : Slot)
  /-- FMIN (R339): Floating-point minimum under R209. -/
  | fmin (w : FWidth) (f : Slot)
  /-- FMAX (R339): Floating-point maximum under R209. -/
  | fmax (w : FWidth) (f : Slot)
  /-- FCMP (R340): Floating-point compare under the condition in OTAG. -/
  | fcmp (w : FWidth) (f : Slot)
  /-- FCVT (R341): Converts between floating-point and integer formats in the direction OTAG names. -/
  | fcvt (w : FWidth) (f : Slot)
  /-- LD (R365): Raw load of a byte, half or word through a window. -/
  | ld (f : Slot)
  /-- LDC (R365): Raw load that sets the taint of its destination. -/
  | ldc (f : Slot)
  /-- LDWF (R367): Loads a scratchpad word, waiting until it is full. -/
  | ldwf (f : Slot)
  /-- LDTK (R367): Takes a full scratchpad word and empties it, waiting until it is full. -/
  | ldtk (f : Slot)
  /-- ST (R366): Raw store into the vestibule, to the home, or in place in a scratchpad. -/
  | st (f : Slot)
  /-- STFL (R367): Stores into an empty scratchpad word and fills it, waiting while it is full. -/
  | stfl (f : Slot)
  /-- STSF (R367): Stores into a scratchpad word and sets it full. -/
  | stsf (f : Slot)
  /-- FECLR (R367): Empties a scratchpad word and releases any counting entry. -/
  | feclr (f : Slot)
  /-- FEQ (R368): Queries the full and counting state of a scratchpad word. -/
  | feq (f : Slot)
  /-- CTRINIT (R369): Makes a scratchpad word a counting word with target t. -/
  | ctrinit (f : Slot)
  /-- ARRIVE (R370): Adds one arrival to a counting word. -/
  | arrive (f : Slot)
  /-- FENCE (R371): Holds later memory operations until earlier ones are performed at the given scope. -/
  | fence (f : Slot)
  /-- ACQ (R372): Requests the atomic set that contains the address. -/
  | acq (f : Slot)
  /-- TLOOK (R377): Looks up a key in the memory cell's tag table. -/
  | tlook (f : Slot)
  /-- TINS (R377): Inserts or updates a tag-table entry. -/
  | tins (f : Slot)
  /-- TINV (R377): Invalidates the tag-table entries with a key. -/
  | tinv (f : Slot)
  /-- TLOAD (R379): Copies n blocks with their tags into an empty tile slot. -/
  | tload (f : Slot)
  /-- TSTORE (R380): Copies a READY tile slot's blocks to memory. -/
  | tstore (f : Slot)
  /-- TMCAST (R381): Fills one tile slot in every compute cell of a multicast group. -/
  | tmcast (f : Slot)
  /-- TFREE (R382): Makes a READY tile slot EMPTY. -/
  | tfree (f : Slot)
  /-- TSTATQ (R382): Returns a tile slot's state and length. -/
  | tstatq (f : Slot)
  /-- QPUSH (R384): Pushes onto a scratchpad queue, waiting while it is full. -/
  | qpush (f : Slot)
  /-- QPOP (R384): Pops from a scratchpad queue, waiting while it is empty. -/
  | qpop (f : Slot)
  /-- DQPUSH (R385): Owner push at the bottom of a deque. -/
  | dqpush (f : Slot)
  /-- DQPOP (R385): Owner pop at the bottom of a deque. -/
  | dqpop (f : Slot)
  /-- DQSTEAL (R385): Steal from the top of a deque by any task. -/
  | dqsteal (f : Slot)
  /-- PREF (R386): Warms the translation and the block for an address; never waits and never faults. -/
  | pref (f : Slot)
  /-- ATOM (R373): Immediate atomic read-modify-write at an ESCAPE word's home, with the sub-operation in OP[2:0]. -/
  | atom (op : BitVec 3) (f : Slot)
  /-- RED (R374): Takes or joins a reduction record that is performed at commit. -/
  | red (op : BitVec 3) (f : Slot)
  /-- ATOMX (R375): Immediate atomic whose old value fills a scratchpad word and arrives at a counting word. -/
  | atomx (op : BitVec 3) (f : Slot)
  /-- VADD (R394): Adds vector lanes. -/
  | vadd (f : Slot)
  /-- VSUB (R394): Subtracts vector lanes. -/
  | vsub (f : Slot)
  /-- VMUL (R394): Multiplies vector lanes. -/
  | vmul (f : Slot)
  /-- VFMA (R394): Lane fused multiply-add a × b + d. -/
  | vfma (f : Slot)
  /-- VFMS (R394): Lane fused multiply-subtract a × b − d. -/
  | vfms (f : Slot)
  /-- VMIN (R394): Lane minimum. -/
  | vmin (f : Slot)
  /-- VMAX (R394): Lane maximum. -/
  | vmax (f : Slot)
  /-- VABS (R394): Lane absolute value. -/
  | vabs (f : Slot)
  /-- VNEG (R394): Lane negation. -/
  | vneg (f : Slot)
  /-- VCMP (R395): Compares lanes into a mask register. -/
  | vcmp (f : Slot)
  /-- VSEL (R394): Selects lanes of a or b by M0. -/
  | vsel (f : Slot)
  /-- VAND (R394): Lane bitwise AND. -/
  | vand (f : Slot)
  /-- VOR (R394): Lane bitwise OR. -/
  | vor (f : Slot)
  /-- VXOR (R394): Lane bitwise XOR. -/
  | vxor (f : Slot)
  /-- VSHL (R394): Lane left shift. -/
  | vshl (f : Slot)
  /-- VSHR (R394): Lane logical right shift. -/
  | vshr (f : Slot)
  /-- VSRA (R394): Lane arithmetic right shift. -/
  | vsra (f : Slot)
  /-- VIADD (R394): Lane integer add. -/
  | viadd (f : Slot)
  /-- VIMUL (R394): Lane integer multiply, low 32 bits. -/
  | vimul (f : Slot)
  /-- VCVT (R396): Converts lanes between types and halves. -/
  | vcvt (f : Slot)
  /-- VSCL (R394): Scales lanes by a power of two. -/
  | vscl (f : Slot)
  /-- VRCP (R394): Correctly rounded lane reciprocal. -/
  | vrcp (f : Slot)
  /-- VRSQ (R394): Correctly rounded lane reciprocal square root. -/
  | vrsq (f : Slot)
  /-- VEXP2 (R394): Correctly rounded lane power of two. -/
  | vexp2 (f : Slot)
  /-- VLOG2 (R394): Correctly rounded lane base-2 logarithm. -/
  | vlog2 (f : Slot)
  /-- VREDS (R397): Sums the present lanes by a fixed pairwise tree into a scalar. -/
  | vreds (f : Slot)
  /-- VREDM (R397): Minimum or maximum of the present lanes into a scalar. -/
  | vredm (f : Slot)
  /-- VSCAN (R397): Forms inclusive prefix sums across lanes. -/
  | vscan (f : Slot)
  /-- VPERM (R398): Permutes lanes by an index register. -/
  | vperm (f : Slot)
  /-- VBCAST (R398): Broadcasts one lane to every written lane. -/
  | vbcast (f : Slot)
  /-- VEXT (R398): Extracts one lane into a scalar. -/
  | vext (f : Slot)
  /-- VINS (R398): Inserts a scalar into one lane. -/
  | vins (f : Slot)
  /-- VLD (R400): Loads 128 bytes into a vector register. -/
  | vld (f : Slot)
  /-- VST (R400): Stores the written lanes of a vector register. -/
  | vst (f : Slot)
  /-- VGATH (R401): Gathers one word per written lane from per-lane offsets. -/
  | vgath (f : Slot)
  /-- VSCAT (R401): Scatters one word per written lane to per-lane offsets. -/
  | vscat (f : Slot)
  /-- VMOVM (R399): Moves, sets or clears mask registers by selector. -/
  | vmovm (f : Slot)
  /-- VPARK (R402): Parks a vector register in an accumulator column through the spill map. -/
  | vpark (f : Slot)
  /-- VUNPARK (R402): Restores a parked vector register and frees its spill entry. -/
  | vunpark (f : Slot)
  /-- MXCFG (R404): Sets the matrix activation and weight formats. -/
  | mxcfg (f : Slot)
  /-- MXLDB (R406): Loads the weight macro from one or two tile slots. -/
  | mxldb (f : Slot)
  /-- MXRULE (R408): Arms or disarms a matrix rule over a region. -/
  | mxrule (f : Slot)
  /-- MXCLR (R410): Clears an accumulator region to +0 and EMPTY. -/
  | mxclr (f : Slot)
  /-- MXRD (R411): Reads a row quarter of the accumulator into a vector register. -/
  | mxrd (f : Slot)
  /-- MXDRN (R412): Drains an accumulator region into a tile slot. -/
  | mxdrn (f : Slot)
  /-- MXSORT (R413): Sorts keys from a tile slot through the macro's sort network. -/
  | mxsort (f : Slot)
  /-- MXQ (R414): Queries the matrix engine state. -/
  | mxq (f : Slot)
  /-- CVCFG (R416): Configures the converter and converts a whole source slot. -/
  | cvcfg (f : Slot)
  /-- CVQ (R417): Queries or clears the converter's dropped-token count. -/
  | cvq (f : Slot)
  /-- ZSCAN (R418): Starts the non-zero scan unit over N elements. -/
  | zscan (f : Slot)
  /-- ZSQ (R419): Queries the scan unit. -/
  | zsq (f : Slot)
  /-- TAGQ (R420): Returns the block tag of the block that holds an address. -/
  | tagq (f : Slot)
  /-- STATQ (R421): Returns the sticky status, the busy engines, or the channel occupancies. -/
  | statq (f : Slot)
  /-- DPATCH (R428): Writes one field of an integrator's patch entry. -/
  | dpatch (f : Slot)
  /-- DPLOAD (R430): Loads and checks a whole patch table. -/
  | dpload (f : Slot)
  /-- DSETY (R432): Sets an integrator's Y. -/
  | dsety (f : Slot)
  /-- DSETR (R432): Sets an integrator's residue Q. -/
  | dsetr (f : Slot)
  /-- DDOM (R433): Sets a domain's mode and returns the domain to IDLE. -/
  | ddom (f : Slot)
  /-- DRUN (R435): Starts or resumes a domain. -/
  | drun (f : Slot)
  /-- DSTOP (R435): Stops a running domain between steps. -/
  | dstop (f : Slot)
  /-- DSAVE (R431): Saves every integrator's Y and Q to a tile slot or the scratchpad. -/
  | dsave (f : Slot)
  /-- DREST (R431): Restores every integrator's Y and Q and empties the latches. -/
  | drest (f : Slot)
  /-- DGETY (R436): Reads an integrator's Y into a scalar or a vector lane. -/
  | dgety (f : Slot)
  /-- DGETN (R436): Reads and clears an integrator's count of emitted increments. -/
  | dgetn (f : Slot)
  /-- DINJ (R437): Injects a signed increment into an external port latch. -/
  | dinj (f : Slot)
  /-- DSTAT (R438): Queries a domain's state, count, N or last fault. -/
  | dstat (f : Slot)
  /-- ARG (R343): Reads a word of the task's argument block. -/
  | arg (f : Slot)
  /-- COORD (R344): Returns a coordinate or identity value by selector. -/
  | coord (f : Slot)
  /-- AGEQ (R345): Writes the task's 64-bit age to a register pair. -/
  | ageq (f : Slot)
  /-- TIMEQ (R345): Reads the domain time base into a register pair. -/
  | timeq (f : Slot)
  /-- METERQ (R346): Reads the cell meter's state. -/
  | meterq (f : Slot)
  /-- TOPUP (R347): Requests k charge packets from the tag's account. -/
  | topup (f : Slot)
  /-- SPAWN (R349): Reads a body and holds a work packet until commit. -/
  | spawn (f : Slot)
  /-- SEMSIG (R350): Adds an increment to a room semaphore at once. -/
  | semsig (f : Slot)
  /-- SEMQ (R351): Reads a room semaphore as an acquire. -/
  | semq (f : Slot)
  /-- WSET (R352): Writes a window register from a register pair. -/
  | wset (f : Slot)
  /-- CTRSET (R353): Sets a counter set's base and resets its counts. -/
  | ctrset (f : Slot)
  /-- CTRSTEP (R354): Advances a counter set once. -/
  | ctrstep (f : Slot)
  /-- CTRQ (R355): Queries a counter set. -/
  | ctrq (f : Slot)
  /-- CTOK (R356): Sends a control token on a control output. -/
  | ctok (f : Slot)
  /-- DONE (R357): Ends the element's part in the task once its memory operations are performed. -/
  | done (f : Slot)
  /-- TRAP (R358): Raises fault TRAP with a code, freezing the gang. -/
  | trap (f : Slot)
  /-- MEM_OP_COMPLETE (R362): A memory instruction is performed at element scope; its result, predicate, ENG and order token are written. -/
  | memOpComplete (id : Nat)
  /-- ENGINE_WRITEBACK (R392): A vector or DDA operation writes back its destination and predicate. -/
  | engineWriteback (id : Nat)
  /-- WAIT_RETRY (R364): A waiting operation retries when its word or queue changes. -/
  | waitRetry (id : Nat)
  /-- WALK_COMPLETE (R266): A translation walk completes, wake tokens retry the joined accesses, and any level surcharge is debited. -/
  | walkComplete (room : Nat) (asid : Nat) (va : Nat)
  /-- HOME_ACCESS (R240): A request reaches its home and is performed in the home's order of writes. -/
  | homeAccess (target : AccessTarget)
  /-- ROUTER_COMBINE (R252): A router combines two like atomic or reduction requests to one word. -/
  | routerCombine (first : Request) (second : Request)
  /-- REPLY_SPLIT (R253): A router splits a combined reply into per-part old values. -/
  | replySplit (combo : Nat)
  /-- ATOMX_FILL (R376): The target cell fills the target word and makes the arrival, or logs a loss in ROOM_AXLOST. -/
  | atomxFill (fill : Nat)
  /-- TILE_BLOCK_ARRIVE (R379): A block of a tile copy arrives; after the last block the slot becomes READY. -/
  | tileBlockArrive (id : Nat) (block : Nat)
  /-- TILE_BLOCK_PERFORMED (R380): A TSTORE block is performed or entered; after the last block the slot returns to READY. -/
  | tileBlockPerformed (id : Nat) (block : Nat)
  /-- SET_REQUEST_ARRIVE (R166): A set request reaches its lock entry and is granted, wounds the holder, or waits. -/
  | setRequestArrive (id : Nat)
  /-- SET_RETRY (R123): A SET request that found the wait table full retries its lock entry every 1,024 ticks. -/
  | setRetry (id : Nat)
  /-- DDA_DOMAIN_STEP (R228): Every integrator of a running domain takes one step, which may fault or end a counted domain. -/
  | ddaDomainStep (cell : Nat) (domain : Nat)
  /-- EDGE_PORT_ADVANCE (R320): An address cell's generator advances and its edge port reads or writes one element. -/
  | edgePortAdvance (cell : Nat) (port : Nat)
  /-- CHANNEL_TOKEN_ARRIVE (R177): A token written by another cell arrives in an input channel. -/
  | channelTokenArrive (cell : Nat) (elem : Nat) (input : Nat)
  /-- CONTROL_TOKEN_ARRIVE (R179): A control token arrives and sets its mapped predicate. -/
  | controlTokenArrive (cell : Nat) (elem : Nat) (input : Nat)
  /-- HOST_INTAKE_WRITE (R54): The host writes an intake slot or guard word; a full guard write submits the packet, and other writes are discarded and counted. -/
  | hostIntakeWrite (off : Nat) (bytes : List Byte)
  /-- INTAKE_TAKE_SLOT (R55): The intake engine takes a filled slot, checks it, gives it an age and queues it or reports a rejection. -/
  | intakeTakeSlot (ring : Nat)
  /-- CANCEL (R67): A cancel packet acts on its target PID at once. -/
  | cancel (p : Packet)
  /-- LAUNCH_EXPAND (R92): The scheduler expands the next task of a launch and reads its argument block. -/
  | launchExpand (launch : Nat)
  /-- TOPUP_SETTLE (R144): An account settles a top-up request with a grant or a denial. -/
  | topupSettle (acct : Nat)
  /-- PARK (R124): A wait outside the gang exceeds THRESH, and the task's context is saved to a PARK entry. -/
  | park (id : Nat)
  /-- WAIT_LIMIT_EXPIRE (R122): A bounded wait's limit expires and the element traps with WAIT_LIMIT. -/
  | waitLimitExpire (id : Nat)
  /-- UE_DETECT (R273): An uncorrectable error vanishes the gang's task with UE, and the home retries the read. -/
  | ueDetect (site : UeSite)
  /-- LODGE_SELF_TEST (R272): The lodge self-tests a cell and restarts the task or disables the room. -/
  | lodgeSelfTest (cell : Nat) (ok : Bool)
  /-- CURRENT_LIMIT (R35): A wing's input current reaches or leaves 1,100 A and the pump rate caps change. -/
  | currentLimit (wing : Nat) (on : Bool)
  /-- SRAM_ECC_WINDOW (R42): A 10 µs window ends; the safe point is updated, or the rail is raised if errors exceed PWR_ECCLIM. -/
  | sramEccWindow (errs : Nat)
  /-- UE_UNDERVOLT (R43): An uncorrectable error below 750 mV rolls the rail back, locks undervolting and vanishes the task. -/
  | ueUndervolt (site : UeSite)
  /-- PWR_STALL_WINDOW (R40): A 10 µs window ends and the stall counts are latched. -/
  | pwrStallWindow (wing : Nat) (matrix : Nat) (vector : Nat) (sram : Nat) (fabric : Nat)
  /-- ROOM_TEMP_SAMPLE (R46): A junction sensor is sampled, and the pump cap is halved or restored. -/
  | roomTempSample (room : Nat) (temp : BitVec 16)
  /-- THERMAL_CUT (R48): A junction reaches 125 °C and every package rail is cut. -/
  | thermalCut (room : Nat)
  /-- RAIL_STEP_COMPLETE (R38): A rail completes a step to a new operating point. -/
  | railStepComplete (rail : Nat)
  /-- RETENTION_ENTER (R44): An idle array enters retention and is re-encoded. -/
  | retentionEnter (arr : RetArray)
  /-- RETENTION_EXIT (R45): An array's exit from retention completes and the waiting accesses proceed. -/
  | retentionExit (arr : RetArray)
  /-- RESET (R76): Power-on or board reset; the lodge brings the device up to READY. -/
  | reset (cause : BitVec 8)
  /-- LODGE_UPDATE (R81): The lodge writes, verifies and restarts into its idle image. -/
  | lodgeUpdate (image : List Byte) (version : Nat)
  /-- EWJ_FLIT_RECEIVE (R18): A flit arrives; a CRC error requests retransmission, retires a lane or fails the port. -/
  | ewjFlitReceive (port : Nat) (lane : Nat) (crcOk : Bool) (resent : Bool)
  /-- EWJ_MESSAGE_RECEIVE (R17): A whole Ewejan message is delivered to memory or to a queue. -/
  | ewjMessageReceive (msg : EwjMsg)
  /-- EWJ_PORT_FAIL (R20): A port fails; the routes are reprogrammed and unacknowledged messages are resent. -/
  | ewjPortFail (port : Nat)
  /-- LINK_TIMEOUT (R20): A remote access finds no route for 10 ms and its task vanishes with LINK. -/
  | linkTimeout (id : Nat)
  /-- DOMAIN_RECOVERY (R23): Recovery from a lasting fault restores routes and renumbers rooms. -/
  | domainRecovery (what : Recovery)
  /-- ETH_FRAME_RECEIVE (R69): A frame is received, stamped, matched, landed and sent as a frame packet, or discarded and counted. -/
  | ethFrameReceive (frame : EthFrame)
  /-- ETH_FRAME_RELEASE (R73): A held frame of a multi-port stream is released once the merge delay has passed. -/
  | ethFrameRelease (stream : Nat)
  /-- PTP_MESSAGE (R31): The lodge's time protocol client processes a received timing message. -/
  | ptpMessage (report : PtpReport)
  /-- RING_INTERRUPT (R63): A rate-limited interrupt is sent on a ring's vector after PROD advances. -/
  | ringInterrupt (ring : Nat)
  /-- HOST_RING_WRITE (R62): The host writes HOST_RING; CONS or EN frees room and buffered records are written in order. -/
  | hostRingWrite (ring : Nat) (word : Nat) (v : BitVec 64)
  /-- RT_WRITE (R66): RT_CMD OP 01 writes the stage into a route-tag entry, or refuses it with BUSY or BADVAL. -/
  | rtWrite (v : BitVec 64)
  /-- RT_READ (R65): RT_CMD OP 10 reads a route-tag entry into the stage. -/
  | rtRead (v : BitVec 64)
  /-- ATTESTATION_REQUEST (R78): A GO write to LODGE_ATTREQ makes the lodge write a signed report and a ring 16 record. -/
  | attestationRequest (v : BitVec 64)
  /-- LODGE_EPOCH_WRITE (R95): A host write of the domain epoch, accepted only under HOLD with no live task. -/
  | lodgeEpochWrite (v : BitVec 64)
  /-- LODGE_PTP_WRITE (R75): A write selects the PTP port and transport and restarts the client. -/
  | lodgePtpWrite (v : BitVec 64)
  /-- ROLLBACK_ADVANCE (R80): A write with ADV = 1 advances a rollback counter if permitted. -/
  | rollbackAdvance (cls : Nat) (v : BitVec 64)
  /-- RAIL_REQUEST (R37): A PWR_RAILCTL write requests an operating point, which is denied, pended or supersedes another. -/
  | railRequest (rail : Nat) (v : BitVec 64)
  /-- ECCLIM_WRITE (R47): A PWR_ECCLIM write sets the limit and ends the undervolt refusal. -/
  | ecclimWrite (v : BitVec 64)
  /-- ACCT_BALANCE_WRITE (R142): A write adds a signed value to an account's BALANCE with clamping. -/
  | acctBalanceWrite (acct : Nat) (v : BitVec 64)
  /-- CFG_LOAD (R329): A GO write loads a container through the checks and writes, reporting in CFG_LOADST. -/
  | cfgLoad (v : BitVec 64)
  /-- CFG_UNLOAD (R331): A GO write with UNLOAD removes a container, unless a route-tag entry still names it. -/
  | cfgUnload (v : BitVec 64)
  /-- XLAT_INV (R235): A write invalidates translations in every room and BUSY clears on completion. -/
  | xlatInv (v : BitVec 64)
  /-- XLAT_WAKE (R267): A host wake starts a new walk for the held accesses to a page. -/
  | xlatWake (v : BitVec 64)
  /-- DBG_HALT (R276): A HALT write halts a cell and freezes the scope. -/
  | dbgHalt (v : BitVec 64)
  /-- DBG_GO (R275): A GO write releases a debug halt. -/
  | dbgGo (v : BitVec 64)
  /-- HEARTH_CONT (R171): A CONT write resumes a TRAPPED hearth past its trapping command. -/
  | hearthCont (room : Nat) (v : BitVec 64)
  /-- HOST_MEMORY_WINDOW (R26): A raw host access through window 2 to landing, cellar or attic. -/
  | hostMemoryWindow (write : Bool) (addr : Nat) (bytes : List Byte)
  /-- COUNTER_READ_CLEAR (R74): A read of a counter register, such as ETH_STREAMST, ETH_PORTST, EWJ_PORTST, INTK_RING, ACCT_ENT, MEM_XOVF, ROOM_HERR or ROOM_AXLOST, returns and clears its counts. -/
  | counterReadClear (off : Nat)
  /-- REGISTER_WRITE (R27): A write to a control register that has no row of its own. -/
  | registerWrite (off : Nat) (v : BitVec 64)
  /-- HNOP (R446): Hearth command that only waits and signals. -/
  | hnop (c : HCmd)
  /-- HSET (R446): Writes an immediate into an h register. -/
  | hset (c : HCmd)
  /-- CFGLOAD (R447): Fills a region's standby planes from a resident image. -/
  | cfgload (c : HCmd)
  /-- CFGSWITCH (R448): Switches a running gang's region to its standby images through tag-7 quiescence. -/
  | cfgswitch (c : HCmd)
  /-- HCOPY (R449): Copies blocks with their tags between hearth addresses as immediate writes. -/
  | hcopy (c : HCmd)
  /-- GANGRUN (R450): Queues a work packet pinned to a gang position. -/
  | gangrun (c : HCmd)
  /-- TAGCTL (R451): Sets or clears the EN and PEND bits of a route tag. -/
  | tagctl (c : HCmd)
  /-- QUIESCE (R452): Gates a gang and waits for quiescence, or releases the gating. -/
  | quiesce (c : HCmd)
  /-- CTXSAVE (R453): Saves a gated task's context and makes the task preempted. -/
  | ctxsave (c : HCmd)
  /-- CTXLOAD (R453): Stages a preempted task by age at a region. -/
  | ctxload (c : HCmd)
  /-- TRAPRET (R454): Applies a trap frame's action to the trapped task. -/
  | trapret (c : HCmd)
  /-- REPEAT (R455): Sends POS back over a body for a counted number of passes. -/
  | repeat_ (c : HCmd)
  /-- SKIPIF (R456): Skips commands when a condition holds. -/
  | skipif (c : HCmd)
  /-- SEMSET (R457): Writes a semaphore value. -/
  | semset (c : HCmd)
  /-- TOPACCT (R458): Moves mu between two accounts. -/
  | topacct (c : HCmd)
  /-- WATCH (R459): Arms or disarms a room watchpoint. -/
  | watch (c : HCmd)
  /-- HEND (R460): Ends the sequencing program. -/
  | hend (c : HCmd)
  /-- POWER_FIRMWARE_UPDATE (R49): An update writes the idle power-firmware image and the firmware restarts into it, while every rail keeps its operating point and the hardware limits stay in force. -/
  | powerFirmwareUpdate (image : List Byte) (version : Nat)
  /-- MATRIX_OP_COMPLETE (R410): MXCFG, MXRULE, MXCLR or MXRD completes in a later step, writing back its pending destination, predicate and ENG. -/
  | matrixOpComplete (id : Nat)
  /-- PAGE_TIMEOUT (R14): Ten milliseconds pass from the first hold without a wake, and the task vanishes with PAGE. -/
  | pageTimeout
  /-- ROW_FIRE (R409): The matrix engine fires one row of an armed rule into the accumulator and debits 64 × w. -/
  | rowFire
  /-- MXLDB_COMPLETE (R406): The new weights take effect all at once. -/
  | mxldbComplete
  /-- DRAIN_ROW (R412): The engine drains one accumulator row into the tile slot and debits 32 mu. -/
  | drainRow
  /-- SORT_KEY_ENTER (R413): One key enters the sort network and debits 64 mu. -/
  | sortKeyEnter
  /-- SORT_EMIT (R413): The sort network emits one key and index pair, then the end tokens. -/
  | sortEmit
  /-- CONVERT_BLOCK (R416): The converter writes a converted block and emits overflow tokens. -/
  | convertBlock
  /-- CONVERT_COMPLETE (R416): A conversion completes, sends its control token and writes its result. -/
  | convertComplete
  /-- SCAN_TOKEN (R199): The scan unit emits the index of a non-zero element, or its end token. -/
  | scanToken
  /-- COMMIT_POINT (R160): The last home acknowledges; marks are dropped, sets released, spawns and notices released and balances returned. -/
  | commitPoint
  /-- ARG_READ_COMPLETE (R488): A held launch argument read completes and the task becomes stageable, or faults and is reported. -/
  | argReadComplete
  /-- DISPATCH_STAGE (R109): Each tick a wing's dispatcher stages or restores one task from the eligible tag of highest priority. -/
  | dispatchStage
  /-- PREFETCH_COMPLETE (R113): Every staging load completes and the task is marked runnable. -/
  | prefetchComplete
  /-- STANDBY_FILL_COMPLETE (R170): A cell's standby plane has been filled from the room's store. -/
  | standbyFillComplete
  /-- TASK_ENTER_RUNNING (R114): A runnable task enters running in every cell in one tick, planes exchange and entry debits are made. -/
  | taskEnterRunning
  /-- BROWNOUT (R134): A strict-mode cistern reaches the floor with balance left, a machine check is raised and the task vanishes with FAULT. -/
  | brownout
  /-- PHYSICAL_STOP (R135): A physical-mode cistern reaches the floor after the allowance is used up. -/
  | physicalStop
  /-- AGE_HORIZON (R96): Domain time passes a task's TIME by 2^42 units, and the task is removed or vanishes with AGED. -/
  | ageHorizon
  /-- DEADLOCK_EXPIRE (R264): The gang's deadlock count reaches TICKS; the map and frame are written and the gang traps. -/
  | deadlockExpire
  /-- PREEMPT_QUIESCENT (R268): A gated gang reports quiescent, its waits are withdrawn and its context is saved to the pool. -/
  | preemptQuiescent
  /-- FAULT_REACH_HEARTH (R254): A fault reaches the hearth; the gang freezes, the frame is written and the trap tag is sent a packet. -/
  | faultReachHearth
  /-- DROOP_DETECT (R41): The matrix rail falls below 95% and matrix pumping and firing are held. -/
  | droopDetect
  /-- DROOP_HOLD_EXPIRE (R41): The droop hold count ends and matrix work resumes. -/
  | droopHoldExpire
  /-- PWR_WATCHDOG (R49): The power firmware misses its 1 ms check-in and is reset. -/
  | pwrWatchdog
  /-- SWITCH_STUCK (R204): A switch's tick limit expires and the hearth traps with SWITCH_STUCK. -/
  | switchStuck
  /-- QUIESCE_LIMIT_EXPIRE (R452): QUIESCE's limit passes first; the sources are ungated and the command is refused. -/
  | quiesceLimitExpire
  /-- HEARTH_CMD_COMPLETE (R300): A hearth command that took time completes, makes its signal and advances POS. -/
  | hearthCmdComplete
  /-- LODGE_WATCHDOG (R48): The lodge watchdog expires and resets the device, and LODGE_CAUSE records cause 0x04. -/
  | lodgeWatchdog
  /-- CONVERTER_FAULT (R48): A fault of the in-package converter ends the supply, and LODGE_CAUSE records cause 0x02. -/
  | converterFault
  /-- CONTEXT_SAVE_COMPLETE (R124): The swap-out of a parking or pre-empted task finishes writing its context, the task's cells are freed, and a fill that arrived during the swap-out now wakes it. -/
  | contextSaveComplete
  deriving DecidableEq, Repr, Inhabited

end Sys2Proof
end

