-- ==== Sys2Proof/Config.lean ====
section
/-! DEFINITION. What the manual leaves to the implementation or to the world outside: free values, constants
with no body, of which nothing can be proved. Each is named in a log entry (notes/assumptions). -/

namespace Sys2Proof

/-- One indivisible move of the device's world: an element's turn, a hearth's turn, an event of the opcode
table with its subject, one tick of the room clock, an advance of the time base in quarter nanoseconds, a write that the
host or another device makes to its own memory, a host read of window 1 (R26), or a host read of window 0 of another size or
alignment than R27 allows. -/
inductive Move where
  | element (cell : Nat) (elem : Nat)
  | hearth (room : Nat)
  | event (subject : Nat) (i : Instr)
  | tick
  | time (quarters : Nat)
  | hostStore (addr : Nat) (bytes : List Byte)
  | remoteStore (addr : Nat) (bytes : List Byte)
  | intakeRead (off : Nat) (len : Nat)
  | oddRead (off : Nat) (len : Nat)
  deriving DecidableEq, Repr, Inhabited

namespace Config

/-- Which move comes next where the manual fixes no order (R1, R177, R247); log entry 2. -/
opaque freeMove : Nat → Move

/-- The host system's mapping of a link address to an address of its own memory (R487); log entry 5. -/
opaque linkToHost : Nat → Nat

/-- The SHAKE256-256 digest of a text, 32 bytes (R77, R78, R327); log entry 16. -/
opaque shake256 : List Byte → List Byte

/-- Whether a Falcon-1024 signature over a digest verifies under the key of the given class and index, with
the chain of R77; log entry 16. -/
opaque falconVerify : (keyClass : Nat) → (keyIndex : Nat) → (digest : List Byte) → (signature : List Byte) → Bool

/-- The device's own Falcon-1024 signature over a digest (R78); log entry 16. -/
opaque falconSign : (digest : List Byte) → List Byte

/-- The device's identity public key (R78); log entry 16. -/
opaque identityKey : List Byte

/-- A value that an operation leaves open and that the run goes on with: applied to a counter of the state;
log entry 3. -/
opaque freeValue : Nat → BitVec 64

end Config

end Sys2Proof
end

