-- ==== Sys2Proof/Decode.lean ====
section
/-! DEFINITION. Decoding of the 64-bit element word (R281, R295, R296) and of the 128-bit hearth command (R298,
R299), total on any bytes and rejecting by name, and after it the encoder written from the same tables.
The load-time checks of R302 that look past the opcode stand in WellFormed. -/

namespace Sys2Proof

/-- Why a text of bytes is no instruction. -/
inductive DecodeError where
  | emptySlot             -- V = 0: a slot that is not checked and never fires (R302)
  | reservedOpcode (op : Nat)     -- R296
  | reservedWidth         -- width code 3 of a scalar floating-point opcode (R295)
  | unassignedCommand (cmd : Nat) -- R299
  | badLength             -- neither 8 bytes nor 16
  deriving DecidableEq, Repr

/-- The fields of an element word but for OP and V (R281). -/
def slotOfBits (w : Nat) : Slot :=
  { pmask := BitVec.ofNat 8 (natField w 56 8), pval := BitVec.ofNat 8 (natField w 48 8),
    need := BitVec.ofNat 4 (natField w 44 4), tch := BitVec.ofNat 2 (natField w 42 2),
    ten := natField w 41 1 == 1, tag := BitVec.ofNat 3 (natField w 38 3),
    deq := BitVec.ofNat 4 (natField w 26 4), pidx := BitVec.ofNat 3 (natField w 23 3),
    pmode := BitVec.ofNat 3 (natField w 20 3), dst := BitVec.ofNat 5 (natField w 15 5),
    otag := BitVec.ofNat 3 (natField w 12 3), src1 := BitVec.ofNat 5 (natField w 7 5),
    src2 := BitVec.ofNat 5 (natField w 2 5), imm := natField w 1 1 == 1 }

/-- The OP field (R281). -/
def opOfBits (w : Nat) : Nat := natField w 30 8

/-- The V bit (R281). -/
def validOfBits (w : Nat) : Bool := natField w 0 1 == 1

/-- A scalar floating-point width code (R295); 3 is reserved. -/
def widthOfCode : Nat → Option FWidth
  | 0 => some .f32
  | 1 => some .f16
  | 2 => some .b16
  | _ => none

/-- The width code of a width (R295). -/
def codeOfWidth : FWidth → Nat
  | .f32 => 0
  | .f16 => 1
  | .b16 => 2

/-- The scalar floating-point operations, by (OP − 0x20) div 4 (R295). -/
def fpInstr (operation : Nat) (w : FWidth) (f : Slot) : Option Instr :=
  match operation with
  | 0 => some (.fadd w f)
  | 1 => some (.fsub w f)
  | 2 => some (.fmul w f)
  | 3 => some (.ffma w f)
  | 4 => some (.fmin w f)
  | 5 => some (.fmax w f)
  | 6 => some (.fcmp w f)
  | 7 => some (.fcvt w f)
  | _ => none

/-- The opcode map but for the scalar floating-point and atomic groups (R292, R295). -/
def plainInstr (op : Nat) (f : Slot) : Option Instr :=
  match op with
  | 0 => some (.nop f)
  | 1 => some (.mov f)
  | 2 => some (.add f)
  | 3 => some (.addc f)
  | 4 => some (.sub f)
  | 5 => some (.subb f)
  | 6 => some (.mul f)
  | 7 => some (.mulh f)
  | 8 => some (.mulhu f)
  | 9 => some (.div f)
  | 10 => some (.divu f)
  | 11 => some (.rem f)
  | 12 => some (.remu f)
  | 13 => some (.and_ f)
  | 14 => some (.or_ f)
  | 15 => some (.xor_ f)
  | 16 => some (.andn f)
  | 17 => some (.shl f)
  | 18 => some (.shr f)
  | 19 => some (.sra f)
  | 20 => some (.rot f)
  | 21 => some (.clz f)
  | 22 => some (.popc f)
  | 23 => some (.bfx f)
  | 24 => some (.bfi f)
  | 25 => some (.min_ f)
  | 26 => some (.max_ f)
  | 27 => some (.minu f)
  | 28 => some (.maxu f)
  | 29 => some (.sel f)
  | 30 => some (.icmp f)
  | 31 => some (.plog f)
  | 64 => some (.ld f)
  | 65 => some (.ldc f)
  | 66 => some (.ldwf f)
  | 67 => some (.ldtk f)
  | 68 => some (.st f)
  | 69 => some (.stfl f)
  | 70 => some (.stsf f)
  | 71 => some (.feclr f)
  | 72 => some (.feq f)
  | 73 => some (.ctrinit f)
  | 74 => some (.arrive f)
  | 75 => some (.fence f)
  | 76 => some (.acq f)
  | 77 => some (.tlook f)
  | 78 => some (.tins f)
  | 79 => some (.tinv f)
  | 80 => some (.tload f)
  | 81 => some (.tstore f)
  | 82 => some (.tmcast f)
  | 83 => some (.tfree f)
  | 84 => some (.tstatq f)
  | 85 => some (.qpush f)
  | 86 => some (.qpop f)
  | 87 => some (.dqpush f)
  | 88 => some (.dqpop f)
  | 89 => some (.dqsteal f)
  | 90 => some (.pref f)
  | 128 => some (.vadd f)
  | 129 => some (.vsub f)
  | 130 => some (.vmul f)
  | 131 => some (.vfma f)
  | 132 => some (.vfms f)
  | 133 => some (.vmin f)
  | 134 => some (.vmax f)
  | 135 => some (.vabs f)
  | 136 => some (.vneg f)
  | 137 => some (.vcmp f)
  | 138 => some (.vsel f)
  | 139 => some (.vand f)
  | 140 => some (.vor f)
  | 141 => some (.vxor f)
  | 142 => some (.vshl f)
  | 143 => some (.vshr f)
  | 144 => some (.vsra f)
  | 145 => some (.viadd f)
  | 146 => some (.vimul f)
  | 147 => some (.vcvt f)
  | 148 => some (.vscl f)
  | 149 => some (.vrcp f)
  | 150 => some (.vrsq f)
  | 151 => some (.vexp2 f)
  | 152 => some (.vlog2 f)
  | 153 => some (.vreds f)
  | 154 => some (.vredm f)
  | 155 => some (.vscan f)
  | 156 => some (.vperm f)
  | 157 => some (.vbcast f)
  | 158 => some (.vext f)
  | 159 => some (.vins f)
  | 160 => some (.vld f)
  | 161 => some (.vst f)
  | 162 => some (.vgath f)
  | 163 => some (.vscat f)
  | 164 => some (.vmovm f)
  | 165 => some (.vpark f)
  | 166 => some (.vunpark f)
  | 192 => some (.mxcfg f)
  | 193 => some (.mxldb f)
  | 194 => some (.mxrule f)
  | 195 => some (.mxclr f)
  | 196 => some (.mxrd f)
  | 197 => some (.mxdrn f)
  | 198 => some (.mxsort f)
  | 199 => some (.mxq f)
  | 200 => some (.cvcfg f)
  | 201 => some (.cvq f)
  | 202 => some (.zscan f)
  | 203 => some (.zsq f)
  | 204 => some (.tagq f)
  | 205 => some (.statq f)
  | 208 => some (.dpatch f)
  | 209 => some (.dpload f)
  | 210 => some (.dsety f)
  | 211 => some (.dsetr f)
  | 212 => some (.ddom f)
  | 213 => some (.drun f)
  | 214 => some (.dstop f)
  | 215 => some (.dsave f)
  | 216 => some (.drest f)
  | 217 => some (.dgety f)
  | 218 => some (.dgetn f)
  | 219 => some (.dinj f)
  | 220 => some (.dstat f)
  | 240 => some (.arg f)
  | 241 => some (.coord f)
  | 242 => some (.ageq f)
  | 243 => some (.timeq f)
  | 244 => some (.meterq f)
  | 245 => some (.topup f)
  | 246 => some (.spawn f)
  | 247 => some (.semsig f)
  | 248 => some (.semq f)
  | 249 => some (.wset f)
  | 250 => some (.ctrset f)
  | 251 => some (.ctrstep f)
  | 252 => some (.ctrq f)
  | 253 => some (.ctok f)
  | 254 => some (.done f)
  | 255 => some (.trap f)
  | _ => none

/-- The instruction of an opcode with its fields (R293, R295, R296). -/
def instrOfOp (op : Nat) (f : Slot) : Except DecodeError Instr :=
  if 0x20 ≤ op ∧ op < 0x40 then
    match widthOfCode (op % 4) with
    | none => .error .reservedWidth
    | some w =>
      match fpInstr ((op - 0x20) / 4) w f with
      | some i => .ok i
      | none => .error (.reservedOpcode op)
  else if 0x60 ≤ op ∧ op < 0x68 then .ok (.atom (BitVec.ofNat 3 op) f)
  else if 0x68 ≤ op ∧ op < 0x70 then .ok (.red (BitVec.ofNat 3 op) f)
  else if 0x70 ≤ op ∧ op < 0x78 then .ok (.atomx (BitVec.ofNat 3 op) f)
  else
    match plainInstr op f with
    | some i => .ok i
    | none => .error (.reservedOpcode op)

/-- Decodes a 64-bit element word (R281). -/
def decodeSlot (w : Nat) : Except DecodeError Instr :=
  if validOfBits w then instrOfOp (opOfBits w) (slotOfBits w) else .error .emptySlot

/-- The fields of a hearth command but for CMD (R298); bit 0 is bit [0] of the low word. -/
def hcmdOfBits (w : Nat) : HCmd :=
  { wsem := BitVec.ofNat 8 (natField w 114 8), wthr := BitVec.ofNat 16 (natField w 98 16),
    wcon := natField w 97 1 == 1, ssem := BitVec.ofNat 8 (natField w 89 8),
    sinc := BitVec.ofNat 8 (natField w 81 8), sen := natField w 80 1 == 1,
    ha := BitVec.ofNat 8 (natField w 72 8), hb := BitVec.ofNat 8 (natField w 64 8),
    imm := BitVec.ofNat 64 (natField w 0 64) }

/-- The CMD field (R298). -/
def cmdOfBits (w : Nat) : Nat := natField w 122 6

/-- The command codes (R299). -/
def hearthInstr (cmd : Nat) (c : HCmd) : Option Instr :=
  match cmd with
  | 0 => some (.hnop c)
  | 1 => some (.hset c)
  | 2 => some (.cfgload c)
  | 3 => some (.cfgswitch c)
  | 4 => some (.hcopy c)
  | 5 => some (.gangrun c)
  | 6 => some (.tagctl c)
  | 7 => some (.quiesce c)
  | 8 => some (.ctxsave c)
  | 9 => some (.ctxload c)
  | 10 => some (.trapret c)
  | 11 => some (.repeat_ c)
  | 12 => some (.skipif c)
  | 13 => some (.semset c)
  | 14 => some (.topacct c)
  | 15 => some (.watch c)
  | 16 => some (.hend c)
  | _ => none

/-- Decodes a 128-bit hearth command (R298, R299). -/
def decodeHearth (w : Nat) : Except DecodeError Instr :=
  match hearthInstr (cmdOfBits w) (hcmdOfBits w) with
  | some i => .ok i
  | none => .error (.unassignedCommand (cmdOfBits w))

/-- A little-endian number of bytes (R205). -/
def bytesToNat : List Byte → Nat
  | [] => 0
  | b :: bs => b.toNat + 256 * bytesToNat bs

/-- The `n` low bytes of a number, little-endian (R205). -/
def natToBytes : Nat → Nat → List Byte
  | 0, _ => []
  | n + 1, v => BitVec.ofNat 8 v :: natToBytes n (v / 256)

/-- Decodes the bytes of one instruction: 8 for an element word, 16 for a hearth command (R281, R298). -/
def decode (bytes : List Byte) : Except DecodeError Instr :=
  if bytes.length = 8 then decodeSlot (bytesToNat bytes)
  else if bytes.length = 16 then decodeHearth (bytesToNat bytes)
  else .error .badLength

/-- The instruction that the decoder reads from a word as spec/opcode_table.json numbers its bits: an
instruction of up to 64 bits is an element word, a longer one a hearth command. -/
def decodeTableWord (nbits w : Nat) : Option Instr :=
  match decode (natToBytes (if nbits ≤ 64 then 8 else 16) w) with
  | .ok i => some i
  | .error _ => none

/-- The 64 bits of an element word (R281). -/
def slotBits (op : Nat) (f : Slot) : Nat :=
  1 + 2 ^ 1 * bit f.imm + 2 ^ 2 * f.src2.toNat + 2 ^ 7 * f.src1.toNat + 2 ^ 12 * f.otag.toNat + 2 ^ 15 * f.dst.toNat
    + 2 ^ 20 * f.pmode.toNat + 2 ^ 23 * f.pidx.toNat + 2 ^ 26 * f.deq.toNat + 2 ^ 30 * op + 2 ^ 38 * f.tag.toNat
    + 2 ^ 41 * bit f.ten + 2 ^ 42 * f.tch.toNat + 2 ^ 44 * f.need.toNat + 2 ^ 48 * f.pval.toNat
    + 2 ^ 56 * f.pmask.toNat

/-- The 128 bits of a hearth command (R298). -/
def hcmdBits (cmd : Nat) (c : HCmd) : Nat :=
  c.imm.toNat + 2 ^ 64 * c.hb.toNat + 2 ^ 72 * c.ha.toNat + 2 ^ 80 * bit c.sen + 2 ^ 81 * c.sinc.toNat
    + 2 ^ 89 * c.ssem.toNat + 2 ^ 97 * bit c.wcon + 2 ^ 98 * c.wthr.toNat + 2 ^ 114 * c.wsem.toNat + 2 ^ 122 * cmd

/-- The opcode and the fields of an element instruction (R292, R293, R295); none for any other row. -/
def slotParts : Instr → Option (Nat × Slot)
  | .nop f => some (0, f)
  | .mov f => some (1, f)
  | .add f => some (2, f)
  | .addc f => some (3, f)
  | .sub f => some (4, f)
  | .subb f => some (5, f)
  | .mul f => some (6, f)
  | .mulh f => some (7, f)
  | .mulhu f => some (8, f)
  | .div f => some (9, f)
  | .divu f => some (10, f)
  | .rem f => some (11, f)
  | .remu f => some (12, f)
  | .and_ f => some (13, f)
  | .or_ f => some (14, f)
  | .xor_ f => some (15, f)
  | .andn f => some (16, f)
  | .shl f => some (17, f)
  | .shr f => some (18, f)
  | .sra f => some (19, f)
  | .rot f => some (20, f)
  | .clz f => some (21, f)
  | .popc f => some (22, f)
  | .bfx f => some (23, f)
  | .bfi f => some (24, f)
  | .min_ f => some (25, f)
  | .max_ f => some (26, f)
  | .minu f => some (27, f)
  | .maxu f => some (28, f)
  | .sel f => some (29, f)
  | .icmp f => some (30, f)
  | .plog f => some (31, f)
  | .fadd w f => some (32 + codeOfWidth w, f)
  | .fsub w f => some (36 + codeOfWidth w, f)
  | .fmul w f => some (40 + codeOfWidth w, f)
  | .ffma w f => some (44 + codeOfWidth w, f)
  | .fmin w f => some (48 + codeOfWidth w, f)
  | .fmax w f => some (52 + codeOfWidth w, f)
  | .fcmp w f => some (56 + codeOfWidth w, f)
  | .fcvt w f => some (60 + codeOfWidth w, f)
  | .ld f => some (64, f)
  | .ldc f => some (65, f)
  | .ldwf f => some (66, f)
  | .ldtk f => some (67, f)
  | .st f => some (68, f)
  | .stfl f => some (69, f)
  | .stsf f => some (70, f)
  | .feclr f => some (71, f)
  | .feq f => some (72, f)
  | .ctrinit f => some (73, f)
  | .arrive f => some (74, f)
  | .fence f => some (75, f)
  | .acq f => some (76, f)
  | .tlook f => some (77, f)
  | .tins f => some (78, f)
  | .tinv f => some (79, f)
  | .tload f => some (80, f)
  | .tstore f => some (81, f)
  | .tmcast f => some (82, f)
  | .tfree f => some (83, f)
  | .tstatq f => some (84, f)
  | .qpush f => some (85, f)
  | .qpop f => some (86, f)
  | .dqpush f => some (87, f)
  | .dqpop f => some (88, f)
  | .dqsteal f => some (89, f)
  | .pref f => some (90, f)
  | .atom op f => some (96 + op.toNat, f)
  | .red op f => some (104 + op.toNat, f)
  | .atomx op f => some (112 + op.toNat, f)
  | .vadd f => some (128, f)
  | .vsub f => some (129, f)
  | .vmul f => some (130, f)
  | .vfma f => some (131, f)
  | .vfms f => some (132, f)
  | .vmin f => some (133, f)
  | .vmax f => some (134, f)
  | .vabs f => some (135, f)
  | .vneg f => some (136, f)
  | .vcmp f => some (137, f)
  | .vsel f => some (138, f)
  | .vand f => some (139, f)
  | .vor f => some (140, f)
  | .vxor f => some (141, f)
  | .vshl f => some (142, f)
  | .vshr f => some (143, f)
  | .vsra f => some (144, f)
  | .viadd f => some (145, f)
  | .vimul f => some (146, f)
  | .vcvt f => some (147, f)
  | .vscl f => some (148, f)
  | .vrcp f => some (149, f)
  | .vrsq f => some (150, f)
  | .vexp2 f => some (151, f)
  | .vlog2 f => some (152, f)
  | .vreds f => some (153, f)
  | .vredm f => some (154, f)
  | .vscan f => some (155, f)
  | .vperm f => some (156, f)
  | .vbcast f => some (157, f)
  | .vext f => some (158, f)
  | .vins f => some (159, f)
  | .vld f => some (160, f)
  | .vst f => some (161, f)
  | .vgath f => some (162, f)
  | .vscat f => some (163, f)
  | .vmovm f => some (164, f)
  | .vpark f => some (165, f)
  | .vunpark f => some (166, f)
  | .mxcfg f => some (192, f)
  | .mxldb f => some (193, f)
  | .mxrule f => some (194, f)
  | .mxclr f => some (195, f)
  | .mxrd f => some (196, f)
  | .mxdrn f => some (197, f)
  | .mxsort f => some (198, f)
  | .mxq f => some (199, f)
  | .cvcfg f => some (200, f)
  | .cvq f => some (201, f)
  | .zscan f => some (202, f)
  | .zsq f => some (203, f)
  | .tagq f => some (204, f)
  | .statq f => some (205, f)
  | .dpatch f => some (208, f)
  | .dpload f => some (209, f)
  | .dsety f => some (210, f)
  | .dsetr f => some (211, f)
  | .ddom f => some (212, f)
  | .drun f => some (213, f)
  | .dstop f => some (214, f)
  | .dsave f => some (215, f)
  | .drest f => some (216, f)
  | .dgety f => some (217, f)
  | .dgetn f => some (218, f)
  | .dinj f => some (219, f)
  | .dstat f => some (220, f)
  | .arg f => some (240, f)
  | .coord f => some (241, f)
  | .ageq f => some (242, f)
  | .timeq f => some (243, f)
  | .meterq f => some (244, f)
  | .topup f => some (245, f)
  | .spawn f => some (246, f)
  | .semsig f => some (247, f)
  | .semq f => some (248, f)
  | .wset f => some (249, f)
  | .ctrset f => some (250, f)
  | .ctrstep f => some (251, f)
  | .ctrq f => some (252, f)
  | .ctok f => some (253, f)
  | .done f => some (254, f)
  | .trap f => some (255, f)
  | _ => none

/-- The command code and the fields of a hearth command (R299); none for any other row. -/
def hearthParts : Instr → Option (Nat × HCmd)
  | .hnop c => some (0, c)
  | .hset c => some (1, c)
  | .cfgload c => some (2, c)
  | .cfgswitch c => some (3, c)
  | .hcopy c => some (4, c)
  | .gangrun c => some (5, c)
  | .tagctl c => some (6, c)
  | .quiesce c => some (7, c)
  | .ctxsave c => some (8, c)
  | .ctxload c => some (9, c)
  | .trapret c => some (10, c)
  | .repeat_ c => some (11, c)
  | .skipif c => some (12, c)
  | .semset c => some (13, c)
  | .topacct c => some (14, c)
  | .watch c => some (15, c)
  | .hend c => some (16, c)
  | _ => none

/-- The bytes of an element instruction or a hearth command; an event of the part has no encoding and gives
no bytes. -/
def encode (i : Instr) : List Byte :=
  match slotParts i with
  | some (op, f) => natToBytes 8 (slotBits op f)
  | none =>
    match hearthParts i with
    | some (cmd, c) => natToBytes 16 (hcmdBits cmd c)
    | none => []

/-- Whether a row of the table is an instruction that has an encoding. -/
def encodable (i : Instr) : Bool := (slotParts i).isSome || (hearthParts i).isSome

end Sys2Proof
end

