-- ==== Sys2Proof/Machine/State.lean ====
section
/-! DEFINITION. The state of one device, as plain data: every piece of state the manual gives it (INVENTORY.md,
"State"), the operations and tasks under way, and the model's own fields (agenda, cur, rd, counters). -/

namespace Sys2Proof.Machine

/-- Sparse data by number: a list of key and value pairs with rising keys. -/
abbrev AMap (α : Type) := List (Nat × α)

/-- Bytes by address: rising addresses, no zero byte listed; an unlisted byte reads as zero (R220). -/
abbrev Mem := List Host.Cell

/-- Why the machine stops. No rule of the manual stops the device itself, so nothing raises one. -/
inductive Fault where
  /-- Raised by nothing: the manual's faults are taken inside the state (R254). Safe. -/
  | none
  deriving DecidableEq, Repr

/-- Why an instruction has no meaning in the model. -/
inductive Refusal where
  /-- Raised by exec for a constructor without a meaning. Safe. -/
  | notModelled (mnemonic : String)
  deriving DecidableEq, Repr

/-! ### Elements and channels -/

/-- A token (R176). -/
structure Token where
  val : Word := 0
  tag : BitVec 3 := 0
  deriving DecidableEq, Repr, Inhabited

/-- An input channel: up to four tokens, those still under way from another cell, and the space kept for
tokens of operations under way (R176, R177, R284, R291). -/
structure Input where
  q : List Token := []
  transit : List Token := []
  reserved : Nat := 0
  deriving DecidableEq, Repr, Inhabited

/-- A destination of a route, gang-relative (R318): an element input, or an outbound edge port. -/
structure Dest where
  x : Nat := 0
  y : Nat := 0
  e : Nat := 0
  i : Nat := 0
  deriving DecidableEq, Repr, Inhabited

/-- A destination of a control route (R318): a control input, or the START input of a counter set. -/
structure CtlDest where
  x : Nat := 0
  y : Nat := 0
  e : Nat := 0
  i : Nat := 0
  start : Bool := false
  deriving DecidableEq, Repr, Inhabited

/-- A 128-bit fault register (R255). -/
structure FaultReg where
  code : Nat := 0
  slot : Nat := 0
  op : Nat := 0
  node : Nat := 0
  cell : Nat := 0
  sub : Nat := 0
  info : Nat := 0
  deriving DecidableEq, Repr, Inhabited

/-- An element (R175, R283, R284). `spawnTick` is the tick of a SPAWN that it has fired, until that tick ends (R359), and `barred` marks
the slots whose SPAWN a gang that is being saved holds back until its restore (R118). -/
structure Elem where
  pb : BitVec 8 := 0
  g : AMap Word := []
  taint : BitVec 16 := 0
  k : AMap Word := []
  w : AMap (BitVec 64) := []
  eng : Word := 0
  ins : AMap Input := []
  outs : AMap (List Dest) := []
  slots : AMap (BitVec 64) := []
  source : BitVec 16 := 0
  rot : Bool := false
  last : Option Nat := none
  sticky : BitVec 3 := 0
  pendG : BitVec 16 := 0
  pendP : BitVec 8 := 0
  done : Bool := false
  frozen : Bool := false
  switchMark : Bool := false
  forwarded : BitVec 4 := 0
  halted : Bool := false
  fault : FaultReg := {}
  replay : List Nat := []
  held : Option Nat := none
  paid : Option Nat := none
  ctlMap : AMap Nat := []
  ctlIn : AMap Nat := []
  spawnTick : Option Nat := none
  barred : BitVec 16 := 0
  deriving DecidableEq, Repr, Inhabited

/-- A chained-counter set (R180): levels innermost first. -/
structure CtrSet where
  base : Word := 0
  ext : List Nat := []
  stride : List Word := []
  n : List Nat := []
  started : Bool := false
  isDone : Bool := false
  entry : Bool := false
  deriving DecidableEq, Repr, Inhabited

/-! ### Engines of a cell -/

/-- A 64-byte block with its tag (R220). -/
structure Block where
  data : BitVec 512 := 0
  tag : BitVec 16 := 0
  deriving DecidableEq, Repr, Inhabited

/-- The state of a tile slot (R182). -/
inductive TileSt where
  | empty | filling | ready | draining
  deriving DecidableEq, Repr, Inhabited

/-- A tile slot (R182). -/
structure Tile where
  st : TileSt := .empty
  len : Nat := 0
  blocks : AMap Block := []
  deriving DecidableEq, Repr, Inhabited

/-- A spill-map entry in use (R185). -/
structure Spill where
  reg : Nat := 0
  col : Nat := 0
  quarter : Nat := 0
  deriving DecidableEq, Repr, Inhabited

/-- The vector pipe (R390, R392). -/
structure Vec where
  v : AMap (BitVec 1024) := []
  m : AMap (BitVec 64) := []
  pendV : BitVec 16 := 0
  pendM : BitVec 4 := 0
  spill : AMap Spill := []
  deriving DecidableEq, Repr, Inhabited

/-- A region of accumulator cells (R407). -/
structure Region where
  row0 : Nat := 0
  nrow : Nat := 0
  cg0 : Nat := 0
  ncg : Nat := 0
  deriving DecidableEq, Repr, Inhabited

/-- An armed matrix rule (R408, R409). -/
structure MxRule where
  hold : Bool := false
  rel : Bool := false
  aslot : Nat := 0
  region : Region := {}
  row : Nat := 0
  deriving DecidableEq, Repr, Inhabited

/-- The state of an accumulator cell (R184); EMPTY is the unlisted one. -/
inductive AccSt where
  | empty | accum | held
  deriving DecidableEq, Repr, Inhabited

/-- A sort in progress (R413): its keys as format, code and SCALE in the order of their positions. -/
structure SortJob where
  op : Nat := 0
  ibase : Nat := 0
  desc : Bool := false
  keys : List (Nat × Nat × Int) := []
  entered : Nat := 0
  emitted : Nat := 0
  deriving DecidableEq, Repr, Inhabited

/-- A drain in progress (R412). -/
structure Drain where
  op : Nat := 0
  slot : Nat := 0
  region : Region := {}
  row : Nat := 0
  deriving DecidableEq, Repr, Inhabited

/-- A weight load in progress (R406): the blocks it reads. -/
structure MxLoad where
  op : Nat := 0
  blocks : List Block := []
  deriving DecidableEq, Repr, Inhabited

/-- The matrix engine (R192, R390, R404 to R414). Weights by 128 × column + row, group exponents and NaN flags
by 8 × column + group, accumulator words by 128 × row + column, cell states by 8 × row + group. -/
structure Mx where
  afmt : Nat := 0x09
  bfmt : Nat := 0x09
  rules : AMap MxRule := []
  fired : AMap Nat := []
  mb : AMap Int := []
  exps : AMap Int := []
  bad : AMap Bool := []
  acc : AMap Word := []
  st : AMap AccSt := []
  load : Option MxLoad := none
  sort : Option SortJob := none
  drains : List Drain := []
  deriving DecidableEq, Repr, Inhabited

/-- A conversion in progress (R416): the blocks it reads, its destination, the blocks written, the elements that
saturated, and the overflow tokens that have not yet left. -/
structure ConvJob where
  op : Nat := 0
  blocks : List Block := []
  memMode : Bool := false
  dst : Nat := 0
  next : Nat := 0
  saturated : Nat := 0
  sticky : BitVec 3 := 0
  tokens : List Nat := []
  deriving DecidableEq, Repr, Inhabited

/-- The converter node (R198, R225, R415 to R417). -/
structure Conv where
  fmt : Nat := 0
  scale : Int := 0
  tg : BitVec 3 := 0
  index : Nat := 0
  dropped : Nat := 0
  job : Option ConvJob := none
  deriving DecidableEq, Repr, Inhabited

/-- The state of a DDA domain (R196). -/
inductive DomSt where
  | idle | running | stopped | done | fault
  deriving DecidableEq, Repr, Inhabited

/-- The mode of a DDA domain (R433). -/
inductive DomMode where
  | none | free | counted | token
  deriving DecidableEq, Repr, Inhabited

/-- A domain controller (R196, R433 to R439). -/
structure Dom where
  st : DomSt := .idle
  mode : DomMode := .none
  div : Nat := 0
  tel : Nat := 0
  tch : Nat := 0
  n : Nat := 0
  count : Nat := 0
  next : Nat := 0
  gated : Bool := false
  faultI : Nat := 0
  faultKind : Nat := 0
  deriving DecidableEq, Repr, Inhabited

/-- The DDA (R194 to R197, R228, R424). Cross-domain latches by 4 × source integrator + domain. A patch entry
that is not listed has every source none, shift 0 and domain 0. -/
structure Dda where
  y : AMap Word := []
  q : AMap Word := []
  emit : AMap Int := []
  cnt : AMap Word := []
  patch : AMap (BitVec 128) := []
  latch : AMap Int := []
  ports : AMap Int := []
  doms : AMap Dom := []
  deriving DecidableEq, Repr, Inhabited

/-- A reduction record (R156, R374): a 32-bit operand, or a 128-bit XACC addend; a record that a router has combined with
others names the combined request, of which `id` is its part (R252). -/
structure Red where
  pa : Nat := 0
  op : BitVec 3 := 0
  val : Nat := 0
  combo : Option Nat := none
  id : Nat := 0
  deriving DecidableEq, Repr, Inhabited

/-- A vestibule entry (R154, R156): a line of bytes with its mask, up to four reduction records in one line,
or a held spawn of four lines with the number of its firing, by which a commit releases spawns. -/
inductive VEntry where
  | line (pa : Nat) (mask : BitVec 64) (data : BitVec 512) (tag : Option (BitVec 16))
  | reds (rs : List Red)
  | spawn (n : Nat) (p : Packet)
  deriving DecidableEq, Repr, Inhabited

/-- The state of a cell's meter (R146). -/
inductive MeterSt where
  | idle | paying | pending | stalled | stopped
  deriving DecidableEq, Repr, Inhabited

/-- A cell's meter (R132, R146, R147) with the figures of R149: debits since entry and since the last advance
of the governing counter, the last completed iteration's debit, and whether all of them were equal. `heldBy` is the key of the
engine or operation whose debit a stall holds, until it is made, and `autoLate` says that the automatic trigger of a debit waits
until the SPAWN of the tick is certain (R145, R359). -/
structure Meter where
  st : MeterSt := .idle
  bal : Nat := 0
  decl : Nat := 0
  topped : Nat := 0
  cons : Nat := 0
  pend : Bool := false
  denied : Bool := false
  acnt : Nat := 0
  heldDebit : Nat := 0
  heldBy : Option Nat := none
  autoLate : Bool := false
  sinceEntry : Nat := 0
  sinceAdv : Nat := 0
  lastIter : Nat := 0
  firstIter : Nat := 0
  uniform : Bool := true
  awm : Nat := 0
  an : Nat := 0
  am : Nat := 0
  deriving DecidableEq, Repr, Inhabited

/-- The state of a scratchpad word (R186, R187); the unlisted one is an ordinary empty word. -/
structure WordSt where
  full : Bool := false
  counting : Bool := false
  tgt : Nat := 0
  deriving DecidableEq, Repr, Inhabited

/-- An undo-log entry (R157): a word's old value and state, or a block's old tag. -/
inductive Undo where
  | word (task : Nat) (w : Nat) (val : Word) (st : WordSt)
  | btag (task : Nat) (blk : Nat) (tag : BitVec 16)
  deriving DecidableEq, Repr, Inhabited

/-- A counting-table entry in use (R186, R369): its word, and the task whose tentative release frees it at its
commit point. -/
structure CEntry where
  w : Nat := 0
  rel : Option Nat := none
  by_ : Option Nat := none
  deriving DecidableEq, Repr, Inhabited

/-- A tag-table entry (R190). -/
structure TagEnt where
  key : Word := 0
  word : Nat := 0
  deriving DecidableEq, Repr, Inhabited

/-- The scratchpad of a memory cell (R186, R157, R190). -/
structure Spad where
  bytes : Mem := []
  tags : AMap (BitVec 16) := []
  words : AMap WordSt := []
  tent : AMap Nat := []
  undo : List Undo := []
  counting : List CEntry := []
  table : AMap TagEnt := []
  deriving DecidableEq, Repr, Inhabited

/-- An edge port of an address cell (R319, R320), with the access it has under way; `ended` says that `count` belongs to a run of
its set that is over, `ends` lists the values of the tag-5 tokens not yet emitted. -/
structure Edge where
  op : Option Nat := none
  out : Bool := false
  fmt : Nat := 0
  size : Nat := 0
  ctr : Nat := 0
  base : Nat := 0
  argBase : Bool := false
  argOff : Nat := 0
  count : Nat := 0
  ended : Bool := false
  ends : List Nat := []
  inq : Input := {}
  deriving DecidableEq, Repr, Inhabited

/-- The scan unit of an address cell (R199, R418): the operation that reads its present block, the block's address
and the elements of it already read. -/
structure Scan where
  busy : Bool := false
  op : Option Nat := none
  spad : Option Nat := none
  pos : Nat := 0
  off : Nat := 0
  fmt : Nat := 0
  n : Nat := 0
  read : Nat := 0
  emitted : Nat := 0
  deriving DecidableEq, Repr, Inhabited

/-- An image of a container at one cell of its gang (R170). -/
structure ImgRef where
  ctn : Nat := 0
  img : Nat := 0
  x : Nat := 0
  y : Nat := 0
  deriving DecidableEq, Repr, Inhabited

/-- A cell (R84, R88, R170, R174), with its present step as the arbiters of R129 see it: the element that took its turn last,
the engines that have accepted a firing in the step, and the element that each engine accepted last. Of the present step it also
holds the counter sets as they stood at its start (R284), the control tokens within the cell, which are seen from the next step on
(R356), the elements that a token within the cell has been sent to (R177), and the matrix rules that have been armed (R423). -/
structure Cell where
  owner : Option Nat := none
  shadow : List Nat := []
  active : Option ImgRef := none
  standby : Option ImgRef := none
  elems : AMap Elem := []
  ctrs : AMap CtrSet := []
  ports : AMap (List Dest) := []
  ctl : AMap (List CtlDest) := []
  mcast : AMap (List (Nat × Nat)) := []
  vec : Vec := {}
  mx : Mx := {}
  tiles : AMap Tile := []
  conv : Conv := {}
  dda : Dda := {}
  vest : List VEntry := []
  meter : Meter := {}
  spad : Spad := {}
  edges : AMap Edge := []
  scan : Scan := {}
  fwdPorts : List Nat := []
  nodeFault : AMap FaultReg := []
  halted : Bool := false
  turned : Option Nat := none
  took : List Nat := []
  accepted : AMap Nat := []
  ctrs0 : AMap CtrSet := []
  ctlNext : List (Nat × Nat) := []
  sentTo : List Nat := []
  armed : List Nat := []
  deriving DecidableEq, Repr, Inhabited

/-! ### Operations under way -/

/-- Where an operation under way stands (R266, R364, R239). -/
inductive Phase where
  | issued | held | waitSet | waiting | performed
  deriving DecidableEq, Repr, Inhabited

/-- What is left of an operation whose task has vanished (R274): the pieces that it writes at their homes, or for an atomic the
address of its word, and of the task its tag, age and generation and where its gang stood. -/
structure Orphan where
  pieces : List (Nat × List Byte × Option (BitVec 16)) := []
  tag : Nat := 0
  age : Nat := 0
  gen : Nat := 0
  room : Nat := 0
  origin : Nat × Nat := (0, 0)
  shape : Nat × Nat := (0, 0)
  deriving DecidableEq, Repr, Inhabited

/-- What a SPAWN takes back with it when the watermark of its tag sets in its tick (R359): the predicate that PMODE wrote, the tokens
that DEQ popped, the slot that fired before it, its debit and whether a trap had paid it, and the iterations of the task at its
firing with whether their debits were equal. -/
structure SpawnUndo where
  pred : Option (Nat × Bool) := none
  popped : List (Nat × Token) := []
  last : Option Nat := none
  paid : Bool := false
  cost : Nat := 0
  iters : Nat := 0
  uniform : Bool := true
  deriving DecidableEq, Repr, Inhabited

/-- A memory or engine operation that has fired and has not completed (R284, R360): who fired it, its captured
operands, its addresses, and what its completion writes. `inj` is its number in the order of injection (R9) and `sent` the
tick of it, `awaits` says that the reply of another device is awaited (R17), `expInfo` is INFO as its limit expired (R122),
`retry` says that a wake token has woken it and it has not yet gone on (R266), `tnt` that its firing read a tainted register
or is an LDC (R243), `asleep` that it waits for its scratchpad's exit from retention alone (R45). -/
structure Op where
  id : Nat := 0
  cell : Nat := 0
  elem : Nat := 0
  slot : Nat := 0
  opc : Nat := 0
  f : Slot := {}
  task : Nat := 0
  phase : Phase := .issued
  spad : Option Nat := none
  ea : Nat := 0
  len : Nat := 0
  lanes : List (Nat × Nat) := []
  args : List Word := []
  vdata : BitVec 1024 := 0
  mask : BitVec 64 := 0
  left : List Nat := []
  r : Word := 0
  c : Bool := false
  fflag : Bool := false
  status : Nat := 0
  engv : Option Word := none
  vres : BitVec 1024 := 0
  sticky : BitVec 3 := 0
  limit : Option Nat := none
  since : Nat := 0
  heldPage : Nat := 0
  heldAt : Option Nat := none
  wrHeld : Bool := false
  reported : Bool := false
  short : Bool := false
  watched : Bool := false
  replay : Bool := false
  combo : Option Nat := none
  noRoute : Option Nat := none
  inj : Nat := 0
  sent : Nat := 0
  awaits : Bool := false
  expInfo : Option Nat := none
  retry : Bool := false
  tnt : Bool := false
  asleep : Bool := false
  orphan : Option Orphan := none
  undo : Option SpawnUndo := none
  deriving DecidableEq, Repr, Inhabited

/-- A request combined in a router (R252, R253): its parts in router order with their operands, or for reductions the combined
operand `val`, and the arrival, as tick and input port, of its first and its last part. -/
structure Combo where
  id : Nat := 0
  pa : Nat := 0
  opc : Nat := 0
  red : Bool := false
  parts : List (Nat × Nat) := []
  val : Nat := 0
  head : Nat × Nat := (0, 0)
  last : Nat × Nat := (0, 0)
  old : Option Nat := none
  deriving DecidableEq, Repr, Inhabited

/-- An ATOMX fill and arrival under way to its target cell (R376): the wing that it, or after the fill its arrival, comes from, its
number in the order of injection (R9), the place of its issuer in the order of a tick (R189), and the tick at which it began to wait
at its cell. -/
structure Fill where
  id : Nat := 0
  src : Option Nat := none
  inj : Nat := 0
  key : Nat := 0
  since : Option Nat := none
  handle : Word := 0
  chandle : Word := 0
  val : Word := 0
  filled : Bool := false
  deriving DecidableEq, Repr, Inhabited

/-! ### Rooms and hearths -/

/-- The state of a hearth (R171). -/
inductive HearthSt where
  | idle | wait | exec | trapped | ended
  deriving DecidableEq, Repr, Inhabited

/-- A command in execution that takes time (R300): the units done, the tick it began in, its target task or the number of its move of
a balance, the scratchpad block, as cell and number, at which a tentative mark holds a copy back, with the tick of the beginning of
that wait (R158, R189, R449), and the command and next position of one that has done all but its signal, which waits for the next tick
(R172). -/
structure HExec where
  instr : Instr := .nop {}
  doneUnits : Nat := 0
  since : Nat := 0
  task : Nat := 0
  heldBy : Option (Nat × Nat) := none
  waitFrom : Option Nat := none
  ending : Option (HCmd × Nat) := none
  deriving DecidableEq, Repr, Inhabited

/-- The hearth (R171, R455), with the container that its program came from (R331). -/
structure Hearth where
  st : HearthSt := .idle
  pos : Nat := 0
  cause : Nat := 0
  prog : List (BitVec 128) := []
  owner : Option Nat := none
  h : AMap (BitVec 64) := []
  reps : AMap Nat := []
  exec : Option HExec := none
  deriving DecidableEq, Repr, Inhabited

/-- A cached translation (R266). -/
structure Tlb where
  asid : Nat := 0
  va : Nat := 0
  size : Nat := 0
  pa : Nat := 0
  wr : Bool := false
  deriving DecidableEq, Repr, Inhabited

/-- A room watchpoint (R278, R459). -/
structure Watch where
  en : Bool := false
  rd : Bool := false
  wr : Bool := false
  len : Nat := 0
  addr : Nat := 0
  deriving DecidableEq, Repr, Inhabited

/-- A wait-table entry (R123): a parked task and the word it waits for, or an operation that waits in place
for an atomic set. -/
inductive WaitEnt where
  | park (task : Nat) (cell : Nat) (word : Nat)
  | set (op : Nat)
  deriving DecidableEq, Repr, Inhabited

/-- A log of a room or of the device that counts and clears when read (R376, R442, R219). -/
structure CountLog where
  count : Nat := 0
  a : Nat := 0
  b : Nat := 0
  c : Nat := 0
  deriving DecidableEq, Repr, Inhabited

/-- A room (R169). -/
structure Room where
  hearth : Hearth := {}
  sems : AMap Nat := []
  semPrev : AMap Nat := []
  semInc : AMap Nat := []
  store : AMap (Nat × Nat) := []
  waitTab : List WaitEnt := []
  tlb : List Tlb := []
  walks : List (Nat × Nat) := []
  watch : AMap Watch := []
  trapBase : BitVec 64 := 0
  trapVa : BitVec 64 := 0
  parkThresh : Nat := 16384
  dlock : Nat := 65536
  hkAcct : Nat := 0
  herr : CountLog := {}
  axlost : CountLog := {}
  absent : Bool := false
  temp : BitVec 16 := 0
  capHalved : Bool := false
  tempAt : Nat := 0
  tested : List Nat := []
  privFrame : List Byte := []
  switchMap : List Byte := []
  deriving DecidableEq, Repr, Inhabited

/-! ### Tasks, tags, accounts -/

/-- The state of a task (R99); vanished, committed and reported tasks are gone. -/
inductive TaskSt where
  | queued | staged | running | gated | parked | preempted | committing
  deriving DecidableEq, Repr, Inhabited

/-- The four runs of a tag's queue, the first at the head (R105). -/
inductive QRun where
  | woken | preempted | restarted | fresh
  deriving DecidableEq, Repr, Inhabited

/-- The vanish causes (R100). -/
inductive Cause where
  | short | wound | fault | cancel | ue | ueUndervolt | vestibuleFull | undoFull | page | link | aged
  deriving DecidableEq, Repr, Inhabited

/-- Why a gang's sources are gated (R201, R268, R452). -/
inductive Gate where
  | none | preempt | park | quiesce | switch
  deriving DecidableEq, Repr, Inhabited

/-- A launch task's place in its launch (R92). -/
structure LaunchRef where
  launch : Nat := 0
  i : Nat := 0
  j : Nat := 0
  nx : Nat := 1
  ny : Nat := 1
  deriving DecidableEq, Repr, Inhabited

/-- A saved context (R269): the gang's cells by position, the operations to be issued again, and where the gang stood. -/
structure Ctx where
  room : Nat := 0
  x0 : Nat := 0
  y0 : Nat := 0
  cells : AMap Cell := []
  ops : List Op := []
  deriving DecidableEq, Repr, Inhabited

/-- A fault on its way to the hearth, with the operation that raised it where one did (R254, R257, R278). -/
structure PendFault where
  reg : FaultReg := {}
  elem : Option Nat := none
  op : Option Nat := none
  deriving DecidableEq, Repr, Inhabited

/-- A task: one queue entry (R99, R105). `parkWord` is the word of its PARK entry, `parkOp` and `parkId` the opcode and number of
the operation that waits on it. `trapDue` says that its trap packet waits for a queue entry (R106, R261), `argReported` lists
the pages for which its held argument read or prefetch still waits to be woken (R267, R488). `actDue` is the action that a hearth has still to take on its frame, and
`countDue` says that the frame's count of faults is still to be written, while the frame lies in an array in retention (R45). -/
structure Task where
  id : Nat := 0
  tag : Nat := 0
  gen : Nat := 0
  age : Nat := 0
  pid : BitVec 64 := 0
  ticket : Option Nat := none
  st : TaskSt := .queued
  run : QRun := .fresh
  restarts : Nat := 0
  lastCause : Nat := 0
  arg : List Byte := []
  launch : Option LaunchRef := none
  argWait : Option Nat := none
  argReported : List Nat := []
  argHeld : Option Nat := none
  pin : Option (Nat × Nat × Nat) := none
  room : Nat := 0
  x0 : Nat := 0
  y0 : Nat := 0
  gw : Nat := 0
  gh : Nat := 0
  decl : AMap Nat := []
  sets : List (Nat × Nat) := []
  runnable : Bool := false
  prefetched : AMap Tile := []
  pfCellar : AMap Nat := []
  pfHeld : Option Nat := none
  pfNoRoute : Option Nat := none
  stageNo : Nat := 0
  frozen : Bool := false
  frame : Bool := false
  trapDue : Bool := false
  faults : List PendFault := []
  nfault : Nat := 0
  trapOf : Option (Nat × Nat) := none
  actDue : Option Nat := none
  countDue : Bool := false
  gate : Gate := .none
  saving : Bool := false
  wake : Bool := false
  parkWord : Option (Nat × Nat) := none
  parkOp : Nat := 0
  parkId : Nat := 0
  ctx : Option Ctx := none
  dcount : Nat := 0
  halted : Bool := false
  iters : Nat := 0
  frameSlot : Option (Nat × Nat) := none
  deriving DecidableEq, Repr, Inhabited

/-- A launch not yet complete (R92, R93). -/
structure Launch where
  id : Nat := 0
  tag : Nat := 0
  gen : Nat := 0
  pid : BitVec 64 := 0
  age : Nat := 0
  nx : Nat := 1
  ny : Nat := 1
  movr : Bool := false
  ring : Nat := 0xFFFF
  argBase : Nat := 0
  argStride : Nat := 0
  mbase : Nat := 0
  mper : Nat := 0
  next : Nat := 0
  ended : Nat := 0
  failed : Nat := 0
  lowFail : Option (Nat × Nat) := none
  ticket0 : Nat := 0
  ages : List Nat := []
  halted : Bool := false
  deriving DecidableEq, Repr, Inhabited

/-- One generation of a route-tag entry (R64). At reset every field but EN, HANDLER and RESTART, of which the manual speaks, is 0: the
model's choice; log entry 99. -/
structure RtEntry where
  ord : Bool := false
  launch : Bool := false
  host : Bool := false
  mmode : Bool := false
  unguarded : Bool := false
  movr : Bool := false
  prio : Nat := 0
  gw : Nat := 0
  gh : Nat := 0
  handler : Nat := 0
  acct : Nat := 0
  rooms : BitVec 64 := 0
  mbase : Nat := 0
  mper : Nat := 0
  hiwm : Nat := 0
  lowm : Nat := 0
  restart : Nat := 16
  ring : Nat := 0
  deriving DecidableEq, Repr, Inhabited

/-- A TAGCTL made in a tick; those of one tick are applied after an entry write of that tick (R66, R451). -/
structure TagCtl where
  tick : Nat := 0
  imm : Nat := 0
  deriving DecidableEq, Repr, Inhabited

/-- A route tag (R64, R66, R115, R117): EN, PEND, its generations, and its running state. -/
structure RouteTag where
  en : Bool := false
  pend : Bool := false
  written : Bool := false
  gen : Nat := 0
  cur : RtEntry := {}
  old : Option RtEntry := none
  wm : Bool := false
  ticket : Nat := 0
  next : Nat := 0
  released : List Nat := []
  prevTime : Option Nat := none
  ctl : List TagCtl := []
  deriving DecidableEq, Repr, Inhabited

/-- A packet account (R142): OUT is kept in mu and reported in charge packets. -/
structure Acct where
  balance : Nat := 0
  consumed : Nat := 0
  ceil : Nat := 0
  out : Nat := 0
  deriving DecidableEq, Repr, Inhabited

/-- A request on its way to its accounts, in the order of arrival, with the tick of it (R143): a top-up of a cell (R144), or a hearth's
move to the account `dest`, of which `task` is the number (R458). -/
structure TopReq where
  since : Nat := 0
  acct : Nat := 0
  cell : Nat := 0
  task : Nat := 0
  packets : Nat := 0
  dest : Option Nat := none
  room : Nat := 0
  ha : Nat := 0
  deriving DecidableEq, Repr, Inhabited

/-- The lock entry of an atomic set, named by container and set number (R164, R166); waiters are operations. -/
structure Lock where
  ctn : Nat := 0
  set : Nat := 0
  holder : Option Nat := none
  waiters : List Nat := []
  deriving DecidableEq, Repr, Inhabited

/-! ### Loaded containers -/

/-- An element record of an image (R317). -/
structure ElemImg where
  slots : AMap (BitVec 64) := []
  k : AMap Word := []
  w : AMap (BitVec 64) := []
  pb : BitVec 8 := 0
  rot : Bool := false
  ctlMap : AMap Nat := []
  source : BitVec 16 := 0
  outs : AMap (List Dest) := []
  deriving DecidableEq, Repr, Inhabited

/-- A cell record of an image (R316, R318). -/
structure CellImg where
  x : Nat := 0
  y : Nat := 0
  kind : Nat := 1
  ctrs : AMap CtrSet := []
  ports : AMap (List Dest) := []
  ctl : AMap (List CtlDest) := []
  mcast : AMap (List (Nat × Nat)) := []
  elems : AMap ElemImg := []
  patch : Option (AMap (BitVec 128)) := none
  edges : AMap Edge := []
  deriving DecidableEq, Repr, Inhabited

/-- An image (R316). -/
structure Image where
  gw : Nat := 0
  gh : Nat := 0
  size : Nat := 0
  cells : List CellImg := []
  deriving DecidableEq, Repr, Inhabited

/-- A prefetch entry (R322). -/
structure Prefetch where
  x : Nat := 0
  y : Nat := 0
  slot : Nat := 0
  fromArg : Bool := false
  argOff : Nat := 0
  blocks : Nat := 1
  va : Nat := 0
  deriving DecidableEq, Repr, Inhabited

/-- The METER figures of one position (R140, R324). -/
structure MeterFig where
  mbase : Nat := 0
  mper : Nat := 0
  nconst : Nat := 0
  awm : Nat := 0
  an : Nat := 0
  am : Nat := 0
  nsrc : Bool := false
  noff : Nat := 0
  moff : Option Nat := none
  deriving DecidableEq, Repr, Inhabited

/-- A loaded handler (R322). -/
structure Handler where
  ctn : Nat := 0
  img : Nat := 0
  trap : Option Nat := none
  spawns : List Nat := []
  prefetch : List Prefetch := []
  meter : AMap MeterFig := []
  deriving DecidableEq, Repr, Inhabited

/-- The kinds of binding (R236, R323). -/
inductive BindKind where
  | guardedSet | guardedWord | fe | priv | escape | unguarded | stream | streamOnce
  deriving DecidableEq, Repr, Inhabited

/-- A binding record (R323); a scratchpad start is held as gang-relative cell and byte offset. -/
structure Bind where
  kind : BindKind := .priv
  spad : Bool := false
  obj : Nat := 0
  cx : Nat := 0
  cy : Nat := 0
  start : Nat := 0
  len : Nat := 0
  handle : Nat := 0
  deriving DecidableEq, Repr, Inhabited

/-- A set record (R323). -/
structure SetRec where
  n : Nat := 0
  ranges : List (Nat × Nat) := []
  deriving DecidableEq, Repr, Inhabited

/-- A loaded container (R328, R329). -/
structure Container where
  id : Nat := 0
  asid : Nat := 0
  bias : Nat := 0
  rooms : BitVec 64 := 0
  version : Nat := 0
  images : List Image := []
  firstHandler : Nat := 0
  handlerCount : Nat := 0
  sets : List SetRec := []
  binds : List Bind := []
  seqRooms : List Nat := []
  digest : List Byte := []
  deriving DecidableEq, Repr, Inhabited

/-! ### The device's blocks -/

/-- An intake ring (R53, R58). At reset its slots are zero and its guards empty, and NEXT and DISCARDS are 0: the model's choice; log
entry 99. -/
structure IntakeRing where
  en : Bool := false
  next : Nat := 0
  discards : Nat := 0
  slots : Mem := []
  guards : AMap Nat := []
  deriving DecidableEq, Repr, Inhabited

/-- A completion or report ring (R59, R63). At reset BASE, SZ, VEC, CONS and PROD are 0, the model's choice; log entry 99. -/
structure HostRing where
  base : Nat := 0
  sz : Nat := 0
  en : Bool := false
  vec : Nat := 0
  cons : Nat := 0
  prod : Nat := 0
  irqDue : Bool := false
  irqLast : Option Nat := none
  irqSent : Nat := 0
  deriving DecidableEq, Repr, Inhabited

/-- A record waiting in the notice buffer (R62): its ring, its bytes, whether it is a notice of a host tag, and whether it
answers an attestation request (R78). -/
structure Notice where
  ring : Nat := 0
  tag : Nat := 0
  notice : Bool := false
  att : Bool := false
  bytes : List Byte := []
  deriving DecidableEq, Repr, Inhabited

/-- A stream of the front door (R70 to R74); `taken` lists the slots in use. At reset its fields but EN, of which the manual speaks, its
numbers and its counters are 0: the model's choice; log entry 99. -/
structure Stream where
  cfg : BitVec 64 := 0
  nextSeq : Nat := 0
  nextSlot : Nat := 0
  dropFull : Nat := 0
  dropLen : Nat := 0
  taken : List Nat := []
  held : List (EthFrame × Nat) := []
  deriving DecidableEq, Repr, Inhabited

/-- A port of the front door (R29, R69, R74), with its calibrated receive delay and the last ingress stamp (R30, R32). At reset the
fields of its rules but EN, of which the manual speaks, and its counters are 0: the model's choice; log entry 99. -/
structure EthPort where
  ruleA : AMap (BitVec 64) := []
  ruleB : AMap (BitVec 64) := []
  fcs : Nat := 0
  oversize : Nat := 0
  pause : Nat := 0
  noMatch : Nat := 0
  delay : Nat := 0
  lastStamp : Option Nat := none
  deriving DecidableEq, Repr, Inhabited

/-- The front door (R28 to R32, R69 to R74): frame packets that wait for queue space stand in `waiting`. -/
structure Eth where
  ports : AMap EthPort := []
  streams : AMap Stream := []
  waiting : List (Packet × Nat × Nat × Nat) := []
  deriving DecidableEq, Repr, Inhabited

/-- An Ewejan port (R18 to R20, R24). -/
structure EwjPort where
  peer : Nat := 0
  peerPort : Nat := 0
  retries : Nat := 0
  lanes : BitVec 2 := 0
  st : Nat := 0
  deriving DecidableEq, Repr, Inhabited

/-- The last message delivered of one stream (R20, R21): source device, kind of message, home or route tag, and sequence
number. -/
structure EwjLast where
  src : Nat := 0
  kind : Nat := 0
  dest : Nat := 0
  seq : Nat := 0
  deriving DecidableEq, Repr, Inhabited

/-- What a home has performed in the present tick (R127, R189, R240): the home, the bytes, and the place in the order of the
tick. -/
structure Served where
  home : Nat := 0
  lo : Nat := 0
  len : Nat := 0
  key : Nat := 0
  deriving DecidableEq, Repr, Inhabited

/-- A write of a route-tag entry that waits for the end of the lodge's update (R81): RT_CMD and the stage. -/
structure HeldWrite where
  cmd : BitVec 64 := 0
  stage : AMap (BitVec 64) := []
  deriving DecidableEq, Repr, Inhabited

/-- The lodge and its registers (R48, R75 to R81, R95). At reset LOST, NXW, ROOMSOFF and IMG are 0, until the events that set them: the
model's choice; log entry 99. -/
structure Lodge where
  st : Nat := 0
  img : Nat := 0
  nxw : Nat := 0
  roomsOff : Nat := 0
  lost : Nat := 0
  cause : Nat := 0
  causeWing : Nat := 0
  causeRoom : Nat := 0
  cuts : Nat := 0
  attAddr : BitVec 64 := 0
  attNonce : AMap (BitVec 64) := []
  attGo : Bool := false
  attLen : Nat := 0
  attStatus : Nat := 0
  epochSec : Nat := 0
  epochNs : Nat := 0
  ptp : BitVec 64 := 0
  ptpst : PtpReport := {}
  rb : AMap Nat := []
  verified : AMap Nat := []
  images : AMap (List Byte) := []
  versions : AMap Nat := []
  errLog : List (Nat × Nat) := []
  retired : List Nat := []
  pendingTests : List Nat := []
  heldWrites : List HeldWrite := []
  errBuf : List (Nat × Nat) := []
  deriving DecidableEq, Repr, Inhabited

/-- One rail (R33, R36, R37): the point in force, the status of the last request, the request that has not begun, and
the step that has begun. -/
structure Rail where
  volt : Nat := 0
  freq : Nat := 0
  status : Nat := 0
  pending : Option (Nat × Nat) := none
  step : Option (Nat × Nat) := none
  deriving DecidableEq, Repr, Inhabited

/-- Power and thermal control (R33 to R49): `steady` says that the SRAM rail has kept its voltage since the last window
began (R42), `sliceUse` holds the tick of the last access to each landing slice (R44), `exiting` the arrays whose exit has begun
(R45), `eccAt` and `stallAt` the instants at which the last windows ended (R40, R42), `fabTicks` the ticks of the present window in
which a channel stalled (R40), `checkIn` the instant of the firmware's last check-in (R49). The operating points after reset are
the nominal ones of R33, STATUS is done and ERRS is 0; log entries 75 and 8. -/
structure Power where
  rails : AMap Rail := [(0, { volt := 900 }), (1, { volt := 900 }), (2, { volt := 750 }), (3, { volt := 800, freq := 1250 })]
  stall : AMap (BitVec 64) := []
  droopTicks : Nat := 256
  eccLim : Nat := 16
  idleTicks : Nat := 65536
  safe : Nat := 750
  locked : Bool := false
  errs : Nat := 0
  steady : Bool := true
  sliceUse : AMap Nat := []
  droopUntil : AMap Nat := []
  capped : AMap Bool := []
  retained : List RetArray := []
  exiting : List RetArray := []
  eccAt : Nat := 0
  stallAt : AMap Nat := []
  fabTicks : AMap Nat := []
  checkIn : Nat := 0
  fwImg : Nat := 0
  fwHung : Bool := false
  off : Bool := false
  deriving DecidableEq, Repr, Inhabited

/-- A log that the device writes into host memory (R150). -/
structure HostLog where
  base : Nat := 0
  sz : Nat := 0
  en : Bool := false
  prod : Nat := 0
  deriving DecidableEq, Repr, Inhabited

/-- Device-wide logs, debug and translation registers. -/
structure Logs where
  meter : HostLog := {}
  trap : HostLog := {}
  wlog : HostLog := {}
  pf : HostLog := {}
  xovf : AMap CountLog := []
  watch : AMap (BitVec 64) := []
  roots : AMap (BitVec 64) := []
  inv : BitVec 64 := 0
  invWait : List Nat := []
  wakeReg : BitVec 64 := 0
  haltCell : Nat := 0
  haltScope : Nat := 0
  haltSt : Nat := 0
  cfgLoad : BitVec 64 := 0
  cfgLoadSt : BitVec 64 := 0
  deriving DecidableEq, Repr, Inhabited

/-- Scheduler registers and pools (R105, R111, R112) and the age generator (R97). -/
structure Sched where
  qcap : Nat := 16384
  qpoolOff : Nat := 0x7E80000
  cpoolBase : Nat := 0xBFFC000000
  cpoolSize : Nat := 0x4000000
  hold : Bool := false
  checker : Bool := true
  lastStage : AMap Nat := []
  chosenAt : Option Nat := none
  chosen : AMap Nat := []
  stageNo : Nat := 0
  issued : AMap Nat := []
  reqs : List TopReq := []
  cancels : List (BitVec 64) := []
  rtStage : AMap (BitVec 64) := []
  rtTag : Nat := 0
  rtStatus : Nat := 0
  deriving DecidableEq, Repr, Inhabited

/-- Time (R1, R30) and the model's counters. -/
structure Clock where
  tick : Nat := 0
  tbase : Nat := 0
  moves : Nat := 0
  freeCtr : Nat := 0
  nextId : Nat := 0
  deriving DecidableEq, Repr, Inhabited

/-- The element and slot whose firing is made, and the subject of an event. -/
structure Site where
  cell : Nat := 0
  elem : Nat := 0
  slot : Nat := 0
  subject : Nat := 0
  deriving DecidableEq, Repr, Inhabited

/-- The device. Every field is plain data. -/
structure State where
  clock : Clock := {}
  agenda : List Move := []
  cur : Site := {}
  devNum : Nat := 0
  mem : Mem := []
  tags : AMap (BitVec 16) := []
  hostMem : Mem := []
  cells : AMap Cell := []
  rooms : AMap Room := []
  ops : List Op := []
  combos : List Combo := []
  fills : List Fill := []
  tasks : List Task := []
  launches : List Launch := []
  rtags : AMap RouteTag := []
  accts : AMap Acct := []
  locks : List Lock := []
  ctns : List Container := []
  handlers : AMap Handler := []
  intake : AMap IntakeRing := []
  rings : AMap HostRing := []
  notices : List Notice := []
  eth : Eth := {}
  ewj : AMap EwjPort := []
  ewjSeq : List EwjLast := []
  ewjWait : List EwjMsg := []
  served : List Served := []
  lodge : Lodge := {}
  power : Power := {}
  logs : Logs := {}
  sched : Sched := {}
  rd : BitVec 64 := 0
  rdBytes : List Byte := []
  deriving DecidableEq, Repr, Inhabited

/-- The machine right after reset (R76): every structure's default is its value after reset; INVENTORY.md
names the source of each. -/
def State.reset : State := {}

end Sys2Proof.Machine
end

