-- ==== Sys2Proof/Machine/Map.lean ====
section
/-! DEFINITION. Reading and writing sparse data, bytes of a memory, and the named parts of the state; the
coordinates of cells, rooms and wings (R3, R8, R84). -/

namespace Sys2Proof.Machine

/-! ### Sparse data -/

/-- The value listed at a key. -/
def mfind {α : Type} : AMap α → Nat → Option α
  | [], _ => none
  | (j, v) :: t, k => if j = k then some v else mfind t k

/-- The value at a key, `d` where none is listed. -/
def mget {α : Type} (m : AMap α) (k : Nat) (d : α) : α :=
  match mfind m k with
  | some v => v
  | none => d

/-- Lists a value at a key, keeping keys in rising order. -/
def mset {α : Type} : AMap α → Nat → α → AMap α
  | [], k, v => [(k, v)]
  | (j, u) :: t, k, v => if j = k then (k, v) :: t else if k < j then (k, v) :: (j, u) :: t else (j, u) :: mset t k v

/-- Removes a key. -/
def mdel {α : Type} (m : AMap α) (k : Nat) : AMap α := m.filter fun p => p.1 != k

/-- Writes a value at a key, listing nothing for the value `d` that an unlisted key has. -/
def mput {α : Type} [DecidableEq α] (m : AMap α) (k : Nat) (v d : α) : AMap α :=
  if v = d then mdel m k else mset m k v

/-- Changes the value at a key. -/
def mupd {α : Type} (m : AMap α) (k : Nat) (d : α) (f : α → α) : AMap α := mset m k (f (mget m k d))

/-! ### Bytes of a memory -/

/-- Keys rise strictly. -/
def risingFrom {α : Type} : Nat → List (Nat × α) → Bool
  | _, [] => true
  | lo, (k, _) :: t => decide (lo ≤ k) && risingFrom (k + 1) t

/-- The canonical form of a memory: rising addresses and no listed zero byte. -/
def Mem.wf (m : Mem) : Bool := risingFrom 0 m && m.all fun c => c.2 != 0

/-- One byte; an unlisted one reads as zero (R220). -/
def Mem.read (m : Mem) (a : Nat) : Byte := mget m a 0

/-- Writes one byte, keeping the canonical form. -/
def Mem.write (m : Mem) (a : Nat) (b : Byte) : Mem := if b = 0 then mdel m a else mset m a b

/-- `n` bytes from an address. -/
def Mem.readBytes (m : Mem) (a : Nat) : Nat → List Byte
  | 0 => []
  | n + 1 => m.read a :: Mem.readBytes m (a + 1) n

/-- Writes bytes from an address up. -/
def Mem.writeBytes (m : Mem) (a : Nat) : List Byte → Mem
  | [] => m
  | b :: bs => Mem.writeBytes (m.write a b) (a + 1) bs

/-- A little-endian number of `n` bytes (R205). -/
def Mem.readLE (m : Mem) (a n : Nat) : Nat := bytesToNat (m.readBytes a n)

/-- Writes a number as `n` bytes, little-endian (R205). -/
def Mem.writeLE (m : Mem) (a n v : Nat) : Mem := m.writeBytes a (natToBytes n v)

/-! ### Coordinates -/

/-- The cell at logical (X, Y) (R3). -/
def cellAt (x y : Nat) : Nat := y * 64 + x

/-- The logical X of a cell (R3). -/
def cellX (c : Nat) : Nat := c % 64

/-- The logical Y of a cell (R3). -/
def cellY (c : Nat) : Nat := c / 64

/-- The logical room number of a cell (R8). -/
def roomOf (c : Nat) : Nat := cellY c / 8 * 8 + cellX c / 8

/-- The cell at room-relative (x, y) of a room (R8, R84). -/
def roomCell (r x y : Nat) : Nat := cellAt (r % 8 * 8 + x) (r / 8 * 8 + y)

/-- The wing of a room (R8). -/
def wingOfRoom (r : Nat) : Nat := 2 * (r / 8 / 4) + r % 8 / 4

/-- The wing of a cell (R8). -/
def wingOfCell (c : Nat) : Nat := wingOfRoom (roomOf c)

/-- The kinds of cell (R84). -/
inductive CellKind where
  | compute | memory | address
  deriving DecidableEq, Repr

/-- The kind of a cell by its position (R84). -/
def kindOf (c : Nat) : CellKind :=
  if (cellX c + cellY c) % 2 = 0 then .compute else if cellX c % 2 = 0 then .memory else .address

/-- The code of a kind: 1 compute, 2 memory, 3 address (R316, R344). -/
def kindCode : CellKind → Nat
  | .compute => 1
  | .memory => 2
  | .address => 3

/-- The number of elements of a cell (R174). -/
def elemCount (c : Nat) : Nat := if kindOf c = .compute then 8 else 4

/-- The numbers 0 to n − 1. -/
def upTo (n : Nat) : List Nat := List.range n

/-! ### Parts of the state -/

/-- A cell of the device. -/
def State.cell (s : State) (c : Nat) : Cell := mget s.cells c {}

/-- Writes a cell. -/
def State.setCell (s : State) (c : Nat) (v : Cell) : State := { s with cells := mset s.cells c v }

/-- Changes a cell. -/
def State.updCell (s : State) (c : Nat) (f : Cell → Cell) : State := s.setCell c (f (s.cell c))

/-- An element of a cell. -/
def Cell.elem (c : Cell) (e : Nat) : Elem := mget c.elems e {}

/-- An element of the device. -/
def State.elem (s : State) (c e : Nat) : Elem := (s.cell c).elem e

/-- Changes an element. -/
def State.updElem (s : State) (c e : Nat) (f : Elem → Elem) : State :=
  s.updCell c fun cl => { cl with elems := mset cl.elems e (f (cl.elem e)) }

/-- A room. -/
def State.room (s : State) (r : Nat) : Room := mget s.rooms r {}

/-- Changes a room. -/
def State.updRoom (s : State) (r : Nat) (f : Room → Room) : State := { s with rooms := mset s.rooms r (f (s.room r)) }

/-- The task of an identifier. -/
def State.task? (s : State) (t : Nat) : Option Task := s.tasks.find? fun k => k.id == t

/-- The task of an identifier, an empty one where there is none. -/
def State.task (s : State) (t : Nat) : Task := (s.task? t).getD {}

/-- Changes a task. -/
def State.updTask (s : State) (t : Nat) (f : Task → Task) : State :=
  { s with tasks := s.tasks.map fun k => if k.id = t then f k else k }

/-- Removes a task. -/
def State.delTask (s : State) (t : Nat) : State := { s with tasks := s.tasks.filter fun k => k.id != t }

/-- The operation of an identifier. -/
def State.op? (s : State) (i : Nat) : Option Op := s.ops.find? fun o => o.id == i

/-- Changes an operation under way. -/
def State.updOp (s : State) (i : Nat) (f : Op → Op) : State :=
  { s with ops := s.ops.map fun o => if o.id = i then f o else o }

/-- Removes an operation. -/
def State.delOp (s : State) (i : Nat) : State := { s with ops := s.ops.filter fun o => o.id != i }

/-- A route tag. -/
def State.rtag (s : State) (t : Nat) : RouteTag := mget s.rtags t {}

/-- Changes a route tag. -/
def State.updRtag (s : State) (t : Nat) (f : RouteTag → RouteTag) : State :=
  { s with rtags := mset s.rtags t (f (s.rtag t)) }

/-- The entry of a tag in a generation (R66): the current one, or the older one. -/
def RouteTag.entry (r : RouteTag) (gen : Nat) : RtEntry := if gen = r.gen then r.cur else r.old.getD r.cur

/-- The entry under which a task was queued (R66). -/
def State.entryOf (s : State) (t : Task) : RtEntry := (s.rtag t.tag).entry t.gen

/-- An account. -/
def State.acct (s : State) (n : Nat) : Acct := mget s.accts n {}

/-- Changes an account. -/
def State.updAcct (s : State) (n : Nat) (f : Acct → Acct) : State := { s with accts := mset s.accts n (f (s.acct n)) }

/-- A loaded handler. -/
def State.handler (s : State) (n : Nat) : Handler := mget s.handlers n {}

/-- A loaded container. -/
def State.ctn? (s : State) (n : Nat) : Option Container := s.ctns.find? fun k => k.id == n

/-- A loaded container, an empty one where there is none. -/
def State.ctn (s : State) (n : Nat) : Container := (s.ctn? n).getD {}

/-- The handler of a task. -/
def State.handlerOf (s : State) (t : Task) : Handler := s.handler (s.entryOf t).handler

/-- The image of a handler (R322). -/
def State.imageOf (s : State) (h : Handler) : Image := (s.ctn h.ctn).images.getD h.img {}

/-- The shape of a task's gang, as log2 of its width and height: GW and GH of its route-tag entry (R64, R85). -/
def State.shape (s : State) (t : Task) : Nat × Nat := ((s.entryOf t).gw, (s.entryOf t).gh)

/-- The address space of a task (R234). -/
def State.asidOf (s : State) (t : Task) : Nat := (s.ctn (s.handlerOf t).ctn).asid

/-- Whether the limits and timers of a task pause: it is halted, or lies in the scope of the halt (R276). -/
def State.paused (s : State) (t : Task) : Bool :=
  t.halted || (s.logs.haltSt != 0 && s.logs.haltScope == 2)
    || t.launch.any fun k => s.launches.any fun (l : Launch) => l.id == k.launch && l.halted

/-- An error logged to the lodge; while the lodge restarts, in its buffer of 256 entries (R81, R161). -/
def State.logError (s : State) (pa kind : Nat) : State :=
  { s with lodge :=
    if s.lodge.st = 6 then
      { s.lodge with errBuf := if s.lodge.errBuf.length < 256 then s.lodge.errBuf ++ [(pa, kind)] else s.lodge.errBuf }
    else { s.lodge with errLog := s.lodge.errLog ++ [(pa, kind)] } }

/-- A fresh identifier of the model. -/
def State.fresh (s : State) : Nat × State :=
  (s.clock.nextId, { s with clock := { s.clock with nextId := s.clock.nextId + 1 } })

/-- An operation's message is injected: it takes the next number (R9). -/
def State.inject (s : State) (id : Nat) : State :=
  let n := s.fresh
  n.2.updOp id fun o => { o with inj := n.1, sent := s.clock.tick }

/-- A free value, and the state with the counter advanced. -/
def State.free (s : State) : BitVec 64 × State :=
  (Config.freeValue s.clock.freeCtr, { s with clock := { s.clock with freeCtr := s.clock.freeCtr + 1 } })

/-- The width of a task's gang (R85). -/
def Task.width (t : Task) : Nat := 2 ^ t.gw

/-- The height of a task's gang (R85). -/
def Task.height (t : Task) : Nat := 2 ^ t.gh

/-- The gang-relative positions of a shape, in increasing y then x (R87, R160). -/
def positions (w h : Nat) : List (Nat × Nat) := (upTo h).flatMap fun y => (upTo w).map fun x => (x, y)

/-- The cell at a gang-relative position of a task. -/
def Task.cellAt (t : Task) (x y : Nat) : Nat := roomCell t.room (t.x0 + x) (t.y0 + y)

/-- The cells of a task's gang, in increasing (y, x) (R85, R160). -/
def Task.gang (t : Task) : List Nat := (positions t.width t.height).map fun p => t.cellAt p.1 p.2

/-- The lead cell of a gang: its first compute cell in (y, x) order (R87). -/
def Task.lead (t : Task) : Nat := (t.gang.find? fun c => kindOf c == .compute).getD (t.cellAt 0 0)

/-- The gang-relative position number y × W + x of a cell (R316). -/
def Task.posOf (t : Task) (c : Nat) : Nat :=
  (cellY c % 8 - t.y0) * t.width + (cellX c % 8 - t.x0)

/-- Whether a cell lies in a task's gang. -/
def Task.holds (t : Task) (c : Nat) : Bool :=
  roomOf c == t.room && decide (t.x0 ≤ cellX c % 8) && decide (cellX c % 8 < t.x0 + t.width)
    && decide (t.y0 ≤ cellY c % 8) && decide (cellY c % 8 < t.y0 + t.height)

/-- The task that holds a cell (R88). -/
def State.owner? (s : State) (c : Nat) : Option Task := (s.cell c).owner.bind s.task?

/-- Applies a change to each of a list in turn. -/
def foldState {α : Type} (l : List α) (s : State) (f : α → State → State) : State := l.foldl (fun st a => f a st) s

/-- Some operations' messages are injected one after another. -/
def State.injectAll (s : State) (ids : List Nat) : State := foldState ids s fun i st => st.inject i

/-- Changes each cell of a task's gang. -/
def State.updGang (s : State) (t : Task) (f : Cell → Cell) : State := foldState t.gang s fun c st => st.updCell c f

/-- Changes each element of each cell of a task's gang. -/
def State.updGangElems (s : State) (t : Task) (f : Elem → Elem) : State :=
  s.updGang t fun cl => { cl with elems := cl.elems.map fun p => (p.1, f p.2) }

end Sys2Proof.Machine
end

