-- ==== Sys2Proof/Machine/Num.lean ====
section
/-! DEFINITION. Numbers and exact arithmetic (R205 to R218, R220 to R222, R225 to R227): every value is held
exactly as a sign, a whole number and a power of two, and rounded once. -/

namespace Sys2Proof.Machine

/-- An exact real value, an infinity or a NaN: `fin neg m e` is (−1)^neg × m × 2^e. -/
inductive FVal where
  | nan
  | inf (neg : Bool)
  | fin (neg : Bool) (m : Nat) (e : Int)
  deriving DecidableEq, Repr, Inhabited

/-- An IEEE-style format: exponent bits and fraction bits (R206). -/
structure FFmt where
  eb : Nat
  fb : Nat
  deriving DecidableEq, Repr

/-- FP32, FP16 and BF16 (R206). -/
def FFmt.fp32 : FFmt := { eb := 8, fb := 23 }
def FFmt.fp16 : FFmt := { eb := 5, fb := 10 }
def FFmt.bf16 : FFmt := { eb := 8, fb := 7 }

/-- The format of a scalar width (R295). -/
def fmtOfWidth : FWidth → FFmt
  | .f32 => .fp32
  | .f16 => .fp16
  | .b16 => .bf16

/-- The exponent bias. -/
def FFmt.bias (f : FFmt) : Nat := 2 ^ (f.eb - 1) - 1

/-- The exponent of the lowest bit of a subnormal. -/
def FFmt.qmin (f : FFmt) : Int := 1 - (f.bias : Int) - f.fb

/-- The bits of +Inf. -/
def FFmt.infBits (f : FFmt) : Nat := (2 ^ f.eb - 1) * 2 ^ f.fb

/-- The canonical NaN (R207). -/
def FFmt.nanBits (f : FFmt) : Nat := f.infBits + 2 ^ (f.fb - 1)

/-- The sign bit's weight. -/
def FFmt.signBit (f : FFmt) : Nat := 2 ^ (f.eb + f.fb)

/-- The value of a bit pattern (R206); bits above the format are ignored (R338). -/
def FFmt.decode (f : FFmt) (bits : Nat) : FVal :=
  let neg := bits.testBit (f.eb + f.fb)
  let ex := natField bits f.fb f.eb
  let fr := natField bits 0 f.fb
  if ex = 2 ^ f.eb - 1 then (if fr = 0 then .inf neg else .nan)
  else if ex = 0 then .fin neg fr f.qmin
  else .fin neg (2 ^ f.fb + fr) (f.qmin + (ex - 1 : Nat))

/-- The number of bits of m. -/
def bitLen (m : Nat) : Nat := if m = 0 then 0 else Nat.log2 m + 1

/-- m / 2^k rounded to nearest, ties to even. -/
def shiftRNE (m k : Nat) : Nat :=
  let q := m / 2 ^ k
  let r := m % 2 ^ k
  if k = 0 then m else if 2 * r > 2 ^ k ∨ (2 * r = 2 ^ k ∧ q % 2 = 1) then q + 1 else q

/-- m × 2^e rounded to a whole number, to nearest with ties to even. -/
def scaleRNE (m : Nat) (e : Int) : Nat := if e ≥ 0 then m * 2 ^ e.toNat else shiftRNE m (-e).toNat

/-- The outcome of a floating-point operation: the bits and the conditions of R208. -/
structure FRes where
  bits : Nat := 0
  invalid : Bool := false
  ovf : Bool := false
  dz : Bool := false
  deriving DecidableEq, Repr, Inhabited

/-- Rounds (−1)^neg × m × 2^e into a format, once, to nearest with ties to even, subnormals kept and overflow to
±Inf (R206). `sticky` says that the exact magnitude lies strictly between m and m + 1 units. -/
def FFmt.round (f : FFmt) (neg : Bool) (m : Nat) (e : Int) (sticky : Bool := false) : FRes :=
  let sgn := if neg then f.signBit else 0
  if m = 0 ∧ !sticky then { bits := sgn }
  else
    let m4 := 4 * m + bit sticky
    let e4 := e - 2
    let top := e4 + (bitLen m4 : Int) - 1
    let q := max (top - f.fb) f.qmin
    let k := scaleRNE m4 (e4 - q)
    let b := (q - f.qmin).toNat * 2 ^ f.fb + k
    if b ≥ f.infBits then { bits := sgn + f.infBits, ovf := true } else { bits := sgn + b }

/-- A NaN result; `invalid` when no operand was a NaN (R207, R208). -/
def FFmt.nanRes (f : FFmt) (invalid : Bool) : FRes := { bits := f.nanBits, invalid := invalid }

/-- An infinity. -/
def FFmt.infRes (f : FFmt) (neg : Bool) : FRes := { bits := (if neg then f.signBit else 0) + f.infBits }

/-- The signed whole number of a magnitude. -/
def signed (neg : Bool) (m : Nat) : Int := if neg then -(m : Int) else m

/-- The exact sum of two finite values, as a signed whole number and a power of two. -/
def exactAdd (n1 : Bool) (m1 : Nat) (e1 : Int) (n2 : Bool) (m2 : Nat) (e2 : Int) : Int × Int :=
  let e := min e1 e2
  (signed n1 (m1 * 2 ^ (e1 - e).toNat) + signed n2 (m2 * 2 ^ (e2 - e).toNat), e)

/-- The rounded sum of two values; a zero sum is −0 only when both are negative (R206). -/
def FFmt.addV (f : FFmt) (a b : FVal) : FRes :=
  match a, b with
  | .nan, _ => f.nanRes false
  | _, .nan => f.nanRes false
  | .inf n1, .inf n2 => if n1 = n2 then f.infRes n1 else f.nanRes true
  | .inf n1, _ => f.infRes n1
  | _, .inf n2 => f.infRes n2
  | .fin n1 m1 e1, .fin n2 m2 e2 =>
    let z := exactAdd n1 m1 e1 n2 m2 e2
    if z.1 = 0 then { bits := if n1 && n2 then f.signBit else 0 }
    else f.round (decide (z.1 < 0)) z.1.natAbs z.2

/-- The exact product; none when it is not a number. -/
def mulV (a b : FVal) : FVal :=
  match a, b with
  | .nan, _ => .nan
  | _, .nan => .nan
  | .inf n1, .inf n2 => .inf (n1 != n2)
  | .inf n1, .fin n2 m _ => if m = 0 then .nan else .inf (n1 != n2)
  | .fin n1 m _, .inf n2 => if m = 0 then .nan else .inf (n1 != n2)
  | .fin n1 m1 e1, .fin n2 m2 e2 => .fin (n1 != n2) (m1 * m2) (e1 + e2)

/-- Whether a value is a NaN. -/
def FVal.isNan : FVal → Bool
  | .nan => true
  | _ => false

/-- The value with its sign inverted. -/
def FVal.neg : FVal → FVal
  | .nan => .nan
  | .inf n => .inf (!n)
  | .fin n m e => .fin (!n) m e

/-- A value rounded into a format. -/
def FFmt.ofVal (f : FFmt) : FVal → FRes
  | .nan => f.nanRes false
  | .inf n => f.infRes n
  | .fin n m e => f.round n m e

/-- a + b, a − b, a × b and a × b + c, each rounded once (R206, R339, R394). -/
def FFmt.add (f : FFmt) (a b : Nat) : FRes := f.addV (f.decode a) (f.decode b)
def FFmt.sub (f : FFmt) (a b : Nat) : FRes := f.addV (f.decode a) (f.decode b).neg
def FFmt.mul (f : FFmt) (a b : Nat) : FRes :=
  let x := f.decode a
  let y := f.decode b
  match mulV x y with
  | .nan => f.nanRes (!x.isNan && !y.isNan)
  | v => f.ofVal v
def FFmt.fmaV (f : FFmt) (x y z : FVal) : FRes :=
  match mulV x y with
  | .nan => f.nanRes (!x.isNan && !y.isNan && !z.isNan)
  | v => f.addV v z
def FFmt.fma (f : FFmt) (a b c : Nat) : FRes := f.fmaV (f.decode a) (f.decode b) (f.decode c)
def FFmt.fms (f : FFmt) (a b c : Nat) : FRes := f.fmaV (f.decode a) (f.decode b) (f.decode c).neg

/-- a < b of two values that are not NaN, −0 and +0 equal. -/
def ltV (a b : FVal) : Bool :=
  match a, b with
  | .nan, _ => false
  | _, .nan => false
  | .inf n1, .inf n2 => n1 && !n2
  | .inf n1, .fin _ _ _ => n1
  | .fin _ _ _, .inf n2 => !n2
  | .fin n1 m1 e1, .fin n2 m2 e2 => decide ((exactAdd n1 m1 e1 (!n2) m2 e2).1 < 0)

/-- a = b of two values that are not NaN, −0 and +0 equal. -/
def eqV (a b : FVal) : Bool := !a.isNan && !b.isNan && !ltV a b && !ltV b a

/-- The sign of a value. -/
def FVal.isNeg : FVal → Bool
  | .nan => false
  | .inf n => n
  | .fin n _ _ => n

/-- a below b in the order of R209, −0 below +0. -/
def belowV (a b : FVal) : Bool := ltV a b || (eqV a b && a.isNeg && !b.isNeg)

/-- Minimum and maximum (R209): a NaN yields to the other operand, and no status is set. -/
def FFmt.minMax (f : FFmt) (isMax : Bool) (a b : Nat) : Nat :=
  let x := f.decode a
  let y := f.decode b
  let m := 2 ^ (f.eb + f.fb + 1)
  match x.isNan, y.isNan with
  | true, true => f.nanBits
  | true, false => b % m
  | false, true => a % m
  | false, false => if belowV x y != isMax then a % m else b % m

/-- A floating-point comparison by the condition codes of FCMP and VCMP (R295, R340, R395):
0 EQ, 1 NE, 2 LT, 3 LE, 4 GT, 5 GE, 6 ORD, 7 UNORD. -/
def FFmt.cmp (f : FFmt) (cc : Nat) (a b : Nat) : Bool :=
  let x := f.decode a
  let y := f.decode b
  let un := x.isNan || y.isNan
  match cc with
  | 0 => eqV x y
  | 1 => !eqV x y
  | 2 => ltV x y
  | 3 => !un && !ltV y x
  | 4 => ltV y x
  | 5 => !un && !ltV x y
  | 6 => !un
  | _ => un

/-- A value rounded to a whole number, to nearest with ties to even (R210). -/
def roundInt (neg : Bool) (m : Nat) (e : Int) : Int := signed neg (scaleRNE m e)

/-- Conversion of a value to an integer of [lo, hi] (R210): saturates; NaN gives 0; out of range is invalid. -/
def toIntSat (lo hi : Int) (v : FVal) : Int × Bool :=
  match v with
  | .nan => (0, true)
  | .inf n => (if n then lo else hi, true)
  | .fin n m e =>
    let z := roundInt n m e
    if z < lo then (lo, true) else if z > hi then (hi, true) else (z, false)

/-- Conversion of an integer to a format (R206, R210). -/
def FFmt.ofInt (f : FFmt) (z : Int) : FRes := f.round (decide (z < 0)) z.natAbs 0

/-! ### Correctly rounded functions (R211) -/

/-- The whole part of the square root of n, from bit k down. -/
def isqrtFrom (n : Nat) : Nat → Nat → Nat
  | 0, r => if (r + 1) * (r + 1) ≤ n then r + 1 else r
  | k + 1, r => isqrtFrom n k (if (r + 2 ^ (k + 1)) * (r + 2 ^ (k + 1)) ≤ n then r + 2 ^ (k + 1) else r)

/-- The whole part of the square root. -/
def isqrt (n : Nat) : Nat := isqrtFrom n (bitLen n / 2 + 1) 0

/-- The number of fraction bits that VEXP2 and VLOG2 are computed to before their one rounding; log entry 17. -/
def fnBits : Nat := 320

/-- Σ over k = 1 … n of 2^(bits − k) / k: the natural logarithm of 2 to `bits` fraction bits. -/
def ln2Sum (bits : Nat) : Nat → Nat
  | 0 => 0
  | n + 1 => ln2Sum bits n + 2 ^ (bits - (n + 1)) / (n + 1)

/-- ln 2 with fnBits fraction bits. -/
def ln2Fix : Nat := ln2Sum (fnBits + 16) (fnBits + 16) / 2 ^ 16

/-- The tail of the series of e^t from term n on, with n rising as fuel falls. -/
def expSum (t : Nat) : Nat → Nat → Nat → Nat
  | 0, _, _ => 0
  | fuel + 1, n, term => term + expSum t fuel (n + 1) (term * t / 2 ^ fnBits / (n + 1))

/-- 2^f for a fraction f with fnBits fraction bits, in [1, 2), with fnBits fraction bits. -/
def exp2Fix (f : Nat) : Nat := expSum (f * ln2Fix / 2 ^ fnBits) 80 0 (2 ^ fnBits)

/-- The tail of the series of atanh z, with z² and the current power. -/
def atanhSum (z2 : Nat) : Nat → Nat → Nat → Nat
  | 0, _, _ => 0
  | fuel + 1, k, p => p / k + atanhSum z2 fuel (k + 2) (p * z2 / 2 ^ fnBits)

/-- log2 y for y in [1, 2) with fnBits fraction bits. -/
def log2Fix (y : Nat) : Nat :=
  let one := 2 ^ fnBits
  let z := (y - one) * one / (y + one)
  2 * atanhSum (z * z / one) 110 1 z * one / ln2Fix

/-- VRCP (R211). -/
def FFmt.rcp (f : FFmt) (a : Nat) : FRes :=
  match f.decode a with
  | .nan => f.nanRes false
  | .inf n => { bits := if n then f.signBit else 0 }
  | .fin n m e =>
    if m = 0 then { f.infRes n with dz := true }
    else
      let k := bitLen m + 64
      f.round n (2 ^ k / m) (-(k : Int) - e) (2 ^ k % m != 0)

/-- VRSQ (R211). -/
def FFmt.rsq (f : FFmt) (a : Nat) : FRes :=
  match f.decode a with
  | .nan => f.nanRes false
  | .inf n => if n then f.nanRes true else { bits := 0 }
  | .fin n m e =>
    if m = 0 then { f.infRes n with dz := true }
    else if n then f.nanRes true
    else
      let odd := e % 2 ≠ 0
      let m' := if odd then 2 * m else m
      let e' := if odd then e - 1 else e
      let k := bitLen m' + 64
      let r := isqrt (2 ^ (2 * k) / m')
      f.round false r (-(k : Int) - e' / 2) (r * r * m' != 2 ^ (2 * k))

/-- VEXP2 (R211). -/
def FFmt.exp2 (f : FFmt) (a : Nat) : FRes :=
  match f.decode a with
  | .nan => f.nanRes false
  | .inf n => if n then { bits := 0 } else f.infRes false
  | .fin n m e =>
    if m = 0 then f.round false 1 0
    else if e + bitLen m > 11 then (if n then { bits := 0 } else { f.infRes false with ovf := true })
    else
      let x := signed n m * (2 ^ (fnBits + e.toNat - (-e).toNat) : Nat)
      let whole := x / ((2 ^ fnBits : Nat) : Int)
      let frac := (x % ((2 ^ fnBits : Nat) : Int)).toNat
      if frac = 0 then f.round false 1 whole
      else f.round false (exp2Fix frac) (whole - fnBits) true

/-- VLOG2 (R211). -/
def FFmt.log2 (f : FFmt) (a : Nat) : FRes :=
  match f.decode a with
  | .nan => f.nanRes false
  | .inf n => if n then f.nanRes true else f.infRes false
  | .fin n m e =>
    if m = 0 then { f.infRes true with dz := true }
    else if n then f.nanRes true
    else
      let top := e + (bitLen m : Int) - 1
      let y := m * 2 ^ (fnBits - (bitLen m - 1))
      if y = 2 ^ fnBits then f.ofInt top
      else
        let v := top * ((2 ^ fnBits : Nat) : Int) + log2Fix y
        f.round (decide (v < 0)) v.natAbs (-(fnBits : Int)) true

/-- VSCL: a × 2^b in the format (R394). -/
def FFmt.scl (f : FFmt) (a : Nat) (b : Int) : FRes :=
  match f.decode a with
  | .nan => f.nanRes false
  | .inf n => f.infRes n
  | .fin n m e => f.round n m (e + b)

/-! ### Tapered formats (R214 to R216) -/

/-- The length of the run of the bit `b` from bit i down, at most `i + 1`. -/
def runLen (m : Nat) (b : Bool) : Nat → Nat
  | 0 => if m.testBit 0 == b then 1 else 0
  | i + 1 => if m.testBit (i + 1) == b then 1 + runLen m b i else 0

/-- The magnitude of a tapered code of `w` magnitude bits, `es` exponent bits (1 for T8, 0 for T6), in units of
2^−12: code 0 is 0 (R214, R215). -/
def taperMag (w es m : Nat) : Nat :=
  if m = 0 then 0
  else
    let b := m.testBit (w - 1)
    let n := runLen m b (w - 1)
    let k : Int := if b then (n : Int) - 1 else -(n : Int)
    let rest := w - n - 1
    let e := if rest = 0 then 0 else if es = 1 then natField m (rest - 1) 1 else 0
    let fb := if es = 1 then rest - 1 else rest
    let fr := natField m 0 fb
    let ex : Int := (if es = 1 then 2 * k else k) + e
    (2 ^ fb + fr) * 2 ^ (12 + ex).toNat / 2 ^ fb / 2 ^ (-(12 + ex)).toNat

/-- The value of a T8 byte (R214). -/
def decodeT8 (b : Nat) : FVal :=
  if b = 0x80 then .nan else .fin (b.testBit 7) (taperMag 7 1 (b % 128)) (-12)

/-- The value of a T6 code (R215). -/
def decodeT6 (b : Nat) : FVal :=
  if b = 0x20 then .nan else .fin (b.testBit 5) (taperMag 5 0 (b % 32)) (-12)

/-- The code nearest to m × 2^e among 0 … n, ties to the code whose lowest bit is 0 (R216): codes are tried
upwards, and the next code replaces the current one when it is nearer. -/
def taperNearest (w es : Nat) (m : Nat) (e : Int) : Nat :=
  let lo := min e (-12)
  let x := m * 2 ^ (e - lo).toNat
  let u := 2 ^ (-12 - lo).toNat
  (upTo (2 ^ w - 1)).foldl (fun c i =>
    let a := taperMag w es i * u
    let b := taperMag w es (i + 1) * u
    if 2 * x > a + b ∨ (2 * x = a + b ∧ (i + 1) % 2 = 0) then i + 1 else c) 0

/-- Rounding into a tapered format (R216): the code, and whether a finite value was saturated. -/
def roundTaper (w es nanCode : Nat) (v : FVal) : Nat × Bool :=
  let sgn := 2 ^ w
  match v with
  | .nan => (nanCode, false)
  | .inf n => ((if n then sgn else 0) + (2 ^ w - 1), false)
  | .fin n m e =>
    let c := taperNearest w es m e
    let lo := min e (-12)
    let big := m * 2 ^ (e - lo).toNat > taperMag w es (2 ^ w - 1) * 2 ^ (-12 - lo).toNat
    (if c = 0 then 0 else (if n then sgn else 0) + c, big)

/-! ### Block formats (R220, R221) -/

/-- Whether a code of FMT is one that typed reads take as numbers (R221, R404). -/
def numericFmt (f : Nat) : Bool := [0x01, 0x02, 0x03, 0x04, 0x08, 0x09, 0x0A, 0x10, 0x11].contains f

/-- The bits of an element of a format. -/
def fmtBits (f : Nat) : Nat :=
  match f with
  | 0x01 => 8
  | 0x02 => 8
  | 0x03 => 16
  | 0x04 => 32
  | 0x08 => 32
  | 0x09 => 16
  | 0x0A => 16
  | 0x10 => 8
  | 0x11 => 6
  | _ => 8

/-- The elements of a block of a format (R221); those of a ZERO block are the reader's. -/
def fmtCount (f : Nat) : Nat := if f = 0x11 then 80 else 512 / fmtBits f

/-- The value of an element's code in a format, before SCALE (R221). -/
def decodeElem (f code : Nat) : FVal :=
  match f with
  | 0x01 => let z := natToInt 8 code; .fin (decide (z < 0)) z.natAbs 0
  | 0x02 => .fin false (code % 256) 0
  | 0x03 => let z := natToInt 16 code; .fin (decide (z < 0)) z.natAbs 0
  | 0x04 => let z := natToInt 32 code; .fin (decide (z < 0)) z.natAbs 0
  | 0x08 => FFmt.fp32.decode code
  | 0x09 => FFmt.fp16.decode code
  | 0x0A => FFmt.bf16.decode code
  | 0x10 => decodeT8 (code % 256)
  | 0x11 => decodeT6 (code % 64)
  | _ => .fin false 0 0

/-- FMT of a tag (R220). -/
def tagFmt (t : BitVec 16) : Nat := natField t.toNat 0 8

/-- SCALE of a tag, signed (R220). -/
def tagScale (t : BitVec 16) : Int := natToInt 8 (natField t.toNat 8 8)

/-- Whether a tag marks its block poisoned (R220). -/
def tagPoison (t : BitVec 16) : Bool := natField t.toNat 8 8 == 0x80

/-- A tag of a format and a scale (R220, R225). -/
def mkTag (f : Nat) (sc : Int) : BitVec 16 := BitVec.ofNat 16 (f + 256 * intToNat 8 sc)

/-- The code of element i of a block (R205, R221). -/
def blockCode (f : Nat) (b : BitVec 512) (i : Nat) : Nat := natField b.toNat (fmtBits f * i) (fmtBits f)

/-- The element codes of a block for a reader of format `rf`, each with its format and SCALE; a ZERO block gives
the reader's count of +0 (R222). -/
def blockElems (rf : Nat) (b : Block) : List (Nat × Nat × Int) :=
  let f := tagFmt b.tag
  if f = 0x1F then (upTo (fmtCount rf)).map fun _ => (rf, 0, tagScale b.tag)
  else (upTo (fmtCount f)).map fun i => (f, blockCode f b.data i, tagScale b.tag)

/-- Why a typed read of a block faults (R222, R224); none when it does not. -/
inductive TypedFault where
  | badTag (tag : BitVec 16)
  | poison
  deriving DecidableEq, Repr

/-- The check of a typed read of one block (R222, R224). -/
def typedCheck (b : Block) : Option TypedFault :=
  if tagPoison b.tag then some .poison
  else if numericFmt (tagFmt b.tag) || tagFmt b.tag == 0x1F then none
  else some (.badTag b.tag)

/-- An element's value without its SCALE. -/
def elemVal (el : Nat × Nat × Int) : FVal := decodeElem el.1 el.2.1

/-- The value with SCALE applied (R220). -/
def scaled (v : FVal) (sc : Int) : FVal :=
  match v with
  | .fin n m e => .fin n m (e + sc)
  | w => w

/-- The largest magnitude of an integer or tapered format, as a whole number; that of a signed integer format is its
most negative value's (R225); log entry 70. -/
def fmtMax (f : Nat) : Nat :=
  match f with
  | 0x01 => 128
  | 0x02 => 255
  | 0x03 => 2 ^ 15
  | 0x04 => 2 ^ 31
  | 0x10 => 4096
  | _ => 16

/-- Rounding into a format of R221 (R225): the code, and whether the element saturated or is a NaN converted
into an integer format. -/
def roundFmt (f : Nat) (v : FVal) : Nat × Bool :=
  match f with
  | 0x08 => ((FFmt.fp32.ofVal v).bits, false)
  | 0x09 => ((FFmt.fp16.ofVal v).bits, false)
  | 0x0A => ((FFmt.bf16.ofVal v).bits, false)
  | 0x10 => roundTaper 7 1 0x80 v
  | 0x11 => roundTaper 5 0 0x20 v
  | 0x02 => let r := toIntSat 0 255 v; (r.1.toNat, r.2)
  | _ =>
    let w := fmtBits f
    let r := toIntSat (-((2 ^ (w - 1) : Nat) : Int)) ((2 ^ (w - 1) : Nat) - 1 : Int) v
    (intToNat w r.1, r.2)

/-- The smallest e ≥ 1 for which m × 2^ex × 2^−e does not exceed `big`, capped at 255 (R225). -/
def excessFrom (m : Nat) (ex : Int) (big : Nat) : Nat → Nat → Nat
  | 0, e => min e 255
  | fuel + 1, e =>
    let sh := ex - e
    let fits := if sh ≥ 0 then m * 2 ^ sh.toNat ≤ big else m ≤ big * 2 ^ (-sh).toNat
    if fits then e else excessFrom m ex big fuel (e + 1)

/-- The exponent excess of an overflow token (R225). -/
def excess (f : Nat) (v : FVal) : Nat :=
  match v with
  | .nan => 0
  | .inf _ => 255
  | .fin _ m e => excessFrom m e (fmtMax f) 254 1

/-- Packs element codes of a format into a block, the first at the lowest bits (R221). -/
def packCodes (f : Nat) (codes : List Nat) : BitVec 512 :=
  BitVec.ofNat 512 (codes.foldr (fun c acc => c + 2 ^ fmtBits f * acc) 0)

/-! ### The block-aligned dot product (R226, R227) -/

/-- The unbiased exponent of a value that is not zero; subnormals of the floating-point formats count as the
smallest normal exponent (R226). -/
def unbExp (f : Nat) (m : Nat) (e : Int) : Int :=
  let t := e + (bitLen m : Int) - 1
  match f with
  | 0x08 => max t (-126)
  | 0x09 => max t (-14)
  | 0x0A => max t (-126)
  | _ => t

/-- The largest unbiased exponent of a group, 0 for an all-zero group (R226). -/
def groupExp (vs : List (Nat × FVal)) : Int :=
  let es := vs.filterMap fun p =>
    match p.2 with
    | .fin _ m e => if m = 0 then none else some (unbExp p.1 m e)
    | _ => none
  match es with
  | [] => 0
  | x :: xs => xs.foldl max x

/-- Each value of a group aligned to `bits − exp` binary places and rounded (R226). -/
def alignGroup (bits : Int) (ex : Int) (vs : List FVal) : List Int :=
  vs.map fun v =>
    match v with
    | .fin n m e => signed n (scaleRNE m (e + (bits - ex)))
    | _ => 0

/-- Whether a group holds an infinity or a NaN (R227). -/
def groupBad (vs : List FVal) : Bool :=
  vs.any fun v =>
    match v with
    | .fin _ _ _ => false
    | _ => true

/-- The B side of a group (R226 step 1): the mb values and EB. -/
def alignB (vs : List (Nat × FVal)) : List Int × Int :=
  let ws := vs.map (·.2)
  let eb := groupExp vs
  let mb := alignGroup 11 eb ws
  if mb.any fun z => decide (z.natAbs ≥ 4096) then (alignGroup 11 (eb + 1) ws, eb + 1) else (mb, eb)

/-- The activation width of a format (R404). -/
def actWidth (f : Nat) : Nat :=
  match f with
  | 0x10 => 10
  | 0x01 => 8
  | 0x11 => 6
  | _ => 16

/-- The A side of a group (R226 step 2): the ma values and EA. -/
def alignA (afmt : Nat) (vs : List (Nat × FVal)) : List Int × Int :=
  let ea := if afmt = 0x01 then 6 else groupExp vs
  (alignGroup ((actWidth afmt : Int) - 2) ea (vs.map (·.2)), ea)

/-- Σ ma × mb over a group (R226 step 3). -/
def dotInt (a b : List Int) : Int := ((a.zip b).map fun p => p.1 * p.2).foldl (· + ·) 0

/-- One group's contribution in FP32 (R226 step 4, R227): `exa` is EA + SA, `exb` EB + SB. -/
def groupTerm (w : Nat) (p : Int) (exa exb : Int) : Nat :=
  (FFmt.fp32.round (decide (p < 0)) p.natAbs (exa + exb - ((w : Int) - 2) - 11)).bits

/-- C + g in FP32 (R226 step 5); no status is kept (R227). -/
def accAdd (c g : Nat) : Nat := (FFmt.fp32.add c g).bits

/-! ### XACC (R217, R218) -/

/-- The 128-bit two's complement limits of XACC. -/
def xaccMax : Int := 2 ^ 127 - 1
def xaccMin : Int := -(2 ^ 127)

/-- The saturating integer addition of XACC values (R218): the sum, and whether it saturated. -/
def xaccAdd (x a : Int) : Int × Bool :=
  let t := x + a
  if t > xaccMax then (xaccMax, true) else if t < xaccMin then (xaccMin, true) else (t, false)

/-- FADDX of an FP32 addend to an XACC value (R218): the value, and whether the event is counted. -/
def faddx (x : Int) (bits : Nat) : Int × Bool :=
  match FFmt.fp32.decode bits with
  | .nan => (x, true)
  | .inf n => (if n then xaccMin else xaccMax, true)
  | .fin n m e => xaccAdd x (roundInt n m (e + 64))

/-! ### Integer operations (R334 to R336) -/

/-- The result of an element operation: R, C and F (R287), and the conditions of R208. -/
structure Res where
  r : Word := 0
  c : Bool := false
  f : Bool := false
  st : BitVec 3 := 0
  deriving DecidableEq, Repr, Inhabited

/-- The sticky status bits of a floating-point outcome: bit 0 invalid, 1 overflow, 2 divide-by-zero (R208, R421). -/
def FRes.sticky (x : FRes) : BitVec 3 := BitVec.ofNat 3 (bit x.invalid + 2 * bit x.ovf + 4 * bit x.dz)

/-- Whether a code of FMT names an integer format (R205, R221). -/
def intFmt (f : Nat) : Bool := [0x01, 0x02, 0x03, 0x04].contains f

/-- The floating-point format of a code of FMT (R206, R221). -/
def fltFmt (f : Nat) : Option FFmt :=
  match f with
  | 0x08 => some .fp32
  | 0x09 => some .fp16
  | 0x0A => some .bf16
  | _ => none

/-- The sticky bits that the conversion of a value from a format into another sets (R208). T8 and T6 count as floating-point
formats where they are converted into an integer format; log entry 92. -/
def convSticky (src dst : Nat) (v : FVal) : BitVec 3 :=
  match fltFmt dst with
  | some fmt => (fmt.ofVal v).sticky
  | none =>
    if (roundFmt dst v).2 = false then 0
    else if intFmt dst = false then 2
    else if intFmt src = false then 1
    else if fmtBits dst < fmtBits src then 2 else 0

end Sys2Proof.Machine
end

