-- ==== Sys2Proof/Machine/Flags.lean ====
section
/-! DEFINITION. The integer operations with their result R, carry condition C and overflow condition F (R334 to
R337), the conditions of ICMP, and the predicate update of PMODE (R287). -/

namespace Sys2Proof.Machine

/-- Whether an exact signed value lies outside the INT32 range (R334). -/
def outsideInt32 (z : Int) : Bool := decide (z < -(2 ^ 31)) || decide (z > 2 ^ 31 - 1)

/-- ADD and ADDC: a + b + cin, the carry out of bit 31, signed overflow (R334). -/
def addRes (a b : Word) (cin : Bool) : Res :=
  { r := BitVec.ofNat 32 (a.toNat + b.toNat + bit cin), c := decide (a.toNat + b.toNat + bit cin ≥ 2 ^ 32),
    f := outsideInt32 (a.toInt + b.toInt + bit cin) }

/-- SUB and SUBB: a − b − cin, the borrow, signed overflow (R334). -/
def subRes (a b : Word) (cin : Bool) : Res :=
  { r := a - b - BitVec.ofNat 32 (bit cin), c := decide (a.toNat < b.toNat + bit cin),
    f := outsideInt32 (a.toInt - b.toInt - bit cin) }

/-- MUL: the low half of the product; F when the signed product lies outside INT32 (R334). -/
def mulRes (a b : Word) : Res := { r := a * b, f := outsideInt32 (a.toInt * b.toInt) }

/-- MULH (R334). -/
def mulhRes (a b : Word) : Res := { r := BitVec.ofInt 32 (a.toInt * b.toInt / 2 ^ 32) }

/-- MULHU (R334). -/
def mulhuRes (a b : Word) : Res := { r := BitVec.ofNat 32 (a.toNat * b.toNat / 2 ^ 32) }

/-- The most negative INT32 divided by −1 (R335). -/
def divEdge (a b : Word) : Bool := a == 0x80000000 && b == 0xFFFFFFFF

/-- DIV, truncating towards zero (R335). -/
def divRes (a b : Word) : Res :=
  if b = 0 then { r := 0xFFFFFFFF, f := true }
  else if divEdge a b then { r := 0x80000000, f := true }
  else { r := BitVec.ofInt 32 (a.toInt.tdiv b.toInt) }

/-- DIVU (R335). -/
def divuRes (a b : Word) : Res :=
  if b = 0 then { r := 0xFFFFFFFF, f := true } else { r := BitVec.ofNat 32 (a.toNat / b.toNat) }

/-- REM, with the sign of the dividend (R335). -/
def remRes (a b : Word) : Res :=
  if b = 0 then { r := a, f := true }
  else if divEdge a b then { r := 0, f := true }
  else { r := BitVec.ofInt 32 (a.toInt.tmod b.toInt) }

/-- REMU (R335). -/
def remuRes (a b : Word) : Res :=
  if b = 0 then { r := a, f := true } else { r := BitVec.ofNat 32 (a.toNat % b.toNat) }

/-- The shift count of a shift or bit-field operand (R336). -/
def shiftCount (b : Word) : Nat := b.toNat % 32

/-- SHL; C is the last bit shifted out, 0 for a count of 0 (R336). -/
def shlRes (a b : Word) : Res :=
  let sh := shiftCount b
  { r := a <<< sh, c := sh != 0 && a.getLsbD (32 - sh) }

/-- SHR (R336). -/
def shrRes (a b : Word) : Res :=
  let sh := shiftCount b
  { r := a >>> sh, c := sh != 0 && a.getLsbD (sh - 1) }

/-- SRA (R336). -/
def sraRes (a b : Word) : Res :=
  let sh := shiftCount b
  { r := a.sshiftRight sh, c := sh != 0 && a.getLsbD (sh - 1) }

/-- ROT: rotation to the left (R336). -/
def rotRes (a b : Word) : Res := { r := a.rotateLeft (shiftCount b) }

/-- CLZ; C when a = 0 (R336). -/
def clzRes (a : Word) : Res := { r := BitVec.ofNat 32 (32 - bitLen a.toNat), c := a == 0 }

/-- The number of one bits among bits 0 … n − 1. -/
def onesBelow (a : Word) : Nat → Nat
  | 0 => 0
  | n + 1 => onesBelow a n + bit (a.getLsbD n)

/-- POPC (R336). -/
def popcRes (a : Word) : Res := { r := BitVec.ofNat 32 (onesBelow a 32) }

/-- The length of a bit field, b[9:5] + 1 (R336). -/
def fieldLen (b : Word) : Nat := natField b.toNat 5 5 + 1

/-- BFX: bits above bit 31 read as zero (R336). -/
def bfxRes (a b : Word) : Res := { r := BitVec.ofNat 32 (a.toNat / 2 ^ shiftCount b % 2 ^ fieldLen b) }

/-- BFI: bits of the field that would lie above bit 31 are dropped (R336). -/
def bfiRes (a b d : Word) : Res :=
  let mask := BitVec.ofNat 32 ((2 ^ fieldLen b - 1) * 2 ^ shiftCount b)
  { r := (d &&& ~~~mask) ||| (BitVec.ofNat 32 (a.toNat * 2 ^ shiftCount b) &&& mask) }

/-- MIN, MAX, MINU and MAXU with C = 1 when a lies below b (R334). -/
def minRes (a b : Word) : Res := { r := if a.slt b then a else b, c := a.slt b }
def maxRes (a b : Word) : Res := { r := if a.slt b then b else a, c := a.slt b }
def minuRes (a b : Word) : Res := { r := if a.ult b then a else b, c := a.ult b }
def maxuRes (a b : Word) : Res := { r := if a.ult b then b else a, c := a.ult b }

/-- SEL (R334). -/
def selRes (a b : Word) (cin : Bool) : Res := { r := if cin then a else b, c := cin }

/-- The conditions of ICMP: 0 EQ, 1 NE, 2 LT, 3 GE, 4 LTU, 5 GEU, 6 LE, 7 GT (R295). -/
def icmpCond (cc : BitVec 3) (a b : Word) : Bool :=
  match cc.toNat with
  | 0 => a == b
  | 1 => a != b
  | 2 => a.slt b
  | 3 => !a.slt b
  | 4 => a.ult b
  | 5 => !a.ult b
  | 6 => !b.slt a
  | _ => b.slt a

/-- A comparison's result: R is 1 or 0 and C equals it (R295). -/
def cmpRes (t : Bool) : Res := { r := BitVec.ofNat 32 (bit t), c := t }

/-- The bit that PLOG computes: TT[2 × P[a] + P[b]] (R337). -/
def plogBit (pb : BitVec 8) (a b : Nat) (tt : BitVec 5) : Bool :=
  tt.getLsbD (2 * bit (pb.getLsbD a) + bit (pb.getLsbD b))

/-- One bit of the predicate byte set to a value. -/
def setPred (pb : BitVec 8) (i : Nat) (v : Bool) : BitVec 8 :=
  if v then pb ||| (1#8 <<< i) else pb &&& ~~~(1#8 <<< i)

/-- P[PIDX] after PMODE acts on it (R287). -/
def predAfter (pmode : BitVec 3) (p : Bool) (x : Res) : Bool :=
  match pmode.toNat with
  | 0 => p
  | 1 => true
  | 2 => false
  | 3 => !p
  | 4 => x.r == 0
  | 5 => x.r.msb
  | 6 => x.c
  | _ => x.f

/-- The predicate byte after PMODE acts on P[PIDX] (R287). -/
def predUpdate (pb : BitVec 8) (f : Slot) (x : Res) : BitVec 8 :=
  if f.pmode = 0 then pb
  else setPred pb f.pidx.toNat (predAfter f.pmode (pb.getLsbD f.pidx.toNat) x)

/-- The result of a scalar floating-point operation (R338, R339). -/
def fpRes (x : FRes) : Res := { r := BitVec.ofNat 32 x.bits, f := x.invalid || x.ovf, st := x.sticky }

/-- FCVT in the direction that OTAG names (R341). -/
def fcvtRes (fmt : FFmt) (dir : BitVec 3) (a : Word) : Res :=
  let conv (g : FFmt) : Res :=
    if g = fmt then
      { r := BitVec.ofNat 32 (if (fmt.decode a.toNat).isNan then fmt.nanBits else a.toNat % (2 * fmt.signBit)) }
    else fpRes (g.ofVal (fmt.decode a.toNat))
  let toI (lo hi : Int) : Res :=
    let z := toIntSat lo hi (fmt.decode a.toNat)
    { r := BitVec.ofInt 32 z.1, f := z.2, st := BitVec.ofNat 3 (bit z.2) }
  match dir.toNat with
  | 0 => conv .fp32
  | 1 => conv .fp16
  | 2 => conv .bf16
  | 3 => toI (-(2 ^ 31)) (2 ^ 31 - 1)
  | 4 => toI 0 (2 ^ 32 - 1)
  | 5 => fpRes (fmt.ofInt a.toInt)
  | _ => fpRes (fmt.ofInt a.toNat)

end Sys2Proof.Machine
end

