-- ==== Sys2Proof/Machine/Operands.lean ====
section
/-! DEFINITION. Operand and destination codes (R285, R286), channel heads, counters as operands, what registers,
masks, predicates and tile slots an instruction names (R283, R284, R293, R294, R426), the window address of R231
and the element's writes. -/

namespace Sys2Proof.Machine

/-! ### Channels and registers of an element -/

/-- An input channel. -/
def Elem.input (e : Elem) (i : Nat) : Input := mget e.ins i {}

/-- Occ(I_c) of R283. -/
def Elem.occ (e : Elem) (i : Nat) : Nat := (e.input i).q.length

/-- The token at the head of a channel, an empty one where there is none. -/
def Elem.head (e : Elem) (i : Nat) : Token := (e.input i).q.headD {}

/-- A g register (R175). -/
def Elem.greg (e : Elem) (i : Nat) : Word := mget e.g i 0

/-- A constant (R175). -/
def Elem.kreg (e : Elem) (i : Nat) : Word := mget e.k i 0

/-- A window base (R230). -/
def Elem.win (e : Elem) (i : Nat) : BitVec 64 := mget e.w i 0

/-- Changes an input channel. -/
def Elem.updInput (e : Elem) (i : Nat) (f : Input → Input) : Elem := { e with ins := mset e.ins i (f (e.input i)) }

/-- Writes a g register and its taint bit (R284 step 3). -/
def Elem.setG (e : Elem) (i : Nat) (v : Word) (t : Bool) : Elem :=
  { e with g := mput e.g i v 0,
           taint := if t then e.taint ||| (1#16 <<< i) else e.taint &&& ~~~(1#16 <<< i) }

/-- Σ n × STRIDE over the used levels (R180). -/
def ctrSum : List Nat → List Word → Word
  | n :: ns, st :: sts => BitVec.ofNat 32 n * st + ctrSum ns sts
  | _, _ => 0

/-- The value of a counter set (R180). -/
def CtrSet.value (c : CtrSet) : Word := c.base + ctrSum c.n c.stride

/-- A counter set of a cell. -/
def Cell.ctr (c : Cell) (i : Nat) : CtrSet := mget c.ctrs i {}

/-- A counter set of a cell as it stood at the start of the present step, which its reads return (R284, R359). -/
def Cell.ctrOld (c : Cell) (i : Nat) : CtrSet := mget c.ctrs0 i {}

/-- The value of a source operand code (R285). -/
def srcVal (cl : Cell) (e : Elem) (code : BitVec 5) : Word :=
  let n := code.toNat
  if n < 16 then e.greg n
  else if n < 20 then (e.head (n - 16)).val
  else if n < 28 then e.kreg (n - 20)
  else if n = 28 then 0
  else if n = 29 then e.pb.zeroExtend 32
  else if n = 30 then (cl.ctrOld 0).value
  else e.eng

/-- The second source: an immediate when I = 1 (R332). -/
def src2Val (cl : Cell) (e : Elem) (f : Slot) : Word := if f.imm then f.src2.zeroExtend 32 else srcVal cl e f.src2

/-! ### What an instruction names -/

/-- The registers read and written, the predicates, vector registers and masks read or written, the tile slots
read and filled (R283), and whether DST is a result under R286 and may name an output. -/
structure Needs where
  rg : BitVec 16 := 0
  wg : BitVec 16 := 0
  p : BitVec 8 := 0
  v : BitVec 16 := 0
  m : BitVec 4 := 0
  reads : List Nat := []
  fills : List Nat := []
  result : Bool := false
  deriving DecidableEq, Repr, Inhabited

/-- The union of two. -/
def Needs.and (a b : Needs) : Needs :=
  { rg := a.rg ||| b.rg, wg := a.wg ||| b.wg, p := a.p ||| b.p, v := a.v ||| b.v, m := a.m ||| b.m,
    reads := a.reads ++ b.reads, fills := a.fills ++ b.fills, result := a.result || b.result }

/-- One bit of a set of registers. -/
def oneBit (w i : Nat) : BitVec w := 1#w <<< i

/-- A g register read. -/
def rdG (i : Nat) : Needs := { rg := oneBit 16 i }

/-- A g register written. -/
def wrG (i : Nat) : Needs := { wg := oneBit 16 i }

/-- A V register read or written. -/
def useV (i : Nat) : Needs := { v := oneBit 16 i }

/-- A mask read or written. -/
def useM (i : Nat) : Needs := { m := oneBit 4 i }

/-- A predicate read. -/
def useP (i : Nat) : Needs := { p := oneBit 8 i }

/-- A scalar source code (R285). -/
def rdSrc (code : BitVec 5) : Needs :=
  if code.toNat < 16 then rdG code.toNat else if code.toNat = 29 then { p := 0xFF } else {}

/-- The second scalar source. -/
def rdSrc2 (f : Slot) : Needs := if f.imm then {} else rdSrc f.src2

/-- A result destination (R286). -/
def wrDst (code : BitVec 5) : Needs :=
  if code.toNat < 16 then { wg := oneBit 16 code.toNat, result := true }
  else if code.toNat = 29 then { p := 0xFF, result := true } else { result := true }

/-- A vector source: V0 to V15, or a broadcast g register (R294). -/
def rdVec (code : BitVec 5) : Needs := if code.toNat < 16 then useV code.toNat else rdG (code.toNat - 16)

/-- The second vector source. -/
def rdVec2 (f : Slot) : Needs := if f.imm then {} else rdVec f.src2

/-- M0 where OTAG[0] restricts a vector instruction (R294). -/
def maskNeed (f : Slot) : Needs := if f.otag.getLsbD 0 then useM 0 else {}

/-- The pair g_s and g_(s+1). -/
def rdPair (s : Nat) : Needs := (rdG s).and (rdG (s + 1))

/-- The post-increment of the offset register (R290). -/
def postInc (f : Slot) : Needs := if f.imm then wrG f.src1.toNat else {}

/-- The offset operand of a memory instruction (R290). -/
def addrNeed (f : Slot) : Needs := (rdSrc f.src1).and (postInc f)

/-- The tile slot of DST (R292). -/
def dstSlot (f : Slot) : Nat := f.dst.toNat % 8

/-- What the memory and synchronisation class names (R292, R293). -/
def memNeeds (op : Nat) (f : Slot) : Needs :=
  let d := f.dst.toNat
  if op = 0x40 ∨ op = 0x41 ∨ op = 0x42 ∨ op = 0x43 ∨ op = 0x48 then (addrNeed f).and (wrDst f.dst)
  else if op = 0x44 ∨ op = 0x45 ∨ op = 0x46 ∨ op = 0x49 then (addrNeed f).and (rdSrc f.dst)
  else if op = 0x47 ∨ op = 0x4A ∨ op = 0x4C ∨ op = 0x5A then addrNeed f
  else if op = 0x4B ∨ op = 0x53 then {}
  else if op = 0x4D then (rdSrc f.src1).and (wrDst f.dst)
  else if op = 0x4E then (rdSrc f.src1).and (rdSrc2 f)
  else if op = 0x4F then rdSrc f.src1
  else if op = 0x50 then ((addrNeed f).and (rdG (f.src1.toNat + 1))).and { fills := [dstSlot f] }
  else if op = 0x51 then (addrNeed f).and { reads := [dstSlot f] }
  else if op = 0x52 then (addrNeed f).and (rdG (f.src1.toNat + 1))
  else if op = 0x54 then (wrDst f.dst).and (rdSrc2 f)
  else if op = 0x55 ∨ op = 0x57 then (rdSrc f.src1).and (rdSrc f.dst)
  else if op = 0x56 ∨ op = 0x58 ∨ op = 0x59 then (rdSrc f.src1).and (wrDst f.dst)
  else if op < 0x68 then
    ((addrNeed f).and ((rdG d).and (wrG d))).and (if op = 0x67 then rdG (d + 1) else {})
  else if op < 0x70 then (addrNeed f).and (rdSrc f.dst)
  else ((addrNeed f).and ((rdG d).and ((rdG (d + 1)).and (rdG (d + 2))))).and (if op = 0x77 then rdG (d + 3) else {})

/-- What a vector instruction names (R393). -/
def vecNeeds (op : Nat) (f : Slot) : Needs :=
  let d := f.dst.toNat
  let m := maskNeed f
  if op = 0x89 then ((useM (d % 4)).and m).and ((rdVec f.src1).and (rdVec2 f))
  else if op = 0x87 ∨ op = 0x88 ∨ op = 0x93 ∨ (0x95 ≤ op ∧ op ≤ 0x98) ∨ op = 0x9B then
    ((useV d).and m).and (rdVec f.src1)
  else if op = 0x8A then ((useV d).and (useM 0)).and ((rdVec f.src1).and (rdVec2 f))
  else if op = 0x99 ∨ op = 0x9A then ((wrDst f.dst).and m).and (rdVec f.src1)
  else if op = 0x9E then (wrDst f.dst).and ((rdVec f.src1).and (rdVec2 f))
  else if op = 0xA0 ∨ op = 0xA1 then
    (((useV d).and m).and (rdVec f.src1)).and (if f.imm then wrG (f.src1.toNat - 16) else {})
  else if op = 0xA2 ∨ op = 0xA3 then ((useV d).and m).and (rdVec f.src1)
  else if op = 0xA4 then
    let k := f.src2.toNat % 4
    match f.src2.toNat / 4 with
    | 0 => (wrDst f.dst).and (useM k)
    | 1 => (wrDst f.dst).and (useM k)
    | 2 => (useM k).and (rdVec f.src1)
    | 3 => (useM k).and (rdVec f.src1)
    | 4 => (useM k).and (useM (f.src1.toNat % 4))
    | 5 => (useM k).and (useM (f.src1.toNat % 4))
    | _ => useM k
  else if op = 0xA5 then (useV d).and (rdVec f.src1)
  else if op = 0xA6 then useV d
  else ((useV d).and m).and ((rdVec f.src1).and (rdVec2 f))

/-- What a matrix, converter, scan, query or DDA instruction names (R404, R415, R418 to R421, R426). -/
def engNeeds (op : Nat) (f : Slot) : Needs :=
  let d := f.dst.toNat
  if op = 0xC0 then rdSrc f.src1
  else if op = 0xC1 then { reads := if f.dst.getLsbD 3 then [dstSlot f, dstSlot f + 1] else [dstSlot f] }
  else if op = 0xC2 then (rdSrc f.src1).and (rdSrc f.src2)
  else if op = 0xC3 then rdSrc f.src1
  else if op = 0xC4 then (useV d).and (rdSrc f.src1)
  else if op = 0xC5 then (rdSrc f.src1).and { fills := [dstSlot f] }
  else if op = 0xC6 then (rdSrc f.src1).and { reads := [dstSlot f] }
  else if op = 0xC7 ∨ op = 0xC9 ∨ op = 0xCB ∨ op = 0xCD then wrDst f.dst
  else if op = 0xC8 then ((wrDst f.dst).and (rdSrc f.src1)).and (rdSrc2 f)
  else if op = 0xCA then rdPair f.src1.toNat
  else if op = 0xCC then (wrDst f.dst).and (rdSrc f.src1)
  else if op = 0xD0 ∨ op = 0xD4 then rdPair f.src1.toNat
  else if op = 0xD1 ∨ op = 0xD8 then
    if f.dst.getLsbD 3 then { reads := [dstSlot f] } else rdSrc f.src1
  else if op = 0xD7 then if f.dst.getLsbD 3 then { fills := [dstSlot f] } else rdSrc f.src1
  else if op = 0xD2 ∨ op = 0xD3 ∨ op = 0xDB then (rdSrc f.src1).and (rdSrc2 f)
  else if op = 0xD9 then (rdSrc f.src1).and (if f.imm then useV d else wrDst f.dst)
  else if op = 0xDA then (rdSrc f.src1).and (wrDst f.dst)
  else if op = 0xDC then wrDst f.dst
  else {}

/-- What a system instruction names (R342). -/
def sysNeeds (op : Nat) (f : Slot) : Needs :=
  let d := f.dst.toNat
  if op = 0xF0 then ((wrDst f.dst).and (rdSrc f.src1)).and (rdSrc2 f)
  else if op = 0xF1 ∨ op = 0xF4 ∨ op = 0xFB ∨ op = 0xFC then wrDst f.dst
  else if op = 0xF2 ∨ op = 0xF3 then (wrG d).and (wrG (d + 1))
  else if op = 0xF5 then rdSrc2 f
  else if op = 0xF6 then (rdPair f.src1.toNat).and (rdSrc2 f)
  else if op = 0xF7 then (rdSrc f.src1).and (rdSrc2 f)
  else if op = 0xF8 then (wrDst f.dst).and (rdSrc2 f)
  else if op = 0xF9 then rdPair f.src1.toNat
  else if op = 0xFA then rdSrc f.src1
  else if op = 0xFF then (rdSrc f.src1).and (rdSrc2 f)
  else {}

/-- What an integer or scalar floating-point instruction names (R334, R337, R339). -/
def aluNeeds (op : Nat) (f : Slot) : Needs :=
  if op = 0x00 then {}
  else if op = 0x1F then
    (useP (f.src1.toNat % 8)).and ((useP (f.dst.toNat % 8)).and (useP f.pidx.toNat))
  else if op = 0x01 ∨ op = 0x15 ∨ op = 0x16 ∨ 0x3C ≤ op then (wrDst f.dst).and (rdSrc f.src1)
  else
    let base := ((wrDst f.dst).and (rdSrc f.src1)).and (rdSrc2 f)
    if op = 0x18 ∨ (0x2C ≤ op ∧ op < 0x30) then base.and (rdG f.dst.toNat)
    else if op = 0x03 ∨ op = 0x05 ∨ op = 0x1D then base.and (useP f.pidx.toNat)
    else base

/-- What an instruction of opcode `op` names, the predicate of PMODE included. -/
def needsOf (op : Nat) (f : Slot) : Needs :=
  let base :=
    if op < 0x40 then aluNeeds op f
    else if op < 0x80 then memNeeds op f
    else if op < 0xC0 then vecNeeds op f
    else if op < 0xF0 then engNeeds op f
    else sysNeeds op f
  if f.pmode = 0 then base else base.and (useP f.pidx.toNat)

/-- Whether the firing reads a tainted register (R243, R332). -/
def tainted (e : Elem) (nd : Needs) : Bool := (e.taint &&& nd.rg) != 0

/-! ### Window addresses -/

/-- Why an address fails, in the order of R231, with CODE, SUB and INFO of R256. -/
structure AddrFault where
  code : Nat := 0
  sub : Nat := 0
  info : Nat := 0
  deriving DecidableEq, Repr, Inhabited

/-- Where an access goes: a byte offset in a memory cell's scratchpad, or a virtual address. -/
structure Target where
  spad : Option Nat := none
  ea : Nat := 0
  deriving DecidableEq, Repr, Inhabited

/-- The size code of an access of `n` bytes, 0 byte, 1 half, 2 word (R291), and on by powers of two; log entry 18. -/
def sizeCode (n : Nat) : Nat := Nat.log2 n

/-- The address of R231 from a window, a 32-bit offset and an access size in bytes, for an element of cell `c` in
a gang of the task `t`: BOUNDS, SPAD_CELL, BAD_WINDOW, ALIGN, in that order. -/
def windowAddr (t : Task) (c : Nat) (n : Nat) (w : BitVec 64) (off : Word) (size : Nat) : Except AddrFault Target :=
  if w.getLsbD 63 then
    let o := natField w.toNat 0 20 + off.toNat
    let cx := natField w.toNat 53 3
    let cy := natField w.toNat 50 3
    let rel := w.getLsbD 62
    let x := if rel then cx else t.x0 + cx
    let y := if rel then cy else t.y0 + cy
    let cell := roomCell (roomOf c) x y
    if o ≥ 2 ^ 20 then .error { code := 0x02, sub := n, info := off.toNat }
    else if (!rel && (decide (cx ≥ t.width) || decide (cy ≥ t.height))) || kindOf cell != .memory then
      .error { code := 0x03, sub := n, info := 8 * cx + cy }
    else if natField w.toNat 56 6 != 0 || natField w.toNat 20 30 != 0 then
      .error { code := 0x04, sub := n, info := w.toNat }
    else if o % size ≠ 0 then .error { code := 0x05, sub := sizeCode size, info := o }
    else .ok { spad := some cell, ea := o }
  else
    let ea := (natField w.toNat 0 48 + off.toNat) % 2 ^ 48
    if natField w.toNat 48 15 != 0 then .error { code := 0x04, sub := n, info := w.toNat }
    else if ea % size ≠ 0 then .error { code := 0x05, sub := sizeCode size, info := ea }
    else .ok { ea := ea }

/-! ### Lanes of a vector register (R212, R391) -/

/-- The width of a lane of a type code, 0 FP32, 1 FP16, 2 BF16, 3 INT32 (R294). -/
def laneBits (ty : Nat) : Nat := if ty = 1 ∨ ty = 2 then 16 else 32

/-- The lane count of a type (R391). -/
def laneCount (ty : Nat) : Nat := if ty = 1 ∨ ty = 2 then 64 else 32

/-- The lane type of an instruction, OTAG[2:1] (R294). -/
def laneType (f : Slot) : Nat := natField f.otag.toNat 1 2

/-- The lanes of a register (R212). -/
def lanesOf (ty : Nat) (v : BitVec 1024) : List Nat :=
  (upTo (laneCount ty)).map fun i => natField v.toNat (laneBits ty * i) (laneBits ty)

end Sys2Proof.Machine
end

