-- ==== Sys2Proof/Machine/Memory.lean ====
section
/-! DEFINITION. The levels of memory and their homes (R10 to R15, R229), raw access to bytes and block tags,
translation (R233 to R235, R266), bindings (R236, R237), atomic sets by address (R164), the words of a scratchpad
(R157, R158, R186, R187), the lines of a vestibule (R154 to R156), and the logs kept in host memory (R150). -/

namespace Sys2Proof.Machine

/-! ### Physical memory -/

/-- The levels of a physical address (R13, R229). -/
inductive Level where
  | landing | cellar | attic | host | remote | reserved
  deriving DecidableEq, Repr

/-- The device number of a domain physical address (R12). -/
def devOf (pa : Nat) : Nat := natField pa 44 13

/-- The local physical address (R12). -/
def localOf (pa : Nat) : Nat := pa % 2 ^ 44

/-- The level of a local address (R13). -/
def localLevel (l : Nat) : Level :=
  if l < 0x0C000000000 then .cellar
  else if l < 0x10000000000 then .reserved
  else if l < 0x40000000000 then .attic
  else if l < 0x80000000000 then .reserved
  else if l < 0x80020000000 then .landing
  else if l < 0xC0000000000 then .reserved
  else if l < 0xF0000000000 then .host
  else .reserved

/-- The level of a domain physical address as this device sees it (R12, R13). -/
def State.level (s : State) (pa : Nat) : Level :=
  if localLevel (localOf pa) = .reserved then .reserved
  else if devOf pa = s.devNum then localLevel (localOf pa) else .remote

/-- The access row of a level (R136, R137, R15). -/
def levelRow : Level → Nat
  | .landing => 16
  | .cellar => 24
  | .attic => 40
  | .host => 40
  | .remote => 48
  | .reserved => 16

/-- The address in host memory that a host-window address reaches (R487). -/
def hostAddr (l : Nat) : Nat := Config.linkToHost (l - 0xC0000000000)

/-- One byte at a physical address. -/
def State.physByte (s : State) (pa : Nat) : Byte :=
  if s.level pa = .host then s.hostMem.read (hostAddr (localOf pa)) else s.mem.read pa

/-- `n` bytes from a physical address. -/
def State.physBytes (s : State) (pa n : Nat) : List Byte := (upTo n).map fun i => s.physByte (pa + i)

/-- Writes one byte at a physical address. -/
def State.putPhys (s : State) (pa : Nat) (b : Byte) : State :=
  if s.level pa = .host then { s with hostMem := s.hostMem.write (hostAddr (localOf pa)) b }
  else { s with mem := s.mem.write pa b }

/-- Writes bytes from a physical address up. -/
def State.putBytes (s : State) (pa : Nat) : List Byte → State
  | [] => s
  | b :: bs => (s.putPhys pa b).putBytes (pa + 1) bs

/-- Writes the bytes of a list that a mask selects. -/
def State.putMasked (s : State) (pa : Nat) (mask : BitVec 64) (data : BitVec 512) : State :=
  foldState (upTo 64) s fun i st =>
    if mask.getLsbD i then st.putPhys (pa + i) (BitVec.ofNat 8 (natField data.toNat (8 * i) 8)) else st

/-- A little-endian number at a physical address. -/
def State.physLE (s : State) (pa n : Nat) : Nat := bytesToNat (s.physBytes pa n)

/-- The tag of the block at a physical address; host memory carries none (R220). -/
def State.physTag (s : State) (pa : Nat) : BitVec 16 := mget s.tags (pa / 64) 0

/-- Writes the tag of a block (R220). -/
def State.putTag (s : State) (pa : Nat) (t : BitVec 16) : State :=
  if s.level pa = .host then s else { s with tags := mput s.tags (pa / 64) t 0 }

/-- A block with its tag at a physical address. -/
def State.physBlock (s : State) (pa : Nat) : Block :=
  { data := BitVec.ofNat 512 (s.physLE (pa / 64 * 64) 64), tag := s.physTag pa }

/-- Writes a whole block with its tag. -/
def State.putBlock (s : State) (pa : Nat) (b : Block) : State :=
  (s.putBytes (pa / 64 * 64) (natToBytes 64 b.data.toNat)).putTag pa b.tag

/-- The wing of a home, none for an attic controller, the host or another device (R8, R219). -/
def State.homeWing (s : State) (pa : Nat) : Option Nat :=
  match s.level pa with
  | .landing => some ((localOf pa - 0x80000000000) / 0x8000000)
  | .cellar => some (localOf pa / 0x03000000000)
  | _ => none

/-- The stack of its wing that holds a cellar address (R11): 4 KiB units of the wing's range go to the three stacks in turn. -/
def stackOf (pa : Nat) : Nat := localOf pa % 0x03000000000 / 4096 % 3

/-- The slice of a landing address (R10): bits [12:8] of its landing offset. -/
def sliceOf (pa : Nat) : Nat := localOf pa / 256 % 32

/-- The number of the home of a local address of a level (R10, R11): the landing slices of the wings, the controllers of the cellar
stacks, the attic; none for the host. -/
def homeAt (level : Level) (pa : Nat) : Option Nat :=
  match level with
  | .landing => some (32 * ((localOf pa - 0x80000000000) / 0x8000000) + sliceOf pa)
  | .cellar => some (128 + 3 * (localOf pa / 0x03000000000) + stackOf pa)
  | .attic => some 140
  | _ => none

/-- The number of the home of an address of this device; none for the host and another device. -/
def State.homeOf (s : State) (pa : Nat) : Option Nat := homeAt (s.level pa) pa

/-- The home number of the scratchpad of a cell. -/
def spadHome (c : Nat) : Nat := 256 + c

/-- The words of a scratchpad that a range of bytes touches. -/
def wordsIn (a n : Nat) : List Nat := (upTo ((a % 4 + n + 3) / 4)).map fun i => a / 4 + i

/-- Whether two ranges of addresses meet. -/
def overlaps (a la b lb : Nat) : Bool := decide (a < b + lb) && decide (b < a + la)

/-- Whether a local range overlaps the queue pool or the context pool (R112). -/
def State.inPools (s : State) (l n : Nat) : Bool :=
  (upTo 4).any (fun w => overlaps l n (0x80000000000 + 0x8000000 * w + s.sched.qpoolOff) (s.sched.qcap * 96))
    || overlaps l n s.sched.cpoolBase s.sched.cpoolSize

/-! ### Logs in host memory -/

/-- The number of records of a log or ring of a size code (R59, R150); 0 disables it. -/
def ringSize (sz : Nat) : Nat := if sz ≤ 10 then 64 * 2 ^ sz else 0

/-- Appends a record to a log of host memory (R150). -/
def State.appendLog (s : State) (lg : HostLog) (recLen : Nat) (bytes : List Byte) : HostLog × State :=
  if lg.en && ringSize lg.sz != 0 then
    ({ lg with prod := (lg.prod + 1) % 2 ^ 32 },
     { s with hostMem := s.hostMem.writeBytes (lg.base + recLen * (lg.prod % ringSize lg.sz)) bytes })
  else (lg, s)

/-- Bytes of the fields of a record, each a width in bytes and a value. -/
def recBytes (fs : List (Nat × Nat)) : List Byte := fs.flatMap fun p => natToBytes p.1 p.2

/-- Who makes an access at a home, for the home watchpoints (R280). -/
structure Agent where
  kind : Nat := 0
  elem : Nat := 0xFF
  x : Nat := 0xFF
  y : Nat := 0xFF
  dev : Nat := 0
  tag : Nat := 0xFFFF
  age : Nat := 0
  deriving DecidableEq, Repr, Inhabited

/-- The agent for an element of a task (R280). -/
def State.elemAgent (s : State) (kind : Nat) (t : Task) (c e : Nat) : Agent :=
  { kind := kind, elem := e, x := cellX c, y := cellY c, dev := s.devNum, tag := t.tag, age := t.age }

/-- Whether a home watchpoint matches an access (R279). -/
def watchHit (w : BitVec 64) (l n : Nat) (wr : Bool) : Bool :=
  let size := 64 * 2 ^ natField w.toNat 0 6
  let base := natField w.toNat 6 38 * 64 / size * size
  w.getLsbD 63 && (if wr then w.getLsbD 61 else w.getLsbD 62) && overlaps l n base size

/-- The homes of this device that a physical range touches, of landing, cellar and attic (R10, R11, R13). -/
def State.homesIn (s : State) (pa n : Nat) : List Nat :=
  ((upTo (n / 256 + 2)).filterMap fun i =>
    let a := max pa ((pa / 256 + i) * 256)
    if a < pa + max n 1 then s.homeOf a else none).eraseDups

/-- The landing slices that a physical range touches (R10). -/
def State.slicesOf (s : State) (pa n : Nat) : List Nat := (s.homesIn pa n).filter fun h => decide (h < 128)

/-- The slices of a range have an access in this tick (R44). -/
def State.useRange (s : State) (pa n : Nat) : State :=
  { s with power := { s.power with
      sliceUse := (s.slicesOf pa n).foldl (fun m k => mset m k s.clock.tick) s.power.sliceUse } }

/-- The slices of some ranges have an access in this tick. -/
def State.useRanges (s : State) (ps : List (Nat × Nat)) : State := foldState ps s fun p st => st.useRange p.1 p.2

/-- Whether an array is in retention (R44, R45). -/
def State.retained (s : State) (a : RetArray) : Bool := s.power.retained.contains a

/-- The arrays in retention that a physical range touches (R45). -/
def State.retainedIn (s : State) (pa n : Nat) : List RetArray :=
  ((s.slicesOf pa n).map fun k => RetArray.slice (k / 32) (k % 32)).filter s.retained

/-- The exit of some arrays from retention begins (R45). -/
def State.beginExit (s : State) (as : List RetArray) : State :=
  { s with power := { s.power with exiting := s.power.exiting ++ as.filter fun a => s.retained a && !s.power.exiting.contains a } }

/-- The home watchpoints after an access at a landing slice or cellar controller: one record a hit (R279, R280). -/
def State.homeWatch (s : State) (pa n : Nat) (wr : Bool) (ag : Agent) : State :=
  match s.homeWing pa with
  | none => s
  | some w =>
    foldState (upTo 16) (s.useRange pa n) fun i st =>
      if watchHit (mget st.logs.watch (16 * w + i) 0) (localOf pa) n wr then
        let rec' := recBytes [(8, localOf pa), (1, 16 * w + i), (1, ag.kind), (1, bit wr), (1, ag.elem), (1, ag.x),
          (1, ag.y), (2, ag.dev), (2, ag.tag), (6, 0), (8, ag.age)]
        let r := st.appendLog st.logs.wlog 32 rec'
        { r.2 with logs := { r.2.logs with wlog := r.1 } }
      else st

/-! ### Translation -/

/-- A page that a walk finds (R233). -/
structure Page where
  base : Nat := 0
  size : Nat := 0
  pa : Nat := 0
  wr : Bool := false
  deriving DecidableEq, Repr

/-- Whether a physical page may be mapped (R14). -/
def State.pageOk (s : State) (pa size : Nat) : Bool :=
  localLevel (localOf pa) != .reserved && localLevel (localOf pa) == localLevel (localOf (pa + size - 1))
    && !(devOf pa == s.devNum && s.inPools (localOf pa) size)

/-- One level of the walk and those below it: index bits and page sizes are those of R233. -/
def State.walkFrom (s : State) (table va : Nat) : List (Nat × Nat × Nat) → Option Page
  | [] => none
  | (lo, len, next) :: rest =>
    let e := s.physLE (table + 8 * natField va lo len) 8
    let ad := natField e 8 49 * 256
    if !natBit e 63 || natField e 57 4 != 0 || natField e 0 8 != 0 then none
    else if natBit e 62 then
      if ad % 2 ^ lo = 0 ∧ s.pageOk ad (2 ^ lo) then
        some { base := va / 2 ^ lo * 2 ^ lo, size := 2 ^ lo, pa := ad, wr := natBit e 61 }
      else none
    else if rest.isEmpty then none
    else if ad % next ≠ 0 ∨ !s.pageOk ad next then none
    else s.walkFrom ad va rest

/-- The addresses of the table entries that a walk reads, from one level down. -/
def State.walkReads (s : State) (table va : Nat) : List (Nat × Nat × Nat) → List Nat
  | [] => []
  | (lo, len, _) :: rest =>
    let a := table + 8 * natField va lo len
    let e := s.physLE a 8
    a :: (if natBit e 63 && !natBit e 62 then s.walkReads (natField e 8 49 * 256) va rest else [])

/-- The table entries that the walk of an address reads, in order (R233); none in an address space that is disabled (R234). -/
def State.walkList (s : State) (asid va : Nat) : List Nat :=
  let root := mget s.logs.roots asid 0
  if root.getLsbD 0 then s.walkReads (natField root.toNat 20 37 * 2 ^ 20) va [(31, 17, 8192), (21, 10, 256), (16, 5, 1)] else []

/-- The poisoned block of a table that the walk of an address reads first (R224). -/
def State.walkPoison (s : State) (asid va : Nat) : Option Nat :=
  ((s.walkList asid va).find? fun a => tagPoison (s.physTag a)).map fun a => a / 64 * 64

/-- The array in retention that a walk meets first: it waits there for the exit (R45). -/
def State.walkAsleep (s : State) (asid va : Nat) : List RetArray :=
  ((s.walkList asid va).map fun a => s.retainedIn a 8).find? (fun l => !l.isEmpty) |>.getD []

/-- The landing slices that hold the tables of a walk have an access (R44). -/
def State.walkUse (s : State) (asid va : Nat) : State := foldState (s.walkList asid va) s fun a st => st.useRange a 8

/-- The walk of an address space (R233, R234); none where the page is not present. -/
def State.walk (s : State) (asid va : Nat) : Option Page :=
  let root := mget s.logs.roots asid 0
  if root.getLsbD 0 then
    s.walkFrom (natField root.toNat 20 37 * 2 ^ 20) va [(31, 17, 8192), (21, 10, 256), (16, 5, 1)]
  else none

/-- Whether a cached translation covers an address. -/
def Tlb.covers (t : Tlb) (asid va : Nat) : Bool := t.asid == asid && va / t.size == t.va / t.size

/-- The cached translation of a room (R266). -/
def Room.tlbFind (r : Room) (asid va : Nat) : Option Tlb := r.tlb.find? fun t => t.covers asid va

/-- The physical address of a cached translation. -/
def Tlb.phys (t : Tlb) (va : Nat) : Nat := t.pa + va % t.size

/-- Enters a page into a room's cache of 4,096 entries; the oldest entry leaves a full one (R266); log entry 19. -/
def Room.tlbEnter (r : Room) (asid : Nat) (p : Page) : Room :=
  let kept := r.tlb.filter fun t => !t.covers asid p.base
  let room := if kept.length ≥ 4096 then kept.drop 1 else kept
  { r with tlb := room ++ [{ asid := asid, va := p.base, size := p.size, pa := p.pa, wr := p.wr }] }

/-! ### Bindings -/

/-- The uses that a binding permits or refuses (R236, R237). Every read of data is a load and every write a
store; full/empty operations carry their opcode. -/
inductive Use where
  | load | store | red | acq | atom | full (op : Nat) | queue
  deriving DecidableEq, Repr

/-- Whether a kind permits a use, for a task of the tag in `tag` (R236, R237). -/
def bindPermits (k : BindKind) (spad : Bool) (obj tag : Nat) (u : Use) : Bool :=
  match k, spad with
  | .guardedSet, _ => [Use.load, .store, .red, .acq].contains u
  | .guardedWord, _ => [Use.load, .store, .red].contains u
  | .priv, _ => [Use.load, .store, .red].contains u
  | .unguarded, _ => [Use.load, .store, .red].contains u
  | .escape, _ => [Use.load, .atom, .red].contains u
  | .stream, _ => if tag = obj then [Use.load, .store, .red].contains u else u == .load
  | .fe, _ =>
    match u with
    | .load => true
    | .store => true
    | .full _ => true
    | .queue => true
    | _ => false
  | .streamOnce, true => [Use.load, .full 0x42, .full 0x48, .full 0x45, .full 0x47].contains u
  | .streamOnce, false => u == .load

/-- The code of a binding kind (R323). -/
def bindCode : BindKind → Nat
  | .guardedSet => 0
  | .guardedWord => 1
  | .fe => 2
  | .priv => 3
  | .escape => 4
  | .unguarded => 5
  | .stream => 6
  | .streamOnce => 7

/-- The containers whose bindings and sets apply to a task: its own first, then the others of its address space. -/
def State.ctnsOf (s : State) (t : Task) : List Container :=
  let own := s.ctn (s.handlerOf t).ctn
  own :: s.ctns.filter fun k => k.id != own.id && k.asid == own.asid

/-- The records that apply to a target: for a scratchpad word of the gang those of the own container (R232), for a
virtual address those of the address space. -/
def State.bindsFor (s : State) (t : Task) (tg : Target) : List Bind :=
  match tg.spad with
  | some c =>
    if t.holds c then
      (s.ctn (s.handlerOf t).ctn).binds.filter fun b => b.spad && t.cellAt b.cx b.cy == c
    else []
  | none => (s.ctnsOf t).flatMap fun k => k.binds.filter fun b => !b.spad

/-- The binding that covers one byte. -/
def State.bindAt (s : State) (t : Task) (tg : Target) : Option Bind :=
  (s.bindsFor t tg).find? fun b => decide (b.start ≤ tg.ea) && decide (tg.ea < b.start + b.len)

/-- The kind of the binding that covers one byte, PRIVATE or FE where none does (R236). -/
def State.bindKindAt (s : State) (t : Task) (tg : Target) : BindKind × Nat :=
  match s.bindAt t tg with
  | some b => (b.kind, b.obj)
  | none => (if tg.spad.isSome then .fe else .priv, 0)

/-- The offsets in a range at which the binding may change: its start, and where a binding starts or ends in it. -/
def State.bindCuts (s : State) (t : Task) (tg : Target) (len : Nat) : List Nat :=
  let off (a : Nat) : Nat := if tg.spad.isSome then (if tg.ea ≤ a then a - tg.ea else len) else (a + 2 ^ 48 - tg.ea % 2 ^ 48) % 2 ^ 48
  (0 :: (s.bindsFor t tg).flatMap fun b => [off b.start, off (b.start + b.len)]).filter fun o => decide (o < len)

/-- The target `i` bytes up; virtual addresses wrap (R231). -/
def Target.up (tg : Target) (i : Nat) : Target :=
  { tg with ea := if tg.spad.isSome then tg.ea + i else (tg.ea + i) % 2 ^ 48 }

/-- The check of R237 for every byte of a range: the code of the kind that refuses the use at the lowest offset, and its
address. -/
def State.bindCheck (s : State) (t : Task) (tg : Target) (len : Nat) (u : Use) : Option AddrFault :=
  let bad (o : Nat) : Bool :=
    let k := s.bindKindAt t (tg.up o)
    !bindPermits k.1 tg.spad.isSome k.2 t.tag u
  match (s.bindCuts t tg len).filter bad with
  | [] => none
  | o :: os =>
    let a := tg.up (os.foldl min o)
    some { code := 0x06, sub := bindCode (s.bindKindAt t a).1, info := a.ea }

/-- Whether a virtual address lies in an UNGUARDED-bound region (R237). -/
def State.unguardedAt (s : State) (t : Task) (ea : Nat) : Bool := (s.bindKindAt t { ea := ea }).1 == .unguarded

/-- Whether a task is GUARDED (R168). -/
def State.isGuarded (s : State) (t : Task) : Bool := !(s.entryOf t).unguarded

/-! ### Atomic sets by address -/

/-- The set of a container that holds one of the bytes of a virtual range, with its container (R164). -/
def State.setAt (s : State) (t : Task) (ea len : Nat) : Option (Nat × Nat) :=
  (s.ctnsOf t).findSome? fun k =>
    (k.sets.find? fun st => st.ranges.any fun r => overlaps ea len r.1 r.2).map fun st => (k.id, st.n)

/-- The sets of which a range touches a byte, lowest address first (R164: ranges are 64-byte-aligned; R165). -/
def State.setsIn (s : State) (t : Task) (ea len : Nat) : List (Nat × Nat) :=
  ((upTo ((len + 63) / 64 + 1)).filterMap fun i =>
    let a := max ea ((ea / 64 + i) * 64)
    if a < ea + max len 1 then s.setAt t a 1 else none).eraseDups

/-- The lowest address of a set: the home of its lock entry (R164). -/
def State.setBase (s : State) (c n : Nat) : Nat :=
  (((s.ctn c).sets.filter fun k => k.n == n).flatMap fun k => k.ranges.map (·.1)).foldl min (2 ^ 48)

/-! ### Words of a scratchpad -/

/-- The value of a word. -/
def Spad.word (p : Spad) (w : Nat) : Word := BitVec.ofNat 32 (p.bytes.readLE (4 * w) 4)

/-- The state of a word (R186). -/
def Spad.wst (p : Spad) (w : Nat) : WordSt := mget p.words w {}

/-- The task for which a word is tentative (R157). -/
def Spad.tentBy (p : Spad) (w : Nat) : Option Nat := mfind p.tent w

/-- The undo entry of a word. -/
def Spad.undoOf (p : Spad) (w : Nat) : Option (Word × WordSt) :=
  p.undo.findSome? fun u =>
    match u with
    | .word _ w' v st => if w' = w then some (v, st) else none
    | .btag _ _ _ => none

/-- The committed value of a word: what a vanish would restore (R384, R385). -/
def Spad.committed (p : Spad) (w : Nat) : Word :=
  if (p.tentBy w).isSome then ((p.undoOf w).map (·.1)).getD (p.word w) else p.word w

/-- Whether a word is tentative for another task than the viewer; an agent that is no task views with none (R158). -/
def Spad.hidden (p : Spad) (w : Nat) (viewer : Option Nat) : Bool :=
  match p.tentBy w with
  | none => false
  | some t => viewer != some t

/-- The value of a word as a viewer sees it (R158). -/
def Spad.viewWord (p : Spad) (w : Nat) (viewer : Option Nat) : Word :=
  if p.hidden w viewer then ((p.undoOf w).map (·.1)).getD (p.word w) else p.word w

/-- The state of a word as a viewer sees it: empty to every other task while tentative (R158). -/
def Spad.viewSt (p : Spad) (w : Nat) (viewer : Option Nat) : WordSt := if p.hidden w viewer then {} else p.wst w

/-- Whether a word reads as full: an ordinary full word, or a counting word whose count has reached its target
(R187). -/
def wordFull (st : WordSt) (v : Word) : Bool := if st.counting then decide (v.toNat ≥ st.tgt) else st.full

/-- Bytes of a scratchpad as a viewer sees them. -/
def Spad.viewBytes (p : Spad) (a n : Nat) (viewer : Option Nat) : List Byte :=
  (upTo n).map fun i =>
    let b := a + i
    if p.hidden (b / 4) viewer then BitVec.ofNat 8 (natField (p.viewWord (b / 4) viewer).toNat (8 * (b % 4)) 8)
    else p.bytes.read b

/-- The tag of a block of a scratchpad as a viewer sees it (R157, R158). -/
def Spad.viewTag (p : Spad) (blk : Nat) (viewer : Option Nat) : BitVec 16 :=
  match p.undo.findSome? (fun u =>
    match u with
    | .btag t b old => if b = blk ∧ viewer ≠ some t then some old else none
    | .word _ _ _ _ => none) with
  | some old => old
  | none => mget p.tags blk 0

/-- A block of a scratchpad with its tag as a viewer sees it. -/
def Spad.viewBlock (p : Spad) (blk : Nat) (viewer : Option Nat) : Block :=
  { data := BitVec.ofNat 512 (bytesToNat (p.viewBytes (64 * blk) 64 viewer)), tag := p.viewTag blk viewer }

/-- Writes a word's value and state in place. -/
def Spad.setWord (p : Spad) (w : Nat) (v : Word) (st : WordSt) : Spad :=
  { p with bytes := p.bytes.writeLE (4 * w) 4 v.toNat, words := mput p.words w st {} }

/-- The writer of a scratchpad word: a GUARDED task, whose writes are tentative and logged, or an immediate writer
(R157, R168, R376). -/
abbrev Writer := Option Nat

/-- Appends the undo entry of a first write; none when the log of 8,192 entries is full (R157). -/
def Spad.logWord (p : Spad) (w : Nat) : Writer → Option Spad
  | none => some p
  | some t =>
    if p.tentBy w = some t then some p
    else if p.undo.length ≥ 8192 then none
    else some { p with tent := mset p.tent w t, undo := p.undo ++ [.word t w (p.word w) (p.wst w)] }

/-- Writes a word under R157; none when the undo log is full. -/
def Spad.write (p : Spad) (wr : Writer) (w : Nat) (v : Word) (st : WordSt) : Option Spad :=
  (p.logWord w wr).map fun q => q.setWord w v st

/-- Writes the tag of a block under R157. -/
def Spad.writeTag (p : Spad) (wr : Writer) (blk : Nat) (t : BitVec 16) : Option Spad :=
  match wr with
  | none => some { p with tags := mput p.tags blk t 0 }
  | some k =>
    let logged := p.undo.any fun u =>
      match u with
      | .btag k' b _ => k' == k && b == blk
      | .word _ _ _ _ => false
    if logged then some { p with tags := mput p.tags blk t 0 }
    else if p.undo.length ≥ 8192 then none
    else some { p with tags := mput p.tags blk t 0, undo := p.undo ++ [.btag k blk (mget p.tags blk 0)] }

/-- Writes one byte of a word, its state kept (R366). -/
def Spad.writeByte (p : Spad) (wr : Writer) (a : Nat) (b : Byte) : Option Spad :=
  (p.logWord (a / 4) wr).map fun q => { q with bytes := q.bytes.write a b }

/-- Writes bytes, their words' states kept. -/
def Spad.writeBytes (p : Spad) (wr : Writer) (a : Nat) : List Byte → Option Spad
  | [] => some p
  | b :: bs => (p.writeByte wr a b).bind fun q => q.writeBytes wr (a + 1) bs

/-- Writes a whole block with its tag (R380, R431). -/
def Spad.writeBlock (p : Spad) (wr : Writer) (blk : Nat) (b : Block) : Option Spad :=
  (p.writeBytes wr (64 * blk) (natToBytes 64 b.data.toNat)).bind fun q => q.writeTag wr blk b.tag

/-- The first word of a range that a viewer sees counting: one tentative for another task is not yet settled (R158, R380). -/
def Spad.countingIn (p : Spad) (w n : Nat) (viewer : Option Nat) : Option Nat :=
  (upTo n).findSome? fun i => if (p.wst (w + i)).counting && !p.hidden (w + i) viewer then some (w + i) else none

/-- Whether a word of a range is tentative for another task (R158). -/
def Spad.hiddenIn (p : Spad) (w n : Nat) (viewer : Option Nat) : Bool := (upTo n).any fun i => p.hidden (w + i) viewer

/-- Changes a cell's scratchpad. -/
def State.setSpad (s : State) (c : Nat) (p : Spad) : State := s.updCell c fun cl => { cl with spad := p }

/-- The handle of a scratchpad word of this device (R375). -/
def wordHandle (c w : Nat) : Nat := roomOf c * 2 ^ 26 + cellX c % 8 * 2 ^ 23 + cellY c % 8 * 2 ^ 20 + w

/-- The cell and word of a handle (R375). -/
def handleCell (h : Word) : Nat := roomCell (natField h.toNat 26 6) (natField h.toNat 23 3) (natField h.toNat 20 3)
def handleWord (h : Word) : Nat := natField h.toNat 0 18

/-! ### The vestibule -/

/-- The cell whose vestibule serves a cell: its own, or the lead cell's (R363). -/
def vestCell (t : Task) (c : Nat) : Nat := if kindOf c = .compute then c else t.lead

/-- The lines an entry takes (R156). -/
def VEntry.lines : VEntry → Nat
  | .line _ _ _ _ => 1
  | .reds _ => 1
  | .spawn _ _ => 4

/-- The lines in use. -/
def vestLines (v : List VEntry) : Nat := (v.map VEntry.lines).foldl (· + ·) 0

/-- The line of a block in a vestibule. -/
def vestFind (v : List VEntry) (pa : Nat) : Option (BitVec 64 × BitVec 512 × Option (BitVec 16)) :=
  v.findSome? fun e =>
    match e with
    | .line a m d t => if a = pa / 64 * 64 then some (m, d, t) else none
    | _ => none

/-- One byte as an element of the cell sees it (R155). -/
def State.seenByte (s : State) (vc pa : Nat) : Byte :=
  match vestFind (s.cell vc).vest pa with
  | some (m, d, _) =>
    if m.getLsbD (pa % 64) then BitVec.ofNat 8 (natField d.toNat (8 * (pa % 64)) 8) else s.physByte pa
  | none => s.physByte pa

/-- Bytes as an element of the cell sees them (R155). -/
def State.seenBytes (s : State) (vc pa n : Nat) : List Byte := (upTo n).map fun i => s.seenByte vc (pa + i)

/-- The tag of a block as an element of the cell sees it (R154). -/
def State.seenTag (s : State) (vc pa : Nat) : BitVec 16 :=
  match vestFind (s.cell vc).vest pa with
  | some (_, _, some t) => t
  | _ => s.physTag pa

/-- A block as an element of the cell sees it. -/
def State.seenBlock (s : State) (vc pa : Nat) : Block :=
  { data := BitVec.ofNat 512 (bytesToNat (s.seenBytes vc (pa / 64 * 64) 64)), tag := s.seenTag vc pa }

/-- Bytes laid over a line from byte `off` up. -/
def lineOver (m : BitVec 64) (d : BitVec 512) (off : Nat) : List Byte → BitVec 64 × BitVec 512
  | [] => (m, d)
  | b :: bs =>
    lineOver (m ||| (1#64 <<< off))
      ((d &&& ~~~((0xFF#512) <<< (8 * off))) ||| (b.zeroExtend 512 <<< (8 * off))) (off + 1) bs

/-- Merges bytes of one block, and its tag where one comes with them, into the vestibule (R154). -/
def vestMerge (v : List VEntry) (pa : Nat) (bytes : List Byte) (tag : Option (BitVec 16)) : List VEntry :=
  let base := pa / 64 * 64
  match vestFind v pa with
  | some _ =>
    v.map fun e =>
      match e with
      | .line a m d t =>
        if a = base then
          let r := lineOver m d (pa % 64) bytes
          .line a r.1 r.2 (match tag with
            | some x => some x
            | none => t)
        else e
      | _ => e
  | none =>
    let r := lineOver 0 0 (pa % 64) bytes
    v ++ [.line base r.1 r.2 tag]

/-- The blocks that a range of bytes touches, as (address, bytes) pieces. -/
def blockPieces (pa : Nat) (bytes : List Byte) : List (Nat × List Byte) :=
  (upTo ((bytes.length + 63) / 64 + 1)).filterMap fun i =>
    let lo := max pa ((pa / 64 + i) * 64)
    let hi := (pa / 64 + i + 1) * 64
    let piece := (bytes.drop (lo - pa)).take (hi - lo)
    if lo < pa + bytes.length ∧ piece ≠ [] then some (lo, piece) else none

/-- The lines a store of a range would newly allocate. -/
def newLines (v : List VEntry) (pa len : Nat) : Nat :=
  ((upTo ((len + 63) / 64 + 1)).filter fun i =>
    let lo := max pa ((pa / 64 + i) * 64)
    decide (lo < pa + len) && (vestFind v lo).isNone).length

/-- The line charge of allocating `n` lines beyond `used`: 4 mu for each from the 17th on (R154, R136). -/
def lineCharge (used n : Nat) : Nat := 4 * ((used + n - 16) - (used - 16))

/-- How a FADDX operand that is a single FP32 addend is held: its bits above 2^128; a smaller number is a partial
XACC value (R218). -/
def rawAddend (bits : Nat) : Nat := 2 ^ 128 + bits % 2 ^ 32

/-- Applies a sub-operation of the reductions to a 32-bit word or an XACC word (R374, R218): the new value, and
whether the event is counted. -/
def redApply (op : BitVec 3) (m a : Nat) : Nat × Bool :=
  let w := BitVec.ofNat 32 m
  let x := BitVec.ofNat 32 a
  match op.toNat with
  | 0 => ((w + x).toNat, false)
  | 1 =>
    let r := if a < 2 ^ 128 then xaccAdd (natToInt 128 m) (natToInt 128 a) else faddx (natToInt 128 m) (a - 2 ^ 128)
    (intToNat 128 r.1, r.2)
  | 2 => ((minRes w x).r.toNat, false)
  | 3 => ((maxRes w x).r.toNat, false)
  | 4 => ((w &&& x).toNat, false)
  | 5 => ((w ||| x).toNat, false)
  | 6 => ((w ^^^ x).toNat, false)
  | _ => (FFmt.fp32.minMax false m a, false)

end Sys2Proof.Machine
end

