-- ==== Sys2Proof/Machine/Sched.lean ====
section
/-! DEFINITION. Records of the completion and report rings (R59 to R62), domain time and ages (R94 to R98), tag
queues, tickets, watermarks and the commit gate (R105 to R107, R115 to R117), packets joining a queue (R56, R57,
R91), accounts (R142, R143, R153), the end of a task and of a launch (R72, R93, R100). -/

namespace Sys2Proof.Machine

/-! ### Rings -/

/-- The 16-byte header of a record or packet (R50, R60). -/
def headerNat (dev tag kind cmode len rsv : Nat) (pid : BitVec 64) : Nat :=
  dev % 8192 * 2 ^ 115 + tag % 4096 * 2 ^ 103 + kind % 4 * 2 ^ 101 + cmode % 2 * 2 ^ 100 + len % 256 * 2 ^ 92
    + rsv % 2 ^ 28 * 2 ^ 64 + pid.toNat

/-- A 256-byte record: STATUS at bits [91:84] of the header (R60). LEN holds the body's length; log entry 20. -/
def recordBytes (dev tag status : Nat) (pid : BitVec 64) (body : List Byte) : List Byte :=
  let b := body.take 240
  natToBytes 16 (headerNat dev tag 0 0 b.length (status % 256 * 2 ^ 20) pid) ++ b
    ++ List.replicate (240 - b.length) (0 : Byte)

/-- A completion or report ring. -/
def State.ring (s : State) (n : Nat) : HostRing := mget s.rings n {}

/-- Whether a ring counts as full (R62). -/
def HostRing.full (r : HostRing) : Bool :=
  !r.en || ringSize r.sz == 0 || (r.prod + 1) % ringSize r.sz == r.cons % ringSize r.sz

/-- Writes a record into a ring that is not full (R59). -/
def State.putRecord (s : State) (n : Nat) (bytes : List Byte) : State :=
  let r := s.ring n
  { s with hostMem := s.hostMem.writeBytes (r.base + 256 * (r.prod % ringSize r.sz)) bytes,
           rings := mset s.rings n { r with prod := (r.prod + 1) % ringSize r.sz, irqDue := true } }

/-- Whether a record of a ring must wait: the ring is full or an earlier record of it waits (R62). -/
def State.ringBusy (s : State) (n : Nat) : Bool := (s.ring n).full || s.notices.any fun x => x.ring == n

/-- Whether a record of a ring can be taken now: written, or buffered in the 4,096 records of the porch (R62). -/
def State.canRecord (s : State) (n : Nat) : Bool := !s.ringBusy n || decide (s.notices.length < 4096)

/-- Writes or buffers a record (R62); a report that finds both full is counted in LOST. -/
def State.emitRecord (s : State) (n : Nat) (tag : Nat) (notice : Bool) (bytes : List Byte) : State :=
  if !s.ringBusy n then s.putRecord n bytes
  else if s.notices.length < 4096 then
    { s with notices := s.notices ++ [{ ring := n, tag := tag, notice := notice, bytes := bytes }] }
  else { s with lodge := { s.lodge with lost := min (s.lodge.lost + 1) 0xFFFF } }

/-- The pending notices of a host-bound tag (R62). -/
def State.noticesOf (s : State) (tag : Nat) : Nat := (s.notices.filter fun x => x.notice && x.tag == tag).length

/-! ### Time and ages -/

/-- The epoch in quarter nanoseconds (R95). -/
def State.epochQuarters (s : State) : Nat := (s.lodge.epochSec * 1000000000 + s.lodge.epochNs) * 4

/-- A time base value less the epoch, in 4 ns units modulo 2^44 (R52, R95). -/
def State.toDomain (s : State) (quarters : Nat) : Nat :=
  (((quarters : Int) - (s.epochQuarters : Int)) / 16 % ((2 ^ 44 : Nat) : Int)).toNat

/-- The current domain time (R95). -/
def State.domainTime (s : State) : Nat := s.toDomain s.clock.tbase

/-- TIME of an age (R94). -/
def ageTime (a : Nat) : Nat := a / 2 ^ 20

/-- Whether TIME `a` lies before TIME `b` (R94). -/
def timeOlder (a b : Nat) : Bool :=
  let d := (b + 2 ^ 44 - a % 2 ^ 44) % 2 ^ 44
  decide (1 ≤ d) && decide (d ≤ 2 ^ 43 - 1)

/-- Whether age `a` is older than age `b` (R94). -/
def ageOlder (a b : Nat) : Bool :=
  timeOlder (ageTime a) (ageTime b) || (ageTime a == ageTime b && decide (a % 2 ^ 20 < b % 2 ^ 20))

/-- The first TIME unit from `t` on with a free SEQ (R97). -/
def freeUnit (issued : AMap Nat) : Nat → Nat → Nat
  | 0, t => t
  | fuel + 1, t => if mget issued t 0 < 128 then t else freeUnit issued fuel ((t + 1) % 2 ^ 44)

/-- Issues an age for a candidate TIME (R97). The latest 65,536 TIME units are those up to the domain time, log entry 68. -/
def State.issueAge (s : State) (cand : Nat) : Nat × State :=
  let sc := s.sched
  let oldest := (s.domainTime + 2 ^ 44 - 65535) % 2 ^ 44
  let c := if timeOlder cand oldest then oldest else cand % 2 ^ 44
  let u := freeUnit sc.issued (sc.issued.length + 1) c
  let seq := mget sc.issued u 0
  let kept := (mset sc.issued u (seq + 1)).filter fun p => !timeOlder p.1 oldest
  (u * 2 ^ 20 + s.devNum % 8192 * 2 ^ 7 + seq, { s with sched := { sc with issued := kept } })

/-! ### Queues and watermarks -/

/-- Whether a task waits for staging, and whether it counts as queued (R99, R105). -/
def Task.waiting (t : Task) : Bool :=
  match t.st with
  | .queued => true
  | .parked => t.wake && !t.saving
  | .preempted => !t.saving
  | _ => false

/-- The tasks of a launch not yet expanded (R92). -/
def Launch.unexpanded (l : Launch) : Nat := l.nx * l.ny - l.next

/-- Free pool entries (R105): each task holds one, and a launch holds one until its last task is expanded. -/
def State.qfree (s : State) : Nat :=
  s.sched.qcap - s.tasks.length - (s.launches.filter fun l => decide (0 < l.unexpanded)).length

/-- A tag's depth (R117). -/
def State.depth (s : State) (tag : Nat) : Nat :=
  if (s.rtag tag).cur.host then s.noticesOf tag
  else (s.tasks.filter fun t => t.tag == tag && t.st == .queued).length
    + ((s.launches.filter fun l => l.tag == tag).map Launch.unexpanded).foldl (· + ·) 0

/-- The watermark state of a tag after its depth is compared with its watermarks (R117). -/
def State.nextWm (s : State) (tag : Nat) : Bool :=
  let e := (s.rtag tag).cur
  let d := s.depth tag
  if e.hiwm = 0 then false else if d ≥ e.hiwm then true else if d < e.lowm then false else (s.rtag tag).wm

/-- The watermark state of a tag brought up to its depth (R117). Where it clears, the wings' choices of the tick are made
again, so that a task withheld by it is eligible in the same tick (R130). -/
def State.touchWm (s : State) (tag : Nat) : State :=
  let wm := s.nextWm tag
  let clears := (s.rtag tag).wm && !wm
  let s1 := s.updRtag tag fun r => { r with wm := wm }
  { s1 with sched := { s1.sched with chosenAt := if clears then none else s1.sched.chosenAt } }

/-- The watermark state of every tag that has an entry. -/
def State.touchAllWm (s : State) : State := foldState (s.rtags.map (·.1)) s fun t st => st.touchWm t

/-- The effective priority of a tag (R119). PRIO, HIWM and LOWM are those of its new entry, also while tasks of the older
generation are queued; log entry 69. -/
def State.effPrio (s : State) (tag : Nat) : Nat :=
  let r := s.rtag tag
  if r.wm then min 7 (r.cur.prio + 1) else r.cur.prio

/-! ### Packets joining a queue -/

/-- The candidate TIME on a tag (R107). -/
def State.candidate (s : State) (tag time : Nat) : Nat :=
  let r := s.rtag tag
  if r.cur.ord then
    match r.prevTime with
    | some p => if timeOlder time p then p else time
    | none => time
  else time

/-- Ages for the n tasks of a launch on an ordered tag, one after another (R115). -/
def State.issueMany (s : State) (time : Nat) : Nat → List Nat × State
  | 0 => ([], s)
  | n + 1 =>
    let a := s.issueAge time
    let r := a.2.issueMany time n
    (a.1 :: r.1, r.2)

/-- A little-endian field of a body. -/
def bodyField (b : List Byte) (off n : Nat) : Nat := bytesToNat ((b.drop off).take n)

/-- Whether a launch body is refused with BADKIND (R91). -/
def launchBad (len : Nat) (b : List Byte) : Bool :=
  let nx := bodyField b 0 2
  let ny := bodyField b 2 2
  let stride := bodyField b 16 4
  let ring := bodyField b 6 2
  decide (len < 28) || nx == 0 || ny == 0 || decide (nx > 4096) || decide (ny > 4096)
    || decide (nx * ny > 1048576) || bodyField b 8 8 % 64 != 0
    || !(stride == 0 || (stride % 64 == 0 && decide (stride ≤ 256)))
    || !(decide (ring ≤ 15) || ring == 0xFFFF) || decide (bodyField b 4 2 > 1)
    || (b.drop 28).any fun x => x != 0

/-- A packet joins its tag's queue, with the candidate TIME of its age: a task, or a launch (R57, R91, R97, R99,
R115). `pin` is the position of GANGRUN (R450) and `slot` the stream slot of a frame packet (R72). Bits [63:48] of a launch's ARGBASE
do nothing (log entry 91), and the scheduler's own accesses of the queue pool are no accesses of its slices (log entry 100). -/
def State.enqueue (s : State) (p : Packet) (time : Nat) (pin : Option (Nat × Nat × Nat))
    (slot : Option (Nat × Nat)) : State :=
  let r := s.rtag p.tag
  let c := s.candidate p.tag time
  let a := s.issueAge c
  let s1 := a.2
  let f := s1.fresh
  let s2 := f.2.updRtag p.tag fun r =>
    { r with pend := r.pend || !r.en, prevTime := some (ageTime a.1) }
  if r.cur.launch then
    let nx := bodyField p.body 0 2
    let ny := bodyField p.body 2 2
    let more := if r.cur.ord then s2.issueMany (ageTime a.1) (nx * ny - 1) else ([], s2)
    let l : Launch :=
      { id := f.1, tag := p.tag, gen := r.gen, pid := p.pid, age := a.1, nx := nx, ny := ny,
        movr := natBit (bodyField p.body 4 2) 0, ring := bodyField p.body 6 2, argBase := bodyField p.body 8 8 % 2 ^ 48,
        argStride := bodyField p.body 16 4, mbase := bodyField p.body 20 4, mper := bodyField p.body 24 4,
        ticket0 := r.ticket, ages := if r.cur.ord then a.1 :: more.1 else [] }
    let s3 := more.2.updRtag p.tag fun r =>
      if r.cur.ord then
        { r with ticket := (r.ticket + nx * ny) % 2 ^ 32,
                 prevTime := some (ageTime ((a.1 :: more.1).getLastD a.1)) }
      else r
    ({ s3 with launches := s3.launches ++ [l] }).touchWm p.tag
  else
    let t : Task :=
      { id := f.1, tag := p.tag, gen := r.gen, age := a.1, pid := p.pid, arg := p.body.take p.len,
        ticket := if r.cur.ord then some r.ticket else none, pin := pin, frameSlot := slot }
    let s3 := s2.updRtag p.tag fun r => if r.cur.ord then { r with ticket := (r.ticket + 1) % 2 ^ 32 } else r
    ({ s3 with tasks := s3.tasks ++ [t] }).touchWm p.tag

/-- Whether a tag has a loaded handler (R56). -/
def State.tagLoaded (s : State) (tag : Nat) : Bool :=
  (s.rtag tag).written && !(s.rtag tag).cur.host && (mfind s.handlers (s.rtag tag).cur.handler).isSome

/-- The body of a report record (R60). -/
def reportBody (age decl topped cons short restarts cause : Nat) : List Byte :=
  recBytes [(8, age), (4, decl), (4, topped), (4, cons), (4, short), (1, restarts), (1, cause), (214, 0)]

/-- A report body filled up with zeros to the 240 bytes that every report record has (R60). -/
def fullBody (body : List Byte) : List Byte := body ++ List.replicate (240 - body.length) 0

/-- Writes a report record on ring 16 (R60, R61). -/
def State.report (s : State) (tag status : Nat) (pid : BitVec 64) (body : List Byte) : State :=
  s.emitRecord 16 tag false (recordBytes s.devNum tag status pid (fullBody body))

/-- The status with which a packet is rejected, none where it joins its queue or acts (R56, R91). `guard` is the
length the guard gave, 16 + LEN where there is no guard. Of several that apply BADLEN comes first, then BADKIND, then BADTAG; log
entry 90. -/
def State.rejectStatus (s : State) (p : Packet) (guard : Nat) : Option Nat :=
  if guard < 16 ∨ guard > 256 ∨ guard ≠ 16 + p.len then some 0x05
  else if p.kind ≥ 2 ∨ (p.kind = 0 ∧ p.cmode = true) ∨ p.rsv ≠ 0 then some 0x07
  else if !s.tagLoaded p.tag then some 0x06
  else if p.kind = 0 ∧ (s.rtag p.tag).cur.launch = true ∧ launchBad p.len (p.body.take p.len) = true then some 0x07
  else none

/-! ### Accounts and meters -/

/-- OUT in charge packets, rounded up (R142). -/
def Acct.outPackets (a : Acct) : Nat := (a.out + 63) / 64

/-- Whether a draw of `mu` is permitted (R143). -/
def Acct.canDraw (a : Acct) (mu : Nat) : Bool :=
  decide (mu ≤ a.balance) && (a.ceil == 0 || decide ((a.out + mu + 63) / 64 ≤ a.ceil))

/-- Draws `mu` from an account. -/
def Acct.draw (a : Acct) (mu : Nat) : Acct := { a with balance := a.balance - mu, out := a.out + mu }

/-- Returns a meter's balance and books its consumption (R153). -/
def Acct.settle (a : Acct) (bal drawn : Nat) : Acct :=
  { a with balance := min (a.balance + bal) (2 ^ 48 - 1), consumed := min (a.consumed + (drawn - bal)) (2 ^ 64 - 1),
           out := a.out - drawn }

/-- The meters of a task's gang: in its cells, in its saved context, or as drawn at staging. -/
def State.metersOf (s : State) (t : Task) : List Meter :=
  match t.st with
  | .running => t.gang.map fun c => (s.cell c).meter
  | .gated => t.gang.map fun c => (s.cell c).meter
  | .committing => t.gang.map fun c => (s.cell c).meter
  | .queued => []
  | _ =>
    if t.saving then t.gang.map fun c => (s.cell c).meter
    else match t.ctx with
    | some k => k.cells.map fun p => p.2.meter
    | none => t.decl.map fun p => { bal := p.2, decl := p.2 }

/-- Books every meter of a task back to its account (R153). -/
def State.settleTask (s : State) (t : Task) : State :=
  let ms := s.metersOf t
  let bal := (ms.map Meter.bal).foldl (· + ·) 0
  let drawn := (ms.map fun m => m.decl + m.topped).foldl (· + ·) 0
  s.updAcct (s.entryOf t).acct fun a => a.settle bal drawn

/-- The report body of a task, with its meters' totals (R60, R152). -/
def State.taskReport (s : State) (t : Task) (short cause : Nat) : List Byte :=
  let ms := s.metersOf t
  reportBody t.age ((ms.map Meter.decl).foldl (· + ·) 0) ((ms.map Meter.topped).foldl (· + ·) 0)
    ((ms.map Meter.cons).foldl (· + ·) 0) short t.restarts cause

/-! ### Tickets and the commit gate -/

/-- NEXT moved past every released ticket that follows (R116). -/
def advanceNext (released : List Nat) : Nat → Nat → Nat
  | 0, n => n
  | fuel + 1, n => if released.contains n then advanceNext released fuel ((n + 1) % 2 ^ 32) else n

/-- NEXT of a tag brought past released tickets, and the gated task whose ticket it reaches opened (R116). -/
def State.openGate (s : State) (tag : Nat) : State :=
  let r := s.rtag tag
  let n := advanceNext r.released (r.released.length + 1) r.next
  let s1 := s.updRtag tag fun r => { r with next := n, released := r.released.filter fun k => !(
    decide ((k + 2 ^ 32 - r.next) % 2 ^ 32 < (n + 2 ^ 32 - r.next) % 2 ^ 32)) }
  { s1 with tasks := s1.tasks.map fun t =>
      if t.tag = tag ∧ t.st = .gated ∧ t.ticket = some n then { t with st := .committing } else t }

/-- A place in the commit order released (R68, R100). -/
def State.releaseTicket (s : State) (tag : Nat) (ticket : Option Nat) : State :=
  match ticket with
  | none => s
  | some k => (s.updRtag tag fun r => { r with released := r.released ++ [k] }).openGate tag

/-! ### The end of a task and of a launch -/

/-- The launch record of a launch whose tasks have all ended, written once the notice buffer takes it (R62, R93). -/
def State.launchRecord (s : State) (l : Launch) : State :=
  if l.ended < l.nx * l.ny then s
  else if l.ring = 0xFFFF then { s with launches := s.launches.filter fun k => k.id != l.id }
  else if s.canRecord l.ring then
    let st := (l.lowFail.map (·.2)).getD 0
    ({ s with launches := s.launches.filter fun k => k.id != l.id }).emitRecord l.ring l.tag false
      (recordBytes s.devNum l.tag st l.pid (recBytes [(4, l.nx * l.ny), (4, l.failed), (232, 0)]))
  else s

/-- The lowest-numbered task that did not commit, with its status (R93). -/
def lowerFail (old : Option (Nat × Nat)) (k : Nat) (status : Option Nat) : Option (Nat × Nat) :=
  match status, old with
  | some st, none => some (k, st)
  | some st, some p => if k < p.1 then some (k, st) else some p
  | none, q => q

/-- Books the end of `n` tasks of a launch, from task number `k` on; `status` where they did not commit (R93). A launch that ends goes
to the end of the list, in whose order the records of ended launches are written (R62). -/
def State.launchEnd (s : State) (id n k : Nat) (status : Option Nat) : State :=
  let s1 : State := { s with launches := s.launches.map fun (l : Launch) =>
    if l.id = id then
      { l with ended := l.ended + n, failed := l.failed + (if status.isSome then n else 0),
               lowFail := lowerFail l.lowFail k status }
    else l }
  match s1.launches.find? fun (l : Launch) => l.id == id with
  | some l =>
    if l.ended < l.nx * l.ny then s1
    else ({ s1 with launches := (s1.launches.filter fun (j : Launch) => j.id != id) ++ [l] }).launchRecord l
  | none => s1

/-- The number of a task within its launch. -/
def LaunchRef.number (l : LaunchRef) : Nat := l.j * l.nx + l.i

/-- Frees a stream slot (R72). -/
def State.freeSlot (s : State) (slot : Option (Nat × Nat)) : State :=
  match slot with
  | none => s
  | some (st, k) =>
    let x := mget s.eth.streams st {}
    { s with eth := { s.eth with streams := mset s.eth.streams st { x with taken := x.taken.filter fun j => j != k } } }

/-- Removes a task that has committed or ended with a report of a status: its entry, its stream slot, its share of
a launch, and its place in the commit order when it did not commit (R72, R93, R100, R105). -/
def State.endTask (s : State) (t : Task) (status : Option Nat) : State :=
  let s1 := (s.delTask t.id).freeSlot t.frameSlot
  let s2 := match status with
    | some _ => s1.releaseTicket t.tag t.ticket
    | none => s1
  let s3 := match t.launch with
    | some l => s2.launchEnd l.launch 1 l.number status
    | none => s2
  s3.touchWm t.tag

/-- Removes from its queue a launch task whose argument block cannot be read: reported, not restarted (R488). -/
def State.argFail (s : State) (t : Task) (code : Nat) : State :=
  (s.report t.tag 0x01 t.pid (reportBody t.age 0 0 0 0 t.restarts code)).endTask t (some 0x01)

end Sys2Proof.Machine
end

