-- ==== Sys2Proof/Machine/Flight.lean ====
section
/-! DEFINITION. Where an operation under way stands before it reaches its home: the node that holds it, its ranges and their
translation (R233, R266), the sets it touches (R165), the room watchpoints (R278), what stands before it in its element and at
its port (R241, R266), what is left of it when its task vanishes (R274), and the order
of a tick at its home (R189, R240). -/

namespace Sys2Proof.Machine

/-- The engine node that holds an operation (R255). Codes from 0x100 on are accesses of engines that no slot issued:
0x100 a block of the scan unit, 0x101 and 0x102 a write and a read of an edge port. -/
def nodeOfOp (op : Nat) : Nat :=
  if op = 0x100 then 13
  else if 0x50 ≤ op ∧ op ≤ 0x52 then 14
  else if op < 0x80 then 8
  else if 0xA0 ≤ op ∧ op ≤ 0xA3 then 8
  else if op < 0xC0 then 9
  else if op < 0xC8 then 10
  else if op < 0xCA then 12
  else if op < 0xCC then 13
  else if op < 0xD0 then 8
  else if op < 0xE0 then 11
  else 8

/-- The engine or port that accepts a firing of an opcode, none for the classes that use no engine and for STATQ (R129); the body
read of a SPAWN goes through the memory port as an LD does (R349). -/
def engineOf (op : Nat) : Option Nat :=
  if op = 0xF6 ∨ (0x40 ≤ op ∧ op < 0xE0 ∧ op ≠ 0xCD) then some (nodeOfOp op) else none

/-! ### Translation -/

/-- The cached translation of a virtual address in a task's room; none where it is not cached, or where the address space is
disabled, whose every access is held as non-present (R234, R266). -/
def State.cached (s : State) (t : Task) (ea : Nat) : Option Tlb :=
  if (mget s.logs.roots (s.asidOf t) 0).getLsbD 0 then (s.room t.room).tlbFind (s.asidOf t) (ea % 2 ^ 48) else none

/-- The virtual ranges that an operation touches: none where it has no length, such as an access of lanes that writes none. -/
def Op.ranges (o : Op) : List (Nat × Nat) :=
  if o.spad.isSome then []
  else if o.lanes.isEmpty then (if o.len = 0 then [] else [(o.ea, o.len)])
  else o.lanes.map fun l => (l.2, 4)

/-- The 64 KiB pages of a virtual range. -/
def pagesOf (ea len : Nat) : List Nat :=
  ((upTo (len / 65536 + 2)).filter fun i => i = 0 || decide ((ea / 65536 + i) * 65536 < ea + len)).map fun i =>
    (ea / 65536 + i) * 65536 % 2 ^ 48

/-- The first page of some ranges without a cached translation that permits the use; true for a page that is
cached but may not be written (R267). -/
def State.missing (s : State) (t : Task) (wr : Bool) (rs : List (Nat × Nat)) : Option (Nat × Bool) :=
  (rs.flatMap fun r => pagesOf r.1 r.2).findSome? fun p =>
    match s.cached t p with
    | none => some (p, false)
    | some e => if wr && !e.wr then some (p, true) else none

/-- The physical pieces of some virtual ranges whose pages are cached, one a page. -/
def State.physPieces (s : State) (t : Task) (rs : List (Nat × Nat)) : List (Nat × Nat) :=
  rs.flatMap fun r => (upTo (r.2 / 65536 + 2)).filterMap fun i =>
    let lo := max r.1 ((r.1 / 65536 + i) * 65536)
    let hi := min (r.1 + r.2) ((r.1 / 65536 + i + 1) * 65536)
    if lo < hi then
      match s.cached t lo with
      | some p => some (p.phys (lo % 2 ^ 48), hi - lo)
      | none => none
    else none

/-- The physical address of a virtual one whose page is cached. -/
def State.phys (s : State) (t : Task) (ea : Nat) : Nat :=
  match s.cached t ea with
  | some p => p.phys (ea % 2 ^ 48)
  | none => 0

/-! ### Deferred writes (R154, R168, R237) -/

/-- Whether a virtual write of a task is deferred (R154, R168, R237). -/
def State.deferred (s : State) (t : Task) (ea : Nat) : Bool := s.isGuarded t && !s.unguardedAt t ea

/-- The bytes from a virtual address cut where deferred bytes meet undeferred ones (R237). -/
def State.cutBytes (s : State) (t : Task) (a : Nat) : List Byte → List (Nat × List Byte)
  | [] => []
  | b :: bs =>
    match s.cutBytes t (a + 1) bs with
    | [] => [(a, [b])]
    | q :: qs => if s.deferred t a = s.deferred t q.1 then (a, b :: q.2) :: qs else (a, [b]) :: q :: qs

/-- Pieces cut so that each is deferred whole or not at all; the tag of a block goes with its first bytes, log entry 65. -/
def State.cutPieces (s : State) (t : Task) (ps : List (Nat × List Byte × Option (BitVec 16))) :
    List (Nat × List Byte × Option (BitVec 16)) :=
  ps.flatMap fun p =>
    match s.cutBytes t p.1 p.2.1 with
    | [] => []
    | q :: qs => (q.1, q.2, p.2.2) :: qs.map fun x => (x.1, x.2, none)

/-! ### Atomic sets and room watchpoints (R165, R278) -/

/-- Whether an operation touches atomic sets (R363): loads, stores, RED, tile copies, vector accesses, ACQ, and the body read
of a SPAWN, which is an LD of its bytes (R349). -/
def touchesSets (op : Nat) : Bool :=
  op == 0x40 || op == 0x41 || op == 0x44 || op == 0x4C || decide (0x50 ≤ op ∧ op ≤ 0x52)
    || decide (0x68 ≤ op ∧ op < 0x70) || decide (0xA0 ≤ op ∧ op ≤ 0xA3) || op == 0xC8 || op == 0xCA
    || op == 0xD1 || op == 0xD7 || op == 0xD8 || op == 0xF6 || decide (0x100 ≤ op)

/-- The next set of some ranges that the task does not hold, with the effective address of the access that touches it. -/
def State.nextTouch (s : State) (t : Task) (rs : List (Nat × Nat)) : Option ((Nat × Nat) × Nat) :=
  rs.findSome? fun r => ((s.setsIn t r.1 r.2).find? fun k => !t.sets.contains k).map fun k => (k, r.1 % 2 ^ 48)

/-- The next set of some ranges that the task does not hold. -/
def State.nextSet (s : State) (t : Task) (rs : List (Nat × Nat)) : Option (Nat × Nat) := (s.nextTouch t rs).map (·.1)

/-- The armed watchpoint that an access to a physical range hits. -/
def Room.watchHit (r : Room) (pa n : Nat) (wr : Bool) : Option Nat :=
  (upTo 8).find? fun i =>
    let w := mget r.watch i {}
    let size := 64 * 2 ^ w.len
    w.en && (if wr then w.wr else w.rd) && overlaps pa n (w.addr / size * size) size

/-- The watchpoint and the physical address that an operation hits, page by page. -/
def State.watched (s : State) (t : Task) (wr : Bool) (rs : List (Nat × Nat)) : Option (Nat × Nat) :=
  (s.physPieces t rs).findSome? fun r => ((s.room t.room).watchHit r.1 r.2 wr).map fun i => (i, r.1)

/-! ### Order within an element and at a port (R241, R266) -/

/-- Whether an operation may write memory, so that its page must be writable. -/
def writesMem (op : Nat) : Bool :=
  op == 0x44 || op == 0x51 || decide (0x60 ≤ op ∧ op < 0x78) || op == 0xA1 || op == 0xA3 || op == 0xC8
    || op == 0xD7 || op == 0x101

/-- The byte offset of the ring entry that a queue or deque operation touches, by its descriptor as it stands (R383 to R385). -/
def State.entryOffset (s : State) (o : Op) : Option Nat :=
  o.spad.bind fun m =>
    let p := (s.cell m).spad
    let v := some o.task
    let w0 := (p.viewWord (o.ea / 4) v).toNat
    let i := match o.opc with
      | 0x55 => some (p.viewWord (o.ea / 4 + 2) v)
      | 0x56 => some (p.viewWord (o.ea / 4 + 1) v)
      | 0x57 => some (p.viewWord (o.ea / 4 + 2) v)
      | 0x58 => some (p.viewWord (o.ea / 4 + 2) v - 1)
      | 0x59 => some (p.viewWord (o.ea / 4 + 1) v)
      | _ => none
    i.map fun k => 4 * (natField w0 0 18 + k.toNat % 2 ^ natField w0 28 4)

/-- The byte ranges of an operation in one space, a scratchpad or virtual memory: of a tile copy the blocks that are left. -/
def State.touched (s : State) (o : Op) : List (Nat × Nat) :=
  (if 0x50 ≤ o.opc ∧ o.opc ≤ 0x52 then o.left.map fun i => (o.ea + 64 * i, 64)
    else if o.lanes.isEmpty then [(o.ea, o.len)] else o.lanes.map fun l => (l.2, 4))
    ++ ((s.entryOffset o).map fun a => (a, 4)).toList

/-- Whether two lists of ranges share a byte. -/
def rangesMeet (as bs : List (Nat × Nat)) : Bool := as.any fun x => bs.any fun y => overlaps x.1 x.2 y.1 y.2

/-- Whether two operations touch an overlapping byte (R241, R401): at one address, or through two mapped pages. An earlier access to
a page that is not cached may yet prove to touch any byte, so every later access of memory counts as meeting it. -/
def State.meets (s : State) (a b : Op) : Bool :=
  a.spad == b.spad && (rangesMeet (s.touched a) (s.touched b)
    || (a.spad.isNone && !b.ranges.isEmpty
        && ((s.missing (s.task a.task) false a.ranges).isSome
          || rangesMeet (s.physPieces (s.task a.task) a.ranges) (s.physPieces (s.task b.task) b.ranges))))

/-- Whether an earlier operation of the element that overlaps this one is not yet performed (R241); what is left of one whose task
has vanished belongs to no element. -/
def State.blockedByEarlier (s : State) (o : Op) : Bool :=
  (s.ops.takeWhile fun p => p.id != o.id).any fun p =>
    p.cell == o.cell && p.elem == o.elem && p.orphan.isNone && p.phase != .performed && s.meets p o

/-- Whether an earlier access of the same port is held in its input buffer, so that this one stands behind it (R266). -/
def State.behindHeld (s : State) (o : Op) : Bool :=
  o.phase == .issued && (s.ops.takeWhile fun p => p.id != o.id).any fun p =>
    p.phase == .held && p.cell == o.cell && nodeOfOp p.opc == nodeOfOp o.opc

/-- Whether a wake token has an access of the same page, held before this one, still to retry (R266). -/
def State.behindRetry (s : State) (o : Op) : Bool :=
  o.retry && s.ops.any fun p => p.retry && !p.replay && p.heldPage == o.heldPage && decide (p.inj < o.inj)
    && s.asidOf (s.task p.task) == s.asidOf (s.task o.task)

/-- Whether an operation may go on to its home: it is not withdrawn, and nothing stands before it in its element or at its port
(R241, R254, R266). -/
def State.mayGo (s : State) (o : Op) : Bool := !o.replay && !s.blockedByEarlier o && !s.behindHeld o && !s.behindRetry o

/-- Whether an operation is a store of bytes, which a vestibule may keep (R154). -/
def isStore (op : Nat) : Bool := [0x44, 0x51, 0xA1, 0xA3, 0xC8, 0xD7, 0x101].contains op

/-- A range cut at some offsets in it. -/
def cutRange (ea len : Nat) (cuts : List Nat) : List (Nat × Nat) :=
  cuts.map fun o => (ea + o, ((cuts.filter fun q => decide (o < q)).foldl min len) - o)

/-- The parts of a virtual range that a store does not defer (R154, R168, R237). -/
def State.openRanges (s : State) (t : Task) (r : Nat × Nat) : List (Nat × Nat) :=
  (cutRange r.1 r.2 (s.bindCuts t { ea := r.1 % 2 ^ 48 } r.2).eraseDups).filter fun q => !s.deferred t (q.1 % 2 ^ 48)

/-- The virtual ranges whose homes an operation sends a message to: those of a read or an atomic, and the parts of a store that are
not deferred; a RED, and a store under GUARDED, stay in the vestibule (R154, R156). -/
def State.sentRanges (s : State) (t : Task) (o : Op) : List (Nat × Nat) :=
  if 0x68 ≤ o.opc ∧ o.opc < 0x70 then []
  else if isStore o.opc then o.ranges.flatMap (s.openRanges t)
  else o.ranges

/-- Whether the limit of a wait has passed (R121). -/
def State.limitPassed (s : State) (o : Op) : Bool := o.limit.any fun l => decide (l < s.clock.tick)

/-- Whether an operation waits for a condition; one that waits for the exit of its scratchpad from retention is still on its way
(R45, R364). -/
def Op.waits (o : Op) : Bool := o.phase == .waiting && !o.asleep

/-- Whether the request of an operation is on its way: translated, paid, and past every check that stands before its home
(R266, R278). -/
def State.underWay (s : State) (t : Task) (o : Op) : Bool :=
  (o.phase == .issued || (o.phase == .waiting && o.asleep)) && o.combo.isNone && s.mayGo o && (s.missing t (writesMem o.opc) o.ranges).isNone && !o.short
    && (o.watched || (s.watched t (writesMem o.opc) o.ranges).isNone) && o.noRoute.isNone
    && ((s.physPieces t o.ranges).all fun r => (s.retainedIn r.1 r.2).isEmpty)
    && !(touchesSets o.opc && (s.nextSet t o.ranges).isSome)

/-! ### The order of messages (R9, R21) -/

/-- The wings that a message between two wings passes: the X coordinate is corrected first, then the Y coordinate (R8, R9); wing
w lies at X = w mod 2, Y = w div 2. -/
def wingPath (a b : Nat) : List Nat := [a, a / 2 * 2 + b % 2, b].eraseDups

/-- A way on which messages keep the order of their injection: the path between two wings (R9), or the stream to a home of another
device of one kind of message, 0 a load, 1 a store, 2 an atomic or reduction (R17, R21). -/
inductive Leg where
  | wings (path : List Nat)
  | stream (dev kind home : Nat)
  deriving DecidableEq, Repr

/-- The kind of message that an operation sends (R17). -/
def msgKind (op : Nat) : Nat := if isStore op then 1 else if 0x60 ≤ op ∧ op < 0x78 then 2 else 0

/-- The way of a message from a wing to a physical address; none to a home of its own wing, the attic or the host. -/
def State.legOf (s : State) (wing kind pa : Nat) : Option Leg :=
  if s.level pa = .remote then some (.stream (devOf pa) kind ((homeAt (localLevel (localOf pa)) pa).getD 141))
  else (s.homeWing pa).bind fun w => if w = wing then none else some (.wings (wingPath wing w))

/-- The ways of the messages from a wing to some physical pieces. -/
def State.legsTo (s : State) (wing kind : Nat) (ps : List (Nat × Nat)) : List Leg :=
  (ps.flatMap fun r => (upTo (r.2 / 256 + 2)).filterMap fun i =>
    let a := max r.1 ((r.1 / 256 + i) * 256)
    if a < r.1 + max r.2 1 then s.legOf wing kind a else none).eraseDups

/-- The ways on which the messages of an operation go. -/
def State.legs (s : State) (o : Op) : List Leg :=
  match o.orphan with
  | some k => if o.spad.isSome then []
      else s.legsTo (wingOfCell o.cell) (msgKind o.opc) (k.pieces.map fun p => (p.1, max 4 p.2.1.length))
  | none =>
    match s.task? o.task with
    | some t => s.legsTo (wingOfCell o.cell) (msgKind o.opc) (s.physPieces t (s.sentRanges t o))
    | none => []

/-- Whether a request has left its node, so that a freeze lets it finish (R274): not the copies that fill tile slots, a conversion or a
transfer into the DDA, of which the blocks still to come are withdrawn; log entry 98. -/
def State.messageOut (s : State) (o : Op) : Bool :=
  o.orphan.isSome || o.combo.isSome
    || (!([0x50, 0x52, 0xC8, 0xD1, 0xD8] : List Nat).contains o.opc && (s.task? o.task).any fun t =>
        s.underWay t o && (o.spad.isSome || !(s.sentRanges t o).isEmpty))

/-- Whether the message of an operation is on its way: one of a task that has vanished, one combined with others in a router, or a
request that nothing holds before its home. -/
def State.inFlight (s : State) (o : Op) : Bool :=
  o.orphan.isSome || o.combo.isSome || (s.task? o.task).any fun t => s.underWay t o

/-- The physical address of the lock entry of a set: of its lowest address (R164); none where no walk finds the page. -/
def State.lockPa (s : State) (t : Task) (k : Nat × Nat) : Option Nat :=
  let va := s.setBase k.1 k.2
  match s.cached t va with
  | some p => some (p.phys (va % 2 ^ 48))
  | none => (s.walk (s.asidOf t) (va % 2 ^ 48)).map fun p => p.pa + (va % 2 ^ 48 - p.base)

/-- The way of an operation's request to the lock entry of the next set that it touches (R167). -/
def State.setLegs (s : State) (t : Task) (o : Op) : List Leg :=
  (((s.nextSet t o.ranges).bind (s.lockPa t)).bind (s.legOf (wingOfCell o.cell) 2)).toList

/-- Whether an operation's request stands at a lock entry. -/
def State.atLock (s : State) (o : Op) : Bool := s.locks.any fun l => l.waiters.contains o.id

/-- Whether the request of an operation for a set is on its way to the lock entry (R167). -/
def State.setUnderWay (s : State) (o : Op) : Bool := o.phase == .waitSet && o.since == 0 && !o.replay && !s.atLock o

/-- Whether the node that a fault froze issued an operation: the element, or the engine whose accesses no slot issues (R254). -/
def PendFault.issued (p : PendFault) (o : Op) : Bool :=
  o.cell == p.reg.cell && (match p.elem with
    | some e => o.elem == e && decide (o.opc < 0x100)
    | none => decide (0x100 ≤ o.opc) && nodeOfOp o.opc == p.reg.node)

/-- Whether the fault of an operation's node has been taken, so that what the operation would write waits for the return (R254). -/
def State.nodeTrapped (s : State) (o : Op) : Bool :=
  o.replay || (s.task? o.task).any fun t => t.frame && t.faults.any fun p => p.issued o

/-- Whether an opcode is of the vector class. -/
def isVecOp (op : Nat) : Bool := decide (0x80 ≤ op ∧ op < 0xC0)

/-- Whether a performed vector operation is the first of its element (R392, R425). -/
def State.firstVec (s : State) (o : Op) : Bool :=
  !(s.ops.takeWhile fun p => p.id != o.id).any fun p => p.cell == o.cell && p.elem == o.elem && isVecOp p.opc

/-- Whether an operation is performed, with the reply of another device if it awaits one, and may write back (R17, R254, R392). -/
def State.completable (s : State) (o : Op) : Bool :=
  o.phase == .performed && !o.awaits && !s.nodeTrapped o && (!isVecOp o.opc || s.firstVec o)

/-- The way from the last wing of another one to its first. -/
def Leg.back (l : Leg) : Option Leg :=
  match l with
  | .wings p => some (.wings (wingPath (p.getLastD 0) (p.headD 0)))
  | .stream _ _ _ => none

/-- The ways between wings of an operation's replies (R9). -/
def State.replyLegs (s : State) (o : Op) : List Leg := (s.legs o).filterMap Leg.back

/-- The handle of the word that a fill, or the arrival after it, goes to (R376). -/
def Fill.target (k : Fill) : Word := if k.filled then k.chandle else k.handle

/-- The way of an ATOMX fill to its target cell, or of the arrival after it to the cell of its counting word (R376). -/
def Fill.legs (k : Fill) : List Leg :=
  let dest := wingOfCell (handleCell k.target)
  match k.src with
  | some w => if w = dest then [] else [.wings (wingPath w dest)]
  | none => []

/-- The ways on which an operation has a message that has not been delivered: its request, its request for a set, or its reply. -/
def State.legsOut (s : State) (o : Op) : List Leg :=
  if s.inFlight o then s.legs o
  else if s.setUnderWay o then s.setLegs (s.task o.task) o
  else if s.completable o then s.replyLegs o
  else []

/-- Whether messages on some ways must wait: one injected before number `n` is on its way along one of them, other than those of the
operations, fills and combined reductions `own` (R9, R21). A combined reduction was injected when it was combined. -/
def State.pathBusy (s : State) (own : List Nat) (n : Nat) (ls : List Leg) : Bool :=
  !ls.isEmpty
    && ((s.ops.any fun p => !own.contains p.id && decide (p.inj < n) && (s.legsOut p).any ls.contains)
      || (s.fills.any fun k => !own.contains k.id && decide (k.inj < n) && k.since.isNone && k.legs.any ls.contains)
      || s.combos.any fun k => k.red && !own.contains k.id && decide (k.id < n)
          && k.parts.any fun p => (s.legOf (wingOfCell p.1) 2 k.pa).any ls.contains)

/-- Whether an operation would overtake an earlier one on its way (R9, R21). -/
def State.overtakes (s : State) (o : Op) : Bool := s.pathBusy [o.id] o.inj (s.legs o)

/-! ### Messages that outlive their task (R148, R159, R274) -/

/-- The blocks of a DSAVE: of each integrator its Y and its Q (R429, R431). -/
def Dda.saveBlock (d : Dda) (i : Nat) : List Byte :=
  (upTo 8).flatMap fun k => natToBytes 4 (mget d.y (8 * i + k) 0).toNat ++ natToBytes 4 (mget d.q (8 * i + k) 0).toNat

/-- The pieces of a vector store: the bytes of each written lane (R400). -/
def Op.lanePieces (o : Op) : List (Nat × List Byte) :=
  let ty := laneType o.f
  let b := laneBits ty / 8
  let ls := lanesOf ty o.vdata
  let at_ (i : Nat) : Nat := o.ea + b * i - o.left.headD 0
  if o.opc = 0xA3 then o.lanes.map fun p => (p.2, natToBytes 4 (ls.getD p.1 0))
  else (upTo (laneCount ty)).filterMap fun i =>
    if o.mask.getLsbD i then some (if o.spad.isSome then at_ i else at_ i % 2 ^ 48, natToBytes b (ls.getD i 0)) else none

/-- The pieces of virtual memory, or of a scratchpad, that a store under way writes, with the tag of a whole block. -/
def State.storeParts (s : State) (o : Op) : List (Nat × List Byte × Option (BitVec 16)) :=
  let plain (ps : List (Nat × List Byte)) : List (Nat × List Byte × Option (BitVec 16)) := ps.map fun p => (p.1, p.2, none)
  match o.opc with
  | 0x44 => plain [(o.ea, natToBytes o.len (o.args.getD 1 0).toNat)]
  | 0x51 => o.left.map fun i =>
      let b : Block := mget (mget (s.cell o.cell).tiles (dstSlot o.f) {}).blocks i {}
      (if o.spad.isSome then o.ea + 64 * i else (o.ea + 64 * i) % 2 ^ 48, natToBytes 64 b.data.toNat, some b.tag)
  | 0xD7 => (upTo 32).map fun i => (o.ea + 64 * i, (s.cell o.cell).dda.saveBlock i, some 0)
  | 0xA1 => plain o.lanePieces
  | 0xA3 => plain o.lanePieces
  | 0x101 => plain [(o.ea, natToBytes o.len (o.args.headD 0).toNat)]
  | _ => []

/-- Whether an atomic operation (R373, R375). -/
def Op.isAtom (o : Op) : Bool := decide (0x60 ≤ o.opc ∧ o.opc < 0x68) || decide (0x70 ≤ o.opc ∧ o.opc < 0x78)

/-- Pieces cut at the bounds of blocks; the tag goes with the first. -/
def blockParts (ps : List (Nat × List Byte × Option (BitVec 16))) : List (Nat × List Byte × Option (BitVec 16)) :=
  ps.flatMap fun p =>
    match blockPieces p.1 p.2.1 with
    | [] => []
    | q :: qs => (q.1, q.2, p.2.2) :: qs.map fun x => (x.1, x.2, none)

/-- What a vanished task leaves with an operation. -/
def Task.orphan (t : Task) (ps : List (Nat × List Byte × Option (BitVec 16))) : Orphan :=
  { pieces := ps, tag := t.tag, age := t.age, gen := t.gen, room := t.room, origin := (t.x0, t.y0), shape := (t.gw, t.gh) }

/-- Whether an operation may write words of a scratchpad. -/
def writesSpad (op : Nat) : Bool :=
  isStore op || (decide (0x43 ≤ op ∧ op ≤ 0x4A) && op != 0x48) || decide (0x55 ≤ op ∧ op ≤ 0x59)

/-- What is left of an operation whose task vanishes: an atomic, or the undeferred part of a store, whose message is on its way
to its homes; of an UNGUARDED task also a write of a scratchpad (R148, R159, R239, R270, R274). -/
def State.orphan (s : State) (o : Op) : Option Orphan :=
  (s.task? o.task).bind fun t =>
    if !(o.combo.isSome || s.underWay t o) then none
    else if o.spad.isSome then
      (if s.isGuarded t || !writesSpad o.opc then none else some (t.orphan (s.storeParts o)))
    else
      let at_ (p : Nat × List Byte × Option (BitVec 16)) : Nat × List Byte × Option (BitVec 16) := (s.phys t p.1, p.2)
      let ps := if o.isAtom then [(s.phys t o.ea, [], none)]
        else ((blockParts (s.storeParts o)).flatMap fun p => s.cutPieces t [p]).filter (fun p => !s.deferred t p.1) |>.map at_
      if ps.isEmpty then none else some (t.orphan ps)

/-! ### Order at a home (R127, R189, R240) -/

/-- The place of a requester in the order of one tick (R189, R240): (Y, X) of the cell, then the element. -/
def homeKey (c e : Nat) : Nat := (cellY c * 64 + cellX c) * 256 + e % 256

/-- The place of a hearth's own accesses among the local requests: at the cell of the lowest coordinates in its room, after its
elements and its drain; log entry 2. -/
def roomKey (r : Nat) : Nat := homeKey (roomCell r 0 0) 0xFE

/-- The place of the front door's writes, by port, and of the host's, after every cell's requests; log entry 2. -/
def doorKey (port : Nat) : Nat := 2 ^ 39 + port
def hostKey : Nat := 2 ^ 39 + 2 ^ 20

/-- The place of the argument reads of launch tasks, which no cell makes; log entry 2. -/
def argKey : Nat := 2 ^ 39 + 2 ^ 21

/-- The place of a request that arrives over Ewejan: after every local one, by port (R240). -/
def ewjKey (port : Nat) : Nat := 2 ^ 40 + port

/-- The arrival of a request at memory homes of this device, which order all requests of a tick (R240). -/
def State.memArrivals (s : State) (pieces : List (Nat × Nat)) (key : Nat) : List Served :=
  (pieces.flatMap fun r => s.homesIn r.1 r.2).eraseDups.map fun h => { home := h, lo := 0, len := 1, key := key }

/-- Whether some arrivals come after one of this tick whose place is later, so that they are of the next tick. -/
def State.tooLate (s : State) (as : List Served) : Bool :=
  as.any fun a => s.served.any fun p => p.home == a.home && decide (a.key < p.key) && overlaps a.lo a.len p.lo p.len

/-- Records arrivals of this tick. -/
def State.arrive (s : State) (as : List Served) : State := { s with served := s.served ++ as }

end Sys2Proof.Machine
end

