-- ==== Sys2Proof/Machine/Vanish.lean ====
section
/-! DEFINITION. The release of words, sets and cells, parking wakes, the vanish of a task and its restart or report
(R100, R101, R124, R153, R162, R166, R369). -/

namespace Sys2Proof.Machine

/-- The code of a vanish cause (R100). -/
def causeCode : Cause → Nat
  | .short => 0x01
  | .wound => 0x02
  | .fault => 0x03
  | .cancel => 0x04
  | .ue => 0x05
  | .ueUndervolt => 0x06
  | .vestibuleFull => 0x07
  | .undoFull => 0x08
  | .page => 0x09
  | .link => 0x0A
  | .aged => 0x0B

/-- Whether the wait of a parked task on its word is over: the word has become full for it, for an STFL has become empty, or for a
writer has lost the mark that held it back (R124, R158, R187, R364). -/
def State.parkFull (s : State) (task cell word : Nat) : Bool :=
  let p := (s.cell cell).spad
  let op := (s.task task).parkOp
  let full := wordFull (p.viewSt word (some task)) (p.viewWord word (some task))
  if op = 0x42 ∨ op = 0x43 then full else !p.hidden word (some task) && !(op == 0x45 && full)

/-- Wakes the PARK entries of the tasks and words for which `p` holds: the entry is freed and the task waits to be staged again
(R124). -/
def State.wakeWhere (s : State) (p : Nat → Nat → Nat → Bool) : State :=
  let woken := s.rooms.flatMap fun r => r.2.waitTab.filterMap fun w =>
    match w with
    | .park t c wd => if p t c wd then some t else none
    | .set _ => none
  { s with
    rooms := s.rooms.map fun r => (r.1, { r.2 with waitTab := r.2.waitTab.filter fun w =>
      match w with
      | .park t c wd => !p t c wd
      | .set _ => true })
    tasks := s.tasks.map fun t => if woken.contains t.id then { t with wake := true, run := .woken } else t }

/-- Wakes every PARK entry whose wait is over (R124). -/
def State.wakeParks (s : State) : State := s.wakeWhere s.parkFull

/-- Wakes every PARK entry that waits on a word, as the fill of an ATOMX does (R376). -/
def State.wakeWord (s : State) (cell word : Nat) : State := s.wakeWhere fun _ c w => c == cell && w == word

/-- Undoes one entry (R162). -/
def Spad.undo1 (p : Spad) : Undo → Spad
  | .word _ w v st => p.setWord w v st
  | .btag _ b t => { p with tags := mput p.tags b t 0 }

/-- The task of an undo entry. -/
def Undo.task : Undo → Nat
  | .word t _ _ _ => t
  | .btag t _ _ => t

/-- Walks a task's undo entries newest first, restores them and removes them, with the counting entries it took
(R162, R369). -/
def Spad.rollback (p : Spad) (task : Nat) : Spad :=
  let mine := p.undo.filter fun u => u.task == task
  let q := mine.reverse.foldl Spad.undo1 p
  { q with undo := p.undo.filter fun u => u.task != task, tent := q.tent.filter fun w => w.2 != task,
           counting := (q.counting.filter fun c => c.by_ != some task).map fun c =>
             if c.rel = some task then { c with rel := none } else c }

/-- Drops a task's marks and undo entries at its commit point, and frees the counting entries it released (R160,
R369). -/
def Spad.settle (p : Spad) (task : Nat) : Spad :=
  { p with undo := p.undo.filter fun u => u.task != task, tent := p.tent.filter fun w => w.2 != task,
           counting := (p.counting.filter fun c => c.rel != some task).map fun c =>
             if c.by_ = some task then { c with by_ := none } else c }

/-- Applies a change to the scratchpad of every cell that has one in use. -/
def State.allSpads (s : State) (f : Spad → Spad) : State :=
  { s with cells := s.cells.map fun c => (c.1, { c.2 with spad := f c.2.spad }) }

/-- The oldest task among the waiters of a lock entry (R166). -/
def State.oldestWaiter (s : State) (ws : List Nat) : Option Nat :=
  (ws.filterMap fun o => (s.op? o).bind fun x => s.task? x.task).foldl
    (fun best t =>
      match best with
      | none => some t
      | some b => if ageOlder t.age b.age then some t else some b) (none : Option Task) |>.map (·.id)

/-- Grants a set to a task: its waiting operations on the set go on, and its SET entries are freed (R123, R166). -/
def State.grantSet (s : State) (ctn set task : Nat) : State :=
  let lk := (s.locks.find? fun l => l.ctn == ctn && l.set == set).getD { ctn := ctn, set := set }
  let go := lk.waiters.filter fun o => (s.op? o).any fun x => x.task == task
  State.injectAll { s with
    locks := (s.locks.filter fun l => !(l.ctn == ctn && l.set == set)) ++
      [{ lk with holder := some task, waiters := lk.waiters.filter fun o => !go.contains o }]
    tasks := s.tasks.map fun t =>
      if t.id = task ∧ !t.sets.contains (ctn, set) then { t with sets := t.sets ++ [(ctn, set)] } else t
    ops := s.ops.map fun (o : Op) => if go.contains o.id then { o with phase := .issued } else o
    rooms := s.rooms.map fun r => (r.1, { r.2 with waitTab := r.2.waitTab.filter fun w =>
      match w with
      | .set o => !go.contains o
      | .park _ _ _ => true }) } go

/-- Releases one set: granted to the oldest waiter, or FREE (R166). -/
def State.releaseSet (s : State) (k : Nat × Nat) : State :=
  match s.locks.find? fun l => l.ctn == k.1 && l.set == k.2 with
  | none => s
  | some l =>
    match s.oldestWaiter l.waiters with
    | some t => s.grantSet k.1 k.2 t
    | none => { s with locks := s.locks.filter fun x => !(x.ctn == k.1 && x.set == k.2) }

/-- Releases every set a task holds (R160, R162). -/
def State.releaseSets (s : State) (t : Task) : State :=
  let s1 := { s with locks := s.locks.map fun l => if l.holder = some t.id then { l with holder := none } else l }
  foldState t.sets s1 fun k st => st.releaseSet k

/-- What a cell keeps when its task ends: its scratchpad without the task's tag table, its planes and its staged
tasks (R88, R175, R182, R229, R390, R424). -/
def Cell.cleared (c : Cell) : Cell :=
  { active := c.active, standby := c.standby, shadow := c.shadow,
    spad := { c.spad with table := [] } }

/-- Frees the cells of a task's gang and its shadow slots. -/
def State.freeCells (s : State) (t : Task) : State :=
  { s with cells := s.cells.map fun p =>
      let c := if p.2.owner = some t.id then p.2.cleared else p.2
      (p.1, { c with shadow := c.shadow.filter fun k => k != t.id }) }

/-- Removes a task's operations, its waits and its wait-table entries; the immediate writes whose messages are on their way stay
and finish without it (R162, R270, R274). -/
def State.dropOps (s : State) (task : Nat) : State :=
  let gone := (s.ops.filter fun o => o.task == task).map (·.id)
  { s with
    ops := s.ops.filterMap fun (o : Op) =>
      if o.task ≠ task then some o else (s.orphan o).map fun k => { o with orphan := some k, left := [], retry := false, limit := none }
    locks := s.locks.map fun l => { l with waiters := l.waiters.filter fun o => !gone.contains o }
    rooms := s.rooms.map fun r => (r.1, { r.2 with waitTab := r.2.waitTab.filter fun w =>
      match w with
      | .set o => !gone.contains o
      | .park t _ _ => t != task }) }

/-- Whether a vanished task is restarted (R101). -/
def State.mayRestart (s : State) (t : Task) (c : Cause) : Bool :=
  let e := s.entryOf t
  !e.unguarded && c != .cancel && c != .aged && !(c == .short && !e.mmode) && decide (t.restarts < e.restart)

/-- The report status of a task that is not restarted (R101). -/
def State.endStatus (s : State) (t : Task) (c : Cause) : Nat :=
  if c = .cancel then 0x02 else if (s.entryOf t).unguarded then 0x04 else 0x01

/-- The task as it joins the restart run again: same age, ticket, argument block and generation (R98, R101). -/
def Task.restarted (t : Task) (id : Nat) (c : Cause) : Task :=
  { id := id, tag := t.tag, gen := t.gen, age := t.age, pid := t.pid, ticket := t.ticket, run := .restarted,
    restarts := t.restarts + 1, lastCause := causeCode c, arg := t.arg, launch := t.launch, pin := t.pin, frameSlot := t.frameSlot,
    trapOf := t.trapOf }

/-- The effects of a vanish on everything outside the task's entry (R162): vestibule and records discarded with the
cells, undo entries walked, operations and waits dropped, sets released, balances returned. -/
def State.rollTask (s : State) (t : Task) : State :=
  let s1 := (s.settleTask t).allSpads fun p => p.rollback t.id
  let s2 := (s1.dropOps t.id).freeCells t
  let s3 := if t.halted || (s.logs.haltSt == 2 && t.holds s.logs.haltCell) then { s2 with logs := { s2.logs with haltSt := 3 } } else s2
  (s3.releaseSets t).wakeParks

/-- Ends a vanished task: a restart, or a report with the cause (R101). The body's totals are those at the vanish. -/
def State.vanish1 (s : State) (t : Task) (c : Cause) (noRestart : Bool) (short : Nat) : State :=
  let body := s.taskReport t short (causeCode c)
  let s1 := s.rollTask t
  if s.mayRestart t c && !noRestart then
    let f := s1.fresh
    ({ f.2 with tasks := (f.2.tasks.filter fun (k : Task) => k.id != t.id) ++ [t.restarted f.1 c] }).touchWm t.tag
  else
    let st := s.endStatus t c
    (s1.report t.tag st t.pid body).endTask t (some st)

/-- Whether a room's trap area is enabled and lies in its own wing's landing (R258). -/
def State.trapArea (s : State) (r : Nat) : Option Nat :=
  let b := (s.room r).trapBase
  let base := natField b.toNat 17 27 * 2 ^ 17
  let lo := 0x80000000000 + 0x8000000 * wingOfRoom r
  if b.getLsbD 0 ∧ lo ≤ base ∧ base + 69632 ≤ lo + 0x8000000 then some base else none

/-- The domain physical address of a task's frame, none where the private buffer holds it (R258). -/
def State.frameAddr (s : State) (t : Task) : Option Nat :=
  (s.trapArea t.room).map fun b => s.devNum * 2 ^ 44 + b + 1024 * (t.y0 * 8 + t.x0)

/-- The 1,024 bytes of a task's frame. -/
def State.frameBytes (s : State) (t : Task) : List Byte :=
  match s.frameAddr t with
  | some a => s.physBytes a 1024
  | none => (s.room t.room).privFrame ++ List.replicate (1024 - (s.room t.room).privFrame.length) 0

/-- The arrays in retention that a read of a task's frame waits for (R45). -/
def State.frameAsleep (s : State) (t : Task) : List RetArray :=
  match s.frameAddr t with
  | some a => s.retainedIn a 1024
  | none => []

/-- The arrival of a hearth's access of a task's frame at its homes (R240). -/
def State.frameArrivals (s : State) (t : Task) : List Served :=
  match s.frameAddr t with
  | some a => s.memArrivals [(a, 1024)] (roomKey t.room)
  | none => []

/-- Whether the hearth's access of a task's frame waits: for an array in retention, or for the next tick behind a later requester of
this one (R45, R240). -/
def State.frameHeld (s : State) (t : Task) : Bool := !(s.frameAsleep t).isEmpty || s.tooLate (s.frameArrivals t)

/-- Whether a block of a task's frame is poisoned, so that no read takes it (R224). -/
def State.framePoison (s : State) (t : Task) : Bool :=
  (s.frameAddr t).any fun a => (upTo 16).any fun i => tagPoison (s.physTag (a + 64 * i))

/-- DBG_TRAPLOG takes a task's frame (R262); log entry 44 for a frame that is poisoned. -/
def State.logFrame (s : State) (t : Task) : State :=
  if s.framePoison t then s
  else
    let r := (s.arrive (s.frameArrivals t)).appendLog s.logs.trap 1024 (s.frameBytes t)
    { r.2 with logs := { r.2.logs with trap := r.1 } }

/-- A hearth's action on a frame waits: for the exit of an array in retention, or for the next tick (R45, R240, R262). -/
def State.awaitFrame (s : State) (t : Task) (action : Nat) : State :=
  (s.beginExit (s.frameAsleep t)).updTask t.id fun k => { k with actDue := some action }

/-- The vanish of a task (R162). When the task is a trap handler that is not restarted, the hearth takes REPORT for
the task it answered for, and so on (R262); the fuel bounds the chain by the number of tasks. -/
def State.vanishN (s : State) (fuel : Nat) (id : Nat) (c : Cause) (noRestart : Bool) (short : Nat) : State :=
  match fuel with
  | 0 => s
  | fuel + 1 =>
    match s.task? id with
    | none => s
    | some t =>
      if t.st = .queued ∨ t.st = .committing then s
      else
        let s1 := s.vanish1 t c noRestart short
        if s.mayRestart t c && !noRestart then s1
        else
          match t.trapOf with
          | none => s1
          | some (k, age) =>
            match s1.task? k with
            | some x =>
              if !(x.frozen && x.age == age) then s1
              else if s1.frameHeld x then s1.awaitFrame x 3
              else (s1.logFrame x).vanishN fuel k .fault true 0
            | none => s1

/-- A task vanishes with a cause (R100, R162). -/
def State.vanish (s : State) (id : Nat) (c : Cause) : State := s.vanishN (s.tasks.length + 1) id c false 0

/-- A task vanishes with FAULT and is not restarted; its frame is logged (R262, REPORT). -/
def State.vanishReport (s : State) (t : Task) : State :=
  if s.frameHeld t then s.awaitFrame t 3 else (s.logFrame t).vanishN (s.tasks.length + 1) t.id .fault true 0

end Sys2Proof.Machine
end

