-- ==== Sys2Proof/Machine/Meter.lean ====
section
/-! DEFINITION. The meter of a cell: debits, top-up requests, the stop with its record and shortfall (R132 to R138,
R144 to R151), and the housekeeping account of a room (R139). -/

namespace Sys2Proof.Machine

/-- The outcome of offering a debit to a meter (R146). -/
inductive Pay where
  | paid (s : State)
  | stalled (s : State)
  | stopped (s : State)
  deriving DecidableEq, Repr

/-- The state after an offer; `f` goes on from a paid debit. -/
def Pay.andThen (p : Pay) (f : State → State) : State :=
  match p with
  | .paid s => f s
  | .stalled s => s
  | .stopped s => s

/-- Goes on after a paid debit of an engine's step, which resets the deadlock count of its gang (R264). -/
def Pay.step (p : Pay) (tid : Nat) (f : State → State) : State :=
  p.andThen fun s => f (s.updTask tid fun t => { t with dcount := 0 })

/-- Changes a cell's meter. -/
def State.updMeter (s : State) (c : Nat) (f : Meter → Meter) : State :=
  s.updCell c fun cl => { cl with meter := f cl.meter }

/-- The product of the EXT of a set's used levels; none for an unused set (R180). -/
def CtrSet.extent (c : CtrSet) : Option Nat := if c.ext.isEmpty then none else some (c.ext.foldl (· * ·) 1)

/-- The governing counter's extent (R87). -/
def State.govExtent (s : State) (t : Task) : Option Nat := ((s.cell t.lead).ctr 0).extent

/-- A top-up request of a cell reaches its account's queue, and the meter enters PENDING (R144 to R146). -/
def State.requestTopup (s : State) (t : Task) (c packets : Nat) : State :=
  let s1 := s.updMeter c fun m => { m with pend := true, st := if m.st = .stalled then .stalled else .pending }
  { s1 with sched := { s1.sched with reqs := s1.sched.reqs ++
      [{ since := s.clock.tick, acct := (s.entryOf t).acct, cell := c, task := t.id, packets := packets }] } }

/-- Whether the automatic trigger fires (R145). -/
def Meter.autoDue (m : Meter) : Bool := m.awm != 0 && decide (m.bal < m.awm) && !m.pend && decide (m.acnt < m.am)

/-- The automatic trigger asks (R145). -/
def State.autoRequest (s : State) (t : Task) (c : Nat) : State :=
  (s.updMeter c fun m => { m with acnt := m.acnt + 1 }).requestTopup t c (s.cell c).meter.an

/-- Whether an element of a cell has fired a SPAWN in this tick, which the tick's end may take back (R359). -/
def Cell.spawning (cl : Cell) (tick : Nat) : Bool := cl.elems.any fun p => p.2.spawnTick == some tick

/-- The automatic trigger after a debit (R145); in a tick in which a SPAWN of the cell may still be taken back it waits for the tick's
end (R359). -/
def State.autoTopup (s : State) (t : Task) (c : Nat) : State :=
  if !(s.cell c).meter.autoDue then s
  else if (s.cell c).spawning s.clock.tick then s.updMeter c fun m => { m with autoLate := true }
  else s.autoRequest t c

/-- The automatic triggers that waited for the end of the tick (R145, R359). -/
def State.lateTopups (s : State) : State :=
  foldState (s.cells.filter fun p => p.2.meter.autoLate) s fun p st =>
    let st1 := st.updMeter p.1 fun m => { m with autoLate := false }
    match st1.owner? p.1 with
    | some t => if p.2.meter.pend || decide (p.2.meter.am ≤ p.2.meter.acnt) then st1 else st1.autoRequest t p.1
    | none => st1

/-- A debit booked in a meter. -/
def Meter.debit (m : Meter) (cost : Nat) : Meter :=
  { m with bal := m.bal - cost, cons := m.cons + cost, sinceEntry := m.sinceEntry + cost, sinceAdv := m.sinceAdv + cost,
           heldDebit := 0, heldBy := none }

/-- The entry debit booked in a meter: the figures of R149 leave it out. -/
def Meter.entryDebit (m : Meter) (cost : Nat) : Meter := { m.debit cost with sinceEntry := m.sinceEntry, sinceAdv := m.sinceAdv }

/-- The figures of a stop (R149): done, rem, the iteration debit used, whether it is exact, the shortfall. -/
structure StopFigs where
  done : Nat := 0
  rem : Nat := 0
  iter : Nat := 0
  exact : Bool := false
  short : Nat := 1
  deriving DecidableEq, Repr, Inhabited

/-- The shortfall of R149. -/
def stopFigs (done : Nat) (extent : Option Nat) (m : Meter) (cost : Nat) (atEntry : Bool) : StopFigs :=
  let rem := match extent with
    | some e => e - done
    | none => 1
  let iter := if atEntry then 0 else if done > 0 then m.lastIter else m.sinceEntry + cost
  let s : Int := if atEntry then (cost : Int) - m.bal else (rem * iter : Nat) - (m.bal : Int)
  { done := done, rem := rem, iter := iter, exact := !atEntry && decide (done > 0) && m.uniform,
    short := max 1 ((s + 63) / 64).toNat }

/-- A stop record (R151). -/
def stopRecord (t : Task) (e : RtEntry) (c : Nat) (m : Meter) (f : StopFigs) (cost : Nat) (atEntry : Bool) :
    List Byte :=
  recBytes [(8, t.age), (8, t.pid.toNat), (2, t.tag), (2, e.acct), (1, cellX c), (1, cellY c), (1, bit e.mmode),
    (1, bit f.exact + 2 * bit atEntry + 4 * bit m.denied), (4, m.decl), (4, m.topped), (4, m.cons), (4, m.bal),
    (4, cost), (4, f.done), (4, f.rem), (4, f.iter), (4, f.short), (4, 0)]

/-- The stop of a gang in a cell (R148 to R151): a stop record, and the task vanishes with SHORT. -/
def State.meterStop (s : State) (t : Task) (c cost : Nat) (atEntry : Bool) : State :=
  let m := (s.cell c).meter
  let f := stopFigs t.iters (s.govExtent t) m cost atEntry
  let r := s.appendLog s.logs.meter 64 (stopRecord t (s.entryOf t) c m f cost atEntry)
  let s1 := { r.2 with logs := { r.2.logs with meter := r.1 } }
  s1.vanishN (s1.tasks.length + 1) t.id .short false f.short

/-- The charge pumped during a firing in physical mode: a free number of packets within the allowance (R135);
log entry 3. -/
def State.pumped (s : State) (c : Nat) : State :=
  let f := s.free
  let m := (s.cell c).meter
  let p := 64 * (f.1.toNat % (m.bal / 64 + 1))
  f.2.updMeter c fun m => m.debit p

/-- Offers a debit of a task's firing to the meter of a cell (R146). A firing held by a stall is offered again after
the grant; `heldDebit` keeps the debit it waits with. No meter of a frozen gang debits anything (R254). A debit that a SPAWN of the
tick leaves uncovered is offered again after the tick, whose end may take that SPAWN back (R359). -/
def State.pay (s : State) (t : Task) (c cost : Nat) : Pay :=
  let m := (s.cell c).meter
  if t.frozen then .stalled s
  else if m.st = .paying ∨ m.st = .pending then
    if (s.entryOf t).mmode then .paid ((s.pumped c).autoTopup t c)
    else if cost ≤ m.bal then .paid ((s.updMeter c fun m => m.debit cost).autoTopup t c)
    else if (s.cell c).spawning s.clock.tick then .stopped s
    else if m.st = .pending then .stalled (s.updMeter c fun m => { m with st := .stalled, heldDebit := cost })
    else .stopped (s.meterStop t c cost false)
  else .stalled s

/-- The key under which a meter knows the debit of an operation under way; the smaller numbers are engines: 10 the rows of the matrix
engine, 13 the scan unit, 16 on the domains of the DDA, 256 on the edge ports. -/
def Op.payKey (o : Op) : Nat := 4096 + o.id

/-- Whether a key is that of a source, which gating stops between firings (R201, R268). -/
def sourceKey (k : Nat) : Bool := k == 13 || decide (16 ≤ k ∧ k < 4096)

/-- Whether a meter's debit is kept for another requester than `key`: an element or an engine that a stall held is debited and made
first when its grant comes (R146). -/
def Cell.heldFor (cl : Cell) (key : Nat) : Bool :=
  (cl.elems.any fun p => p.2.held.isSome) || cl.meter.heldBy.any fun k => k != key

/-- Offers a debit of an engine, or of an operation under way, to the meter (R146): a stall holds it under its key. -/
def State.payEngine (s : State) (t : Task) (c key cost : Nat) : Pay :=
  if (s.cell c).heldFor key then .stalled s
  else
    match s.pay t c cost with
    | .paid s1 => .paid s1
    | .stalled s1 =>
      if (s.cell c).meter.st = .pending ∧ (s1.cell c).meter.st = .stalled then
        .stalled (s1.updMeter c fun m => { m with heldBy := some key })
      else .stalled s1
    | .stopped s1 => .stopped s1

/-- An advance of the governing counter, signalled to every cell of the gang (R149). -/
def State.iterDone (s : State) (t : Task) : State :=
  let s1 := s.updGang t fun cl =>
    let m := cl.meter
    let first := if t.iters = 0 then m.sinceAdv else m.firstIter
    { cl with meter := { m with lastIter := m.sinceAdv, firstIter := first,
                                uniform := (t.iters == 0 || m.uniform) && m.sinceAdv == first, sinceAdv := 0 } }
  s1.updTask t.id fun k => { k with iters := k.iters + 1 }

/-- A debit of a room's housekeeping account, recorded even at a zero balance (R139). -/
def State.houseDebit (s : State) (r mu : Nat) : State :=
  s.updAcct (s.room r).hkAcct fun a =>
    { a with balance := a.balance - mu, consumed := min (a.consumed + mu) (2 ^ 64 - 1) }

end Sys2Proof.Machine
end

