-- ==== Sys2Proof/Machine/Engines.lean ====
section
/-! DEFINITION. The engines of a cell as the readiness rule and the quiescence tree see them: tile slots (R182), the
matrix engine's rules and regions (R407 to R409), the converter (R416), the DDA (R427, R434), and what each opcode
asks of its engine before it fires (R283, R404 to R437). -/

namespace Sys2Proof.Machine

/-- The present step of a cell ends: what an engine has changed in it is seen from the next one on (R183, R192, R347). -/
def State.endStep (s : State) (c : Nat) : State := s.updCell c fun cl => { cl with turned := none }

/-- A tile slot. -/
def Cell.tile (c : Cell) (i : Nat) : Tile := mget c.tiles i {}

/-- Changes a tile slot. -/
def Cell.setTile (c : Cell) (i : Nat) (t : Tile) : Cell := { c with tiles := mset c.tiles i t }

/-- Whether an engine node is frozen by its fault (R254). -/
def Cell.nodeFrozen (c : Cell) (n : Nat) : Bool := (mfind c.nodeFault n).isSome

/-- Whether a wing is in droop hold (R41). -/
def State.droopHold (s : State) (c : Nat) : Bool := (mfind s.power.droopUntil (wingOfCell c)).isSome

/-! ### The matrix engine -/

/-- A region word; none where it breaks its layout (R407). -/
def regionOf (w : Word) : Option Region :=
  let r : Region := { row0 := natField w.toNat 25 7, nrow := natField w.toNat 18 7, cg0 := natField w.toNat 15 3,
                      ncg := natField w.toNat 12 3 }
  if natField w.toNat 0 12 ≠ 0 ∨ r.row0 + r.nrow > 127 ∨ r.cg0 + r.ncg > 7 then none else some r

/-- The rows of a region. -/
def Region.rows (r : Region) : List Nat := (upTo (r.nrow + 1)).map (r.row0 + ·)

/-- The column groups of a region. -/
def Region.groups (r : Region) : List Nat := (upTo (r.ncg + 1)).map (r.cg0 + ·)

/-- The cells of a region: 8 × row + group (R407). -/
def Region.cells (r : Region) : List Nat := r.rows.flatMap fun i => r.groups.map fun g => 8 * i + g

/-- Whether a region covers a column. -/
def Region.hasColumn (r : Region) (col : Nat) : Bool := decide (r.cg0 ≤ col / 16) && decide (col / 16 ≤ r.cg0 + r.ncg)

/-- Whether two regions share a cell. -/
def Region.meets (a b : Region) : Bool :=
  overlaps a.row0 (a.nrow + 1) b.row0 (b.nrow + 1) && overlaps a.cg0 (a.ncg + 1) b.cg0 (b.ncg + 1)

/-- The state of an accumulator cell. -/
def Mx.cell (m : Mx) (row g : Nat) : AccSt := mget m.st (8 * row + g) .empty

/-- Whether rule r could fire its next row now, the meter aside (R192, R409). -/
def ruleCanFire (cl : Cell) (r : MxRule) : Bool :=
  (cl.tile r.aslot).st == .ready && r.region.groups.all fun g => cl.mx.cell (r.region.row0 + r.row) g != .held

/-- The rule whose row fires next: the lowest-numbered that can (R192). -/
def State.nextRule (s : State) (c : Nat) : Option (Nat × MxRule) :=
  let cl := s.cell c
  if cl.mx.load.isSome || cl.mx.sort.isSome || s.droopHold c || cl.nodeFrozen 10 then none
  else (upTo 4).findSome? fun i =>
    match mfind cl.mx.rules i with
    | some r => if ruleCanFire cl r then some (i, r) else none
    | none => none

/-- Whether an armed rule's region shares a cell with a region (R410). -/
def Mx.ruleMeets (m : Mx) (g : Region) : Bool := m.rules.any fun p => p.2.region.meets g

/-- Whether a column of a region holds a parked register (R185). -/
def Cell.parkedIn (c : Cell) (g : Region) : Bool := c.vec.spill.any fun p => g.hasColumn p.2.col

/-! ### The DDA -/

/-- A patch entry; one that is not listed has every source none (R424). -/
def emptyPatch : BitVec 128 := BitVec.ofNat 128 ((511 * 2 ^ 110) + (511 * 16) * (2 ^ 97 + 2 ^ 84 + 2 ^ 71 + 2 ^ 58))

/-- A patch entry (R194). -/
def Dda.entry (d : Dda) (i : Nat) : BitVec 128 := mget d.patch i emptyPatch

/-- The fields of a patch entry (R194): DOM, DXSRC, and the source and shift of DY n. -/
def patchDom (p : BitVec 128) : Nat := natField p.toNat 119 2
def patchDx (p : BitVec 128) : Nat := natField p.toNat 110 9
def patchDy (p : BitVec 128) (n : Nat) : Nat := natField p.toNat (62 + 13 * n) 9
def patchSh (p : BitVec 128) (n : Nat) : Nat := natField p.toNat (58 + 13 * n) 4

/-- The sources of an integrator: DXSRC and DY0 to DY3. -/
def patchSources (p : BitVec 128) : List Nat := patchDx p :: (upTo 4).map (patchDy p)

/-- The domain of an integrator. -/
def Dda.domOf (d : Dda) (i : Nat) : Nat := patchDom (d.entry i)

/-- A domain controller. -/
def Dda.dom (d : Dda) (n : Nat) : Dom := mget d.doms n {}

/-- Changes a domain controller. -/
def Dda.updDom (d : Dda) (n : Nat) (f : Dom → Dom) : Dda := { d with doms := mset d.doms n (f (d.dom n)) }

/-- The DDA as a completed DRUN leaves it: the first step of a counted domain falls in the next tick (R434). -/
def Dda.runDone (d : Dda) (o : Op) (tick : Nat) : Dda :=
  let n := o.f.src2.toNat % 4
  if o.opc = 0xD5 ∧ o.c = false ∧ (d.dom n).st = .running ∧ (d.dom n).mode = .counted ∧ (d.dom n).count = 0 then
    d.updDom n fun k => { k with next := max k.next (tick + 1) }
  else d

/-- Whether a DRUN of a domain has not completed. -/
def State.runPending (s : State) (c n : Nat) : Bool :=
  s.ops.any fun o => o.opc == 0xD5 && o.cell == c && o.f.src2.toNat % 4 == n

/-- Whether a domain is RUNNING. -/
def Dda.running (d : Dda) (n : Nat) : Bool := (d.dom n).st == .running

/-- Whether any domain is RUNNING. -/
def Dda.anyRunning (d : Dda) : Bool := (upTo 4).any d.running

/-- The domains that read an external port (R195). -/
def portDomains (entry : Nat → BitVec 128) (p : Nat) : List Nat :=
  ((upTo 256).filterMap fun i =>
    if (patchSources (entry i)).contains (256 + p) then some (patchDom (entry i)) else none).eraseDups

/-- The latch of an external port that no integrator reads is never full (R437). -/
def Dda.prunePorts (d : Dda) : Dda := { d with ports := d.ports.filter fun p => !(portDomains d.entry p.1).isEmpty }

/-- Whether a slot names a channel that a domain in token mode takes (R434). -/
def Dda.takesChannel (d : Dda) (e : Nat) (f : Slot) : Bool :=
  d.doms.any fun p =>
    p.2.mode == .token && p.2.tel == e
      && (f.need.getLsbD p.2.tch || f.deq.getLsbD p.2.tch || (f.ten && f.tch.toNat == p.2.tch))

/-! ### What an opcode asks of its engine -/

/-- Whether an opcode is a memory operation that a FENCE of its element holds back (R244, R371). -/
def fenced (op : Nat) : Bool :=
  (decide (0x40 ≤ op ∧ op < 0x78) && op != 0x5A) || decide (0xA0 ≤ op ∧ op ≤ 0xA3) || op == 0xCC || op == 0xF6

/-- Whether an element has a FENCE under way. -/
def State.fenceUp (s : State) (c e : Nat) : Bool := s.ops.any fun o => o.opc == 0x4B && o.cell == c && o.elem == e

/-- Whether an operation still counts as a memory operation to be performed for DONE and FENCE (R357, R362). -/
def Op.memPending (o : Op) : Bool :=
  fenced o.opc && o.opc != 0x4B && o.phase != .performed

/-- The readiness of the matrix and converter instructions (R404 to R416); a droop hold holds every firing of the matrix
engine (R41). MXCLR, MXRD and MXDRN never cover a parked column (R402); log entry 86. -/
def matrixReady (s : State) (c op : Nat) (a b : Word) : Bool :=
  let cl := s.cell c
  let busy := cl.mx.load.isSome || cl.mx.sort.isSome
  if op ≠ 0xC8 ∧ s.droopHold c = true then false
  else if op = 0xC0 then cl.mx.rules.isEmpty && !busy
  else if op = 0xC1 then !busy && (s.nextRule c).isNone
  else if op = 0xC2 then
    if natBit a.toNat 29 && natField a.toNat 0 24 == 0 then
      match regionOf b with
      | some g => (mfind cl.mx.rules (natField a.toNat 30 2)).isNone && !cl.parkedIn g
      | none => true
    else true
  else if op = 0xC3 ∨ op = 0xC5 then
    match regionOf a with
    | some g => !cl.mx.ruleMeets g && !cl.parkedIn g
    | none => true
  else if op = 0xC4 then
    let g : Region := { row0 := natField a.toNat 0 7, nrow := 0, cg0 := 2 * natField a.toNat 7 2, ncg := 1 }
    !cl.mx.ruleMeets g && !cl.parkedIn g
  else if op = 0xC6 then !busy
  else if op = 0xC8 then
    cl.conv.job.isNone && (cl.tile (natField a.toNat 22 3)).st == .ready
      && (natField a.toNat 30 2 != 0 || (cl.tile (natField a.toNat 25 3)).st == .empty)
  else true

/-- The readiness of the DDA instructions (R427, R437). -/
def ddaReady (d : Dda) (op : Nat) (f : Slot) (a g1 : Word) : Bool :=
  let i := natField a.toNat 0 8
  if op = 0xD0 then
    !d.running (d.domOf i) && (f.src2.toNat != 5 || !d.running (natField g1.toNat 0 2))
  else if op = 0xD1 ∨ op = 0xD7 ∨ op = 0xD8 then !d.anyRunning
  else if op = 0xD2 ∨ op = 0xD3 then !d.running (d.domOf i)
  else if op = 0xD4 then !d.running (natField a.toNat 0 2)
  else if op = 0xDB then (mfind d.ports (natField a.toNat 0 4)).isNone
  else true

/-- Whether a transfer of a cell's DDA has been accepted and is not carried out: the DDA acts in the order of acceptance (R425). -/
def State.transferUp (s : State) (c : Nat) : Bool :=
  s.ops.any fun o => o.cell == c && (o.opc == 0xD1 || o.opc == 0xD7 || o.opc == 0xD8) && o.phase != .performed

/-- Whether a matrix rule armed in the present step covers a column: a VPARK into it is not ready in that step (R423). -/
def Cell.armedOver (cl : Cell) (col : Nat) : Bool :=
  cl.armed.any fun n => (mfind cl.mx.rules n).any fun r => r.region.hasColumn col

/-- What the instruction's own rule adds to R283. `a` and `b` are its sources, `g1` is g_(s+1). A SEMSIG counts before the
hearth's wait is tested, so it belongs to the next tick once that test has passed (R172, R359). A VPARK waits for the end of a drain
that covers its column, log entry 86, and what tells or asks of the meter for the end of a tick in which a SPAWN may be taken back, log
entry 95 (R359, R402). -/
def State.instrReady (s : State) (t : Task) (c e op : Nat) (f : Slot) (a b g1 : Word) : Bool :=
  let cl := s.cell c
  if fenced op && s.fenceUp c e then false
  else if op = 0x53 then (cl.tile (dstSlot f)).st == .ready || (cl.tile (dstSlot f)).st == .empty
  else if op = 0x52 then
    (mget cl.mcast (f.dst.toNat / 8) []).all fun p =>
      ((s.cell (t.cellAt p.1 p.2)).tile (dstSlot f)).st == .empty
  else if op = 0xCA then !cl.scan.busy
  else if op = 0xA5 then
    let col := ((cl.elem e).greg (f.src1.toNat - 16)).toNat
    !cl.armedOver col && !cl.mx.drains.any fun d => d.region.hasColumn col
  else if op = 0xF4 then !cl.spawning s.clock.tick
  else if op = 0xF5 then !cl.meter.pend && !cl.spawning s.clock.tick
  else if op = 0xF7 then !(s.room (roomOf c)).tested.contains (a.toNat % 256)
  else if op = 0xFE then
    (cl.elem e).pendG == 0 && (cl.elem e).pendP == 0
      && !s.ops.any fun o => o.cell == c && o.elem == e && o.memPending
  else if 0xC0 ≤ op ∧ op ≤ 0xC8 then matrixReady s c op a b
  else if 0xD0 ≤ op ∧ op ≤ 0xDC then !s.transferUp c && ddaReady cl.dda op f a g1
  else true

end Sys2Proof.Machine
end

