-- ==== Sys2Proof/Machine/Ops.lean ====
section
/-! DEFINITION. The shared operations of every firing: tokens on their routes (R176, R177), the readiness rule (R283),
the choice of a slot (R128), the debit of a firing (R137, R138), completion within a step and by writeback (R284,
R362), address formation with its checks (R360), raising a fault, taking the trap and returning from it (R254 to
R263). -/

namespace Sys2Proof.Machine

/-! ### Tokens -/

/-- Whether an element number of a cell names an edge port (R318): port e − 4 of an address cell. -/
def isEdge (c e : Nat) : Bool := kindOf c == .address && decide (4 ≤ e)

/-- An edge port of a cell. -/
def Cell.edge (c : Cell) (p : Nat) : Edge := mget c.edges p {}

/-- The input channel at an element input, or the queue of an outbound edge port. -/
def State.inputAt (s : State) (c e i : Nat) : Input :=
  if isEdge c e then ((s.cell c).edge (e - 4)).inq else (s.elem c e).input i

/-- Changes the input channel at an element input, or the queue of an outbound edge port. -/
def State.updInputAt (s : State) (c e i : Nat) (f : Input → Input) : State :=
  if isEdge c e then
    s.updCell c fun cl =>
      let g := cl.edge (e - 4)
      { cl with edges := mset cl.edges (e - 4) { g with inq := f g.inq } }
  else s.updElem c e fun el => el.updInput i f

/-- Tokens that a channel holds or has promised (R176, R291). -/
def Input.used (x : Input) : Nat := x.q.length + x.transit.length + x.reserved

/-- Whether a channel has space for a token (R176). -/
def Input.hasRoom (x : Input) : Bool := decide (x.used < 4)

/-- Whether every destination has space (R176). -/
def State.space (s : State) (t : Task) (ds : List Dest) : Bool :=
  ds.all fun d => (s.inputAt (t.cellAt d.x d.y) d.e d.i).hasRoom

/-- Keeps the space of one token at every destination (R284, R291). -/
def State.reserve (s : State) (t : Task) (ds : List Dest) : State :=
  foldState ds s fun d st =>
    st.updInputAt (t.cellAt d.x d.y) d.e d.i fun x => { x with reserved := x.reserved + 1 }

/-- Gives kept space back. -/
def State.unreserve (s : State) (t : Task) (ds : List Dest) : State :=
  foldState ds s fun d st =>
    st.updInputAt (t.cellAt d.x d.y) d.e d.i fun x => { x with reserved := x.reserved - 1 }

/-- An element of a cell has been sent a token within the cell, which it sees no earlier than in the next step (R177). -/
def State.noteSent (s : State) (c e : Nat) : State :=
  if isEdge c e then s else s.updCell c fun cl => { cl with sentTo := e :: cl.sentTo }

/-- A token enters every destination; one to another cell is on its way until it arrives (R177). -/
def State.send (s : State) (t : Task) (c : Nat) (ds : List Dest) (tok : Token) : State :=
  foldState ds s fun d st =>
    let dc := t.cellAt d.x d.y
    if dc = c then (st.updInputAt dc d.e d.i fun x => { x with q := x.q ++ [tok] }).noteSent dc d.e
    else st.updInputAt dc d.e d.i fun x => { x with transit := x.transit ++ [tok] }

/-- The destinations of an element output. -/
def Elem.out (e : Elem) (o : Nat) : List Dest := mget e.outs o []

/-- The number of destinations in other cells (R137). -/
def crossings (t : Task) (c : Nat) (ds : List Dest) : Nat := (ds.filter fun d => t.cellAt d.x d.y != c).length

/-! ### A firing -/

/-- A firing that may be made: its element and slot, its task, and its sources as they stand (R284 step 1). -/
structure Fire where
  c : Nat := 0
  e : Nat := 0
  k : Nat := 0
  t : Task := {}
  op : Nat := 0
  f : Slot := {}
  a : Word := 0
  b : Word := 0
  cin : Bool := false
  tnt : Bool := false
  deriving DecidableEq, Repr, Inhabited

/-- The firing of a slot of the element that State.cur names; none where no task holds the cell. -/
def State.fireAt (s : State) (op : Nat) (f : Slot) : Option Fire :=
  match s.owner? s.cur.cell with
  | none => none
  | some t =>
    let cl := s.cell s.cur.cell
    let el := cl.elem s.cur.elem
    some { c := s.cur.cell, e := s.cur.elem, k := s.cur.slot, t := t, op := op, f := f,
           a := srcVal cl el f.src1, b := src2Val cl el f, cin := el.pb.getLsbD f.pidx.toNat,
           tnt := tainted el (needsOf op f) }

/-- Whether an opcode may send an order token (R291): the memory class. -/
def orderClass (op : Nat) : Bool := decide (0x40 ≤ op ∧ op < 0x78)

/-- The destinations of the result, where DST names an output (R286). -/
def dstOut (el : Elem) (op : Nat) (f : Slot) : List Dest :=
  if (needsOf op f).result && decide (16 ≤ f.dst.toNat ∧ f.dst.toNat < 20) then el.out (f.dst.toNat - 16) else []

/-- The destinations of the order token (R291). -/
def orderOut (el : Elem) (op : Nat) (f : Slot) : List Dest :=
  if orderClass op && f.otag.getLsbD 2 then el.out (natField f.otag.toNat 0 2) else []

/-- The tag of a result's token: OTAG where the class gives it that meaning, 0 elsewhere (R289). -/
def tokenTag (op : Nat) (f : Slot) : BitVec 3 :=
  if op = 0x1E ∨ 0x38 ≤ op ∧ op < 0xC0 then 0 else f.otag

/-- The predicates that the slot's trigger or its operation waits for (R284). -/
def predNeed (nd : Needs) (f : Slot) : BitVec 8 := nd.p ||| f.pmask

/-- Pending(s) of R283. -/
def pendingBlocks (cl : Cell) (el : Elem) (nd : Needs) (f : Slot) : Bool :=
  (el.pendG &&& (nd.rg ||| nd.wg)) != 0 || (el.pendP &&& predNeed nd f) != 0
    || (cl.vec.pendV &&& nd.v) != 0 || (cl.vec.pendM &&& nd.m) != 0

/-- TilesOK(s) of R283. -/
def tilesOk (cl : Cell) (nd : Needs) : Bool :=
  (nd.reads.all fun i => (cl.tile i).st == .ready) && (nd.fills.all fun i => (cl.tile i).st == .empty)

/-- The trigger of R283: predicates, tokens needed and the tag test. -/
def triggerOk (el : Elem) (f : Slot) : Bool :=
  (el.pb &&& f.pmask) == f.pval
    && ((upTo 4).all fun i => !f.need.getLsbD i || decide (1 ≤ el.occ i))
    && (!f.ten || (decide (1 ≤ el.occ f.tch.toNat) && (el.head f.tch.toNat).tag == f.tag))

/-- Whether a tag-7 token heads an input or a switch mark is held (R202). -/
def Elem.switching (el : Elem) : Bool :=
  el.switchMark || (upTo 4).any fun i => decide (1 ≤ el.occ i) && (el.head i).tag == 7

/-- Whether an element fires nothing: done, frozen, halted or switching (R202, R254, R276, R357). -/
def Elem.stopped (el : Elem) : Bool := el.done || el.frozen || el.halted || el.switching

/-- Whether a meter takes debits (R146). -/
def Meter.takes (m : Meter) : Bool := m.st == .paying || m.st == .pending

/-- Whether another element of the cell, or an engine, holds a firing that waits for a grant or is debited first (R146). -/
def Cell.heldByOther (cl : Cell) (e : Nat) : Bool :=
  (cl.elems.any fun p => p.1 != e && p.2.held.isSome) || cl.meter.heldBy.isSome

/-- Whether the limit of a wait of an element has passed: its trap is its next step (R122). -/
def State.trapComes (s : State) (c e : Nat) : Bool :=
  s.ops.any fun o => o.cell == c && o.elem == e && o.phase == .waiting && !o.replay && o.orphan.isNone && s.limitPassed o

/-- Ready(s) of R283 for a firing, the meter's debit and the space at its destinations aside. An element that has fired a SPAWN fires
again once its tick has ended (R359), a slot whose SPAWN is held back for its task's restore fires after it (R118), and an element whose
wait has expired traps first (R122). -/
def State.readyBut (s : State) (x : Fire) : Bool :=
  let cl := s.cell x.c
  let el := cl.elem x.e
  let nd := needsOf x.op x.f
  x.t.st == .running && !x.t.frozen && !x.t.halted && !el.stopped && cl.meter.takes && !cl.heldByOther x.e
    && el.spawnTick != some s.clock.tick && !el.barred.getLsbD x.k && !s.trapComes x.c x.e
    && !(x.t.gate != .none && el.source.getLsbD x.k)
    && !(decide (0x40 ≤ x.op ∧ x.op < 0xE0) && cl.nodeFrozen (nodeOfOp x.op))
    && !cl.dda.takesChannel x.e x.f
    && triggerOk el x.f
    && !pendingBlocks cl el nd x.f && tilesOk cl nd
    && s.instrReady x.t x.c x.e x.op x.f x.a x.b (el.greg (x.f.src1.toNat + 1))

/-- Whether every destination of a firing has space (R176). -/
def State.hasCredit (s : State) (x : Fire) : Bool :=
  let el := s.elem x.c x.e
  s.space x.t (dstOut el x.op x.f) && s.space x.t (orderOut el x.op x.f)

/-- Ready(s) of R283 for a firing, the meter's debit aside. -/
def State.ready (s : State) (x : Fire) : Bool := s.readyBut x && s.hasCredit x

/-- A firing made where its slot is ready; a slot that is not ready does not fire (R283). -/
def State.fire (s : State) (op : Nat) (f : Slot) (body : Fire → State → State) : State :=
  match s.fireAt op f with
  | none => s
  | some x => if s.ready x then body x s else s

/-- A valid slot of an element as opcode and fields. -/
def Elem.slotAt (el : Elem) (k : Nat) : Option (Nat × Slot) :=
  match mfind el.slots k with
  | some w => if validOfBits w.toNat then some (opOfBits w.toNat, slotOfBits w.toNat) else none
  | none => none

/-- The state with an element and slot as the site of the firing. -/
def State.atSite (s : State) (c e k : Nat) : State := { s with cur := { s.cur with cell := c, elem := e, slot := k } }

/-- Whether slot k of an element is ready. -/
def State.slotReady (s : State) (c e k : Nat) : Bool :=
  match (s.elem c e).slotAt k with
  | none => false
  | some p =>
    match (s.atSite c e k).fireAt p.1 p.2 with
    | some x => s.ready x
    | none => false

/-- Whether slot k of an element lacks nothing but credit at a destination (R40, R176). -/
def State.slotStalls (s : State) (c e k : Nat) : Bool :=
  match (s.elem c e).slotAt k with
  | none => false
  | some p =>
    match (s.atSite c e k).fireAt p.1 p.2 with
    | some x => s.readyBut x && !s.hasCredit x
    | none => false

/-- The order in which an element tries its slots: the held firing first, then fixed or rotating priority (R128). -/
def Elem.slotOrder (el : Elem) : List Nat :=
  let base := if el.rot then (upTo 16).map fun i => (el.last.getD 15 + 1 + i) % 16 else upTo 16
  match el.held with
  | some k => k :: base
  | none => base

/-- The slot that an element fires (R128). -/
def State.pickSlot (s : State) (c e : Nat) : Option Nat := (s.elem c e).slotOrder.find? (s.slotReady c e)

/-- The engine that the chosen slot of an element would use, the arbiters aside. -/
def State.offered (s : State) (c e : Nat) : Option Nat :=
  (s.pickSlot c e).bind fun k => ((s.elem c e).slotAt k).bind fun p => engineOf p.1

/-- Whether the turn of an element begins a new step of its cell: elements take their turns in a step in increasing number, and
so do their debits; one that a token of the step has been sent to sees it in the next step (R129, R148, R177). -/
def Cell.newStep (cl : Cell) (e : Nat) : Bool := cl.turned.all (fun k => decide (e ≤ k)) || cl.sentTo.contains e

/-- The place of an element in the rotating order of an engine: the element after the one it accepted last is first (R129). Element 0
is the first of an engine that has accepted none since the task entered the cell; log entry 2. -/
def Cell.place (cl : Cell) (n count e : Nat) : Nat :=
  (e + count - (match mfind cl.accepted n with
    | some k => (k + 1) % count
    | none => 0)) % count

/-- Whether the input buffer of an engine or port holds an access, so that the nodes before it stall (R266). -/
def State.portHeld (s : State) (c n : Nat) : Bool :=
  s.ops.any fun o => o.phase == .held && !o.replay && o.cell == c && nodeOfOp o.opc == n

/-- Whether engine `n` accepts a firing of element `e` in this step: it holds no access, it has accepted no firing, and no element
whose turn is still to come offers one and stands before it in rotating order (R129, R266). -/
def State.accepts (s : State) (c e n : Nat) : Bool :=
  let cl := s.cell c
  !s.portHeld c n && !cl.took.contains n && (upTo (elemCount c)).all fun k =>
    !(decide (e < k) && decide (cl.place n (elemCount c) k < cl.place n (elemCount c) e) && s.offered c k == some n)

/-- The slot that an element fires in its turn: the first in its order that is ready and whose engine accepts it (R128, R129). -/
def State.chooseSlot (s : State) (c e : Nat) : Option Nat :=
  (s.elem c e).slotOrder.find? fun k => s.slotReady c e k &&
    match ((s.elem c e).slotAt k).bind fun p => engineOf p.1 with
    | some n => s.accepts c e n
    | none => true

/-- The turn of an element is noted, with the engine that accepts its firing (R129). -/
def State.noteTurn (s : State) (c e : Nat) (n : Option Nat) : State :=
  s.updCell c fun cl =>
    { cl with turned := some e,
              took := cl.took ++ n.toList,
              accepted := match n with
                | some k => mset cl.accepted k e
                | none => cl.accepted }

/-- The word of a slot. -/
def State.slotWord (s : State) (c e k : Nat) : Nat := (mget (s.elem c e).slots k 0).toNat

/-! ### The debit of a firing -/

/-- The cost of tokens to other cells, the order token included (R137). -/
def State.tokenCost (s : State) (x : Fire) : Nat :=
  let el := s.elem x.c x.e
  4 * (crossings x.t x.c (dstOut el x.op x.f) + crossings x.t x.c (orderOut el x.op x.f))

/-- Marks a firing as made: rotating priority, the held firing, the deadlock count (R128, R146, R264). -/
def State.fired (s : State) (x : Fire) : State :=
  (s.updElem x.c x.e fun el =>
    { el with last := some x.k, held := none, paid := if el.paid = some x.k then none else el.paid }).updTask x.t.id
    fun t => { t with dcount := 0 }

/-- Offers the debit of a firing; a firing repeated after a trap is not debited twice (R138, R146, R262). -/
def State.offer (s : State) (x : Fire) (cost : Nat) (body : State → State) : State :=
  if (s.elem x.c x.e).paid = some x.k then body (s.fired x)
  else
    match s.pay x.t x.c (cost + s.tokenCost x) with
    | .paid s1 => body (s1.fired x)
    | .stalled s1 => s1.updElem x.c x.e fun el => { el with held := some x.k }
    | .stopped s1 => s1

/-! ### Completion within the step (R284) -/

/-- Drops the head of a channel. -/
def Elem.pop (el : Elem) (i : Nat) : Elem := el.updInput i fun x => { x with q := x.q.drop 1 }

/-- Pops the channels named in DEQ (R284 step 6). -/
def Elem.popAll (el : Elem) (deq : BitVec 4) : Elem :=
  (upTo 4).foldl (fun e i => if deq.getLsbD i then e.pop i else e) el

/-- Writes a result to a g register or to PB (R284 steps 3 and 4). -/
def Elem.writeDst (el : Elem) (op : Nat) (f : Slot) (r : Word) (tnt : Bool) : Elem :=
  if !(needsOf op f).result then el
  else if f.dst.toNat < 16 then el.setG f.dst.toNat r tnt
  else if f.dst.toNat = 29 then { el with pb := BitVec.ofNat 8 r.toNat }
  else el

/-- The element after R284 steps 3 to 6. -/
def Elem.complete (el : Elem) (op : Nat) (f : Slot) (x : Res) (tnt : Bool) : Elem :=
  let e1 := el.writeDst op f x.r tnt
  ({ e1 with pb := predUpdate e1.pb f x, sticky := e1.sticky ||| x.st }).popAll f.deq

/-- Sends the result's token and the order token of a firing (R284 step 7, R291). -/
def State.sendResult (s : State) (x : Fire) (r : Word) : State :=
  let el := s.elem x.c x.e
  (s.send x.t x.c (dstOut el x.op x.f) { val := r, tag := tokenTag x.op x.f }).send x.t x.c (orderOut el x.op x.f)
    { val := 0, tag := 6 }

/-- A firing that completes within the step (R284). -/
def State.finish (s : State) (x : Fire) (r : Res) (tnt : Bool) : State :=
  (s.updElem x.c x.e fun el => el.complete x.op x.f r tnt).sendResult x r.r

/-- The status word of ENG (R362). -/
def engWord (op slot status : Nat) : Word := BitVec.ofNat 32 (op * 2 ^ 16 + slot * 2 ^ 12 + status)

/-- A memory or engine operation that completes within the step, with its status in ENG (R362). -/
def State.finishEng (s : State) (x : Fire) (r : Res) (status : Nat) : State :=
  (s.updElem x.c x.e fun el => { el with eng := engWord x.op x.k status }).finish x r x.tnt

/-- An instruction of the plain classes: one debit, one result (R332). -/
def State.plain (s : State) (op : Nat) (f : Slot) (cost : Nat) (g : Fire → State → Res) : State :=
  s.fire op f fun x s0 => s0.offer x cost fun s1 => s1.finish x (g x s0) x.tnt

/-! ### Operations that complete later -/

/-- What an operation of the memory class leaves pending (R362). -/
def memDest (op : Nat) (f : Slot) : Needs :=
  if op ≤ 0x43 ∨ op = 0x48 ∨ op = 0x56 ∨ op = 0x58 ∨ op = 0x59 then wrDst f.dst
  else if 0x60 ≤ op ∧ op < 0x68 then wrG f.dst.toNat
  else {}

/-- What a vector operation leaves pending (R392). -/
def vecDest (op : Nat) (f : Slot) : Needs :=
  if op = 0x89 then useM (f.dst.toNat % 4)
  else if op = 0x99 ∨ op = 0x9A ∨ op = 0x9E then wrDst f.dst
  else if op = 0xA1 ∨ op = 0xA3 ∨ op = 0xA5 then {}
  else if op = 0xA4 then if f.src2.toNat / 4 < 2 then wrDst f.dst else useM (f.src2.toNat % 4)
  else useV f.dst.toNat

/-- What an engine operation leaves pending (R410, R416, R426). -/
def engDest (op : Nat) (f : Slot) : Needs :=
  if op = 0xC4 then useV f.dst.toNat
  else if op = 0xC8 ∨ op = 0xCC ∨ op = 0xDA ∨ op = 0xDC then wrDst f.dst
  else if op = 0xD9 then if f.imm then useV f.dst.toNat else wrDst f.dst
  else {}

/-- What an operation leaves pending, the predicate of PMODE included (R284). -/
def destOf (op : Nat) (f : Slot) : Needs :=
  let base := if op < 0x80 then memDest op f else if op < 0xC0 then vecDest op f else engDest op f
  if f.pmode = 0 then base else base.and (useP f.pidx.toNat)

/-- Whether the rule of an operation clears the taint of its result: LD, LDWF, LDTK, the atomics, and the scalar results of the
vector pipe and the DDA (R365, R368, R373, R392, R425). -/
def clearsTaint (op : Nat) : Bool :=
  op == 0x40 || op == 0x42 || op == 0x43 || decide (0x60 ≤ op ∧ op < 0x68) || decide (0x80 ≤ op ∧ op < 0xC0)
    || decide (0xD0 ≤ op ∧ op ≤ 0xDC)

/-- An operation under way for a firing, with its captured operands. -/
def opOf (x : Fire) (args : List Word) : Op :=
  { cell := x.c, elem := x.e, slot := x.k, opc := x.op, f := x.f, task := x.t.id, args := args,
    tnt := x.op == 0x41 || (x.tnt && !clearsTaint x.op) }

/-- Issues an operation: it takes its number, its destination becomes pending, the space of its tokens is kept and
its channels are popped (R284, R291). -/
def State.issue (s : State) (x : Fire) (o : Op) : State :=
  let d := destOf x.op x.f
  let el := s.elem x.c x.e
  let s1 := (s.reserve x.t (dstOut el x.op x.f)).reserve x.t (orderOut el x.op x.f)
  let s2 := s1.updElem x.c x.e fun el =>
    ({ el with pendG := el.pendG ||| d.wg, pendP := el.pendP ||| d.p }).popAll x.f.deq
  let s3 := s2.updCell x.c fun cl =>
    { cl with vec := { cl.vec with pendV := cl.vec.pendV ||| d.v, pendM := cl.vec.pendM ||| d.m } }
  let n := s3.fresh
  { n.2 with ops := n.2.ops ++ [{ o with id := n.1, inj := n.1, sent := s.clock.tick }] }

/-- The post-increment of the offset register (R290): the taint stays. -/
def State.postIncr (s : State) (x : Fire) (reg step : Nat) : State :=
  if x.f.imm then
    s.updElem x.c x.e fun el => el.setG reg (el.greg reg + BitVec.ofNat 32 step) (el.taint.getLsbD reg)
  else s

/-- The result of an operation as it writes back. -/
def Op.res (o : Op) : Res := { r := o.r, c := o.c, f := o.fflag }

/-- Writes an operation's vector register or mask. -/
def Vec.writeBack (v : Vec) (o : Op) (d : Needs) : Vec :=
  let w : Vec := { v with pendV := v.pendV &&& ~~~d.v, pendM := v.pendM &&& ~~~d.m }
  if d.v != 0 then { w with v := mput w.v o.f.dst.toNat o.vres 0 }
  else if d.m != 0 then
    { w with m := mput w.m (if o.opc = 0x89 then o.f.dst.toNat % 4 else o.f.src2.toNat % 4) (o.vres.truncate 64) 0 }
  else w

/-- The element after an operation's writeback (R243, R284 steps 3 to 5, R362, R373). -/
def Elem.writeBack (el : Elem) (o : Op) (d : Needs) : Elem :=
  let e0 : Elem := { el with pendG := el.pendG &&& ~~~d.wg, pendP := el.pendP &&& ~~~d.p,
                             eng := match o.engv with
                               | some v => v
                               | none => engWord o.opc o.slot o.status }
  let e1 := if 0x60 ≤ o.opc ∧ o.opc < 0x68 then e0.setG o.f.dst.toNat o.r o.tnt
    else if d.result then e0.writeDst o.opc o.f o.r o.tnt else e0
  { e1 with pb := predUpdate e1.pb o.f o.res, sticky := e1.sticky ||| o.sticky }

/-- Whether every element of a task's gang has executed DONE (R90, R357). -/
def State.allDone (s : State) (t : Task) : Bool :=
  t.gang.all fun c => (upTo (elemCount c)).all fun e => (s.elem c e).done

/-- Whether an engine of a cell has an operation in progress (R200); the scan unit, a source that gating stops between elements
(R418), is told apart. -/
def Cell.engineBusy (cl : Cell) : Bool :=
  cl.mx.load.isSome || cl.mx.sort.isSome || !cl.mx.drains.isEmpty || cl.conv.job.isSome

/-- A running task whose elements have all executed DONE and whose operations in progress have completed passes to
committing, or to gated while its ticket is not NEXT (R99, R116, R357). The tick decides it at its end, so that a wound that
reaches the task in the tick of its last DONE wins (R359). -/
def State.tryCommit (s : State) (tid : Nat) : State :=
  match s.task? tid with
  | none => s
  | some t =>
    if t.st = .running ∧ t.frozen = false ∧ s.allDone t = true ∧ (s.ops.all fun o => o.task != tid) = true
        ∧ (t.gang.all fun c => !(s.cell c).engineBusy && !(s.cell c).scan.busy) = true then
      let st : TaskSt := match t.ticket with
        | none => .committing
        | some k => if (s.rtag t.tag).next = k then .committing else .gated
      s.updTask tid fun k => { k with st := st, gate := .none }
    else s

/-- An operation completes (R362, R392): its pending destinations are written, ENG takes its status and its tokens
leave. What it changes is seen from the next step of its cell on (R283, R423). -/
def State.writeback (s : State) (o : Op) : State :=
  let d := destOf o.opc o.f
  let t := s.task o.task
  let el := s.elem o.cell o.elem
  let out := dstOut el o.opc o.f
  let ord := orderOut el o.opc o.f
  let s1 := (s.unreserve t out).unreserve t ord
  let s2 := s1.updElem o.cell o.elem fun el => el.writeBack o d
  let s3 := s2.updCell o.cell fun cl => { cl with vec := cl.vec.writeBack o d, dda := cl.dda.runDone o s.clock.tick }
  let s4 := (s3.send t o.cell out { val := o.r, tag := tokenTag o.opc o.f }).send t o.cell ord { val := 0, tag := 6 }
  (s4.endStep o.cell).delOp o.id

/-- Marks an operation as performed at element scope, with what its completion writes; the writeback is a later move
(R362). -/
def State.performed (s : State) (id : Nat) (r : Word) (c : Bool) (status : Nat) : State :=
  s.updOp id fun o => { o with phase := .performed, r := r, c := c, status := status }

/-! ### Raising a fault (R254 to R257) -/

/-- The agent of what a hearth reads and writes for a task: a hearth copy of its room (R280). -/
def State.hearthAgent (s : State) (t : Task) : Agent :=
  { kind := 3, x := 8 * (t.room % 8), y := 8 * (t.room / 8), dev := s.devNum, tag := t.tag, age := t.age }

/-- The faults of a frozen task, counted in NFAULT of the task and byte 36 of its frame, which waits for an array in retention, or for
the next tick behind a later requester of this one (R45, R240, R257). -/
def State.countFaults (s : State) (t : Task) (n : Nat) : State :=
  let s1 := s.updTask t.id fun k => { k with nfault := n }
  if !t.frame then s1
  else
    match s1.frameAddr t with
    | some a =>
      let asleep := s1.retainedIn (a + 36) 1
      let as := s1.memArrivals [(a + 36, 1)] (roomKey t.room)
      if asleep.isEmpty && !s1.tooLate as then
        (((s1.arrive as).putPhys (a + 36) (BitVec.ofNat 8 n)).homeWatch (a + 36) 1 true (s1.hearthAgent t)).updTask t.id fun k =>
          { k with countDue := false }
      else (s1.beginExit asleep).updTask t.id fun k => { k with countDue := true }
    | none => s1.updRoom t.room fun r =>
        { r with privFrame := r.privFrame.take 36 ++ [BitVec.ofNat 8 n] ++ r.privFrame.drop 37 }

/-- A fault on its way to a frozen task is only counted (R257). -/
def State.countFault (s : State) (t : Task) : State := s.countFaults t (min 255 (t.nfault + 1))

/-- Raises a fault: the element or engine node freezes in the same step with its fault register, and the fault is on
its way to the hearth (R254, R255). -/
def State.raise (s : State) (tid c : Nat) (elem : Option Nat) (reg : FaultReg) (op : Option Nat := none) : State :=
  match s.task? tid with
  | none => s
  | some t =>
    let r := { reg with cell := c }
    if t.frozen then s.countFault t
    else
      let s1 := match elem with
        | some e => s.updElem c e fun el => { el with frozen := true, fault := r }
        | none => s.updCell c fun cl => { cl with nodeFault := mset cl.nodeFault r.node r }
      s1.updTask tid fun k => { k with faults := k.faults ++ [{ reg := r, elem := elem, op := op }] }

/-- A fault raised by a firing (R254). -/
def State.raiseFire (s : State) (x : Fire) (a : AddrFault) : State :=
  (s.updElem x.c x.e fun el => { el with paid := some x.k }).raise x.t.id x.c (some x.e)
    { code := a.code, slot := x.k, op := x.op, node := x.e, sub := a.sub, info := a.info }

/-- A fault raised by an operation under way: the operation waits in the replay queue (R254, R278). -/
def State.raiseOp (s : State) (o : Op) (a : AddrFault) : State :=
  let s1 := s.updOp o.id fun p => { p with replay := true }
  if 0x100 ≤ o.opc then
    s1.raise o.task o.cell none { code := a.code, node := nodeOfOp o.opc, sub := a.sub, info := a.info } (some o.id)
  else
    s1.raise o.task o.cell (some o.elem)
      { code := a.code, slot := o.slot, op := o.opc, node := o.elem, sub := a.sub, info := a.info } (some o.id)

/-- A fault raised by an engine node (R254). -/
def State.raiseNode (s : State) (tid c node : Nat) (a : AddrFault) : State :=
  s.raise tid c none { code := a.code, node := node, sub := a.sub, info := a.info }

/-- A firing debited and then ended by its fault; nothing else is written (R254, R360). -/
def State.faultFire (s : State) (x : Fire) (cost : Nat) (a : AddrFault) : State :=
  s.offer x cost fun s1 => s1.raiseFire x a

/-! ### The trap frame (R258 to R260) -/

/-- The 16 bytes of a fault register (R255). -/
def FaultReg.bytes (r : FaultReg) : List Byte :=
  natToBytes 8 (r.code * 2 ^ 56 + r.slot % 16 * 2 ^ 52 + r.op % 256 * 2 ^ 44 + r.node % 16 * 2 ^ 40
      + cellX r.cell * 2 ^ 22 + cellY r.cell * 2 ^ 16 + r.sub % 2 ^ 16)
    ++ natToBytes 8 r.info

/-- A replay entry (R260). -/
def Op.replayBytes (o : Op) : List Byte :=
  recBytes [(1, nodeOfOp o.opc), (1, o.opc), (1, o.slot), (1, o.elem), (4, (o.args.headD 0).toNat), (8, o.ea),
    (8, (o.args.getD 1 0).toNat), (8, 0)]

/-- The operations in the replay queue of a fault's node, in issue order, at most eight (R254); an access that a watchpoint
holds is entry 0 (R278). -/
def State.replayOf (s : State) (p : PendFault) : List Op :=
  let mine := s.ops.filter fun o => p.issued o && o.replay
  let first := mine.filter fun o => p.reg.code == 0x14 && p.op == some o.id
  (first ++ mine.filter fun o => !first.contains o).take 8

/-- The free credits of an output: the least space at its destinations, 0 where it is unrouted (R259). -/
def State.credits (s : State) (t : Task) (el : Elem) (o : Nat) : Nat :=
  match (el.out o).map fun d => 4 - (s.inputAt (t.cellAt d.x d.y) d.e d.i).used with
  | [] => 0
  | x :: xs => xs.foldl min x

/-- Bytes 48 to 155 of a frame for an element (R259). -/
def State.frameElem (s : State) (t : Task) (c e : Nat) : List Byte :=
  let el := s.elem c e
  [el.pb] ++ natToBytes 1 el.sticky.toNat ++ natToBytes 2 el.taint.toNat ++ natToBytes 4 0
    ++ ((upTo 16).flatMap fun i => natToBytes 4 (el.greg i).toNat)
    ++ ((upTo 4).flatMap fun i =>
      natToBytes 4 (el.head i).val.toNat ++ natToBytes 1 (el.head i).tag.toNat ++ natToBytes 1 (el.occ i) ++ natToBytes 2 0)
    ++ ((upTo 4).flatMap fun o => natToBytes 1 (s.credits t el o))

/-- The 1,024 bytes of the frame of a task's first fault (R259). -/
def State.buildFrame (s : State) (t : Task) (p : PendFault) : List Byte :=
  let reps := s.replayOf p
  let head := p.reg.bytes ++ recBytes [(8, t.age), (8, t.pid.toNat), (2, t.tag), (1, 0), (1, reps.length),
    (1, min 255 t.nfault), (1, 4 * t.gw + t.gh), (1, t.x0), (1, t.y0), (8, 0)]
  let mid := match p.elem with
    | some e => s.frameElem t p.reg.cell e
    | none => List.replicate 108 (0 : Byte)
  let body := head ++ mid ++ List.replicate 4 (0 : Byte) ++ reps.flatMap Op.replayBytes
  body ++ List.replicate (1024 - body.length) 0

/-- Writes bytes of a task's frame, bypassing every vestibule (R258, R259, R279). -/
def State.putFrame (s : State) (t : Task) (bytes : List Byte) : State :=
  match s.frameAddr t with
  | some a => (s.putBytes a bytes).homeWatch a bytes.length true (s.hearthAgent t)
  | none => s.updRoom t.room fun r => { r with privFrame := bytes }

/-- The 64 bytes of a cell in the channel map (R265). -/
def State.mapBytes (s : State) (c : Nat) : List Byte :=
  let b := (upTo (elemCount c)).flatMap fun e =>
    let el := s.elem c e
    [el.pb] ++ ((upTo 4).map fun i =>
      BitVec.ofNat 8 (16 * el.occ i + (if el.occ i = 0 then 0 else (el.head i).tag.toNat))) ++ natToBytes 3 0
  b ++ List.replicate (64 - b.length) 0

/-- The arrays in retention that the frame of a task, and with `withMap` its channel map, would touch (R45, R258, R265). -/
def State.frameSleeps (s : State) (t : Task) (withMap : Bool) : List RetArray :=
  match s.trapArea t.room with
  | some b =>
    s.retainedIn (s.devNum * 2 ^ 44 + b + 1024 * (t.y0 * 8 + t.x0)) 1024
      ++ (if withMap then s.retainedIn (s.devNum * 2 ^ 44 + b + 65536) 4096 else [])
  | none => []

/-- The physical ranges that the frame of a task, and with `withMap` its channel map, fill (R258, R265). -/
def State.trapPieces (s : State) (t : Task) (withMap : Bool) : List (Nat × Nat) :=
  match s.trapArea t.room with
  | some b =>
    let a := s.devNum * 2 ^ 44 + b
    (a + 1024 * (t.y0 * 8 + t.x0), 1024)
      :: (if withMap then t.gang.map fun c => (a + 65536 + 64 * (cellY c % 8 * 8 + cellX c % 8), 64) else [])
  | none => []

/-- A hearth writes the frame of a task, and with `withMap` its map, once no array in retention holds them, whose exits begin, and not
after a later requester of the tick (R45, R240, R258). -/
def State.hearthWrites (s : State) (t : Task) (withMap : Bool) (go : State → State) : State :=
  let asleep := s.frameSleeps t withMap
  let as := s.memArrivals (s.trapPieces t withMap) (roomKey t.room)
  if !asleep.isEmpty then s.beginExit asleep else if s.tooLate as then s else go (s.arrive as)

/-- Writes the gang's cells into the map at offset 65,536 of the trap area (R258, R265, R279). -/
def State.putMap (s : State) (t : Task) : State :=
  foldState t.gang s fun c st =>
    let off := 64 * (cellY c % 8 * 8 + cellX c % 8)
    match st.trapArea t.room with
    | some b =>
      let a := st.devNum * 2 ^ 44 + b + 65536 + off
      (st.putBytes a (st.mapBytes c)).homeWatch a 64 true (st.hearthAgent t)
    | none => st.updRoom t.room fun r =>
        let m := r.switchMap ++ List.replicate (4096 - r.switchMap.length) (0 : Byte)
        { r with switchMap := m.take off ++ st.mapBytes c ++ m.drop (off + 64) }

/-! ### Taking the trap and returning from it (R254, R257, R261, R262) -/

/-- Source gating stops the free and counted domains of a gang between steps (R196, R440). -/
def State.gateDomains (s : State) (t : Task) : State :=
  s.updGang t fun cl => { cl with dda := { cl.dda with doms := cl.dda.doms.map fun p =>
    (p.1, if p.2.st = .running ∧ p.2.mode ≠ .token then { p.2 with st := .stopped, gated := true } else p.2) } }

/-- Ends the gating of a gang's domains (R440). -/
def State.ungateDomains (s : State) (t : Task) : State :=
  s.updGang t fun cl => { cl with dda := { cl.dda with doms := cl.dda.doms.map fun p =>
    (p.1, if p.2.gated = true ∧ p.2.st = .stopped then
        { p.2 with st := .running, gated := false, next := s.clock.tick + 2 ^ p.2.div } else p.2) } }

/-- The order of faults that reach the hearth together: (Y, X), then NODE (R257). -/
def faultBefore (a b : FaultReg) : Bool :=
  let k (r : FaultReg) : Nat := (cellY r.cell * 64 + cellX r.cell) * 16 + r.node
  decide (k a < k b)

/-- The first of a list of faults in that order. -/
def firstFault : List PendFault → Option PendFault
  | [] => none
  | p :: ps =>
    match firstFault ps with
    | none => some p
    | some q => if faultBefore q.reg p.reg then some q else some p

/-- Whether an operation has not finished: one of an engine finishes with its writeback, an access once it is performed (R254). -/
def Op.unfinished (o : Op) : Bool :=
  o.phase != .performed
    || (decide (0x80 ≤ o.opc ∧ o.opc < 0xE0) && !decide (0xA0 ≤ o.opc ∧ o.opc ≤ 0xA3) && o.opc != 0xCC)

/-- The operations of the frozen node that have not finished are withdrawn into its replay queue, at most eight (R254); a message that
has left finishes (R274). -/
def State.withdraw (s : State) (p : PendFault) : State :=
  let mine := (s.ops.filter fun o => p.issued o && o.unfinished && !s.messageOut o).map (·.id)
  let held := (s.ops.filter fun o => p.issued o && o.replay).map (·.id)
  let take := (held ++ mine.filter fun i => !held.contains i).take 8
  { s with ops := s.ops.map fun (o : Op) => if take.contains o.id then { o with replay := true } else o }

/-- Frees the PARK entry of a task (R123). -/
def State.dropPark (s : State) (tid : Nat) : State :=
  { s with rooms := s.rooms.map fun r => (r.1, { r.2 with waitTab := r.2.waitTab.filter fun w =>
      match w with
      | .park k _ _ => k != tid
      | .set _ => true }) }

/-- The trap packet of a frozen task joins the queue of its trap tag; it waits while only the reserve is free, and without a
tag that takes it, or without a trap area, the hearth takes REPORT (R106, R261, R262). -/
def State.sendTrap (s : State) (t : Task) : State :=
  match (s.handlerOf t).trap, s.trapArea t.room with
  | some tag, some _ =>
    let va := ((s.room t.room).trapVa.toNat % 2 ^ 48 + 1024 * (t.y0 * 8 + t.x0)) % 2 ^ 64
    let body := natToBytes 8 va ++ natToBytes 8 t.age ++ natToBytes 1 (t.faults.headD {}).reg.code
    let v := s.free
    let pk : Packet := { dev := s.devNum, tag := tag, len := 17, pid := v.1, body := body }
    if (s.rejectStatus pk 33).isSome || (s.rtag tag).cur.launch then s.vanishReport t
    else if s.qfree ≤ 1024 then s.updTask t.id fun k => { k with trapDue := true }
    else
      let s1 := (v.2.enqueue pk v.2.domainTime none none).updTask t.id fun k => { k with trapDue := false }
      { s1 with tasks := s1.tasks.map fun (k : Task) =>
          if k.id = v.2.clock.nextId then { k with trapOf := some (t.id, t.age) } else k }
  | _, _ => s.vanishReport t

/-- No slot of a gang is held back for a restore any longer (R118). -/
def State.unbar (s : State) (t : Task) : State := s.updGangElems t fun el => { el with barred := 0 }

/-- Enters the trap of a gang: the frame is written, the task stays frozen in the running state, its other faults are only
counted, and the trap tag is sent its packet (R254, R257 to R262). -/
def State.enterTrap (s : State) (t : Task) (p : PendFault) (withMap : Bool) : State :=
  let others := (t.faults.erase p).length
  let s0 := s.updTask t.id fun k =>
    { k with frozen := true, frame := true, nfault := min 255 (k.nfault + others), faults := [p], saving := false,
             gate := if k.gate = .preempt ∨ k.gate = .park then .none else k.gate }
  let s1 := s0.withdraw p
  let s2 := if t.gate = .preempt ∨ t.gate = .park then ((s1.ungateDomains t).dropPark t.id).unbar t else s1
  let s3 := if withMap then s2.putMap t else s2
  let s4 := s3.putFrame t (s3.buildFrame (s3.task t.id) p)
  s4.sendTrap (s4.task t.id)

/-- A channel without its tag-7 tokens. -/
def Input.noSwitch (x : Input) : Input :=
  { x with q := x.q.filter fun k => k.tag != 7, transit := x.transit.filter fun k => k.tag != 7 }

/-- Discards every tag-7 token and switch mark of a gang (R203, R262). -/
def State.clearSwitch (s : State) (t : Task) : State :=
  (s.updGangElems t fun el =>
    { el with switchMark := false, forwarded := 0, ins := el.ins.map fun p => (p.1, p.2.noSwitch) }).updGang t fun cl =>
      { cl with fwdPorts := [], edges := cl.edges.map fun p => (p.1, { p.2 with inq := p.2.inq.noSwitch }) }

/-- Loads the writable part of a frame into the element it was taken from (R259, R262). -/
def Elem.loadFrame (el : Elem) (fr : List Byte) : Elem :=
  let n (off len : Nat) : Nat := bytesToNat ((fr.drop off).take len)
  { el with pb := BitVec.ofNat 8 (n 48 1), sticky := BitVec.ofNat 3 (n 49 1), taint := BitVec.ofNat 16 (n 50 2),
            g := (upTo 16).foldl (fun m i => mput m i (BitVec.ofNat 32 (n (56 + 4 * i) 4)) 0) [] }

/-- Whether a command in execution is the switch of a task. -/
def HExec.switches (x : HExec) (id : Nat) : Bool :=
  match x.instr with
  | .cfgswitch _ => x.task == id
  | _ => false

/-- Whether a gang is gated for a switch that no hearth carries on: its limit expired while the gang was frozen (R204). -/
def State.switchOff (s : State) (t : Task) : Bool :=
  t.gate == .switch && !(s.room t.room).hearth.exec.any fun x => x.switches t.id

/-- RESUME (R262): the writable part of the frame `fr` is loaded, the replay queues are injected again, and the gang unfreezes. The
wait that expired is repeated with a fresh count, and the access that a watchpoint held is performed (R278). Another wait whose limit
has passed waits on for its own trap (R122). -/
def State.resume (s : State) (t : Task) (fr : List Byte) : State :=
  let p := t.faults.headD {}
  let s1 := match p.elem with
    | some e => s.updElem p.reg.cell e fun el => el.loadFrame fr
    | none => s
  let s2 := s1.updGang t fun cl =>
    { cl with nodeFault := [],
              elems := cl.elems.map fun q => (q.1, { q.2 with frozen := false, fault := {} }) }
  let ids := (s2.ops.filter fun o => o.task == t.id && o.replay).map (·.id)
  let s3 := State.injectAll { s2 with ops := s2.ops.map fun (o : Op) =>
    if o.task = t.id ∧ o.replay = true then
      { o with replay := false, watched := o.watched || (p.reg.code == 0x14 && p.op == some o.id),
               limit := if p.reg.code = 0x0E ∧ p.op = some o.id then none else o.limit,
               expInfo := if p.reg.code = 0x0E ∧ p.op = some o.id then none else o.expInfo,
               phase := if o.phase = .performed then .performed
                 else if s.limitPassed o ∧ ¬(p.reg.code = 0x0E ∧ p.op = some o.id) then .waiting else .issued }
    else o } ids
  let s4 := if p.reg.code = 0x10 ∨ s.switchOff t = true then
      ((s3.clearSwitch t).ungateDomains t).updTask t.id fun k => { k with gate := .none }
    else s3
  s4.updTask t.id fun k =>
    { k with frozen := false, frame := false, trapDue := false, actDue := none, countDue := false, faults := [], nfault := 0,
             dcount := if p.reg.code = 0x0F then 0 else k.dcount }

/-- An action on a frozen task and the frame `fr`: RESUME, VANISH, and REPORT for any other (R262). -/
def State.trapAct (s : State) (t : Task) (action : Nat) (fr : List Byte) : State :=
  if action = 1 then s.resume t fr
  else if action = 2 then s.vanishN (s.tasks.length + 1) t.id .fault false 0
  else s.vanishReport t

/-- The hearth reads a task's frame (R279). -/
def State.watchFrame (s : State) (t : Task) : State :=
  match s.frameAddr t with
  | some a => (s.arrive (s.frameArrivals t)).homeWatch a 1024 false (s.hearthAgent t)
  | none => s

/-- Acts on the frame of a frozen task by its ACTION byte (R259, R262): once it can be read (R45, R240), and with REPORT
where it is poisoned, so that nothing in it can be read (R224); log entry 44. -/
def State.trapReturn (s : State) (t : Task) : State :=
  if s.frameHeld t then s.awaitFrame t 0
  else if s.framePoison t then (s.watchFrame t).trapAct t 3 []
  else (s.watchFrame t).trapAct t ((s.frameBytes t).getD 34 0).toNat (s.frameBytes t)

/-- What a frozen task's hearth still has to do with its frame, once it can (R45, R240). -/
def State.frameDue (s : State) (t : Task) : State :=
  if !t.frozen || s.frameHeld t then s
  else
    let s1 := if t.countDue then s.countFaults t t.nfault else s
    match t.actDue with
    | some 0 => s1.trapReturn t
    | some _ => s1.vanishReport t
    | none => s1

/-! ### Addresses of the memory class (R360) -/

/-- A window of an element. -/
def State.window (s : State) (x : Fire) (n : Nat) : BitVec 64 := (s.elem x.c x.e).win n

/-- The window number of a memory instruction, SRC2[4:3] (R290). -/
def windowNo (f : Slot) : Nat := f.src2.toNat / 8

/-- The address of a memory-class access with its binding check (R231, R237, R360). -/
def State.address (s : State) (x : Fire) (off : Word) (align len : Nat) (u : Use) : Except AddrFault Target :=
  match windowAddr x.t x.c (windowNo x.f) (s.window x (windowNo x.f)) off align with
  | .error a => .error a
  | .ok tg =>
    match s.bindCheck x.t tg len u with
    | some a => .error a
    | none => .ok tg

/-- Whether a window is a scratchpad window (R230). -/
def isSpad (w : BitVec 64) : Bool := w.getLsbD 63

/-- The debit of a firing that its address or binding fault ends (R360). -/
def State.faultCost (s : State) (x : Fire) : Nat := if isSpad (s.window x (windowNo x.f)) then 12 else 16

/-- The access row of a virtual address at its firing, and whether the surcharge is still due (R361). -/
def State.accessRow (s : State) (t : Task) (ea : Nat) : Nat × Bool :=
  match s.cached t ea with
  | some p => (levelRow (s.level (p.phys (ea % 2 ^ 48))), false)
  | none => (16, true)

/-- The access row of a target and whether the surcharge is still due (R361). -/
def State.targetRow (s : State) (t : Task) (tg : Target) : Nat × Bool :=
  if tg.spad.isSome then (12, false) else s.accessRow t tg.ea

end Sys2Proof.Machine
end

