-- ==== Sys2Proof/Machine/Counters.lean ====
section
/-! DEFINITION. Chained counters (R180), control tokens (R179), semaphores (R172), and source gating for a
pre-emption (R268, R489). -/

namespace Sys2Proof.Machine

/-! ### Chained counters -/

/-- A set started, every count 0 (R180). -/
def CtrSet.start (c : CtrSet) : CtrSet := { c with n := c.ext.map fun _ => 0, started := true, isDone := false }

/-- One advance of the counts, innermost first, and whether the outermost level carries (R180). -/
def advanceCounts : List Nat → List Nat → List Nat × Bool
  | n :: ns, e :: es =>
    if n + 1 < e then ((n + 1) :: ns, false)
    else
      let r := advanceCounts ns es
      (0 :: r.1, r.2)
  | _, _ => ([], true)

/-- A set after an advance: one that carries out of its outermost level keeps its last value in DONE (R180). -/
def CtrSet.advance (c : CtrSet) : CtrSet :=
  if c.isDone then c
  else
    let r := advanceCounts c.n c.ext
    if r.2 then { c with isDone := true } else { c with n := r.1 }

/-- Σ n × (product of the EXT of the inner levels): the linear count (R355). -/
def linearCount : List Nat → List Nat → Nat
  | n :: ns, e :: es => n + e * linearCount ns es
  | _, _ => 0

/-- Changes a counter set of a cell. -/
def State.updCtr (s : State) (c n : Nat) (f : CtrSet → CtrSet) : State :=
  s.updCell c fun cl => { cl with ctrs := mset cl.ctrs n (f (cl.ctr n)) }

/-! ### Control tokens -/

/-- A control token at a control input of an element sets its mapped predicate (R179). -/
def Elem.control (el : Elem) (i : Nat) : Elem :=
  match mfind el.ctlMap i with
  | some p => { el with pb := setPred el.pb p true }
  | none => el

/-- A START token of a counter set: one that runs is not affected (R180). -/
def CtrSet.startToken (c : CtrSet) : CtrSet := if c.started && !c.isDone then c else c.start

/-- A control token takes effect at its destination (R179, R180). The key of a START input of set n is 8 + n. -/
def State.controlNow (s : State) (c e key : Nat) : State :=
  if 8 ≤ key then s.updCtr c (key - 8) CtrSet.startToken else s.updElem c e fun el => el.control key

/-- A control token that is seen from the next step of its cell on (R179, R356). -/
def State.controlLater (s : State) (c e key : Nat) : State :=
  s.updCell c fun cl => { cl with ctlNext := cl.ctlNext ++ [(e, key)] }

/-- Whether an element has fired a SPAWN in this tick, which the tick's end may take back (R359). -/
def State.spawning (s : State) (c e : Nat) : Bool := (s.elem c e).spawnTick == some s.clock.tick

/-- A control token from another cell arrives; an element that has fired a SPAWN in this tick sees it in its next step. -/
def State.controlArrive (s : State) (c e key : Nat) : State :=
  if key < 8 ∧ s.spawning c e = true then s.controlLater c e key else s.controlNow c e key

/-- The element and key under which a control destination counts tokens on their way. -/
def CtlDest.key (d : CtlDest) : Nat × Nat := if d.start then (0, 8 + d.i) else (d.e, d.i)

/-- Sends a control token from a source of a cell: seen from the next step on within the cell, on its way to another one (R179,
R356). -/
def State.sendControl (s : State) (t : Task) (c source : Nat) : State :=
  foldState (mget (s.cell c).ctl source []) s fun d st =>
    let dc := t.cellAt d.x d.y
    if dc = c then st.controlLater dc d.key.1 d.key.2
    else st.updElem dc d.key.1 fun el => { el with ctlIn := mset el.ctlIn d.key.2 (mget el.ctlIn d.key.2 0 + 1) }

/-! ### The steps of a cell (R129, R284) -/

/-- A step of a cell begins: the control tokens sent within it in the last one take effect, no engine has accepted a firing, and the
counter sets are read as they stand (R129, R284, R356). -/
def State.beginStep (s : State) (c : Nat) : State :=
  let ready := (s.cell c).ctlNext.filter fun p => !(decide (p.2 < 8) && s.spawning c p.1)
  let s1 := foldState ready s fun p st => st.controlNow c p.1 p.2
  s1.updCell c fun cl =>
    { cl with ctlNext := cl.ctlNext.filter (fun p => !ready.contains p), took := [], sentTo := [], armed := [], ctrs0 := cl.ctrs }

/-- The turn of an element begins, with a step of its cell where the present one is over (R129). -/
def State.beginTurn (s : State) (c e : Nat) : State := if (s.cell c).newStep e then s.beginStep c else s

/-- The value of the tag-5 token of a port whose run ends now (R320). -/
def Edge.endValue (g : Edge) : Nat := if g.ended then 0 else g.count

/-- The inbound ports of a set that enters DONE owe their tag-5 tokens (R320). -/
def Cell.endEdges (cl : Cell) (n : Nat) : Cell :=
  { cl with edges := cl.edges.map fun p =>
      (p.1, if p.2.ctr = n ∧ p.2.out = false then { p.2 with ends := p.2.ends ++ [p.2.endValue], ended := true } else p.2) }

/-- Advances a counter set once: where it enters DONE its ports end their runs and its DONE token leaves, and an advance of the
governing counter is signalled (R149, R180, R320). -/
def State.advanceCtr (s : State) (t : Task) (c n : Nat) : State :=
  let old := (s.cell c).ctr n
  let new := old.advance
  let s1 := s.updCtr c n fun _ => new
  let s2 := if !old.isDone && new.isDone then (s1.updCell c fun cl => cl.endEdges n).sendControl t c (0x20 + n) else s1
  if c = t.lead ∧ n = 0 then s2.iterDone t else s2

/-! ### Semaphores -/

/-- A semaphore of a room (R172). -/
def Room.sem (r : Room) (i : Nat) : Nat := mget r.sems i 0

/-- Adds an increment to a semaphore; past 0xFFFF it takes 0xFFFF, and a hearth in WAIT or EXEC traps with
SEM_OVERFLOW (R172). The tick's increments are kept for a SEMSET of the tick (R457). -/
def Room.addSem (r : Room) (i inc : Nat) : Room :=
  let v := r.sem i + inc
  let incs := mset r.semInc i (mget r.semInc i 0 + inc)
  if v ≤ 0xFFFF then { r with sems := mput r.sems i v 0, semInc := incs }
  else
    { r with sems := mput r.sems i 0xFFFF 0, semInc := incs,
             hearth := if r.hearth.st = .wait ∨ r.hearth.st = .exec then
                 { r.hearth with st := .trapped, cause := 0x01 } else r.hearth }

/-! ### Pre-emption by source gating -/

/-- The bytes that a saved context occupies (R489). -/
def Task.contextBytes (t : Task) : Nat :=
  1024 * (8 + ((t.gang.map fun c =>
    match kindOf c with
    | .compute => 416
    | .memory => 1280
    | .address => 8).foldl (· + ·) 0))

/-- The free bytes of the context pool: saved contexts, and those being saved, hold their space (R268, R489). -/
def State.poolFree (s : State) : Nat :=
  s.sched.cpoolSize - ((s.tasks.filter fun t =>
    t.ctx.isSome || t.saving || t.gate == .preempt || t.gate == .park).map Task.contextBytes).foldl (· + ·) 0

/-- Gates the sources of a running task with a purpose (R201, R268, R452); a debit that a stall keeps for a source is kept no
longer. -/
def State.gateTask (s : State) (t : Task) (g : Gate) : State :=
  ((s.gateDomains t).updGang t fun cl =>
    { cl with meter := { cl.meter with heldBy := cl.meter.heldBy.filter fun k => !sourceKey k } }).updTask t.id fun k =>
      { k with gate := g }

/-- Ends a task's gating. -/
def State.ungateTask (s : State) (t : Task) : State :=
  (s.ungateDomains t).updTask t.id fun k => { k with gate := .none }

/-- The slot of a SPAWN that a watermark holds back fires again after the restore of its pre-empted task only (R118). A slot whose trigger
needs a token is not barred, since the gang is quiescent only with empty channels (R200, R269); log entry 95. -/
def State.barSpawn (s : State) (tid c e k : Nat) (f : Slot) : State :=
  let g := (s.task tid).gate
  if (g = .preempt ∨ g = .park) ∧ f.need = 0 ∧ f.ten = false then
    s.updElem c e fun el => { el with barred := el.barred ||| (1#16 <<< k) }
  else s

/-- Begins a pre-emption (R268): not of a frozen task, and not without pool space. -/
def State.preempt (s : State) (t : Task) : State :=
  if t.st = .running ∧ t.frozen = false ∧ t.gate = .none ∧ t.contextBytes ≤ s.poolFree then s.gateTask t .preempt
  else s

end Sys2Proof.Machine
end

