-- ==== Sys2Proof/Machine/Access.lean ====
section
/-! DEFINITION. How an operation under way is performed: translation and its holds (R266, R267), atomic sets (R165,
R166), room watchpoints (R278), reads and writes at their homes and in a vestibule (R154, R155, R168), scratchpad
words (R157, R158), and the outcome of each attempt (R364). -/

namespace Sys2Proof.Machine

/-! ### What an attempt comes to -/

/-- What a performed operation writes at its completion. -/
structure Out where
  r : Word := 0
  c : Bool := false
  status : Nat := 0
  engv : Option Word := none
  vres : BitVec 1024 := 0
  fflag : Bool := false
  deriving DecidableEq, Repr, Inhabited

/-- The outcome of an attempt: performed, waiting for its condition (R364), a fault, or an end that has already
been acted on. -/
inductive Perf where
  | ok (s : State) (x : Out)
  | wait
  | fault (a : AddrFault)
  | stop (s : State)
  deriving DecidableEq, Repr

/-- Goes on after a successful part. -/
def Perf.andThen (p : Perf) (f : State → Out → Perf) : Perf :=
  match p with
  | .ok s x => f s x
  | q => q

/-! ### Translation -/

/-- The virtual address that an operation accesses in a page (R267). -/
def Op.vaIn (o : Op) (page : Nat) : Nat :=
  match o.ranges.find? fun r => r.1 / 65536 * 65536 % 2 ^ 48 == page with
  | some r => r.1 % 2 ^ 48
  | none => page

/-- Begins a walk of a page unless one is in flight or all 256 are in use (R266). -/
def Room.beginWalk (r : Room) (asid page : Nat) : Room :=
  if r.walks.contains (asid, page) || decide (256 ≤ r.walks.length) then r
  else { r with walks := r.walks ++ [(asid, page)] }

/-- A record of XLAT_PFLOG (R267), with the cell's X and Y. -/
def State.pageReport (s : State) (t : Task) (x y asid va : Nat) (wr : Bool) : State :=
  let r := s.appendLog s.logs.pf 32 (recBytes [(8, va), (1, asid), (1, bit wr), (1, x), (1, y), (4, 0),
    (8, t.age), (8, 0)])
  { r.2 with logs := { r.2.logs with pf := r.1 } }

/-- Whether a page's report is already out for some held access, argument read or prefetch of the address space (R267). -/
def State.pageReported (s : State) (asid page : Nat) : Bool :=
  (s.ops.any fun o => o.phase == .held && o.reported && o.heldPage == page && s.asidOf (s.task o.task) == asid)
    || s.tasks.any fun t => t.argReported.contains page && s.asidOf t == asid

/-- Holds an operation at its port for a page (R266, R267). -/
def State.hold (s : State) (t : Task) (o : Op) (page : Nat) (wr : Bool) : State :=
  let asid := s.asidOf t
  let s1 := if wr && !s.pageReported asid page then s.pageReport t (cellX o.cell) (cellY o.cell) asid (o.vaIn page) true else s
  let s2 := (s1.inject o.id).updOp o.id fun p =>
    { p with phase := .held, heldPage := page, wrHeld := wr, reported := wr, retry := false,
             heldAt := match p.heldAt with
               | some q => some q
               | none => some s.clock.tbase }
  if wr then s2 else s2.updRoom t.room fun r => r.beginWalk asid page

/-! ### Reading -/

/-- Bytes of a virtual range as an element of cell `c` sees them (R155). -/
def State.virtBytes (s : State) (t : Task) (c ea n : Nat) : List Byte :=
  (upTo n).map fun i => s.seenByte (vestCell t c) (s.phys t (ea + i))

/-- Bytes of a target as an element of cell `c` sees them (R366). -/
def State.readBytes (s : State) (t : Task) (c : Nat) (tg : Target) (n : Nat) : List Byte :=
  match tg.spad with
  | some m => (s.cell m).spad.viewBytes tg.ea n (some t.id)
  | none => s.virtBytes t c tg.ea n

/-- The block that holds an address of a target, as an element of cell `c` sees it (R154, R158). -/
def State.readBlock (s : State) (t : Task) (c : Nat) (tg : Target) : Block :=
  match tg.spad with
  | some m => (s.cell m).spad.viewBlock (tg.ea / 64) (some t.id)
  | none => s.seenBlock (vestCell t c) (s.phys t tg.ea)

/-- The first poisoned block of a range that is read (R224), as its address. -/
def State.poisonIn (s : State) (t : Task) (c : Nat) (tg : Target) (n : Nat) : Option Nat :=
  (upTo ((n + 63) / 64 + 1)).findSome? fun i =>
    let a := (tg.ea / 64 + i) * 64
    if a < tg.ea + n ∧ tagPoison (s.readBlock t c { tg with ea := a }).tag = true then some a else none

/-- The fault of a poisoned block (R256). -/
def poisonFault (a : Nat) : AddrFault := { code := 0x0C, info := a }

/-- The home watchpoints of a read of a virtual range (R279). -/
def State.watchRead (s : State) (t : Task) (kind c e ea n : Nat) : State :=
  foldState (upTo ((n + 63) / 64 + 1)) s fun i st =>
    let lo := max ea ((ea / 64 + i) * 64)
    let hi := min (ea + n) ((ea / 64 + i + 1) * 64)
    if lo < hi then st.homeWatch (st.phys t lo) (hi - lo) false (st.elemAgent kind t c e) else st

/-! ### Writing -/

/-- The writer of a task's scratchpad writes (R157, R168). -/
def State.writerOf (s : State) (t : Task) : Writer := if s.isGuarded t then some t.id else none

/-- The distinct lines that pieces would newly allocate in a vestibule. -/
def freshLines (v : List VEntry) (ps : List (Nat × List Byte × Option (BitVec 16))) : Nat :=
  (((ps.map fun p => p.1 / 64 * 64).eraseDups).filter fun a => (vestFind v a).isNone).length

/-- Pays the charge of allocating vestibule lines, which an UNGUARDED task does not owe (R168), or vanishes the task whose
vestibule is full (R154). -/
def State.allocLines (s : State) (t : Task) (mc n : Nat) (go : State → Perf) : Perf :=
  let vc := vestCell t mc
  let used := vestLines (s.cell vc).vest
  if n = 0 then go s
  else if used + n > 2048 then .stop (s.vanish t.id .vestibuleFull)
  else
    let cost := lineCharge used n
    if cost = 0 ∨ (s.entryOf t).mmode = true ∨ s.isGuarded t = false then go s
    else
      match s.payEngine t mc 8 cost with
      | .paid s1 => go s1
      | .stalled s1 => .stop s1
      | .stopped s1 => .stop s1

/-- Writes pieces of a virtual range, each within one block, with the block's tag where one comes with them: deferred
pieces enter the vestibule, the others are performed at their homes (R154, R168, R237). `mc` is the cell whose meter
pays the lines. -/
def State.storePieces (s : State) (t : Task) (mc : Nat) (ag : Agent) (pieces : List (Nat × List Byte × Option (BitVec 16))) :
    Perf :=
  let vc := vestCell t mc
  let ps := s.cutPieces t pieces
  let ms := (ps.filter fun p => s.deferred t p.1).map fun p => (s.phys t p.1, p.2)
  let xs := (ps.filter fun p => !s.deferred t p.1).map fun p => (s.phys t p.1, p.2)
  s.allocLines t mc (freshLines (s.cell vc).vest ms) fun s1 =>
    let s2 := s1.updCell vc fun cl => { cl with vest := ms.foldl (fun v p => vestMerge v p.1 p.2.1 p.2.2) cl.vest }
    .ok (foldState xs s2 fun p st =>
      let a := st.putBytes p.1 p.2.1
      let b := match p.2.2 with
        | some tag => a.putTag p.1 tag
        | none => a
      b.homeWatch p.1 p.2.1.length true ag) {}

/-- Writes bytes of a virtual range that keeps its tags (R223, R366). -/
def State.storeVirt (s : State) (t : Task) (mc : Nat) (ag : Agent) (ea : Nat) (bytes : List Byte) : Perf :=
  s.storePieces t mc ag ((blockPieces ea bytes).map fun p => (p.1, p.2, none))

/-- The result of a scratchpad write: none where the undo log is full, and the writer vanishes with UNDO_FULL
(R157). -/
def State.spadPut (s : State) (t : Task) (m : Nat) (p : Option Spad) : Perf :=
  match p with
  | none => .stop (s.vanish t.id .undoFull)
  | some q =>
    let s1 := s.setSpad m q
    .ok (if (s.writerOf t).isNone then s1.wakeParks else s1) {}

/-- The fault of a plain write to a counting word (R187). -/
def countingFault (w : Nat) : AddrFault := { code := 0x08, info := 4 * w }

/-- Writes pieces of a scratchpad in place, full/empty states kept (R366, R380, R400): a word tentative for another
task makes the write wait, and a counting word faults before any byte is written. -/
def State.spadStore (s : State) (t : Task) (m : Nat) (ps : List (Nat × List Byte)) : Perf :=
  let p := (s.cell m).spad
  let words := ps.flatMap fun q => wordsIn q.1 q.2.length
  match words.find? fun w => (p.wst w).counting && !p.hidden w (some t.id) with
  | some w => .fault (countingFault w)
  | none =>
    if words.any fun w => p.hidden w (some t.id) then .wait
    else s.spadPut t m (ps.foldl (fun a q => a.bind fun x => x.writeBytes (s.writerOf t) q.1 q.2) (some p))

/-- Writes bytes of a target (R366). -/
def State.store (s : State) (t : Task) (c e : Nat) (tg : Target) (bytes : List Byte) : Perf :=
  match tg.spad with
  | some m => s.spadStore t m [(tg.ea, bytes)]
  | none => s.storeVirt t c (s.elemAgent 0 t c e) tg.ea bytes

/-! ### Counting events of XACC (R219) -/

/-- Records saturations and NaN addends at a home of this device; a home of another device counts its own (R219). -/
def State.countXovf (s : State) (pa n : Nat) : State :=
  if n = 0 ∨ s.level pa = .remote then s
  else
    let w := (s.homeWing pa).getD 0
    let l := mget s.logs.xovf w {}
    let l' : CountLog := { l with count := min (l.count + n) 0xFFFF, a := localOf pa / 16 }
    { s with logs := { s.logs with xovf := mset s.logs.xovf w l' } }

/-- An operand of a reduction record as XACC sums hold it (R218). -/
def redOperand (op : BitVec 3) (a : Nat) : Int × Bool :=
  if op.toNat = 1 then (if a < 2 ^ 128 then (natToInt 128 a, false) else faddx 0 (a - 2 ^ 128)) else (a, false)

/-- The operand `b` joins the operand `a` of one word and sub-operation, as if performed after it, with the number of events
that are counted (R156, R218, R252): an addend joins a partial sum as it would join the word. -/
def combineRed (op : BitVec 3) (a b : Nat) : Nat × Nat :=
  if op.toNat = 1 then
    let x := redOperand op a
    let z := if b < 2 ^ 128 then xaccAdd x.1 (natToInt 128 b) else faddx x.1 (b - 2 ^ 128)
    (intToNat 128 z.1, bit x.2 + bit z.2)
  else
    let r := redApply op a b
    (r.1, bit r.2)

/-- A record that joins one of its word and sub-operation. -/
def joinReds (pa : Nat) (op : BitVec 3) (a : Nat) : List Red → Option (List Red × Nat)
  | [] => none
  | r :: rs =>
    if r.pa = pa ∧ r.op = op then
      let c := combineRed op r.val a
      some ({ r with val := c.1 } :: rs, c.2)
    else (joinReds pa op a rs).map fun q => (r :: q.1, q.2)

/-- A record joins an existing one of a vestibule (R156). -/
def joinVest (pa : Nat) (op : BitVec 3) (a : Nat) : List VEntry → Option (List VEntry × Nat)
  | [] => none
  | .reds rs :: t =>
    match joinReds pa op a rs with
    | some q => some (.reds q.1 :: t, q.2)
    | none => (joinVest pa op a t).map fun q => (.reds rs :: q.1, q.2)
  | e :: t => (joinVest pa op a t).map fun q => (e :: q.1, q.2)

/-- A record takes a free place in a line of records, four to a line (R156). -/
def placeVest (r : Red) : List VEntry → Option (List VEntry)
  | [] => none
  | .reds rs :: t =>
    if rs.length < 4 then some (.reds (rs ++ [r]) :: t) else (placeVest r t).map (.reds rs :: ·)
  | e :: t => (placeVest r t).map (e :: ·)

/-- A reduction takes or joins a record in the vestibule of its cell (R156, R374). -/
def State.takeRed (s : State) (t : Task) (mc pa : Nat) (op : BitVec 3) (a : Nat) : Perf :=
  let vc := vestCell t mc
  let v := (s.cell vc).vest
  let put (st : State) (w : List VEntry) : State := st.updCell vc fun cl => { cl with vest := w }
  match joinVest pa op a v with
  | some q => .ok ((put s q.1).countXovf pa q.2) {}
  | none =>
    let f := s.fresh
    let r : Red := { pa := pa, op := op, val := a, id := f.1 }
    match placeVest r v with
    | some w => .ok (put f.2 w) {}
    | none => f.2.allocLines t mc 1 fun s1 => .ok (put s1 (v ++ [.reds [r]])) {}

/-! ### Atomic sets (R164 to R167) -/

/-- The fault of a touch that would make a 257th set (R164). -/
def setLimit (n ea : Nat) : AddrFault := { code := 0x0D, sub := n, info := ea }

/-! ### Order at a home (R127, R189, R240) -/

/-- An age as a number that rises from old to young, for ages on either side of the domain time (R94). -/
def State.ageKey (s : State) (t : Task) : Nat :=
  (ageTime t.age + 2 ^ 44 + 2 ^ 43 - s.domainTime) % 2 ^ 44 * 2 ^ 20 + t.age % 2 ^ 20

/-- The place of an operation: a steal comes after the owner's requests, the oldest requester first (R127). -/
def State.keyOf (s : State) (t : Task) (o : Op) : Nat :=
  if o.opc = 0x59 then 2 ^ 50 * (1 + s.ageKey t) + homeKey o.cell o.elem else homeKey o.cell o.elem

/-- Where an operation arrives: at the words of a scratchpad (R189), or at the homes of its addresses (R240). -/
def State.arrivals (s : State) (t : Task) (o : Op) : List Served :=
  match o.spad with
  | some m => (s.touched o).map fun r => { home := spadHome m, lo := r.1, len := r.2, key := s.keyOf t o }
  | none => s.memArrivals (s.physPieces t (s.sentRanges t o)) (s.keyOf t o)

/-- The arrival of a request at the lock entry of a set: the oldest of a tick is settled first (R167). -/
def State.lockArrival (s : State) (t : Task) (k : Nat × Nat) : Served :=
  { home := 2 ^ 30 + 4096 * k.1 + k.2, lo := 0, len := 1, key := s.ageKey t }

/-- Whether a remote home can be reached: some Ewejan port is up (R20). -/
def State.routed (s : State) (pa : Nat) : Bool :=
  s.level pa != .remote || s.ewj.any fun p => p.2.st == 2 || p.2.st == 3

/-! ### Waits on words (R158, R187, R188) -/

/-- The pieces that a store under way, or what is left of one, writes. -/
def State.piecesOf (s : State) (o : Op) : List (Nat × List Byte × Option (BitVec 16)) :=
  match o.orphan with
  | some k => k.pieces
  | none => s.storeParts o

/-- The words of a memory cell that hold an operation back as they stand: the word of a full/empty operation, the indices or the ring
entry of a queue or deque operation, or words tentative for another task that it would write (R158, R187, R384, R385). -/
def State.waitWords (s : State) (o : Op) (m : Nat) : List Nat :=
  let p := (s.cell m).spad
  let w := o.ea / 4
  let v := some o.task
  let st := p.viewSt w v
  let hid (k : Nat) : Bool := p.hidden k v
  let entry : List Nat := ((s.entryOffset o).map fun a => a / 4).toList
  let size := 2 ^ natField (p.viewWord w v).toNat 28 4
  if o.opc = 0x42 ∨ o.opc = 0x43 then (if wordFull st (p.viewWord w v) then [] else [w])
  else if o.opc = 0x45 then (if hid w || (!st.counting && st.full) then [w] else [])
  else if 0x46 ≤ o.opc ∧ o.opc ≤ 0x4A ∧ o.opc ≠ 0x48 then [w].filter hid
  else if o.opc = 0x55 then
    if hid (w + 2) then [w + 2]
    else if (p.viewWord (w + 2) v - p.committed (w + 1)).toNat == size then [w + 1, w + 2]
    else entry.filter hid
  else if o.opc = 0x56 then
    if hid (w + 1) then [w + 1] else if p.viewWord (w + 1) v == p.viewWord (w + 2) v then [w + 1, w + 2] else []
  else if o.opc = 0x57 then (if hid (w + 2) then [w + 2] else entry.filter hid)
  else if o.opc = 0x58 then [w + 2].filter hid
  else if o.opc = 0x59 then [w + 1].filter hid
  else if isStore o.opc then ((s.piecesOf o).flatMap fun q => wordsIn q.1 q.2.1.length).filter hid
  else []

/-- Whether an operation waits on a word (R188): neither withdrawn, nor past its limit. -/
def State.waitsOn (s : State) (o : Op) (m w : Nat) : Bool :=
  (o.waits || o.orphan.isSome) && !o.replay && !s.limitPassed o && o.spad == some m && (s.waitWords o m).contains w

/-! ### The surcharge of a late translation (R361) -/

/-- The address whose home an operation is sent to: an ACQ goes to the home of its set's lock entry (R164, R372). -/
def State.homeEa (s : State) (t : Task) (o : Op) : Nat :=
  if o.opc = 0x4C then
    match s.setAt t o.ea 4 with
    | some k => s.setBase k.1 k.2
    | none => o.ea
  else o.ea

/-- What a firing that found its translation missing still owes (R361). -/
def State.surcharge (s : State) (t : Task) (o : Op) : Nat :=
  let l := s.level (s.phys t (s.homeEa t o))
  if (0x60 ≤ o.opc ∧ o.opc < 0x68) ∨ (0x70 ≤ o.opc ∧ o.opc < 0x78) then (if l = .remote then 8 else 0)
  else levelRow l - 16

/-- Pays the surcharge of an operation whose page has come; a debit that cannot be paid leaves it unperformed. -/
def State.paySurcharge (s : State) (t : Task) (o : Op) (go : State → State) : State :=
  if !o.short then go s
  else
    let cost := s.surcharge t o
    if cost = 0 ∨ (s.entryOf t).mmode = true then go (s.updOp o.id fun p => { p with short := false })
    else
      match s.payEngine t o.cell o.payKey cost with
      | .paid s1 => go (s1.updOp o.id fun p => { p with short := false })
      | .stalled s1 => s1
      | .stopped s1 => s1

/-! ### An attempt -/

/-- The limit that a wait carries (R121): the constant that SRC2 names, 0 for none. -/
def State.limitOf (s : State) (q : Op) : Nat :=
  if q.opc = 0x42 ∨ q.opc = 0x43 ∨ q.opc = 0x45 ∨ q.opc = 0x55 ∨ q.opc = 0x56 then
    (if q.f.src2.toNat % 8 = 0 then 0 else ((s.elem q.cell q.elem).kreg (q.f.src2.toNat % 8)).toNat)
  else 0

/-- An operation begins to wait, or goes on waiting; its limit runs from the first wait on (R121, R364). -/
def State.await (s : State) (o : Op) : State :=
  s.updOp o.id fun q =>
    { q with phase := .waiting, retry := false, asleep := false,
             since := if q.phase = .waiting then q.since else s.clock.tick,
             limit := match q.limit with
               | some l => some l
               | none => if s.limitOf q = 0 then none else some (s.clock.tick + s.limitOf q) }

/-- An access of a scratchpad in retention waits for the exit, which its limit counts (R45); one that waited for its condition already
goes on waiting for it. -/
def State.awaitExit (s : State) (o : Op) : State :=
  (s.await o).updOp o.id fun q => { q with asleep := o.asleep || o.phase != .waiting }

/-- Whether an operation addresses another device's memory. -/
def State.isRemote (s : State) (t : Task) (o : Op) : Bool :=
  o.spad.isNone && (s.physPieces t o.ranges).any fun r => s.level r.1 == .remote

/-- Whether an operation takes a reply from its home: a read or an atomic (R17). -/
def takesReply (op : Nat) : Bool :=
  op == 0x40 || op == 0x41 || decide (0x60 ≤ op ∧ op < 0x68) || decide (0x70 ≤ op ∧ op < 0x78) || op == 0xA0 || op == 0xA2
    || op == 0x50 || op == 0x52 || op == 0xF6 || op == 0xD8 || op == 0x100 || op == 0x102

/-- An operation is performed: its reply is injected, and one from another device is awaited (R9, R17, R362). -/
def State.perform (s : State) (o : Op) (f : Op → Op) : State :=
  (s.inject o.id).updOp o.id fun q =>
    let r := f q
    { r with phase := .performed, limit := none, retry := false, asleep := false,
             awaits := takesReply o.opc && s.isRemote (s.task o.task) o }

/-- An operation is performed, waits, faults or has ended its task (R362, R364). -/
def State.settle (s : State) (o : Op) (p : Perf) : State :=
  match p with
  | .ok s1 x => s1.perform o fun q =>
      { q with r := x.r, c := x.c, status := x.status, engv := x.engv, vres := x.vres, fflag := x.fflag }
  | .wait => s.await o
  | .fault a => s.raiseOp o a
  | .stop s1 => s1

/-- The virtual ranges whose translation an operation needs: an ACQ needs that of its set's home (R361, R372). -/
def State.needRanges (s : State) (t : Task) (o : Op) : List (Nat × Nat) :=
  if o.opc = 0x4C then [(s.homeEa t o, 4)] else o.ranges

/-- What stands before an operation on virtual memory, and for a set not yet held its request is injected: its pages, its surcharge, the watchpoints, its route, arrays in
retention, the sets it touches, earlier messages of its path and later requesters of the tick; then `go` performs it (R9, R20,
R44, R45, R165, R240, R266, R278, R361). -/
def State.virtAttempt (s0 : State) (t : Task) (o : Op) (go : State → State) : State :=
  let s := if o.retry then (s0.inject o.id).updOp o.id fun p => { p with retry := false } else s0
  match s.missing t (writesMem o.opc) (s.needRanges t o) with
  | some m => s.hold t o m.1 m.2
  | none =>
    s.paySurcharge t o fun s1 =>
      let ps := s1.physPieces t o.ranges
      let sleeping := ps.flatMap fun r => s1.retainedIn r.1 r.2
      match (if o.watched then none else s1.watched t (writesMem o.opc) o.ranges) with
      | some w => s1.raiseOp o { code := 0x14, sub := w.1, info := w.2 }
      | none =>
        if ps.any fun r => !s1.routed r.1 then
          s1.updOp o.id fun p => { p with noRoute := match p.noRoute with
            | some q => some q
            | none => some s.clock.tbase }
        else if !sleeping.isEmpty then s1.beginExit sleeping
        else
          let s2 := s1.updOp o.id fun p => { p with noRoute := none }
          match if touchesSets o.opc then s2.nextTouch t o.ranges else none with
          | some k =>
            if t.sets.length ≥ 256 then s2.raiseOp o (setLimit k.1.2 k.2)
            else (s2.inject o.id).updOp o.id fun p => { p with phase := .waitSet, since := 0 }
          | none =>
            let as := s2.arrivals t o
            if s2.overtakes o || s2.tooLate as then s2 else go ((s2.arrive as).useRanges (s2.physPieces t (s2.sentRanges t o)))

/-- One attempt at an operation: not while something stands before it (R241, R266). A scratchpad in retention makes the access
wait, which its limit counts (R45); accesses of one tick are served in their order (R127, R189). -/
def State.attempt (s : State) (o : Op) (go : Task → State → State) : State :=
  match s.task? o.task with
  | none => go {} s
  | some t =>
    if o.phase == .performed || !s.mayGo o then s
    else
      match o.spad with
      | some m =>
        let as := s.arrivals t o
        if s.retained (.spad m) then (s.beginExit [.spad m]).awaitExit o
        else if o.phase == .issued && s.tooLate as then s
        else go t (s.arrive as)
      | none => s.virtAttempt t o (go t)

end Sys2Proof.Machine
end

