-- ==== Sys2Proof/Machine/Loads.lean ====
section
/-! DEFINITION. Loads, plain stores, full/empty and counting words, FENCE, ACQ and PREF (R360 to R372, R386): their
firings, and how each is performed at its home. -/

namespace Sys2Proof.Machine

/-! ### Firing -/

/-- The bytes that a SIZE code names (R291). -/
def sizeBytes (f : Slot) : Nat :=
  match f.src2.toNat % 8 with
  | 0 => 1
  | 4 => 1
  | 1 => 2
  | 5 => 2
  | _ => 4

/-- The flat cost of a virtual access whose row does not depend on the level (R137): RED 16, ATOM and ATOMX 40. -/
def flatRow (op : Nat) : Option Nat :=
  if 0x68 ≤ op ∧ op < 0x70 then some 16
  else if (0x60 ≤ op ∧ op < 0x68) ∨ (0x70 ≤ op ∧ op < 0x78) then some 40
  else none

/-- The debit of a memory-class firing with its address, and whether a surcharge is still due (R361). -/
def State.memCost (s : State) (x : Fire) (tg : Target) : Nat × Bool :=
  match flatRow x.op with
  | some k =>
    if k = 40 then
      match s.cached x.t tg.ea with
      | some p => (if s.level (p.phys (tg.ea % 2 ^ 48)) = .remote then 48 else 40, false)
      | none => (40, true)
    else (k, false)
  | none => s.targetRow x.t tg

/-- The debit of a memory-class firing that its address or binding ends (R360). -/
def State.memFaultCost (s : State) (x : Fire) : Nat :=
  if isSpad (s.window x (windowNo x.f)) then 12 else (flatRow x.op).getD 16

/-- A memory-class firing with an address (R360): the checks, the debit, the post-increment, the issue. -/
def State.memFire (s : State) (op : Nat) (f : Slot) (size step : Nat) (u : Use)
    (args : Fire → State → List Word) (more : Fire → State → Option AddrFault) : State :=
  s.fire op f fun x s0 =>
    match s0.address x x.a size size u with
    | .error a => s0.faultFire x (s0.memFaultCost x) a
    | .ok tg =>
      match more x s0 with
      | some a => s0.faultFire x (s0.memFaultCost x) a
      | none =>
        let row := s0.memCost x tg
        s0.offer x row.1 fun s1 =>
          (s1.postIncr x f.src1.toNat step).issue x
            { opOf x (x.a :: args x s0) with spad := tg.spad, ea := tg.ea, len := size, short := row.2 }

/-- No captured operand but the offset. -/
def noArgs (_ : Fire) (_ : State) : List Word := []

/-- No check beyond those of the address. -/
def noCheck (_ : Fire) (_ : State) : Option AddrFault := none

/-- The data operand of DST (R292). -/
def dataArg (x : Fire) (s : State) : List Word := [srcVal (s.cell x.c) (s.elem x.c x.e) x.f.dst]

/-- LD (R365). -/
def execLd (f : Slot) (s : State) : Host.Outcome State Fault Refusal :=
  .next (s.memFire 0x40 f (sizeBytes f) (sizeBytes f) .load noArgs noCheck)

/-- LDC (R365): the result is tainted. -/
def execLdc (f : Slot) (s : State) : Host.Outcome State Fault Refusal :=
  .next (s.memFire 0x41 f (sizeBytes f) (sizeBytes f) .load noArgs noCheck)

/-- LDWF (R367). -/
def execLdwf (f : Slot) (s : State) : Host.Outcome State Fault Refusal :=
  .next (s.memFire 0x42 f 4 4 (.full 0x42) noArgs noCheck)

/-- LDTK (R367). -/
def execLdtk (f : Slot) (s : State) : Host.Outcome State Fault Refusal :=
  .next (s.memFire 0x43 f 4 4 (.full 0x43) noArgs noCheck)

/-- ST (R365). -/
def execSt (f : Slot) (s : State) : Host.Outcome State Fault Refusal :=
  .next (s.memFire 0x44 f (sizeBytes f) (sizeBytes f) .store dataArg noCheck)

/-- STFL (R367). -/
def execStfl (f : Slot) (s : State) : Host.Outcome State Fault Refusal :=
  .next (s.memFire 0x45 f 4 4 (.full 0x45) dataArg noCheck)

/-- STSF (R367). -/
def execStsf (f : Slot) (s : State) : Host.Outcome State Fault Refusal :=
  .next (s.memFire 0x46 f 4 4 (.full 0x46) dataArg noCheck)

/-- FECLR (R367). -/
def execFeclr (f : Slot) (s : State) : Host.Outcome State Fault Refusal :=
  .next (s.memFire 0x47 f 4 4 (.full 0x47) noArgs noCheck)

/-- FEQ (R367, R368). -/
def execFeq (f : Slot) (s : State) : Host.Outcome State Fault Refusal :=
  .next (s.memFire 0x48 f 4 4 (.full 0x48) noArgs noCheck)

/-- CTRINIT (R367, R369). -/
def execCtrinit (f : Slot) (s : State) : Host.Outcome State Fault Refusal :=
  .next (s.memFire 0x49 f 4 4 (.full 0x49) dataArg noCheck)

/-- ARRIVE (R367, R370). -/
def execArrive (f : Slot) (s : State) : Host.Outcome State Fault Refusal :=
  .next (s.memFire 0x4A f 4 4 (.full 0x4A) noArgs noCheck)

/-- FENCE (R371). -/
def execFence (f : Slot) (s : State) : Host.Outcome State Fault Refusal :=
  .next (s.fire 0x4B f fun x s0 => s0.offer x 8 fun s1 => s1.issue x (opOf x []))

/-- The access row of the home of the set that holds an address (R137, R372). -/
def State.setRow (s : State) (t : Task) (ea : Nat) : Nat × Bool :=
  match s.setAt t ea 4 with
  | some k => s.accessRow t (s.setBase k.1 k.2)
  | none => s.accessRow t ea

/-- ACQ (R372). -/
def execAcq (f : Slot) (s : State) : Host.Outcome State Fault Refusal :=
  .next (s.fire 0x4C f fun x s0 =>
    match s0.address x x.a 4 4 .acq with
    | .error a => s0.faultFire x (s0.memFaultCost x) a
    | .ok tg =>
      let row := s0.setRow x.t tg.ea
      s0.offer x row.1 fun s1 =>
        s1.issue x { opOf x [x.a] with spad := tg.spad, ea := tg.ea, len := 4, short := row.2 })

/-- Whether a PREF is dropped (R386): a bad address, a failed binding, a non-present page, a poisoned block. It completes in its
step, so a page that is not cached is looked up in the tables as they stand; log entry 85. -/
def State.prefDropped (s : State) (x : Fire) : Except Bool Target :=
  match s.address x x.a 1 1 .load with
  | .error _ => .error true
  | .ok tg =>
    if tg.spad.isSome || (s.cached x.t tg.ea).isSome then (if (s.poisonIn x.t x.c tg 1).isSome then .error true else .ok tg)
    else
      match (if (s.walkPoison (s.asidOf x.t) tg.ea).isSome then none else s.walk (s.asidOf x.t) tg.ea) with
      | none => .error true
      | some p => if tagPoison (s.seenTag (vestCell x.t x.c) (p.pa + (tg.ea - p.base))) then .error true else .ok tg

/-- PREF (R386): it completes in its step; a page that is not cached is walked in the background. -/
def execPref (f : Slot) (s : State) : Host.Outcome State Fault Refusal :=
  .next (s.fire 0x5A f fun x s0 => s0.offer x 8 fun s1 =>
    let s2 := s1.postIncr x f.src1.toNat 64
    match s0.prefDropped x with
    | .error _ => s2.finishEng x {} 0x06
    | .ok tg =>
      let s3 := if tg.spad.isNone && (s0.cached x.t tg.ea).isNone then
          s2.updRoom x.t.room fun r => r.beginWalk (s0.asidOf x.t) (tg.ea / 65536 * 65536) else s2
      s3.finishEng x {} 0)

/-! ### Performing at the home -/

/-- The value of a load of a size code from its bytes (R365). -/
def loadValue (f : Slot) (bytes : List Byte) : Word :=
  let n := bytesToNat bytes
  match f.src2.toNat % 8 with
  | 4 => BitVec.ofInt 32 (natToInt 8 n)
  | 5 => BitVec.ofInt 32 (natToInt 16 n)
  | _ => BitVec.ofNat 32 n

/-- A load is performed: its value is bound (R362, R365, R366). -/
def State.performLoad (s : State) (o : Op) (t : Task) : Perf :=
  let tg : Target := { spad := o.spad, ea := o.ea }
  match s.poisonIn t o.cell tg o.len with
  | some a => .fault (poisonFault a)
  | none =>
    let s1 := if o.spad.isNone then s.watchRead t 0 o.cell o.elem o.ea o.len else s
    .ok s1 { r := loadValue o.f (s.readBytes t o.cell tg o.len) }

/-- A store is performed or enters the vestibule (R362, R366). -/
def State.performStore (s : State) (o : Op) (t : Task) : Perf :=
  s.store t o.cell o.elem { spad := o.spad, ea := o.ea } (natToBytes o.len (o.args.getD 1 0).toNat)

/-- Writes one word with its state (R367). -/
def State.spadWord (s : State) (t : Task) (m w : Nat) (v : Word) (st : WordSt) (x : Out) : Perf :=
  (s.spadPut t m ((s.cell m).spad.write (s.writerOf t) w v st)).andThen fun s1 _ => .ok s1 x

/-- The counting entry of a word is released: at once by an immediate write, at the commit point by a tentative one
(R187, R369). -/
def Spad.releaseEntry (p : Spad) (wr : Writer) (w : Nat) : Spad :=
  match wr with
  | none => { p with counting := p.counting.filter fun c => c.w != w }
  | some t => { p with counting := p.counting.map fun c => if c.w = w then { c with rel := some t } else c }

/-- Empties a word (R187): an ordinary one keeps its value, a counting one takes 0 and releases its entry. -/
def State.emptyWord (s : State) (t : Task) (m w : Nat) (x : Out) : Perf :=
  let p := (s.cell m).spad
  let st := p.wst w
  if st.counting then
    (s.spadPut t m (((p.write (s.writerOf t) w 0 {})).map fun q => q.releaseEntry (s.writerOf t) w)).andThen
      fun s1 _ => .ok s1 x
  else s.spadWord t m w (p.word w) {} x

/-- The operations but `self`, the parked tasks, the immediate writers and the hearth copies that wait on a word (R188). -/
def State.waitersOn (s : State) (self m w : Nat) : Nat :=
  (s.ops.filter fun o => o.id != self && s.waitsOn o m w).length
    + (s.rooms.filter fun r => r.2.hearth.exec.any fun x => x.heldBy == some (m, w / 16)).length
    + (s.rooms.flatMap fun r => r.2.waitTab.filter fun k =>
        match k with
        | .park _ c x => c == m && x == w
        | .set _ => false).length
    + (if ((s.cell m).spad.tentBy w).isSome then
        (s.fills.filter fun f => f.since.isSome && ((!f.filled && handleCell f.handle == m && handleWord f.handle == w)
          || (f.filled && handleCell f.chandle == m && handleWord f.chandle == w))).length
       else 0)

/-- CTRINIT at its word (R188, R369). -/
def State.performCtrinit (s : State) (o : Op) (t : Task) (m w : Nat) (target : Word) : Perf :=
  let p := (s.cell m).spad
  let n := s.waitersOn o.id m w
  if n ≠ 0 then .fault { code := 0x09, sub := min n 0xFFFF, info := 4 * w }
  else if p.hidden w (some t.id) then .wait
  else
    let wr := s.writerOf t
    let st : WordSt := { counting := true, tgt := target.toNat }
    let has := p.counting.any fun c => c.w == w
    if !has && decide (256 ≤ p.counting.length) then .fault { code := 0x0A, info := 4 * w }
    else
      let put := (p.write wr w 0 st).map fun q =>
        if has then { q with counting := q.counting.map fun c => if c.w = w then { c with rel := none } else c }
        else { q with counting := q.counting ++ [{ w := w, by_ := wr }] }
      (s.spadPut t m put).andThen fun s1 _ => .ok s1 {}

/-- A full/empty or counting operation at its word, by the columns of R187 as the issuer sees the word (R158). -/
def State.performWord (s : State) (o : Op) (t : Task) (m : Nat) : Perf :=
  let p := (s.cell m).spad
  let w := o.ea / 4
  let st := p.viewSt w (some t.id)
  let v := p.viewWord w (some t.id)
  let hid := p.hidden w (some t.id)
  let data := o.args.getD 1 0
  let poison := s.poisonIn t o.cell { spad := some m, ea := o.ea } 4
  match o.opc with
  | 0x42 =>
    if !wordFull st v then .wait
    else
      match poison with
      | some a => .fault (poisonFault a)
      | none => .ok s { r := v }
  | 0x43 =>
    if !wordFull st v then .wait
    else
      match poison with
      | some a => .fault (poisonFault a)
      | none => s.emptyWord t m w { r := v }
  | 0x45 =>
    if hid then .wait
    else if st.counting then .fault (countingFault w)
    else if st.full then
      if (s.bindKindAt t { spad := some m, ea := o.ea }).1 = .streamOnce then .fault { code := 0x07, info := o.ea }
      else .wait
    else s.spadWord t m w data { full := true } {}
  | 0x46 =>
    if hid then .wait
    else if st.counting then .fault (countingFault w)
    else s.spadWord t m w data { full := true } {}
  | 0x47 => if hid then .wait else s.emptyWord t m w {}
  | 0x48 =>
    match poison with
    | some a => .fault (poisonFault a)
    | none => .ok s { r := BitVec.ofNat 32 (bit (wordFull st v) + 2 * bit st.counting), engv := some v }
  | 0x49 => s.performCtrinit o t m w data
  | _ =>
    if hid then .wait
    else if !st.counting then .fault (countingFault w)
    else if poison.isSome then .fault (poisonFault (o.ea / 64 * 64))
    else
      let v' : Word := if v = 0xFFFFFFFF then v else v + 1
      s.spadWord t m w v' st { c := decide (v.toNat < st.tgt) && decide (v'.toNat ≥ st.tgt) }

/-- Whether every earlier memory operation of a FENCE's element has been performed (R244, R371). -/
def State.fenceMet (s : State) (o : Op) : Bool :=
  (s.ops.takeWhile fun p => p.id != o.id).all fun p => p.cell != o.cell || p.elem != o.elem || !p.memPending

end Sys2Proof.Machine
end

