-- ==== Sys2Proof/Machine/Atomics.lean ====
section
/-! DEFINITION. ATOM, RED and ATOMX, and their combining in routers (R251 to R253, R373 to R376). -/

namespace Sys2Proof.Machine

/-! ### Firing -/

/-- The operands of an ATOM or ATOMX: g_d and the three registers after it (R373, R375). -/
def atomArgs (x : Fire) (s : State) : List Word :=
  (upTo 4).map fun i => (s.elem x.c x.e).greg (x.f.dst.toNat + i)

/-- Whether a handle fails the checks of R375. -/
def State.badHandle (s : State) (h : Word) : Bool :=
  natField h.toNat 18 2 != 0 || kindOf (handleCell h) != .memory || (s.room (natField h.toNat 26 6)).absent

/-- The fault of a handle that fails (R375). -/
def handleFault (h : Word) : AddrFault := { code := 0x03, sub := 0xFF, info := h.toNat }

/-- The check of the handles of an ATOMX (R375). -/
def handleCheck (x : Fire) (s : State) : Option AddrFault :=
  let el := s.elem x.c x.e
  let h := el.greg (x.f.dst.toNat + 1)
  let k := el.greg (x.f.dst.toNat + 2)
  if s.badHandle h then some (handleFault h)
  else if k != 0xFFFFFFFF && s.badHandle k then some (handleFault k)
  else none

/-- ATOM (R373). -/
def execAtom (op : BitVec 3) (f : Slot) (s : State) : Host.Outcome State Fault Refusal :=
  .next (s.memFire (0x60 + op.toNat) f 4 4 .atom atomArgs noCheck)

/-- The bytes of a reduction's word (R217, R374). -/
def redBytes (op : BitVec 3) : Nat := if op.toNat = 1 then 16 else 4

/-- RED (R374). -/
def execRed (op : BitVec 3) (f : Slot) (s : State) : Host.Outcome State Fault Refusal :=
  .next (s.memFire (0x68 + op.toNat) f (redBytes op) (redBytes op) .red dataArg noCheck)

/-- ATOMX (R375). -/
def execAtomx (op : BitVec 3) (f : Slot) (s : State) : Host.Outcome State Fault Refusal :=
  .next (s.memFire (0x70 + op.toNat) f 4 4 .atom atomArgs handleCheck)

/-! ### Performing -/

/-- The sub-operation of an atomic: the new value, and whether CAS swapped (R373). -/
def atomApply (op : Nat) (old a b : Word) : Word × Bool :=
  match op with
  | 0 => (old + a, false)
  | 1 => ((minRes old a).r, false)
  | 2 => ((maxRes old a).r, false)
  | 3 => (old &&& a, false)
  | 4 => (old ||| a, false)
  | 5 => (old ^^^ a, false)
  | 6 => (a, false)
  | _ => if old = a then (b, true) else (old, false)

/-- The new-value operand of CAS: g_(d+1) of ATOM, g_(d+3) of ATOMX (R373, R375). -/
def Op.casNew (o : Op) : Word := if o.opc < 0x70 then o.args.getD 2 0 else o.args.getD 4 0

/-- A RED enters its cell's vestibule (R374). -/
def State.performRed (s : State) (o : Op) (t : Task) : Perf :=
  let op := BitVec.ofNat 3 o.opc
  let a := (o.args.getD 1 0).toNat
  s.takeRed t o.cell (s.phys t o.ea) op (if op.toNat = 1 then rawAddend a else a)

/-- The physical word of an atomic (R373). -/
def State.atomPa (s : State) (o : Op) : Nat :=
  match o.orphan with
  | some k => (k.pieces.head?.map (·.1)).getD 0
  | none => s.phys (s.task o.task) o.ea

/-- The part of an atomic that follows its home: its issuer's result, and for an ATOMX the fill on its way (R376). A reply to a
task that has vanished is discarded (R274). -/
def State.atomDone (s : State) (o : Op) (old : Word) (swapped : Bool) : State :=
  let cas := o.opc % 8 = 7
  let s1 := if o.opc < 0x70 then s
    else
      let n := s.fresh
      { n.2 with fills := n.2.fills ++
          [{ id := n.1, inj := n.1, src := s.homeWing (s.atomPa o), key := homeKey o.cell o.elem,
             handle := o.args.getD 2 0, chandle := o.args.getD 3 0, val := old }] }
  if o.orphan.isSome then s1.delOp o.id
  else s1.perform o fun q =>
    { q with r := if o.opc < 0x70 then old else 0, c := swapped, status := if cas ∧ swapped = false then 0x04 else 0 }

/-- The agent of an operation, or of what is left of it (R280). -/
def State.opAgent (s : State) (o : Op) (kind : Nat) : Agent :=
  match o.orphan with
  | some k => { kind := kind, elem := o.elem, x := cellX o.cell, y := cellY o.cell, dev := s.devNum, tag := k.tag, age := k.age }
  | none => s.elemAgent kind (s.task o.task) o.cell o.elem

/-- An atomic is performed at its home as one read and write (R251, R373). -/
def State.performAtom (s : State) (o : Op) : State :=
  let pa := s.atomPa o
  if tagPoison (s.physTag pa) then
    (if o.orphan.isSome then s.delOp o.id else s.raiseOp o (poisonFault (o.ea / 64 * 64)))
  else
    let old := BitVec.ofNat 32 (s.physLE pa 4)
    let r := atomApply (o.opc % 8) old (o.args.getD 1 0) o.casNew
    let s1 := (s.putBytes pa (natToBytes 4 r.1.toNat)).homeWatch pa 4 true (s.opAgent o 0)
    s1.atomDone o old r.2

/-- What is left of an operation whose task has vanished is performed at its homes (R274). -/
def State.performOrphan (s : State) (o : Op) (k : Orphan) : State :=
  if o.isAtom then s.performAtom o
  else
    (foldState k.pieces s fun p st =>
      let a := st.putBytes p.1 p.2.1
      let b := match p.2.2 with
        | some tag => a.putTag p.1 tag
        | none => a
      b.homeWatch p.1 p.2.1.length true (s.opAgent o (if o.opc = 0x51 then 2 else 0))).delOp o.id

/-! ### Combining (R252, R253) -/

/-- Whether an atomic request may be combined: an ATOM or ATOMX on its way, of ADD, MIN, MAX, AND, OR or XOR. -/
def Op.combinable (o : Op) : Bool := o.isAtom && o.opc % 8 < 6 && o.combo.isNone && o.orphan.isNone

/-- A request as a router sees it (R252): its word, its operation, whether it is a reduction, its parts with their operands, a
reduction's combined operand, and the arrival, as tick and input port, of its first and last part. -/
structure Combinable where
  pa : Nat := 0
  opc : Nat := 0
  red : Bool := false
  parts : List (Nat × Nat) := []
  val : Nat := 0
  head : Nat × Nat := (0, 0)
  last : Nat × Nat := (0, 0)
  deriving DecidableEq, Repr

/-- Whether one arrival at a router comes before another: by tick, then by input port (R253). -/
def arrivesBefore (a b : Nat × Nat) : Bool := decide (a.1 < b.1) || (a.1 == b.1 && decide (a.2 < b.2))

/-- The request that an operation has under way to a router. -/
def State.opRequest (s : State) (o : Op) (at_ : Nat × Nat) : Option Combinable :=
  match s.task? o.task with
  | none => none
  | some t =>
    if o.combinable && s.underWay t o && decide (o.sent ≤ at_.1) then
      some { pa := s.phys t o.ea, opc := o.opc % 8, parts := [(o.id, (o.args.getD 1 0).toNat)], head := at_, last := at_ }
    else none

/-- The reduction records of the line that the commit drain of a cell sends next (R156, R160). -/
def State.drainReds (s : State) (c : Nat) : List Red :=
  match s.owner? c with
  | none => []
  | some t =>
    if t.st ≠ .committing then []
    else
      match (s.cell c).vest.find? fun e =>
        match e with
        | .spawn _ _ => false
        | _ => true with
      | some (.reds rs) => rs
      | _ => []

/-- The request of a reduction record: an operation of RED but FMIN (R252). Its part is the cell and the number of the record. -/
def State.redRequest (s : State) (c n : Nat) (at_ : Nat × Nat) : Option Combinable :=
  match (s.drainReds c)[n]? with
  | none => none
  | some r =>
    if r.op = 7 ∨ r.combo.isSome = true then none
    else some { pa := r.pa, opc := r.op.toNat, red := true, parts := [(c, r.id)], val := r.val, head := at_, last := at_ }

/-- A request at a router (R252, R253). A combined request that still waits in its router stands there with the arrival of its
parts; at a later router it has an arrival of its own. -/
def State.request (s : State) (q : Request) : Option Combinable :=
  let at_ := (q.tick, q.port)
  if s.clock.tick < q.tick then none
  else
    match q.name with
    | .op id => (s.op? id).bind fun o => s.opRequest o at_
    | .record c n => s.redRequest c n at_
    | .combo id =>
      match s.combos.find? fun (k : Combo) => k.id == id && k.old.isNone with
      | none => none
      | some k =>
        let r : Combinable := { pa := k.pa, opc := k.opc, red := k.red, parts := k.parts, val := k.val, head := k.head, last := k.last }
        if at_ = k.last then some r else if k.last.1 < q.tick then some { r with head := at_, last := at_ } else none

/-- Names the combined request in its parts. -/
def State.nameParts (s : State) (red : Bool) (id : Nat) (parts : List (Nat × Nat)) : State :=
  foldState parts s fun p st =>
    if red then
      st.updCell p.1 fun cl => { cl with vest := cl.vest.map fun e =>
        match e with
        | .reds rs => .reds (rs.map fun r => if r.id = p.2 then { r with combo := some id } else r)
        | _ => e }
    else st.updOp p.1 fun q => { q with combo := some id }

/-- Whether a part of two requests stands behind an earlier message on its way, so that it has not reached the router (R9, R21). -/
def State.partsBehind (s : State) (a b : Combinable) (own : List Nat) : Bool :=
  (a.parts ++ b.parts).any fun p =>
    if a.red then s.pathBusy own s.clock.nextId (s.legOf (wingOfCell p.1) 2 a.pa).toList
    else (s.op? p.1).any fun o => s.pathBusy (own ++ (a.parts ++ b.parts).map (·.1)) o.inj (s.legs o)

/-- The combined request that a request names. -/
def combosNamed (q : Request) : List Nat :=
  match q.name with
  | .combo id => [id]
  | _ => []

/-- ROUTER_COMBINE (R252, R253): two like requests to one word become one, the earlier to arrive before the later; a combined
request may be combined again. -/
def execRouterCombine (first second : Request) (s : State) : Host.Outcome State Fault Refusal :=
  .next (match s.request first, s.request second with
    | some a, some b =>
      if first.name ≠ second.name ∧ a.pa = b.pa ∧ a.opc = b.opc ∧ a.red = b.red ∧ arrivesBefore a.last b.head = true
          ∧ s.partsBehind a b (combosNamed first ++ combosNamed second) = false then
        let n := s.fresh
        let z := if a.red then combineRed (BitVec.ofNat 3 a.opc) a.val b.val else (0, 0)
        let k : Combo := { id := n.1, pa := a.pa, opc := a.opc, red := a.red, parts := a.parts ++ b.parts, val := z.1,
                           head := a.head, last := b.last }
        let s1 := (n.2.nameParts a.red n.1 k.parts).countXovf a.pa z.2
        let gone (j : Combo) : Bool := first.name == .combo j.id || second.name == .combo j.id
        { s1 with combos := (s1.combos.filter fun j => !gone j) ++ [k] }
      else s
    | _, _ => s)

/-- The new value of a combined request: its parts one after another in router order (R252). -/
def comboNew (op : Nat) (old : Word) (parts : List (Nat × Nat)) : Word :=
  parts.foldl (fun m p => (atomApply op m (BitVec.ofNat 32 p.2) 0).1) old

/-- A combined atomic request is performed at its home as one action (R252). -/
def State.performCombo (s : State) (k : Combo) : State :=
  if k.old.isSome then s
  else if tagPoison (s.physTag k.pa) then
    let s1 := foldState k.parts s fun p st =>
      match st.op? p.1 with
      | some o =>
        if o.orphan.isSome then st.delOp o.id
        else (st.updOp p.1 fun q => { q with combo := none }).raiseOp o (poisonFault (o.ea / 64 * 64))
      | none => st
    { s1 with combos := s1.combos.filter fun (j : Combo) => j.id != k.id }
  else
    let old := BitVec.ofNat 32 (s.physLE k.pa 4)
    let o := (k.parts.head?.bind fun p => s.op? p.1).getD {}
    let s1 := (s.putBytes k.pa (natToBytes 4 (comboNew k.opc old k.parts).toNat)).homeWatch k.pa 4 true (s.opAgent o 0)
    { s1 with combos := s1.combos.map fun (j : Combo) => if j.id = k.id then { j with old := some old.toNat } else j }

/-- Each part of a combined reply receives its old value in router order (R253). -/
def State.splitParts (s : State) (op : Nat) (old : Word) : List (Nat × Nat) → State
  | [] => s
  | p :: ps =>
    let s1 := match s.op? p.1 with
      | some o => s.atomDone o old false
      | none => s
    s1.splitParts op (atomApply op old (BitVec.ofNat 32 p.2) 0).1 ps

/-- REPLY_SPLIT (R253). -/
def execReplySplit (combo : Nat) (s : State) : Host.Outcome State Fault Refusal :=
  .next (match s.combos.find? fun k => k.id == combo with
    | none => s
    | some k =>
      match k.old with
      | none => s
      | some v =>
        let s1 := s.splitParts k.opc (BitVec.ofNat 32 v) k.parts
        { s1 with combos := s1.combos.filter fun (j : Combo) => j.id != combo })

/-! ### The fill and arrival of an ATOMX (R376) -/

/-- Records a lost fill or arrival in ROOM_AXLOST of the target's room: `b` is the kind, `a` the handle. -/
def State.logLost (s : State) (h : Word) (kind : Nat) : State :=
  s.updRoom (natField h.toNat 26 6) fun r =>
    { r with axlost := { r.axlost with count := min (r.axlost.count + 1) 0xFFFF, a := h.toNat, b := kind } }

end Sys2Proof.Machine
end

