-- ==== Sys2Proof/Machine/Matrix.lean ====
section
/-! DEFINITION. The matrix engine: its instructions and the events of its rows, loads, drains and sorts (R192, R193,
R404 to R414, R423), and the typed streams of tile slots (R405). -/

namespace Sys2Proof.Machine

/-! ### Engine firings and typed streams -/

/-- The task of a cell whose engine node may act with a debit: running, neither frozen nor halted, the node not
frozen and the cell not halted (R138, R254, R276). -/
def State.engineTask (s : State) (c node : Nat) : Option Task :=
  match s.owner? c with
  | some t => if t.st == .running && !t.frozen && !t.halted && !(s.cell c).halted && !(s.cell c).nodeFrozen node then some t else none
  | none => none

/-- The task of a cell whose engine node may start a new firing (R357). -/
def State.newFiringTask (s : State) (c node : Nat) : Option Task :=
  match s.engineTask c node with
  | some t => if s.allDone t then none else some t
  | none => none

/-- The destinations of an engine port (R318). -/
def Cell.port (c : Cell) (p : Nat) : List Dest := mget c.ports p []

/-- The blocks of a tile slot in address order. -/
def Tile.stream (t : Tile) : List Block := (upTo t.len).map fun i => mget t.blocks i {}

/-- The fault of a typed read of block i of a stream, where its FMT is none of those accepted (R222, R224). -/
def blockFault (ok : Nat → Bool) (i : Nat) (b : Block) : Option AddrFault :=
  if tagPoison b.tag then some (poisonFault (64 * i))
  else if ok (tagFmt b.tag) then none
  else some { code := 0x0B, sub := b.tag.toNat, info := 64 * i }

/-- The first fault of a stream's blocks from block number i on. -/
def streamFault (ok : Nat → Bool) : Nat → List Block → Option AddrFault
  | _, [] => none
  | i, b :: bs =>
    match blockFault ok i b with
    | some a => some a
    | none => streamFault ok (i + 1) bs

/-- Any numeric tag, or ZERO (R221, R405). -/
def anyTyped (f : Nat) : Bool := numericFmt f || f == 0x1F

/-- The elements of a stream (R222, R405). -/
def streamElems (rf : Nat) (bs : List Block) : List (Nat × Nat × Int) := bs.flatMap (blockElems rf)

/-- A BOUNDS fault with its INFO. -/
def boundsFault (info : Nat) : AddrFault := { code := 0x02, sub := 0xFF, info := info }

/-! ### Configuration -/

/-- Whether a code is an activation format (R404). -/
def actFmt (f : Nat) : Bool := [0x09, 0x0A, 0x10, 0x01, 0x11].contains f

/-- A matrix instruction that completes in a later step, with its captured operands: of an MXRULE the region word too (R260, R408, R422). -/
def State.mxLater (s : State) (x : Fire) (vres : BitVec 1024) : State :=
  s.issue x { opOf x (x.a :: if x.op = 0xC2 then [x.b] else []) with phase := .performed, vres := vres }

/-- Changes the matrix engine of a cell. -/
def State.updMx (s : State) (c : Nat) (f : Mx → Mx) : State := s.updCell c fun cl => { cl with mx := f cl.mx }

/-- MXCFG (R404). -/
def execMxcfg (f : Slot) (s : State) : Host.Outcome State Fault Refusal :=
  .next (s.fire 0xC0 f fun x s0 =>
    let w := x.a.toNat
    if natField w 16 16 ≠ 0 ∨ !actFmt (natField w 0 8) ∨ !numericFmt (natField w 8 8) then
      s0.faultFire x 8 { code := 0x0B, sub := w % 2 ^ 16 }
    else s0.offer x 8 fun s1 =>
      (s1.updMx x.c fun m => { m with afmt := natField w 0 8, bfmt := natField w 8 8 }).mxLater x 0)

/-- The blocks that an MXLDB reads (R406). -/
def loadBlocks (cl : Cell) (f : Slot) : List Block :=
  (cl.tile (dstSlot f)).stream ++ (if f.dst.getLsbD 3 then (cl.tile (dstSlot f + 1)).stream else [])

/-- The blocks of a stream up to its n-th element. -/
def blocksFor (rf n : Nat) : List Block → List Block
  | [] => []
  | b :: bs => if n = 0 then [] else b :: blocksFor rf (n - (blockElems rf b).length) bs

/-- The fault of an MXLDB (R406). -/
def loadFault (bfmt : Nat) (bs : List Block) : Option AddrFault :=
  let used := blocksFor bfmt 16384 bs
  match streamFault anyTyped 0 used with
  | some a => some a
  | none =>
    let n := (streamElems bfmt used).length
    if n < 16384 then some (boundsFault n) else none

/-- MXLDB (R406). -/
def execMxldb (f : Slot) (s : State) : Host.Outcome State Fault Refusal :=
  .next (s.fire 0xC1 f fun x s0 =>
    let cl := s0.cell x.c
    let bs := loadBlocks cl f
    match loadFault cl.mx.bfmt bs with
    | some a => s0.faultFire x 4096 a
    | none => s0.offer x 4096 fun s1 =>
        let id := s1.clock.nextId
        (s1.updMx x.c fun m => { m with load := some { op := id, blocks := blocksFor cl.mx.bfmt 16384 bs } }).issue x
          (opOf x []))

/-- One group of 16 weights: the mb values, EB + SB, and whether it holds an infinity or a NaN (R226, R227). -/
def weightGroup (els : List (Nat × Nat × Int)) : List Int × Int × Bool :=
  let vs := els.map fun e => (e.1, elemVal e)
  let r := alignB vs
  (r.1, r.2 + ((els.head?.map fun e => e.2.2).getD 0), groupBad (vs.map (·.2)))

/-- The macro that 16,384 elements make; zero weights, zero exponents and false flags are not listed (R406). -/
def Mx.weights (m : Mx) (els : List (Nat × Nat × Int)) : Mx :=
  let gs := (upTo 1024).map fun i => weightGroup ((els.drop (16 * i)).take 16)
  let number {α : Type} (l : List α) : List (Nat × α) := (upTo l.length).zip l
  { m with mb := (number (gs.flatMap (·.1))).filter fun p => p.2 != 0,
           exps := (number (gs.map (·.2.1))).filter fun p => p.2 != 0,
           bad := (number (gs.map (·.2.2))).filter fun p => p.2 }

/-- MXLDB_COMPLETE (R406): the new weights take effect all at once. -/
def execMxldbComplete (s : State) : Host.Outcome State Fault Refusal :=
  .next (
    let c := s.cur.subject
    match (s.cell c).mx.load with
    | none => s
    | some l =>
      match s.op? l.op with
      | none => s
      | some o =>
        if o.replay then s
        else (s.updMx c fun m => { m.weights (streamElems m.bfmt l.blocks) with load := none }).writeback o)

/-! ### Rules and rows -/

/-- The fault of an MXRULE (R407, R408). -/
def ruleFault (a b : Word) : Option AddrFault :=
  if natField a.toNat 0 24 ≠ 0 ∨ (!natBit a.toNat 29 ∧ natField a.toNat 0 29 ≠ 0) then some (boundsFault a.toNat)
  else if natBit a.toNat 29 ∧ (regionOf b).isNone then some (boundsFault b.toNat)
  else none

/-- The engine after an MXRULE (R408). -/
def Mx.setRule (m : Mx) (a b : Word) : Mx :=
  let n := natField a.toNat 30 2
  if natBit a.toNat 29 then
    let r : MxRule := { hold := natBit a.toNat 28, rel := natBit a.toNat 27, aslot := natField a.toNat 24 3,
                        region := (regionOf b).getD {}, row := 0 }
    { m with rules := mset m.rules n r, fired := mset m.fired n 0 }
  else { m with rules := mdel m.rules n }

/-- MXRULE (R408). -/
def execMxrule (f : Slot) (s : State) : Host.Outcome State Fault Refusal :=
  .next (s.fire 0xC2 f fun x s0 =>
    match ruleFault x.a x.b with
    | some a => s0.faultFire x 8 a
    | none => s0.offer x 8 fun s1 => ((s1.updMx x.c fun m => m.setRule x.a x.b).updCell x.c fun cl =>
        { cl with armed := cl.armed ++ [natField x.a.toNat 30 2] }).mxLater x 0)

/-- Writes the cells of a region to a state; EMPTY is not listed. -/
def Mx.mark (m : Mx) (cells : List Nat) (st : AccSt) : Mx :=
  { m with st := cells.foldl (fun a k => mput a k st .empty) m.st }

/-- The columns of a region (R407). -/
def Region.columns (r : Region) : List Nat := (upTo (16 * (r.ncg + 1))).map (16 * r.cg0 + ·)

/-- The activations of row i of an A slot, or the fault of the row (R405, R409). -/
def rowElems (afmt : Nat) (t : Tile) (i : Nat) : Except AddrFault (List (Nat × Nat × Int)) :=
  let e := fmtCount afmt
  if t.len * e / 128 ≤ i then .error (boundsFault i)
  else
    let lo := 128 * i / e
    let bs := ((t.stream).drop lo).take ((128 * i + 127) / e + 1 - lo)
    match streamFault (fun f => f == afmt || f == 0x1F) lo bs with
    | some a => .error a
    | none => .ok (((streamElems afmt bs).drop (128 * i - e * lo)).take 128)

/-- One group of 16 activations: the ma values and EA + SA (R226). -/
def actGroup (afmt : Nat) (els : List (Nat × Nat × Int)) : List Int × Int :=
  let r := alignA afmt (els.map fun e => (e.1, elemVal e))
  (r.1, r.2 + ((els.head?.map fun e => e.2.2).getD 0))

/-- The weights of group j of column c. -/
def Mx.group (m : Mx) (c j : Nat) : List Int := (upTo 16).map fun i => mget m.mb (128 * c + 16 * j + i) 0

/-- One output word: C plus the eight group terms in increasing order (R226, R227). -/
def Mx.column (m : Mx) (afmt : Nat) (gs : List (List Int × Int)) (c : Nat) (old : Word) : Word :=
  BitVec.ofNat 32 ((upTo 8).foldl (fun acc j =>
    let g := gs.getD j ([], 0)
    let term := if mget m.bad (8 * c + j) false then FFmt.fp32.nanBits
      else groupTerm (actWidth afmt) (dotInt g.1 (m.group c j)) g.2 (mget m.exps (8 * c + j) 0)
    accAdd acc term) old.toNat)

/-- The accumulator after row `row` of a region takes the activations of an A row (R226, R227, R409). -/
def Mx.fireRow (m : Mx) (r : Region) (row : Nat) (els : List (Nat × Nat × Int)) : Mx :=
  let bad := groupBad (els.map elemVal)
  let gs := (upTo 8).map fun j => actGroup m.afmt ((els.drop (16 * j)).take 16)
  let acc := r.columns.foldl (fun a c =>
    let v : Word := if bad then BitVec.ofNat 32 FFmt.fp32.nanBits
      else m.column m.afmt gs c (mget m.acc (128 * row + c) 0)
    mput a (128 * row + c) v 0) m.acc
  ({ m with acc := acc }).mark (r.groups.map fun g => 8 * row + g) .accum

/-- The cell after the last row of a rule (R409): disarmed, its cells HELD, its A slot EMPTY, as the rule asks. -/
def Cell.ruleDone (cl : Cell) (n : Nat) (r : MxRule) : Cell :=
  let m := { cl.mx with rules := mdel cl.mx.rules n }
  let c1 := { cl with mx := if r.hold then m.mark r.region.cells .held else m }
  if r.rel then c1.setTile r.aslot {} else c1

/-- ROW_FIRE (R192, R409): one row of the lowest-numbered rule that can fire; its result, and an A slot that it releases, are seen from
the next step on (R183). -/
def execRowFire (s : State) : Host.Outcome State Fault Refusal :=
  .next (
    let c := s.cur.subject
    match s.newFiringTask c 10, s.nextRule c with
    | some t, some (n, r) =>
      let cl := s.cell c
      match rowElems cl.mx.afmt (cl.tile r.aslot) r.row with
      | .error a => s.raiseNode t.id c 10 a
      | .ok els =>
        (s.payEngine t c 10 (64 * actWidth cl.mx.afmt)).step t.id fun s1 => (s1.endStep c).updCell c fun k =>
          let m := k.mx.fireRow r.region (r.region.row0 + r.row) els
          let m1 := { m with fired := mset m.fired n (mget m.fired n 0 + 1),
                             rules := mset m.rules n { r with row := r.row + 1 } }
          let k1 := { k with mx := m1 }
          if r.row = r.region.nrow then k1.ruleDone n r else k1
    | _, _ => s)

/-! ### Accumulator access -/

/-- MXCLR (R410). -/
def execMxclr (f : Slot) (s : State) : Host.Outcome State Fault Refusal :=
  .next (s.fire 0xC3 f fun x s0 =>
    match regionOf x.a with
    | none => s0.faultFire x 8 (boundsFault x.a.toNat)
    | some g => s0.offer x 8 fun s1 => (s1.updMx x.c fun m =>
        ({ m with acc := m.acc.filter fun p =>
            !(g.rows.contains (p.1 / 128) && g.hasColumn (p.1 % 128)) }).mark g.cells .empty).mxLater x 0)

/-- MXRD (R411). -/
def execMxrd (f : Slot) (s : State) : Host.Outcome State Fault Refusal :=
  .next (s.fire 0xC4 f fun x s0 =>
    let w := x.a.toNat
    if natField w 9 23 ≠ 0 then s0.faultFire x 32 (boundsFault w)
    else s0.offer x 32 fun s1 =>
      let m := (s0.cell x.c).mx
      let at_ := 128 * natField w 0 7 + 32 * natField w 7 2
      let words := (upTo 32).map fun i => (mget m.acc (at_ + i) 0).toNat
      s1.mxLater x (BitVec.ofNat 1024 (words.foldr (fun v acc => v + 2 ^ 32 * acc) 0)))

/-- MXDRN (R412). -/
def execMxdrn (f : Slot) (s : State) : Host.Outcome State Fault Refusal :=
  .next (s.fire 0xC5 f fun x s0 =>
    match regionOf x.a with
    | none => s0.faultFire x 32 (boundsFault x.a.toNat)
    | some g =>
      let n := (g.nrow + 1) * (g.ncg + 1)
      if n > 256 then s0.faultFire x 32 (boundsFault x.a.toNat)
      else s0.offer x 32 fun s1 =>
        let id := s1.clock.nextId
        (s1.updCell x.c fun cl =>
          let c1 := cl.setTile (dstSlot f) { st := .filling, len := n }
          { c1 with mx := { c1.mx with drains := c1.mx.drains ++ [{ op := id, slot := dstSlot f, region := g, row := 0 }] } }).issue x
          (opOf x [x.a]))

/-- The 64-byte block of one cell of a drained row: 16 FP32 words, FMT 0x08 and SCALE 0 (R412). -/
def Mx.drainBlock (m : Mx) (row g : Nat) : Block :=
  let words := (upTo 16).map fun i => (mget m.acc (128 * row + 16 * g + i) 0).toNat
  { data := BitVec.ofNat 512 (words.foldr (fun v acc => v + 2 ^ 32 * acc) 0), tag := mkTag 0x08 0 }

/-- A cell after one row of its first drain: the row's blocks stand in the slot, its words are +0 and its cells EMPTY (R412). -/
def Cell.drainRow (cl : Cell) (d : Drain) : Cell :=
  let row := d.region.row0 + d.row
  let k := cl.tile d.slot
  let blocks := (upTo (d.region.ncg + 1)).foldl (fun b j =>
    mset b (d.row * (d.region.ncg + 1) + j) (cl.mx.drainBlock row (d.region.cg0 + j))) k.blocks
  let last := decide (d.row = d.region.nrow)
  let m : Mx := { cl.mx with
    acc := cl.mx.acc.filter fun p => !(p.1 / 128 == row && d.region.hasColumn (p.1 % 128))
    drains := if last then cl.mx.drains.drop 1 else { d with row := d.row + 1 } :: cl.mx.drains.drop 1 }
  ({ cl with mx := m.mark (d.region.groups.map fun g => 8 * row + g) .empty }).setTile d.slot
    { k with blocks := blocks, st := if last then .ready else k.st }

/-- DRAIN_ROW (R412): the first row was debited at the firing, each further one is an engine firing, debited here and held
by a droop hold (R41). Drains go in the order of their firings. -/
def execDrainRow (s : State) : Host.Outcome State Fault Refusal :=
  .next (
    let c := s.cur.subject
    match s.engineTask c 10, (s.cell c).mx.drains.head? with
    | some t, some d =>
      match s.op? d.op with
      | none => s
      | some o =>
        if o.replay ∨ (d.row ≠ 0 ∧ s.droopHold c = true) then s
        else
          let go (st : State) : State :=
            let s1 := (st.endStep c).updCell c fun cl => cl.drainRow d
            if d.row = d.region.nrow then s1.writeback o else s1
          if d.row = 0 then go s else (s.payEngine t c o.payKey 32).step t.id go
    | _, _ => s)

/-! ### Sort mode (R193, R413) -/

/-- The first N + 1 elements of a slot's stream as keys, or the fault of MXSORT (R413). -/
def sortKeys (t : Tile) (n : Nat) : Except AddrFault (List (Nat × Nat × Int)) :=
  let bs := blocksFor 0x08 n t.stream
  let f := tagFmt ((bs.head?.map Block.tag).getD 0)
  match streamFault (fun g => g == f && (f == 0x08 || f == 0x10)) 0 bs with
  | some a => .error a
  | none =>
    let ks := (streamElems f bs).take n
    if ks.length < n then .error (boundsFault ks.length) else .ok ks

/-- MXSORT (R413). -/
def execMxsort (f : Slot) (s : State) : Host.Outcome State Fault Refusal :=
  .next (s.fire 0xC6 f fun x s0 =>
    let w := x.a.toNat
    if natField w 9 7 ≠ 0 ∨ natBit w 7 then s0.faultFire x 8 (boundsFault w)
    else
      match sortKeys ((s0.cell x.c).tile (dstSlot f)) (natField w 0 7 + 1) with
      | .error a => s0.faultFire x 8 a
      | .ok ks => s0.offer x 8 fun s1 =>
          let id := s1.clock.nextId
          let j : SortJob := { op := id, ibase := natField w 16 16, desc := natBit w 8, keys := ks }
          (s1.updMx x.c fun m => { m with sort := some j }).issue x (opOf x [x.a]))

/-- SORT_KEY_ENTER (R413). -/
def execSortKeyEnter (s : State) : Host.Outcome State Fault Refusal :=
  .next (
    let c := s.cur.subject
    match s.engineTask c 10, (s.cell c).mx.sort with
    | some t, some j =>
      if decide (j.keys.length ≤ j.entered) || s.droopHold c || (s.op? j.op).any Op.replay then s
      else (s.payEngine t c (4096 + j.op) 64).step t.id fun s1 => s1.updMx c fun m =>
        { m with sort := some { j with entered := j.entered + 1 } }
    | _, _ => s)

/-- Whether key `a` comes before key `b`: by real value, −0 below +0, NaN above all (R413). -/
def keyBelow (a b : FVal) : Bool := !a.isNan && (b.isNan || belowV a b)

/-- Places a key before the first one it precedes, so that equal keys keep increasing position (R413). -/
def insertKey (before : FVal → FVal → Bool) (x : Nat × Nat × FVal) : List (Nat × Nat × FVal) → List (Nat × Nat × FVal)
  | [] => [x]
  | y :: ys => if before x.2.2 y.2.2 then x :: y :: ys else y :: insertKey before x ys

/-- The keys of a sort in the order of their emission, as position and code (R413). -/
def SortJob.order (j : SortJob) : List (Nat × Nat) :=
  let ks := (upTo j.keys.length).zip j.keys
  let before : FVal → FVal → Bool := fun a b => if j.desc then keyBelow b a else keyBelow a b
  (ks.foldl (fun l p => insertKey before (p.1, p.2.2.1, scaled (elemVal p.2) p.2.2.2) l) []).map fun p => (p.1, p.2.1)

/-- SORT_EMIT (R413): one pair a step with tag 0, then the two end tokens with tag 5. -/
def execSortEmit (s : State) : Host.Outcome State Fault Refusal :=
  .next (
    let c := s.cur.subject
    match s.engineTask c 10, (s.cell c).mx.sort with
    | some t, some j =>
      match s.op? j.op with
      | none => s
      | some o =>
        let p1 := (s.cell c).port 1
        let p2 := (s.cell c).port 2
        if decide (j.entered < j.keys.length) || o.replay || !s.space t p1 || !s.space t p2 then s
        else
          (s.payEngine t c (4096 + j.op) (4 * (crossings t c p1 + crossings t c p2))).step t.id fun s1 =>
            match j.order[j.emitted]? with
            | some k =>
              ((s1.send t c p1 { val := BitVec.ofNat 32 k.2 }).send t c p2
                { val := BitVec.ofNat 32 ((j.ibase + k.1) % 2 ^ 16) }).updMx c fun m =>
                  { m with sort := some { j with emitted := j.emitted + 1 } }
            | none =>
              let tok : Token := { val := BitVec.ofNat 32 j.keys.length, tag := 5 }
              (((s1.send t c p1 tok).send t c p2 tok).updMx c fun m => { m with sort := none }).writeback o
    | _, _ => s)

/-! ### The query and completion -/

/-- The value of MXQ (R414). A row fires within one step, so bit 4 reads as 0. -/
def Mx.query (m : Mx) (sel : Nat) : Word :=
  match sel with
  | 0 => BitVec.ofNat 32 (((upTo 4).map fun i => bit (mfind m.rules i).isSome * 2 ^ i).foldl (· + ·) 0
      + 32 * bit m.load.isSome + 64 * bit m.sort.isSome)
  | 5 => BitVec.ofNat 32 (256 * m.bfmt + m.afmt)
  | n => BitVec.ofNat 32 (mget m.fired (n - 1) 0)

/-- MXQ (R414). -/
def execMxq (f : Slot) (s : State) : Host.Outcome State Fault Refusal :=
  .next (s.fire 0xC7 f fun x s0 => s0.offer x 8 fun s1 =>
    s1.finishEng x { r := (s0.cell x.c).mx.query f.src2.toNat } 0)

/-- MATRIX_OP_COMPLETE (R254, R410): an operation whose node has faulted and been trapped waits in the node's replay queue. -/
def execMatrixOpComplete (id : Nat) (s : State) : Host.Outcome State Fault Refusal :=
  .next (match s.op? id with
    | none => s
    | some o =>
      if o.phase = .performed ∧ [0xC0, 0xC2, 0xC3, 0xC4].contains o.opc = true ∧ s.nodeTrapped o = false then s.writeback o
      else s)

end Sys2Proof.Machine
end

