-- ==== Sys2Proof/Machine/Convert.lean ====
section
/-! DEFINITION. The converter node: CVCFG, CVQ and the events of a conversion (R198, R225, R415 to R417). -/

namespace Sys2Proof.Machine

/-- Changes the converter of a cell. -/
def State.updConv (s : State) (c : Nat) (f : Conv → Conv) : State := s.updCell c fun cl => { cl with conv := f cl.conv }

/-- The fault of a control word (R415). -/
def convFault (w : Word) : Option AddrFault :=
  let n := w.toNat
  if natBit n 31 ∨ natField n 19 3 = 7 ∨ natField n 16 3 ≠ 0 ∨ natField n 8 8 = 0x80 then some (boundsFault n)
  else if !numericFmt (natField n 0 8) then some { code := 0x0B, sub := n % 2 ^ 16 }
  else none

/-- The blocks that a conversion of a stream writes (R416). -/
def convBlocks (f : Nat) (bs : List Block) : Nat := ((streamElems f bs).length + fmtCount f - 1) / fmtCount f

/-- Where a memory-mode conversion writes, in the window that its control word names (R416). -/
def State.convAddress (s : State) (x : Fire) (n : Nat) : Except AddrFault Target :=
  let k := natField x.a.toNat 28 2
  match windowAddr x.t x.c k (s.window x k) x.b 64 with
  | .error a => .error a
  | .ok tg =>
    if tg.spad.isSome then .error { code := 0x06, sub := bindCode (s.bindKindAt x.t tg).1, info := tg.ea }
    else
      match s.bindCheck x.t tg (64 * n) .store with
      | some a => .error a
      | none => .ok tg

/-- Begins a conversion of the captured blocks (R416). -/
def State.convStart (s : State) (x : Fire) (bs : List Block) (n : Nat) (memMode : Bool) (ea : Nat) : State :=
  let w := x.a.toNat
  let id := s.clock.nextId
  let job : ConvJob := { op := id, blocks := bs, memMode := memMode, dst := natField w 25 3 }
  let s1 := s.updConv x.c fun v =>
    { v with fmt := natField w 0 8, scale := natToInt 8 (natField w 8 8), tg := BitVec.ofNat 3 (natField w 19 3),
             index := 0, job := some job }
  let s2 := if memMode then s1 else s1.updCell x.c fun cl => cl.setTile job.dst { st := .filling, len := n }
  s2.issue x { opOf x [x.a, x.b] with ea := ea, len := if memMode then 64 * n else 0, left := upTo n }

/-- CVCFG (R416). -/
def execCvcfg (f : Slot) (s : State) : Host.Outcome State Fault Refusal :=
  .next (s.fire 0xC8 f fun x s0 =>
    match convFault x.a with
    | some a => s0.faultFire x 8 a
    | none =>
      let bs := ((s0.cell x.c).tile (natField x.a.toNat 22 3)).stream
      let n := convBlocks (natField x.a.toNat 0 8) bs
      match streamFault anyTyped 0 bs with
      | some a => s0.faultFire x 8 a
      | none =>
        if natBit x.a.toNat 30 then
          match s0.convAddress x n with
          | .error a => s0.faultFire x 8 a
          | .ok tg => s0.offer x 8 fun s1 => s1.convStart x bs n true tg.ea
        else if n > 256 then s0.faultFire x 8 (boundsFault n)
        else s0.offer x 8 fun s1 => s1.convStart x bs n false 0)

/-- The block that output block k of a conversion holds, the overflow tokens it gives rise to as (index, excess), the
number of elements that saturated and the sticky bits that it sets (R198, R208, R225, R416). -/
def Conv.block (v : Conv) (j : ConvJob) (k : Nat) : Block × List Nat × Nat × BitVec 3 :=
  let e := fmtCount v.fmt
  let els := ((streamElems v.fmt j.blocks).drop (e * k)).take e
  let rs := (upTo els.length).zip els |>.map fun p =>
    let x := scaled (elemVal p.2) (p.2.2.2 - v.scale)
    (p.1, x, roundFmt v.fmt x)
  let past := rs.filter fun r => r.2.2.2
  ({ data := packCodes v.fmt (rs.map fun r => r.2.2.1), tag := mkTag v.fmt v.scale },
   past.map fun r => (v.index + r.1) % 2 ^ 20 * 2 ^ 12 + excess v.fmt r.2.1,
   (past.filter fun r => !r.2.1.isNan).length,
   els.foldl (fun a p => a ||| convSticky p.1 v.fmt (scaled (elemVal p) (p.2.2 - v.scale))) 0)

/-- The elements that output block k takes from the source (R225). -/
def Conv.taken (v : Conv) (j : ConvJob) (k : Nat) : Nat :=
  min (fmtCount v.fmt) ((streamElems v.fmt j.blocks).length - fmtCount v.fmt * k)

/-- The converter after output block k: its tokens wait to leave, or are counted where port 0 is unrouted (R198). -/
def Conv.wrote (v : Conv) (j : ConvJob) (routed : Bool) : Conv :=
  let r := v.block j j.next
  { v with index := (v.index + v.taken j j.next) % 2 ^ 20,
           dropped := if routed then v.dropped else min (v.dropped + r.2.1.length) (2 ^ 32 - 1),
           job := some { j with next := j.next + 1, saturated := j.saturated + r.2.2.1, sticky := j.sticky ||| r.2.2.2,
                                tokens := if routed then r.2.1 else [] } }

/-- Writes an output block: to its slot, or as a TSTORE block is written (R380, R416). -/
def State.convWrite (s : State) (t : Task) (o : Op) (j : ConvJob) : State :=
  let c := o.cell
  let v := (s.cell c).conv
  let b := (v.block j j.next).1
  let booked (st : State) : State := st.updConv c fun w => w.wrote j (!((st.cell c).port 0).isEmpty)
  if j.memMode then
    s.virtAttempt t { o with ea := (o.ea + 64 * j.next) % 2 ^ 48, len := 64 } fun s1 =>
      match s1.storePieces t c { s1.elemAgent 4 t c o.elem with elem := 0xFF }
          [((o.ea + 64 * j.next) % 2 ^ 48, natToBytes 64 b.data.toNat, some b.tag)] with
      | .ok s2 _ => booked s2
      | .stop s2 => s2
      | _ => s1
  else
    let last := decide (j.next + 1 = o.left.length)
    booked ((s.endStep c).updCell c fun cl =>
      let k := cl.tile j.dst
      cl.setTile j.dst { k with blocks := mset k.blocks j.next b, st := if last then .ready else k.st })

/-- CONVERT_BLOCK (R198, R416): the next overflow token leaves, or the next output block is written. -/
def execConvertBlock (s : State) : Host.Outcome State Fault Refusal :=
  .next (
    let c := s.cur.subject
    match (s.cell c).conv.job with
    | none => s
    | some j =>
      match s.op? j.op with
      | none => s
      | some o =>
        let t := s.task o.task
        if o.replay || t.halted || (s.cell c).halted || o.phase == .held || o.phase == .waitSet then s
        else
          match j.tokens with
          | w :: ws =>
            let ds := (s.cell c).port 0
            if !s.space t ds then s
            else (s.payEngine t c o.payKey (4 * crossings t c ds)).step t.id fun s1 =>
              (s1.send t c ds { val := BitVec.ofNat 32 w, tag := (s.cell c).conv.tg }).updConv c fun v =>
                { v with job := some { j with tokens := ws } }
          | [] => if j.next < o.left.length then s.convWrite t o j else s)

/-- CONVERT_COMPLETE (R416): the issuing element's sticky status gathers what the conversion set (R208). -/
def execConvertComplete (s : State) : Host.Outcome State Fault Refusal :=
  .next (
    let c := s.cur.subject
    match (s.cell c).conv.job with
    | none => s
    | some j =>
      match s.op? j.op with
      | none => s
      | some o =>
        if o.replay || !j.tokens.isEmpty || decide (j.next < o.left.length) then s
        else
          let s1 := (s.updConv c fun v => { v with job := none }).sendControl (s.task o.task) c 0x28
          s1.writeback { o with r := BitVec.ofNat 32 j.saturated, c := j.saturated != 0, sticky := j.sticky })

/-- CVQ (R417). -/
def execCvq (f : Slot) (s : State) : Host.Outcome State Fault Refusal :=
  .next (s.fire 0xC9 f fun x s0 => s0.offer x 8 fun s1 =>
    let v := (s0.cell x.c).conv
    let r : Word := if f.src2 = 2 then BitVec.ofNat 32 (bit v.job.isSome * 2 ^ 31 + v.index) else BitVec.ofNat 32 v.dropped
    (if f.src2 = 1 then s1.updConv x.c fun w => { w with dropped := 0 } else s1).finishEng x { r := r } 0)

end Sys2Proof.Machine
end

