-- ==== Sys2Proof/Machine/Scan.lean ====
section
/-! DEFINITION. The non-zero scan unit and the queries TAGQ and STATQ (R199, R418 to R421). -/

namespace Sys2Proof.Machine

/-- The window that SRC2[1:0] names (R418, R420, R429). -/
def lowWindow (f : Slot) : Nat := f.src2.toNat % 4

/-- Changes the scan unit of a cell. -/
def State.updScan (s : State) (c : Nat) (f : Scan → Scan) : State := s.updCell c fun cl => { cl with scan := f cl.scan }

/-- ZSCAN (R418): it starts the unit and completes. -/
def execZscan (f : Slot) (s : State) : Host.Outcome State Fault Refusal :=
  .next (s.fire 0xCA f fun x s0 =>
    let g := ((s0.elem x.c x.e).greg (f.src1.toNat + 1)).toNat
    match windowAddr x.t x.c (lowWindow f) (s0.window x (lowWindow f)) x.a 64 with
    | .error a => s0.faultFire x 8 a
    | .ok tg =>
      if natField g 0 24 = 0 ∨ !numericFmt (natField g 24 8) then s0.faultFire x 8 (boundsFault g)
      else s0.offer x 8 fun s1 =>
        (s1.updScan x.c fun _ =>
          { busy := true, spad := tg.spad, pos := tg.ea, fmt := natField g 24 8, n := natField g 0 24 }).finishEng x {} 0)

/-- The number of the element under which the unit's own accesses are ordered. -/
def scanElem : Nat := 100

/-- The unit begins to read its present block (R418). -/
def State.scanBegin (s : State) (t : Task) (c : Nat) (k : Scan) : State :=
  if k.spad.isSome ∧ 2 ^ 20 ≤ k.pos then s.raiseNode t.id c 13 (boundsFault k.pos)
  else
    match s.bindCheck t { spad := k.spad, ea := k.pos } 64 .load with
    | some a => s.raiseNode t.id c 13 a
    | none =>
      let n := s.fresh
      let o : Op := { id := n.1, inj := n.1, sent := s.clock.tick, cell := c, elem := scanElem, opc := 0x100, task := t.id, spad := k.spad, ea := k.pos,
                      len := 64 }
      ({ n.2 with ops := n.2.ops ++ [o] }).updScan c fun q => { q with op := some n.1 }

/-- The read of a block of the unit at its home: data and tag are bound (R199, R418). R280 names no agent for the unit or an
edge port; the model records them as an element without a number, log entry 67. -/
def State.performScan (s : State) (o : Op) (t : Task) : Perf :=
  let b := s.readBlock t o.cell { spad := o.spad, ea := o.ea }
  let s1 := if o.spad.isNone then s.watchRead t 0 o.cell 0xFF o.ea 64 else s
  .ok s1 { r := b.tag.zeroExtend 32, vres := b.data.zeroExtend 1024 }

/-- Whether an element counts as zero (R199). -/
def zeroElem (e : Nat × Nat × Int) : Bool :=
  match elemVal e with
  | .fin _ m _ => m == 0
  | _ => false

/-- The unit leaves its present block: the next one is 64 bytes on (R231, R418). -/
def Scan.nextBlock (k : Scan) (read : Nat) : Scan :=
  { k with op := none, off := 0, read := read, pos := if k.spad.isSome then k.pos + 64 else (k.pos + 64) % 2 ^ 48 }

/-- The block that a read of the unit has bound. -/
def Op.block (o : Op) : Block := { data := o.vres.truncate 512, tag := o.r.truncate 16 }

/-- The elements that the unit has still to look at in a block it has read (R199). -/
def Scan.left (k : Scan) (o : Op) : List (Nat × Nat × Int) := (blockElems k.fmt o.block).drop k.off |>.take (k.n - k.read)

/-- Whether the unit has a token to send: an index in the block that it has read, or the closing one (R199). -/
def State.scanOffers (s : State) (k : Scan) : Bool :=
  k.busy && match k.op with
    | none => decide (k.n ≤ k.read)
    | some i => (s.op? i).any fun o => o.phase == .performed && (k.left o).any fun e => !zeroElem e

/-- The unit goes on in a block it has read: the next non-zero element sends its index, or the block ends (R199). -/
def State.scanBlock (s : State) (t : Task) (c : Nat) (k : Scan) (o : Op) : State :=
  match blockFault anyTyped 0 o.block with
  | some a => ((s.delOp o.id).updScan c fun q => { q with op := none }).raiseNode t.id c 13 { a with info := o.ea }
  | none =>
    let els := k.left o
    match els.findIdx? fun e => !zeroElem e with
    | none => (s.delOp o.id).updScan c fun q => q.nextBlock (k.read + els.length)
    | some i =>
      let ds := (s.cell c).port 3
      if !s.space t ds then s
      else (s.payEngine t c 13 (8 + 4 * crossings t c ds)).step t.id fun s1 =>
        let s2 := s1.send t c ds { val := BitVec.ofNat 32 (k.read + i) }
        let k1 := { k with off := k.off + i + 1, read := k.read + i + 1, emitted := k.emitted + 1 }
        if i + 1 = els.length then (s2.delOp o.id).updScan c fun _ => k1.nextBlock k1.read
        else s2.updScan c fun _ => k1

/-- The closing token of a scan (R199, R418). -/
def State.scanEnd (s : State) (t : Task) (c : Nat) (k : Scan) : State :=
  let ds := (s.cell c).port 3
  if !s.space t ds then s
  else (s.payEngine t c 13 (4 * crossings t c ds)).step t.id fun s1 =>
    (s1.send t c ds { val := BitVec.ofNat 32 k.emitted, tag := 5 }).updScan c fun q => { q with busy := false, op := none }

/-- The debit of the token that the scan unit of a cell waits to send (R134, R138, R199). -/
def State.scanDebit (s : State) (t : Task) (c : Nat) : Option Nat :=
  let k := (s.cell c).scan
  let ds := (s.cell c).port 3
  let sound := (k.op.bind s.op?).all fun o => (blockFault anyTyped 0 o.block).isNone
  if t.gate == .none && s.scanOffers k && sound && s.space t ds then
    some ((if k.op.isSome then 8 else 0) + 4 * crossings t c ds)
  else none

/-- SCAN_TOKEN (R199, R418): the unit is a source, gated between elements. -/
def execScanToken (s : State) : Host.Outcome State Fault Refusal :=
  .next (
    let c := s.cur.subject
    let k := (s.cell c).scan
    match s.engineTask c 13 with
    | none => s
    | some t =>
      if !k.busy || t.gate != .none then s
      else
        match k.op with
        | none => if k.read < k.n then s.scanBegin t c k else s.scanEnd t c k
        | some i =>
          match s.op? i with
          | none => s.updScan c fun q => { q with op := none }
          | some o => if o.phase = .performed then s.scanBlock t c k o else s)

/-- ZSQ (R419). -/
def execZsq (f : Slot) (s : State) : Host.Outcome State Fault Refusal :=
  .next (s.fire 0xCB f fun x s0 => s0.offer x 8 fun s1 =>
    let k := (s0.cell x.c).scan
    let r := if f.src2 = 0 then bit k.busy else if f.src2 = 1 then k.read else k.emitted
    s1.finishEng x { r := BitVec.ofNat 32 r } 0)

/-- TAGQ (R420): the address is formed with an access size of 1, and no binding is checked. -/
def execTagq (f : Slot) (s : State) : Host.Outcome State Fault Refusal :=
  .next (s.fire 0xCC f fun x s0 =>
    match windowAddr x.t x.c (lowWindow f) (s0.window x (lowWindow f)) x.a 1 with
    | .error a => s0.faultFire x 8 a
    | .ok tg => s0.offer x 8 fun s1 => s1.issue x { opOf x [x.a] with spad := tg.spad, ea := tg.ea, len := 1 })

/-- A TAGQ is performed: the tag is bound (R420). -/
def State.performTagq (s : State) (o : Op) (t : Task) : Perf :=
  .ok s { r := (s.readBlock t o.cell { spad := o.spad, ea := o.ea }).tag.zeroExtend 32 }

/-- The busy engines of a cell (R421). -/
def State.busyEngines (s : State) (c : Nat) : Nat :=
  let cl := s.cell c
  let any (lo hi : Nat) : Bool := s.ops.any fun o => o.cell == c && decide (lo ≤ o.opc) && decide (o.opc ≤ hi)
  bit (any 0x80 0xBF)
    + 2 * bit (cl.mx.load.isSome || cl.mx.sort.isSome || !cl.mx.drains.isEmpty || (s.nextRule c).isSome)
    + 4 * bit (cl.dda.anyRunning || any 0xD0 0xDC) + 8 * bit cl.conv.job.isSome + 16 * bit cl.scan.busy
    + 32 * bit (any 0x50 0x52)

/-- The value of STATQ (R421). -/
def State.statq (s : State) (x : Fire) (sel : Nat) : Word :=
  let el := s.elem x.c x.e
  match sel with
  | 0 => el.sticky.zeroExtend 32
  | 1 => BitVec.ofNat 32 (s.busyEngines x.c)
  | 2 => BitVec.ofNat 32 (((upTo 4).map fun i => el.occ i * 8 ^ i).foldl (· + ·) 0)
  | _ => BitVec.ofNat 32 (((upTo 4).map fun i => s.credits x.t el i * 8 ^ i).foldl (· + ·) 0)

/-- STATQ (R421). -/
def execStatq (f : Slot) (s : State) : Host.Outcome State Fault Refusal :=
  .next (s.fire 0xCD f fun x s0 => s0.offer x 8 fun s1 => s1.finishEng x { r := s0.statq x (f.src2.toNat % 4) } 0)

end Sys2Proof.Machine
end

