-- ==== Sys2Proof/Machine/Dda.lean ====
section
/-! DEFINITION. The DDA: its instructions, the step of a domain, and the transfers of patches and integrators (R194 to
R197, R228, R424 to R441). -/

namespace Sys2Proof.Machine

/-- Changes the DDA of a cell. -/
def State.updDda (s : State) (c : Nat) (f : Dda → Dda) : State := s.updCell c fun cl => { cl with dda := f cl.dda }

/-- The captured operands of a DDA instruction (R260, R426). -/
def ddaArgs (s : State) (x : Fire) : List Word :=
  if x.op = 0xD0 ∨ x.op = 0xD4 then [x.a, (s.elem x.c x.e).greg (x.f.src1.toNat + 1)]
  else if x.op = 0xD2 ∨ x.op = 0xD3 ∨ x.op = 0xDB then [x.a, x.b]
  else if x.op = 0xD9 ∨ x.op = 0xDA then [x.a]
  else []

/-- A DDA instruction: its effect at the firing, its writeback in a later step with ENG's status (R425). -/
def State.ddaIssue (s : State) (x : Fire) (r : Word) (vres : BitVec 1024) (idle : Bool) : State :=
  s.issue x { opOf x (ddaArgs s x) with
    phase := .performed, r := r, vres := vres, c := idle, status := if idle then 0x06 else 0 }

/-! ### Patches (R194, R195, R428) -/

/-- Whether a source code is reserved (R195). -/
def srcReserved (c : Nat) : Bool := decide (274 ≤ c) && decide (c ≤ 510)

/-- Replaces bits [lo + len − 1 : lo] of a patch entry. -/
def patchPut (p : BitVec 128) (lo len v : Nat) : BitVec 128 :=
  BitVec.ofNat 128 (p.toNat - natField p.toNat lo len * 2 ^ lo + v % 2 ^ len * 2 ^ lo)

/-- The place and width of the field that f selects (R194, R428). -/
def patchField (f : Nat) : Nat × Nat := if f < 4 then (58 + 13 * f, 13) else if f = 4 then (110, 9) else (119, 2)

/-- The entries of a table, an unlisted one with every source none. -/
def entryIn (t : AMap (BitVec 128)) (i : Nat) : BitVec 128 := mget t i emptyPatch

/-- Whether an external port's consumers lie in more than one domain (R195). -/
def portSplit (entry : Nat → BitVec 128) (p : Nat) : Bool := decide (1 < (portDomains entry p).length)

/-- Whether a DPATCH is refused (R428). -/
def patchRefused (d : Dda) (a v : Word) (f : Nat) (new : BitVec 128) : Bool :=
  let i := a.toNat % 256
  let src := if f < 4 then natField v.toNat 4 9 else natField v.toNat 0 9
  decide (256 ≤ a.toNat) || decide (2 ^ (patchField f).2 ≤ v.toNat) || (decide (f ≤ 4) && srcReserved src)
    || (upTo 16).any fun p => portSplit (fun k => if k = i then new else d.entry k) p

/-- The port latches of a list of sources emptied. -/
def clearPorts (ports : AMap Int) (srcs : List Nat) : AMap Int := ports.filter fun p => !srcs.contains (256 + p.1)

/-- An integrator moved to another domain: its increment is 0, and every latch it fed or that fed it is empty
(R428). -/
def Dda.moved (d : Dda) (i old : Nat) : Dda :=
  let srcs := patchSources (d.entry i)
  { d with emit := mdel d.emit i, ports := clearPorts d.ports srcs,
           latch := d.latch.filter fun p => !(p.1 / 4 == i || (p.1 % 4 == old && srcs.contains (p.1 / 4))) }

/-- DPATCH (R428); a port that loses its last reader loses its latch (R437). -/
def execDpatch (f : Slot) (s : State) : Host.Outcome State Fault Refusal :=
  .next (s.fire 0xD0 f fun x s0 =>
    let d := (s0.cell x.c).dda
    let i := x.a.toNat % 256
    let v := (s0.elem x.c x.e).greg (f.src1.toNat + 1)
    let k := f.src2.toNat
    let new := patchPut (d.entry i) (patchField k).1 (patchField k).2 v.toNat
    if patchRefused d x.a v k new then s0.faultFire x 8 { code := 0x13, sub := i, info := v.toNat }
    else s0.offer x 8 fun s1 =>
      (s1.updDda x.c fun q =>
        let q1 := ({ q with patch := mput q.patch i new emptyPatch }).prunePorts
        if d.domOf i ≠ patchDom new then q1.moved i (d.domOf i) else q1).ddaIssue x 0 0 false)

/-- The lowest failing entry of a table with its offending source code, 0 for a reserved bit (R195, R430). -/
def tableFault (t : AMap (BitVec 128)) : Option (Nat × Nat) :=
  (upTo 256).findSome? fun i =>
    let p := entryIn t i
    if natField p.toNat 121 7 ≠ 0 ∨ natField p.toNat 0 58 ≠ 0 then some (i, 0)
    else
      ((patchSources p).find? fun c =>
        srcReserved c || (decide (256 ≤ c) && decide (c < 272) && portSplit (entryIn t) (c - 256))).map fun c => (i, c)

/-! ### Integrators (R432, R436, R437) -/

/-- DSETY (R432). -/
def execDsety (f : Slot) (s : State) : Host.Outcome State Fault Refusal :=
  .next (s.fire 0xD2 f fun x s0 => s0.offer x 8 fun s1 =>
    (s1.updDda x.c fun d => { d with y := mput d.y (x.a.toNat % 256) x.b 0 }).ddaIssue x 0 0 false)

/-- DSETR (R432). -/
def execDsetr (f : Slot) (s : State) : Host.Outcome State Fault Refusal :=
  .next (s.fire 0xD3 f fun x s0 => s0.offer x 8 fun s1 =>
    (s1.updDda x.c fun d => { d with q := mput d.q (x.a.toNat % 256) x.b 0 }).ddaIssue x 0 0 false)

/-- A vector register with one 32-bit lane replaced. -/
def putLane (v : BitVec 1024) (lane : Nat) (w : Word) : BitVec 1024 :=
  (v &&& ~~~((0xFFFFFFFF#1024) <<< (32 * lane))) ||| (w.zeroExtend 1024 <<< (32 * lane))

/-- DGETY (R436): to a scalar destination, or to one lane of Vd with I = 1. -/
def execDgety (f : Slot) (s : State) : Host.Outcome State Fault Refusal :=
  .next (s.fire 0xD9 f fun x s0 => s0.offer x 8 fun s1 =>
    let y := mget (s0.cell x.c).dda.y (x.a.toNat % 256) 0
    if f.imm then s1.ddaIssue x 0 (putLane (mget (s0.cell x.c).vec.v f.dst.toNat 0) f.src2.toNat y) false
    else s1.ddaIssue x y 0 false)

/-- DGETN (R436): the count is returned and set to 0. -/
def execDgetn (f : Slot) (s : State) : Host.Outcome State Fault Refusal :=
  .next (s.fire 0xDA f fun x s0 => s0.offer x 8 fun s1 =>
    let i := x.a.toNat % 256
    (s1.updDda x.c fun d => { d with cnt := mdel d.cnt i }).ddaIssue x (mget (s0.cell x.c).dda.cnt i 0) 0 false)

/-- DINJ (R437): a port that no integrator reads discards the increment. -/
def execDinj (f : Slot) (s : State) : Host.Outcome State Fault Refusal :=
  .next (s.fire 0xDB f fun x s0 => s0.offer x 8 fun s1 =>
    let p := x.a.toNat % 16
    let used := !(portDomains (s0.cell x.c).dda.entry p).isEmpty
    let s2 := if x.b = 0 ∨ !used then s1
      else s1.updDda x.c fun d => { d with ports := mset d.ports p (if x.b.msb then -1 else 1) }
    s2.ddaIssue x 0 0 (x.b == 0))

/-! ### Domains (R433, R435, R438) -/

/-- Whether a DDOM is refused (R433). -/
def ddomRefused (a n : Word) : Bool :=
  let w := a.toNat
  let mode := natField w 2 2
  natField w 14 18 != 0 || natBit w 8 || (mode == 2 && n == 0)
    || (mode != 3 && (natField w 11 3 != 0 || natField w 9 2 != 0)) || (mode != 2 && natField w 4 4 != 0)
    || (mode != 2 && n != 0)

/-- The mode of a code (R433). -/
def domMode (k : Nat) : DomMode :=
  match k with
  | 0 => .none
  | 1 => .free
  | 2 => .counted
  | _ => .token

/-- The code of a mode (R433). -/
def modeCode : DomMode → Nat
  | .none => 0
  | .free => 1
  | .counted => 2
  | .token => 3

/-- The integrators of a domain. -/
def Dda.members (d : Dda) (n : Nat) : List Nat := (upTo 256).filter fun i => d.domOf i == n

/-- The port latches that a domain's integrators read. -/
def Dda.portsOf (d : Dda) (n : Nat) : List Nat := (upTo 16).filter fun p => (portDomains d.entry p).contains n

/-- Empties every latch that feeds a domain's integrators. -/
def Dda.drainLatches (d : Dda) (n : Nat) : Dda :=
  { d with latch := d.latch.filter fun p => p.1 % 4 != n,
           ports := d.ports.filter fun p => !(d.portsOf n).contains p.1 }

/-- DDOM (R433). -/
def execDdom (f : Slot) (s : State) : Host.Outcome State Fault Refusal :=
  .next (s.fire 0xD4 f fun x s0 =>
    let n := (s0.elem x.c x.e).greg (f.src1.toNat + 1)
    let w := x.a.toNat
    if ddomRefused x.a n then s0.faultFire x 8 (boundsFault w)
    else s0.offer x 8 fun s1 =>
      let k := natField w 0 2
      (s1.updDda x.c fun d =>
        let d1 := { d.drainLatches k with emit := d.emit.filter fun p => d.domOf p.1 != k }
        d1.updDom k fun o =>
          { mode := domMode (natField w 2 2), div := natField w 4 4, tel := natField w 11 3, tch := natField w 9 2,
            n := n.toNat, faultI := o.faultI, faultKind := o.faultKind }).ddaIssue x 0 0 false)

/-- DRUN (R435). The first step of a counted domain falls in the tick after its completion (R434). -/
def execDrun (f : Slot) (s : State) : Host.Outcome State Fault Refusal :=
  .next (s.fire 0xD5 f fun x s0 =>
    let n := f.src2.toNat % 4
    let d := (s0.cell x.c).dda.dom n
    if d.st = .idle ∧ d.mode = .none then s0.faultFire x 8 (boundsFault n)
    else s0.offer x 8 fun s1 =>
      match d.st with
      | .idle => (s1.updDda x.c fun q => q.updDom n fun o =>
          { o with st := .running, count := 0, next := s1.clock.tick + 1, gated := false }).ddaIssue x 0 0 false
      | .stopped => (s1.updDda x.c fun q => q.updDom n fun o => { o with st := .running, gated := false }).ddaIssue
          x 0 0 false
      | _ => s1.ddaIssue x 0 0 true)

/-- DSTOP (R435). -/
def execDstop (f : Slot) (s : State) : Host.Outcome State Fault Refusal :=
  .next (s.fire 0xD6 f fun x s0 => s0.offer x 8 fun s1 =>
    let n := f.src2.toNat % 4
    if (s0.cell x.c).dda.running n then
      (s1.updDda x.c fun q => q.updDom n fun o => { o with st := .stopped }).ddaIssue x 0 0 false
    else s1.ddaIssue x 0 0 true)

/-- The code of a domain state (R438). -/
def domCode : DomSt → Nat
  | .idle => 0
  | .running => 1
  | .stopped => 2
  | .done => 3
  | .fault => 4

/-- The active integrators of a domain: those with a source (R137). -/
def Dda.active (d : Dda) (n : Nat) : Nat :=
  ((d.members n).filter fun i => (patchSources (d.entry i)).any fun c => c != 511).length

/-- QUIET (R438). -/
def Dda.quiet (d : Dda) (n : Nat) : Bool :=
  (d.members n).all (fun i => mget d.emit i 0 == 0) && (d.latch.all fun p => p.1 % 4 != n)
    && (d.portsOf n).all fun p => (mfind d.ports p).isNone

/-- The value of DSTAT (R438). -/
def Dda.stat (d : Dda) (sel n : Nat) : Word :=
  let o := d.dom n
  match sel with
  | 0 => BitVec.ofNat 32 (domCode o.st + 16 * modeCode o.mode + 256 * o.div + 2 ^ 16 * bit (d.quiet n)
      + 2 ^ 23 * d.active n)
  | 1 => BitVec.ofNat 32 o.count
  | 2 => BitVec.ofNat 32 o.n
  | _ => BitVec.ofNat 32 (o.faultI + 256 * o.faultKind)

/-- DSTAT (R438). -/
def execDstat (f : Slot) (s : State) : Host.Outcome State Fault Refusal :=
  .next (s.fire 0xDC f fun x s0 => s0.offer x 8 fun s1 =>
    s1.ddaIssue x ((s0.cell x.c).dda.stat (natField f.src2.toNat 2 3) (f.src2.toNat % 4)) 0 false)

/-! ### Transfers (R429 to R431) -/

/-- The size in bytes of a transfer (R429). -/
def transferBytes (op : Nat) : Nat := if op = 0xD1 then 4096 else 2048

/-- The debit of a transfer (R426). -/
def transferCost (op : Nat) : Nat := if op = 0xD1 then 512 else 256

/-- The scratchpad area of a transfer (R429, R431). -/
def State.transferArea (s : State) (x : Fire) : Except AddrFault Target :=
  let n := transferBytes x.op
  match windowAddr x.t x.c (lowWindow x.f) (s.window x (lowWindow x.f)) x.a 64 with
  | .error a => .error a
  | .ok tg =>
    if tg.spad.isNone then .error { code := 0x06, sub := bindCode (s.bindKindAt x.t tg).1, info := tg.ea }
    else if tg.ea + n > 2 ^ 20 then .error { code := 0x02, sub := lowWindow x.f, info := x.a.toNat }
    else
      match s.bindCheck x.t tg n (if x.op = 0xD7 then .store else .load) with
      | some a => .error a
      | none => .ok tg

/-- A transfer that its address or its binding ends is debited: a failed check of the binding faults at the DDA's own node (R237,
R426), any other fault at the element. -/
def State.transferFault (s : State) (x : Fire) (a : AddrFault) : State :=
  if a.code = 0x06 then s.offer x (transferCost x.op) fun s1 =>
      (s1.updElem x.c x.e fun el => { el with paid := some x.k }).raiseNode x.t.id x.c 11 a
  else s.faultFire x (transferCost x.op) a

/-- The firing of a transfer: the slot of a DSAVE begins to fill (R430, R431). -/
def State.transfer (s : State) (op : Nat) (f : Slot) : State :=
  s.fire op f fun x s0 =>
    if f.dst.getLsbD 3 then
      let k := (s0.cell x.c).tile (dstSlot f)
      if op ≠ 0xD7 ∧ k.len < transferBytes op / 64 then s0.faultFire x (transferCost op) (boundsFault k.len)
      else s0.offer x (transferCost op) fun s1 =>
        (if op = 0xD7 then s1.updCell x.c fun cl => cl.setTile (dstSlot f) { st := .filling, len := 32 } else s1).issue x
          (opOf x [])
    else
      match s0.transferArea x with
      | .error a => s0.transferFault x a
      | .ok tg => s0.offer x (transferCost op) fun s1 =>
          s1.issue x { opOf x [x.a] with spad := tg.spad, ea := tg.ea, len := transferBytes op }

/-- DPLOAD (R430). -/
def execDpload (f : Slot) (s : State) : Host.Outcome State Fault Refusal := .next (s.transfer 0xD1 f)

/-- DSAVE (R431). -/
def execDsave (f : Slot) (s : State) : Host.Outcome State Fault Refusal := .next (s.transfer 0xD7 f)

/-- DREST (R431). -/
def execDrest (f : Slot) (s : State) : Host.Outcome State Fault Refusal := .next (s.transfer 0xD8 f)

/-- The bytes that a DPLOAD or DREST reads, or its poison fault (R224, R430). -/
def State.transferRead (s : State) (o : Op) (t : Task) : Except AddrFault (List Byte) :=
  match o.spad with
  | some _ =>
    match s.poisonIn t o.cell { spad := o.spad, ea := o.ea } o.len with
    | some a => .error (poisonFault a)
    | none => .ok (s.readBytes t o.cell { spad := o.spad, ea := o.ea } o.len)
  | none =>
    let bs := (((s.cell o.cell).tile (dstSlot o.f)).stream).take (transferBytes o.opc / 64)
    match streamFault (fun _ => true) 0 bs with
    | some a => .error a
    | none => .ok (bs.flatMap fun b => natToBytes 64 b.data.toNat)

/-- The patch table of 4 KiB (R429). -/
def tableOf (bytes : List Byte) : AMap (BitVec 128) :=
  ((upTo 256).map fun i => (i, BitVec.ofNat 128 (bytesToNat ((bytes.drop (16 * i)).take 16)))).filter fun p =>
    p.2 != emptyPatch

/-- The words at byte 8i + off of 2 KiB, zero words not listed (R429). -/
def wordsOf (bytes : List Byte) (off : Nat) : AMap Word :=
  ((upTo 256).map fun i => (i, BitVec.ofNat 32 (bytesToNat ((bytes.drop (8 * i + off)).take 4)))).filter fun p =>
    p.2 != 0

/-- Every increment and latch empty (R430, R431). -/
def Dda.hush (d : Dda) : Dda := { d with emit := [], latch := [], ports := [] }

/-- The 2 KiB of a DSAVE (R429). -/
def Dda.saved (d : Dda) : List Byte :=
  (upTo 256).flatMap fun i => natToBytes 4 (mget d.y i 0).toNat ++ natToBytes 4 (mget d.q i 0).toNat

/-- The 64-byte blocks of a list of bytes, tagged 0x0000 (R431). -/
def plainBlocks (bytes : List Byte) : List Block :=
  (upTo (bytes.length / 64)).map fun i =>
    { data := BitVec.ofNat 512 (bytesToNat ((bytes.drop (64 * i)).take 64)), tag := 0 }

/-- A DSAVE to a scratchpad (R431): counting words are refused first, tentative words of others make it wait. -/
def State.saveSpad (s : State) (o : Op) (t : Task) (m : Nat) (bs : List Block) : Perf :=
  let p := (s.cell m).spad
  match p.countingIn (o.ea / 4) (o.len / 4) (some t.id) with
  | some w => .fault (countingFault w)
  | none =>
    if p.hiddenIn (o.ea / 4) (o.len / 4) (some t.id) then .wait
    else
      let ps := (upTo bs.length).zip bs
      s.spadPut t m (ps.foldl (fun q b => q.bind fun r => r.writeBlock (s.writerOf t) (o.ea / 64 + b.1) b.2) (some p))

/-- A transfer is performed (R430, R431). -/
def State.performTransfer (s : State) (o : Op) (t : Task) : Perf :=
  let d := (s.cell o.cell).dda
  if o.opc = 0xD7 then
    let bs := plainBlocks d.saved
    match o.spad with
    | some m => s.saveSpad o t m bs
    | none => .ok (s.updCell o.cell fun cl =>
        cl.setTile (dstSlot o.f) { st := .ready, len := 32, blocks := (upTo 32).zip bs }) {}
  else
    match s.transferRead o t with
    | .error a => .fault a
    | .ok bytes =>
      if o.opc = 0xD8 then
        .ok (s.updDda o.cell fun q => { q.hush with y := wordsOf bytes 0, q := wordsOf bytes 4 }) {}
      else
        match tableFault (tableOf bytes) with
        | some p => .fault { code := 0x13, sub := p.1, info := p.2 }
        | none => .ok (s.updDda o.cell fun q => { q.hush with patch := tableOf bytes }) {}

/-! ### The step of a domain (R197, R228, R434, R439) -/

/-- A domain's fault in a step: the integrator and the kind, 1 INTEGRAND_OVERFLOW, 2 INCREMENT_OVERRUN, 3 its
cross-domain form (R438). -/
abbrev StepFault := Nat × Nat

/-- One integrator's step (R228): the new Y and Q, the increment emitted, and the kinds of fault. -/
def integrate (y q : Int) (dys : List (Int × Nat)) (dx : Int) : Int × Int × Int × List Nat :=
  let t := y + (dys.map fun p => p.1 * 2 ^ (30 - p.2)).foldl (· + ·) 0
  let past := decide (t > 2 ^ 31 - 1) || decide (t < -(2 ^ 31))
  let y1 := max (-(2 ^ 31)) (min t (2 ^ 31 - 1))
  let u := q + dx * 2 * y1
  let dz : Int := if u ≥ 2 ^ 30 then 1 else if u < -(2 ^ 30) then -1 else 0
  let u1 := u - dz * 2 ^ 31
  let run := decide (u1 ≥ 2 ^ 30) || decide (u1 < -(2 ^ 30))
  (y1, max (-(2 ^ 31)) (min u1 (2 ^ 31 - 1)), dz, (if past then [1] else []) ++ (if run then [2] else []))

/-- The increment that a source supplies to an integrator of domain n (R195, R197, R228). -/
def Dda.increment (d : Dda) (n src : Nat) : Int :=
  if src < 256 then (if d.domOf src = n then mget d.emit src 0 else mget d.latch (4 * src + n) 0)
  else if src < 272 then mget d.ports (src - 256) 0
  else if src = 272 then 1
  else if src = 273 then -1
  else 0

/-- The step of one integrator in a DDA whose increments are those of `old`. -/
def Dda.stepOne (old : Dda) (n i : Nat) (acc : Dda × List StepFault) : Dda × List StepFault :=
  let p := old.entry i
  let dys := (upTo 4).map fun k => (old.increment n (patchDy p k), patchSh p k)
  let r := integrate (mget old.y i 0).toInt (mget old.q i 0).toInt dys (old.increment n (patchDx p))
  let d := acc.1
  ({ d with y := mput d.y i (BitVec.ofInt 32 r.1) 0, q := mput d.q i (BitVec.ofInt 32 r.2.1) 0,
            emit := mput d.emit i r.2.2.1 0, cnt := mput d.cnt i (mget d.cnt i 0 + BitVec.ofInt 32 r.2.2.1) 0 },
   acc.2 ++ r.2.2.2.map fun k => (i, k))

/-- The domains other than n that an integrator feeds (R197). -/
def Dda.feeds (d : Dda) (n i : Nat) : List Nat :=
  (upTo 4).filter fun e => e != n && (d.members e).any fun k => (patchSources (d.entry k)).contains i

/-- A non-zero increment enters its latches; a full one overruns (R197). -/
def Dda.fillLatches (acc : Dda × List StepFault) (n i : Nat) : Dda × List StepFault :=
  let dz := mget acc.1.emit i 0
  if dz = 0 then acc
  else (acc.1.feeds n i).foldl (fun a e =>
    if (mfind a.1.latch (4 * i + e)).isSome then (a.1, a.2 ++ [(i, 3)])
    else ({ a.1 with latch := mset a.1.latch (4 * i + e) dz }, a.2)) acc

/-- One step of every integrator of a domain (R197, R228). -/
def Dda.step (d : Dda) (n : Nat) : Dda × List StepFault :=
  let ms := d.members n
  let a := ms.foldl (fun acc i => d.stepOne n i acc) (d, [])
  ms.foldl (fun acc i => Dda.fillLatches acc n i) (a.1.drainLatches n, a.2)

/-- The lowest-numbered faulting integrator of a step with its first kind. -/
def lowestFault : List StepFault → Option StepFault
  | [] => none
  | p :: ps =>
    match lowestFault ps with
    | none => some p
    | some q => if q.1 < p.1 then some q else some p

/-- The fault of the DDA node (R256, R439). -/
def stepFault (n : Nat) (f : StepFault) : AddrFault :=
  { code := if f.2 = 1 then 0x11 else 0x12, sub := f.1, info := n + (if f.2 = 3 then 256 else 0) }

/-- A domain enters DONE with its control token (R196). -/
def State.domDone (s : State) (t : Task) (c n : Nat) : State :=
  (s.updDda c fun d => d.updDom n fun o => { o with st := .done }).sendControl t c (0x24 + n)

/-- A domain's step with its consequences (R196, R434, R439). -/
def State.domStep (s : State) (t : Task) (c n : Nat) : State :=
  let r := (s.cell c).dda.step n
  let s1 := s.updDda c fun _ => r.1.updDom n fun o =>
    { o with count := (o.count + 1) % 2 ^ 32, next := s.clock.tick + 2 ^ o.div }
  match lowestFault r.2 with
  | some f =>
    let others := (r.2.filter fun p => p.1 != f.1).length
    let s2 := s1.updDda c fun d => d.updDom n fun o => { o with st := .fault, faultI := f.1, faultKind := f.2 }
    (s2.raiseNode t.id c 11 (stepFault n f)).updTask t.id fun k => { k with nfault := min 255 (k.nfault + others) }
  | none =>
    let o := (s1.cell c).dda.dom n
    if o.mode = .counted ∧ o.count = o.n then s1.domDone t c n else s1

/-- The step of a token domain (R434). -/
def State.tokenStep (s : State) (t : Task) (c n cost : Nat) : State :=
  let o := (s.cell c).dda.dom n
  let el := s.elem c o.tel
  let stop (st : State) : State :=
    if t.gate = .none then st else st.updDda c fun d => d.updDom n fun q => { q with st := .stopped, gated := true }
  let popped (st : State) : State := st.updElem c o.tel fun e => e.pop o.tch
  if el.occ o.tch = 0 then stop s
  else
    let tag := (el.head o.tch).tag
    if tag = 7 then stop s
    else if tag = 5 then (popped s).domDone t c n
    else (s.payEngine t c (16 + n) cost).step t.id fun s1 => (popped s1).domStep t c n

/-- DDA_DOMAIN_STEP (R228, R434, R440): one step of a running domain when it is due; a gated free or counted domain
stops instead. -/
def execDdaDomainStep (cell domain : Nat) (s : State) : Host.Outcome State Fault Refusal :=
  .next (match s.newFiringTask cell 11 with
    | none => s
    | some t =>
      let d := (s.cell cell).dda
      let o := d.dom domain
      let cost := (d.active domain + 3) / 4
      if !(o.st == .running) || decide (4 ≤ domain) then s
      else
        match o.mode with
        | .token => s.tokenStep t cell domain cost
        | .counted =>
          if t.gate != .none then s.updDda cell fun q => q.updDom domain fun k => { k with st := .stopped, gated := true }
          else if decide (s.clock.tick < o.next) || s.runPending cell domain then s
          else (s.payEngine t cell (16 + domain) cost).step t.id fun s1 => s1.domStep t cell domain
        | _ =>
          if t.gate != .none then s.updDda cell fun q => q.updDom domain fun k => { k with st := .stopped, gated := true }
          else (s.payEngine t cell (16 + domain) cost).step t.id fun s1 => s1.domStep t cell domain)

end Sys2Proof.Machine
end

