-- ==== Sys2Proof/Machine/Float.lean ====
section
/-! DEFINITION. The scalar floating-point instructions, opcodes 0x20 to 0x3F (R338 to R341). -/

namespace Sys2Proof.Machine

/-- FADD (R339). -/
def execFadd (w : FWidth) (f : Slot) (s : State) : Host.Outcome State Fault Refusal :=
  .next (s.plain (0x20 + codeOfWidth w) f 8 fun x _ => fpRes ((fmtOfWidth w).add x.a.toNat x.b.toNat))

/-- FSUB (R339). -/
def execFsub (w : FWidth) (f : Slot) (s : State) : Host.Outcome State Fault Refusal :=
  .next (s.plain (0x24 + codeOfWidth w) f 8 fun x _ => fpRes ((fmtOfWidth w).sub x.a.toNat x.b.toNat))

/-- FMUL (R339). -/
def execFmul (w : FWidth) (f : Slot) (s : State) : Host.Outcome State Fault Refusal :=
  .next (s.plain (0x28 + codeOfWidth w) f 8 fun x _ => fpRes ((fmtOfWidth w).mul x.a.toNat x.b.toNat))

/-- FFMA (R339): DST is read as the addend. -/
def execFfma (w : FWidth) (f : Slot) (s : State) : Host.Outcome State Fault Refusal :=
  .next (s.plain (0x2C + codeOfWidth w) f 8 fun x s0 =>
    fpRes ((fmtOfWidth w).fma x.a.toNat x.b.toNat ((s0.elem x.c x.e).greg f.dst.toNat).toNat))

/-- FMIN (R339, R209). -/
def execFmin (w : FWidth) (f : Slot) (s : State) : Host.Outcome State Fault Refusal :=
  .next (s.plain (0x30 + codeOfWidth w) f 8 fun x _ =>
    { r := BitVec.ofNat 32 ((fmtOfWidth w).minMax false x.a.toNat x.b.toNat) })

/-- FMAX (R339, R209). -/
def execFmax (w : FWidth) (f : Slot) (s : State) : Host.Outcome State Fault Refusal :=
  .next (s.plain (0x34 + codeOfWidth w) f 8 fun x _ =>
    { r := BitVec.ofNat 32 ((fmtOfWidth w).minMax true x.a.toNat x.b.toNat) })

/-- FCMP (R340). -/
def execFcmp (w : FWidth) (f : Slot) (s : State) : Host.Outcome State Fault Refusal :=
  .next (s.plain (0x38 + codeOfWidth w) f 8 fun x _ => cmpRes ((fmtOfWidth w).cmp f.otag.toNat x.a.toNat x.b.toNat))

/-- FCVT (R341). -/
def execFcvt (w : FWidth) (f : Slot) (s : State) : Host.Outcome State Fault Refusal :=
  .next (s.plain (0x3C + codeOfWidth w) f 8 fun x _ => fcvtRes (fmtOfWidth w) f.otag x.a)

end Sys2Proof.Machine
end

