-- ==== Sys2Proof/Machine/Queues.lean ====
section
/-! DEFINITION. The tag table (R190, R377), queues and deques (R127, R383 to R385). -/

namespace Sys2Proof.Machine

/-! ### The tag table -/

/-- The lowest-numbered valid entry with a key (R377). -/
def tagFind (t : AMap TagEnt) (key : Word) : Option (Nat × TagEnt) := t.find? fun p => p.2.key == key

/-- Changes a cell's tag table. -/
def State.setTable (s : State) (c : Nat) (t : AMap TagEnt) : State :=
  s.updCell c fun cl => { cl with spad := { cl.spad with table := t } }

/-- TLOOK (R377). -/
def execTlook (f : Slot) (s : State) : Host.Outcome State Fault Refusal :=
  .next (s.fire 0x4D f fun x s0 => s0.offer x 12 fun s1 =>
    match tagFind (s0.cell x.c).spad.table x.a with
    | some p => s1.finishEng x { r := BitVec.ofNat 32 p.2.word } 0
    | none => s1.finishEng x { r := 0xFFFFFFFF, c := true } 0x03)

/-- The table after a TINS, and whether it was written (R377). -/
def tagInsert (t : AMap TagEnt) (key : Word) (word : Nat) : AMap TagEnt × Bool :=
  match tagFind t key with
  | some p => (mset t p.1 { key := key, word := word }, true)
  | none =>
    match (upTo 1024).find? fun i => (mfind t i).isNone with
    | some i => (mset t i { key := key, word := word }, true)
    | none => (t, false)

/-- TINS (R377). -/
def execTins (f : Slot) (s : State) : Host.Outcome State Fault Refusal :=
  .next (s.fire 0x4E f fun x s0 =>
    if x.b.toNat > 262143 then s0.faultFire x 12 { code := 0x02, sub := 0xFF, info := x.b.toNat }
    else s0.offer x 12 fun s1 =>
      let r := tagInsert (s0.cell x.c).spad.table x.a x.b.toNat
      (s1.setTable x.c r.1).finishEng x { c := !r.2 } (if r.2 then 0 else 0x02))

/-- TINV (R377). -/
def execTinv (f : Slot) (s : State) : Host.Outcome State Fault Refusal :=
  .next (s.fire 0x4F f fun x s0 => s0.offer x 12 fun s1 =>
    let t := (s0.cell x.c).spad.table
    let hit := (tagFind t x.a).isSome
    (s1.setTable x.c (t.filter fun p => p.2.key != x.a)).finishEng x { c := !hit } (if hit then 0 else 0x05))

/-! ### Firing a queue or deque instruction -/

/-- The byte offset of a descriptor (R383). -/
def descOffset (op n : Nat) : Nat := if op < 0x57 then 0xFFE00 + 16 * n else 0xFFF00 + 16 * n

/-- The number of descriptors of a kind (R383). -/
def descCount (op : Nat) : Nat := if op < 0x57 then 16 else 4

/-- The memory cell and descriptor of a queue or deque instruction, with the checks of its firing (R383, R385). -/
def State.queueTarget (s : State) (x : Fire) : Except AddrFault Target :=
  let n := windowNo x.f
  let w := s.window x n
  if !isSpad w then
    match windowAddr x.t x.c n w 0 1 with
    | .error a => .error a
    | .ok tg => .error { code := 0x06, sub := bindCode (s.bindKindAt x.t tg).1, info := tg.ea }
  else
    match windowAddr x.t x.c n (w &&& ~~~0xFFFFF#64) 0 4 with
    | .error a => .error a
    | .ok tg =>
      if x.a.toNat ≥ descCount x.op then .error { code := 0x02, sub := n, info := x.a.toNat }
      else
        let d : Target := { tg with ea := descOffset x.op x.a.toNat }
        match s.bindCheck x.t d 16 .queue with
        | some a => .error a
        | none =>
          if (x.op = 0x57 ∨ x.op = 0x58) ∧ (s.cell (tg.spad.getD 0)).owner ≠ some x.t.id then
            .error { code := 0x03, sub := n, info := 8 * natField w.toNat 53 3 + natField w.toNat 50 3 }
          else .ok d

/-- The firing of a queue or deque instruction (R383). -/
def State.queueFire (s : State) (op : Nat) (f : Slot) (args : Fire → State → List Word) : State :=
  s.fire op f fun x s0 =>
    match s0.queueTarget x with
    | .error a => s0.faultFire x 12 a
    | .ok tg => s0.offer x 12 fun s1 =>
        s1.issue x { opOf x (x.a :: args x s0) with spad := tg.spad, ea := tg.ea, len := 16 }

/-- QPUSH (R384). -/
def execQpush (f : Slot) (s : State) : Host.Outcome State Fault Refusal := .next (s.queueFire 0x55 f dataArg)

/-- QPOP (R384). -/
def execQpop (f : Slot) (s : State) : Host.Outcome State Fault Refusal := .next (s.queueFire 0x56 f noArgs)

/-- DQPUSH (R385). -/
def execDqpush (f : Slot) (s : State) : Host.Outcome State Fault Refusal := .next (s.queueFire 0x57 f dataArg)

/-- DQPOP (R385). -/
def execDqpop (f : Slot) (s : State) : Host.Outcome State Fault Refusal := .next (s.queueFire 0x58 f noArgs)

/-- DQSTEAL (R385). -/
def execDqsteal (f : Slot) (s : State) : Host.Outcome State Fault Refusal := .next (s.queueFire 0x59 f noArgs)

/-! ### Performing -/

/-- A descriptor as a viewer reads it: word 0 and whether it is sound (R383). -/
structure Desc where
  base : Nat := 0
  size : Nat := 0
  bad : Bool := false
  deriving DecidableEq, Repr

/-- The descriptor at a byte offset (R383). -/
def Spad.desc (p : Spad) (off viewer : Nat) : Desc :=
  let w0 := (p.viewWord (off / 4) (some viewer)).toNat
  let lg := natField w0 28 4
  let base := natField w0 0 18
  { base := base, size := 2 ^ lg,
    bad := natField w0 18 10 != 0 || p.viewWord (off / 4 + 3) (some viewer) != 0 || lg == 0
      || decide (4 * (base + 2 ^ lg) > 0xFFE00) }

/-- The first poisoned block among the descriptor words that a queue operation reads (R224). -/
def State.descPoison (s : State) (t : Task) (o : Op) (m : Nat) : Option Nat :=
  s.poisonIn t o.cell { spad := some m, ea := o.ea } 16

/-- Writes words of a scratchpad, their states kept. -/
def Spad.writeWords (p : Spad) (wr : Writer) : List (Nat × Word) → Option Spad
  | [] => some p
  | q :: qs => (p.write wr q.1 q.2 (p.wst q.1)).bind fun r => r.writeWords wr qs

/-- The writes of a queue operation, then its result. -/
def State.queueWrite (s : State) (t : Task) (m : Nat) (ws : List (Nat × Word)) (x : Out) : Perf :=
  (s.spadPut t m ((s.cell m).spad.writeWords (s.writerOf t) ws)).andThen fun s1 _ => .ok s1 x

/-- A read entry of a ring: a poisoned block faults (R224). -/
def State.entryRead (s : State) (t : Task) (o : Op) (m w : Nat) (go : Perf) : Perf :=
  match s.poisonIn t o.cell { spad := some m, ea := 4 * w } 4 with
  | some a => .fault (poisonFault a)
  | none => go

/-- A queue or deque operation at its memory cell (R384, R385). -/
def State.performQueue (s : State) (o : Op) (t : Task) (m : Nat) : Perf :=
  let p := (s.cell m).spad
  let d := p.desc o.ea t.id
  let w1 := o.ea / 4 + 1
  let w2 := o.ea / 4 + 2
  let hid (w : Nat) : Bool := p.hidden w (some t.id)
  let data := o.args.getD 1 0
  let entry (i : Word) : Nat := d.base + i.toNat % d.size
  if let some a := s.descPoison t o m then .fault (poisonFault a)
  else if d.bad then .fault { code := 0x02, sub := windowNo o.f, info := o.ea }
  else
    match o.opc with
    | 0x55 =>
      let tail := p.viewWord w2 (some t.id)
      if hid w2 || (tail - p.committed w1).toNat == d.size || hid (entry tail) then .wait
      else s.queueWrite t m [(entry tail, data), (w2, tail + 1)] {}
    | 0x56 =>
      let head := p.viewWord w1 (some t.id)
      if hid w1 || head == p.viewWord w2 (some t.id) then .wait
      else s.entryRead t o m (entry head)
        (s.queueWrite t m [(w1, head + 1)] { r := p.viewWord (entry head) (some t.id) })
    | 0x57 =>
      let bottom := p.word w2
      if (bottom - p.committed w1).toInt ≥ d.size then .ok s { c := true, status := 0x02 }
      else if hid w2 || hid (entry bottom) then .wait
      else s.queueWrite t m [(entry bottom, data), (w2, bottom + 1)] {}
    | 0x58 =>
      let bottom := p.word w2
      if (bottom - p.word w1).toInt ≤ 0 then .ok s { c := true, status := 0x01 }
      else if hid w2 then .wait
      else s.entryRead t o m (entry (bottom - 1))
        (s.queueWrite t m [(w2, bottom - 1)] { r := p.viewWord (entry (bottom - 1)) (some t.id) })
    | _ =>
      let top := p.word w1
      let cb := p.committed w2
      let bs := if (cb - p.word w2).toInt < 0 then cb else p.word w2
      if (bs - top).toInt ≤ 0 then .ok s { c := true, status := 0x01 }
      else if hid w1 then .wait
      else s.entryRead t o m (entry top) (s.queueWrite t m [(w1, top + 1)] { r := p.viewWord (entry top) (some t.id) })

end Sys2Proof.Machine
end

