-- ==== Sys2Proof/Machine/System.lean ====
section
/-! DEFINITION. The system instructions, opcodes 0xF0 to 0xFF (R342 to R358). -/

namespace Sys2Proof.Machine

/-! ### Task identity and time -/

/-- A 32-bit word of the argument block; bytes beyond it read as zero (R343). -/
def argWord (arg : List Byte) (off : Nat) : Word := BitVec.ofNat 32 (bytesToNat ((arg.drop off).take 4))

/-- ARG (R343). -/
def execArg (f : Slot) (s : State) : Host.Outcome State Fault Refusal :=
  .next (s.fire 0xF0 f fun x s0 =>
    let off := x.a.toNat + 4 * x.b.toNat
    if off > 252 ∨ off % 4 ≠ 0 then s0.faultFire x 8 { code := 0x02, sub := 4, info := off }
    else s0.offer x 8 fun s1 => s1.finish x { r := argWord x.t.arg off } x.tnt)

/-- The value of a COORD selector (R344). -/
def coordVal (s : State) (x : Fire) (sel : Nat) : Nat :=
  let l := x.t.launch.getD {}
  match sel with
  | 0 => l.i
  | 1 => l.j
  | 2 => l.nx
  | 3 => l.ny
  | 4 => cellX x.c % 8 - x.t.x0
  | 5 => cellY x.c % 8 - x.t.y0
  | 6 => x.t.width
  | 7 => x.t.height
  | 8 => x.e
  | 9 => kindCode (kindOf x.c)
  | 10 => s.devNum
  | 11 => x.t.restarts
  | _ => bit (x.c == x.t.lead)

/-- COORD (R344). -/
def execCoord (f : Slot) (s : State) : Host.Outcome State Fault Refusal :=
  .next (s.plain 0xF1 f 8 fun x s0 => { r := BitVec.ofNat 32 (coordVal s0 x f.src2.toNat) })

/-- A firing that writes a register pair with untainted values; R is the low one (R345). -/
def State.pair (s : State) (op : Nat) (f : Slot) (lo hi : Fire → State → Nat) : State :=
  s.fire op f fun x s0 => s0.offer x 8 fun s1 =>
    let l := BitVec.ofNat 32 (lo x s0)
    let d := f.dst.toNat
    (s1.updElem x.c x.e fun el => (el.setG d l false).setG (d + 1) (BitVec.ofNat 32 (hi x s0)) false).finish x
      { r := l } false

/-- AGEQ (R345). -/
def execAgeq (f : Slot) (s : State) : Host.Outcome State Fault Refusal :=
  .next (s.pair 0xF2 f (fun x _ => x.t.age) fun x _ => x.t.age / 2 ^ 32)

/-- TIMEQ (R345): the domain time, or the seconds and nanoseconds of the time base (R30, R95). -/
def execTimeq (f : Slot) (s : State) : Host.Outcome State Fault Refusal :=
  .next (s.pair 0xF3 f
    (fun _ s0 => if f.src2 = 0 then s0.domainTime else s0.clock.tbase / 4000000000)
    (fun _ s0 => if f.src2 = 0 then s0.domainTime / 2 ^ 32 else s0.clock.tbase / 4 % 1000000000))

/-! ### The meter -/

/-- The value of a METERQ selector (R346). -/
def meterVal (m : Meter) (physical : Bool) (sel : Nat) : Nat :=
  match sel with
  | 0 => m.bal
  | 1 => m.decl
  | 2 => m.topped
  | 3 => m.cons
  | _ => bit m.pend + 2 * bit m.denied + 4 * bit physical + 256 * (m.acnt % 256)

/-- METERQ (R346): its own debit is included. -/
def execMeterq (f : Slot) (s : State) : Host.Outcome State Fault Refusal :=
  .next (s.fire 0xF4 f fun x s0 => s0.offer x 8 fun s1 =>
    s1.finish x { r := BitVec.ofNat 32 (meterVal (s1.cell x.c).meter (s1.entryOf x.t).mmode f.src2.toNat) } x.tnt)

/-- TOPUP (R347). Where it sends a request, that request stands for the automatic one that its own debit could cause (R144, R145);
log entry 83. -/
def execTopup (f : Slot) (s : State) : Host.Outcome State Fault Refusal :=
  .next (s.fire 0xF5 f fun x s0 =>
    let k := x.b.toNat
    if k = 0 then s0.offer x 8 fun s1 => s1.finish x {} x.tnt
    else if k > 0x03FFFFFF then s0.offer x 8 fun s1 =>
      (s1.finish x {} x.tnt).updMeter x.c fun m => { m with denied := true }
    else
      let covered := (s0.entryOf x.t).mmode || decide (8 + s0.tokenCost x ≤ (s0.cell x.c).meter.bal)
      (if covered then s0.updMeter x.c fun m => { m with pend := true } else s0).offer x 8 fun s1 =>
        (s1.finish x {} x.tnt).requestTopup x.t x.c k)

/-! ### Spawns -/

/-- The route tag of a spawn word (R348). -/
def spawnTag (a : Word) : Nat := natField a.toNat 0 12

/-- The destination device of a spawn word (R348). -/
def spawnDev (s : State) (a : Word) : Nat := if a.getLsbD 18 then s.devNum else natField a.toNat 19 13

/-- Whether a spawn is held back by its tag's watermark state (R118). -/
def State.spawnHeld (s : State) (t : Task) (a : Word) : Bool :=
  spawnDev s a == s.devNum && spawnTag a != t.tag && (s.rtag (spawnTag a)).wm

/-- What the firing x of a SPAWN, debited from s0 to s1, would take back (R359). -/
def State.spawnUndo (s0 s1 : State) (x : Fire) : SpawnUndo :=
  let el := s0.elem x.c x.e
  { pred := if x.f.pmode = 0 then none else some (x.f.pidx.toNat, el.pb.getLsbD x.f.pidx.toNat),
    popped := (upTo 4).filterMap fun i => if x.f.deq.getLsbD i && decide (1 ≤ el.occ i) then some (i, el.head i) else none,
    last := el.last, paid := decide (el.paid = some x.k),
    cost := (s0.cell x.c).meter.bal - (s1.cell x.c).meter.bal, iters := x.t.iters, uniform := (s0.cell x.c).meter.uniform }

/-- An element that has fired a SPAWN: until the tick ends it keeps the places of the tokens that it popped, and fires nothing else
(R359). -/
def Elem.spawned (el : Elem) (u : SpawnUndo) (tick : Nat) : Elem :=
  u.popped.foldl (fun e p => e.updInput p.1 fun x => { x with reserved := x.reserved + 1 }) { el with spawnTick := some tick }

/-- The places of the tokens that a SPAWN popped are free once its tick has ended. -/
def Elem.spawnStands (el : Elem) (u : SpawnUndo) : Elem :=
  u.popped.foldl (fun e p => e.updInput p.1 fun x => { x with reserved := x.reserved - 1 }) el

/-- An element whose SPAWN is taken back: its tokens, its predicate and the marks of its firing are as before (R359). -/
def Elem.unspawned (el : Elem) (u : SpawnUndo) (slot : Nat) : Elem :=
  let e1 := u.popped.foldl (fun e p => e.updInput p.1 fun x => { x with q := p.2 :: x.q }) (el.spawnStands u)
  { e1 with pb := match u.pred with
              | some p => setPred e1.pb p.1 p.2
              | none => e1.pb,
            last := u.last, paid := if u.paid then some slot else e1.paid, spawnTick := none }

/-- A meter without the debit of a SPAWN that is taken back, in the figures of R149 and for the automatic trigger too; `iters` counts the
task's iterations now. -/
def Meter.unspawned (m : Meter) (u : SpawnUndo) (iters : Nat) : Meter :=
  let m1 := { m with autoLate := m.autoLate && decide (m.bal + u.cost < m.awm), bal := m.bal + u.cost, cons := m.cons - u.cost, sinceEntry := m.sinceEntry - u.cost }
  if iters = u.iters then { m1 with sinceAdv := m.sinceAdv - u.cost }
  else
    let first := if u.iters = 0 then m.firstIter - u.cost else m.firstIter
    let last := if iters = u.iters + 1 then m.lastIter - u.cost else m.lastIter
    { m1 with firstIter := first, lastIter := last,
              uniform := if iters = u.iters + 1 then (u.iters == 0 || u.uniform) && last == first else m.uniform }

/-- A SPAWN is taken back: it is neither made nor debited, and its slot fires again after the restore of its pre-empted task (R118,
R359). -/
def State.takeBack (s : State) (t : Task) (o : Op) (u : SpawnUndo) : State :=
  ((((s.updElem o.cell o.elem fun el => el.unspawned u o.slot).updMeter o.cell fun m => m.unspawned u t.iters).delOp o.id).preempt
    t).barSpawn t.id o.cell o.elem o.slot o.f

/-- The end of the tick of some SPAWNs: one whose tag's watermark state has set is taken back, the others stand (R118, R130, R359); the
automatic triggers that waited for that are made (R145). -/
def State.holdSpawns (s : State) : State :=
  State.lateTopups <| foldState (s.ops.filter fun o => o.undo.isSome) s fun o st =>
    match o.undo, st.task? o.task with
    | some u, some t =>
      if st.spawnHeld t (o.args.headD 0) then st.takeBack t o u
      else (st.updElem o.cell o.elem fun el => el.spawnStands u).updOp o.id fun p => { p with undo := none }
    | _, _ => st

/-- SPAWN at its firing (R349): its checks, and the read of its body, which is an operation of its own. -/
def execSpawn (f : Slot) (s : State) : Host.Outcome State Fault Refusal :=
  .next (s.fire 0xF6 f fun x s0 =>
    let w := natField x.a.toNat 16 2
    let len := x.b.toNat
    if natField x.a.toNat 12 4 ≠ 0 then s0.faultFire x 8 { code := 0x04, sub := w, info := x.a.toNat }
    else if len > 240 then s0.faultFire x 8 { code := 0x02, sub := w, info := len }
    else if s0.spawnHeld x.t x.a then (s0.preempt x.t).barSpawn x.t.id x.c x.e x.k f
    else
      let off := (s0.elem x.c x.e).greg (f.src1.toNat + 1)
      match windowAddr x.t x.c w (s0.window x w) off 1 with
      | .error a => s0.faultFire x 8 a
      | .ok tg =>
        match s0.bindCheck x.t tg len .load with
        | some a => s0.faultFire x 8 a
        | none =>
          let covered := (s0.entryOf x.t).mmode || decide (8 + s0.tokenCost x ≤ (s0.cell x.c).meter.bal)
          let s' := if covered then s0.updElem x.c x.e fun el => { el with spawnTick := some s0.clock.tick } else s0
          s'.offer x 8 fun s1 =>
          let u := s0.spawnUndo s1 x
          let n := ((s1.finish x {} x.tnt).updElem x.c x.e fun el => el.spawned u s0.clock.tick).fresh
          let o : Op := { opOf x [x.a, off] with id := n.1, inj := n.1, sent := s0.clock.tick, spad := tg.spad, ea := tg.ea, len := len,
                                                 undo := some u }
          { n.2 with ops := n.2.ops ++ [o] })

/-- A held spawn takes its place among those of its cell, in firing order (R160). -/
def placeSpawn (n : Nat) (p : Packet) : List VEntry → List VEntry
  | [] => [.spawn n p]
  | .spawn k q :: v => if n < k then .spawn n p :: .spawn k q :: v else .spawn k q :: placeSpawn n p v
  | e :: v => e :: placeSpawn n p v

/-- The body of a SPAWN is read, as an LD of its bytes, and its packet takes four lines of the vestibule (R156, R349). -/
def State.performSpawn (s : State) (o : Op) (t : Task) : State :=
  let tg : Target := { spad := o.spad, ea := o.ea }
  match s.poisonIn t o.cell tg o.len with
  | some a => s.raiseOp o (poisonFault a)
  | none =>
    let g := o.args.headD 0
    let p : Packet := { dev := spawnDev s g, tag := spawnTag g, len := o.len, pid := t.pid,
                        body := s.readBytes t o.cell tg o.len }
    let s0 := if o.spad.isNone then s.watchRead t 0 o.cell o.elem o.ea o.len else s
    match s0.allocLines t o.cell 4 fun s1 =>
      .ok (s1.updCell (vestCell t o.cell) fun cl => { cl with vest := placeSpawn o.id p cl.vest }) {} with
    | .ok s1 _ => s1.delOp o.id
    | .stop s1 => s1
    | _ => s

/-! ### Semaphores -/

/-- SEMSIG (R350). -/
def execSemsig (f : Slot) (s : State) : Host.Outcome State Fault Refusal :=
  .next (s.fire 0xF7 f fun x s0 => s0.offer x 8 fun s1 =>
    (s1.finish x {} x.tnt).updRoom (roomOf x.c) fun r => r.addSem (x.a.toNat % 256) (x.b.toNat % 256))

/-- SEMQ (R172, R351): the value at the end of the last tick. -/
def execSemq (f : Slot) (s : State) : Host.Outcome State Fault Refusal :=
  .next (s.plain 0xF8 f 8 fun x s0 =>
    { r := BitVec.ofNat 32 (mget (s0.room (roomOf x.c)).semPrev (x.b.toNat % 256) 0) })

/-! ### Window and counter registers -/

/-- WSET (R352). -/
def execWset (f : Slot) (s : State) : Host.Outcome State Fault Refusal :=
  .next (s.fire 0xF9 f fun x s0 => s0.offer x 8 fun s1 =>
    let hi := (s0.elem x.c x.e).greg (f.src1.toNat + 1)
    (s1.updElem x.c x.e fun el => { el with w := mput el.w (f.src2.toNat % 4) (hi ++ x.a) 0 }).finish x {} x.tnt)

/-- CTRSET (R353). -/
def execCtrset (f : Slot) (s : State) : Host.Outcome State Fault Refusal :=
  .next (s.fire 0xFA f fun x s0 => s0.offer x 8 fun s1 =>
    let n := f.src2.toNat % 4
    let s2 := (s1.updCtr x.c n fun k =>
      { k with base := x.a, n := k.ext.map fun _ => 0, isDone := false, started := f.src2.getLsbD 2 }).finish x {} x.tnt
    if x.c = x.t.lead ∧ n = 0 then s2.updTask x.t.id fun k => { k with iters := 0 } else s2)

/-- CTRSTEP (R354): R is the value after the advance. -/
def execCtrstep (f : Slot) (s : State) : Host.Outcome State Fault Refusal :=
  .next (s.fire 0xFB f fun x s0 => s0.offer x 8 fun s1 =>
    let n := f.src2.toNat % 4
    let old := (s1.cell x.c).ctr n
    if old.started && old.isDone then s1.finish x { r := old.value, f := true } x.tnt
    else
      let s2 := if old.started then s1 else s1.updCtr x.c n CtrSet.start
      let new := ((s2.cell x.c).ctr n).advance
      (s2.finish x { r := new.value, c := new.isDone } x.tnt).advanceCtr x.t x.c n)

/-- The value of a CTRQ (R355). -/
def ctrVal (c : CtrSet) (what : Nat) : Word :=
  match what with
  | 0 => c.value
  | 1 => BitVec.ofNat 32 (linearCount c.n c.ext)
  | _ => BitVec.ofNat 32 (bit c.started + 2 * bit c.isDone)

/-- CTRQ (R355): like every read of a counter set, it reads the set as it stood at the start of the step (R359). -/
def execCtrq (f : Slot) (s : State) : Host.Outcome State Fault Refusal :=
  .next (s.plain 0xFC f 8 fun x s0 =>
    { r := ctrVal ((s0.cell x.c).ctrOld (f.src2.toNat % 4)) (natField f.src2.toNat 2 2) })

/-! ### Control tokens, the end of a task, traps -/

/-- CTOK (R356). -/
def execCtok (f : Slot) (s : State) : Host.Outcome State Fault Refusal :=
  .next (s.fire 0xFD f fun x s0 => s0.offer x 8 fun s1 =>
    (s1.finish x {} x.tnt).sendControl x.t x.c (4 * x.e + f.src2.toNat % 4))

/-- DONE (R357). -/
def execDone (f : Slot) (s : State) : Host.Outcome State Fault Refusal :=
  .next (s.fire 0xFE f fun x s0 => s0.offer x 8 fun s1 =>
    (s1.finish x {} x.tnt).updElem x.c x.e fun el => { el with done := true })

/-- TRAP (R358): the firing completes its dequeues and its predicate update, and the fault is raised. -/
def execTrap (f : Slot) (s : State) : Host.Outcome State Fault Refusal :=
  .next (s.fire 0xFF f fun x s0 => s0.offer x 8 fun s1 =>
    (s1.finish x {} x.tnt).raise x.t.id x.c (some x.e)
      { code := 0x01, slot := x.k, op := 0xFF, node := x.e, sub := x.b.toNat % 2 ^ 16, info := x.a.toNat })

end Sys2Proof.Machine
end

