-- ==== Sys2Proof/Machine/Tiles.lean ====
section
/-! DEFINITION. Tile copies, TFREE and TSTATQ (R182, R183, R378 to R382). -/

namespace Sys2Proof.Machine

/-! ### Firing -/

/-- The blocks of a virtual range whose translation is missing at the firing, as a set of bits; and the number of
cached blocks that are read from the cellar (R361). -/
def State.tileBlocks (s : State) (t : Task) (ea n : Nat) : BitVec 1024 × Nat :=
  (upTo n).foldl (fun acc i =>
    match s.cached t (ea + 64 * i) with
    | none => (acc.1 ||| (1#1024 <<< i), acc.2)
    | some p => (acc.1, acc.2 + bit (s.level (p.phys ((ea + 64 * i) % 2 ^ 48)) == .cellar))) (0, 0)

/-- The address of a tile copy of n blocks (R378). -/
def State.tileAddress (s : State) (x : Fire) (n : Nat) (u : Use) : Except AddrFault Target :=
  match windowAddr x.t x.c (windowNo x.f) (s.window x (windowNo x.f)) x.a 64 with
  | .error a => .error a
  | .ok tg =>
    if tg.spad.isSome && decide (tg.ea + 64 * n > 2 ^ 20) then
      .error { code := 0x02, sub := windowNo x.f, info := x.a.toNat }
    else
      match s.bindCheck x.t tg (64 * n) u with
      | some a => .error a
      | none => .ok tg

/-- Sets the state and length of a slot. -/
def Cell.markTile (cl : Cell) (i : Nat) (st : TileSt) (n : Nat) : Cell :=
  cl.setTile i { cl.tile i with st := st, len := n }

/-- The cells that a fill goes to: the issuing cell, or the members of a multicast group (R381). -/
def State.fillCells (s : State) (x : Fire) : List Nat :=
  if x.op = 0x52 then (mget (s.cell x.c).mcast (x.f.dst.toNat / 8) []).map fun p => x.t.cellAt p.1 p.2 else [x.c]

/-- A fill of a tile slot from memory (R379, R381). -/
def State.tileFill (s : State) (op : Nat) (f : Slot) : State :=
  s.fire op f fun x s0 =>
    let n := ((s0.elem x.c x.e).greg (f.src1.toNat + 1)).toNat
    if n = 0 ∨ n > 256 then s0.faultFire x 8 { code := 0x02, sub := 0xFF, info := n }
    else
      match s0.tileAddress x n .load with
      | .error a => s0.faultFire x (8 * n) a
      | .ok tg =>
        let bl := if tg.spad.isSome then (0, 0) else s0.tileBlocks x.t tg.ea n
        s0.offer x (8 * n + 8 * bl.2) fun s1 =>
          let s2 := foldState (s0.fillCells x) s1 fun c st =>
            st.updCell c fun cl => cl.setTile (dstSlot f) { st := .filling, len := n }
          (s2.postIncr x f.src1.toNat (64 * n)).issue x
            { opOf x [x.a, BitVec.ofNat 32 n] with spad := tg.spad, ea := tg.ea, len := 64 * n, left := upTo n,
                                                   vdata := bl.1 }

/-- TLOAD (R379). -/
def execTload (f : Slot) (s : State) : Host.Outcome State Fault Refusal := .next (s.tileFill 0x50 f)

/-- TMCAST (R381). -/
def execTmcast (f : Slot) (s : State) : Host.Outcome State Fault Refusal := .next (s.tileFill 0x52 f)

/-- TSTORE (R380). -/
def execTstore (f : Slot) (s : State) : Host.Outcome State Fault Refusal :=
  .next (s.fire 0x51 f fun x s0 =>
    let n := ((s0.cell x.c).tile (dstSlot f)).len
    match s0.tileAddress x n .store with
    | .error a => s0.faultFire x (8 * n) a
    | .ok tg => s0.offer x (8 * n) fun s1 =>
        let s2 := s1.updCell x.c fun cl => cl.markTile (dstSlot f) .draining n
        (s2.postIncr x f.src1.toNat (64 * n)).issue x
          { opOf x [x.a, BitVec.ofNat 32 n] with spad := tg.spad, ea := tg.ea, len := 64 * n, left := upTo n })

/-- TFREE (R382). -/
def execTfree (f : Slot) (s : State) : Host.Outcome State Fault Refusal :=
  .next (s.fire 0x53 f fun x s0 => s0.offer x 8 fun s1 =>
    (s1.updCell x.c fun cl => if (cl.tile (dstSlot f)).st = .ready then cl.setTile (dstSlot f) {} else cl).finishEng x
      {} 0)

/-- The code of a tile state (R382). -/
def tileCode : TileSt → Nat
  | .empty => 0
  | .filling => 1
  | .ready => 2
  | .draining => 3

/-- The word of TSTATQ (R382). -/
def tileStat (t : Tile) : Word := BitVec.ofNat 32 (256 * t.len + tileCode t.st)

/-- TSTATQ (R382). -/
def execTstatq (f : Slot) (s : State) : Host.Outcome State Fault Refusal :=
  .next (s.fire 0x54 f fun x s0 =>
    if x.b.toNat > 7 then s0.faultFire x 8 { code := 0x02, sub := 0xFF, info := x.b.toNat }
    else s0.offer x 8 fun s1 => s1.finishEng x { r := tileStat ((s0.cell x.c).tile x.b.toNat) } 0)

end Sys2Proof.Machine
end

