-- ==== Sys2Proof/Machine/Vector.lean ====
section
/-! DEFINITION. The vector instructions, opcodes 0x80 to 0xA6 (R212, R213, R391 to R402). -/

namespace Sys2Proof.Machine

/-! ### Lanes -/

/-- The format of a floating-point lane type. -/
def laneFmt (ty : Nat) : FFmt := if ty = 1 then .fp16 else if ty = 2 then .bf16 else .fp32

/-- A register of lanes (R212). -/
def ofLanes (ty : Nat) (ls : List Nat) : BitVec 1024 :=
  BitVec.ofNat 1024 (ls.foldr (fun x acc => x % 2 ^ laneBits ty + 2 ^ laneBits ty * acc) 0)

/-- A vector register. -/
def Vec.reg (v : Vec) (i : Nat) : BitVec 1024 := mget v.v i 0

/-- A mask register. -/
def Vec.mask (v : Vec) (i : Nat) : BitVec 64 := mget v.m i 0

/-- The lanes of an operand code: a register, or a broadcast g register (R391). -/
def vecSrc (s : State) (x : Fire) (ty : Nat) (code : BitVec 5) : List Nat :=
  if code.toNat < 16 then lanesOf ty ((s.cell x.c).vec.reg code.toNat)
  else List.replicate (laneCount ty) (((s.elem x.c x.e).greg (code.toNat - 16)).toNat % 2 ^ laneBits ty)

/-- The second operand as numbers of the lane format: an immediate gives its exact value (R391). -/
def vecSrc2 (s : State) (x : Fire) (ty : Nat) : List Nat :=
  if x.f.imm then
    List.replicate (laneCount ty) (if ty = 3 then x.f.src2.toNat else ((laneFmt ty).ofInt x.f.src2.toNat).bits)
  else vecSrc s x ty x.f.src2

/-- The second operand read as integers (R391). -/
def vecInt2 (s : State) (x : Fire) (ty : Nat) : List Nat :=
  if x.f.imm then List.replicate (laneCount ty) x.f.src2.toNat else vecSrc s x ty x.f.src2

/-- The index operand: the immediate, or the value of the named g register (R398). -/
def vecIndex (s : State) (x : Fire) : Nat :=
  if x.f.imm then x.f.src2.toNat else ((s.elem x.c x.e).greg (x.f.src2.toNat - 16)).toNat

/-- The lanes that a firing writes: those M0 selects with OTAG[0] = 1, else all (R392). -/
def writtenMask (s : State) (x : Fire) : BitVec 64 :=
  if x.f.otag.getLsbD 0 then (s.cell x.c).vec.mask 0 else BitVec.allOnes 64

/-- What a vector firing writes back. -/
structure VOut where
  v : BitVec 1024 := 0
  r : Word := 0
  c : Bool := false
  f : Bool := false
  st : BitVec 3 := 0
  deriving DecidableEq, Repr, Inhabited

/-- The conditions that the written lanes raise together (R208, R392). -/
def stickyOf (ls : List FRes) : BitVec 3 := ls.foldl (fun a x => a ||| x.sticky) 0

/-- Lane results merged into the old lanes of the destination under a mask, with the conditions of the written lanes
(R392). -/
def mergeLanes (ty : Nat) (mask : BitVec 64) (old : List Nat) (new : List FRes) : VOut :=
  let ls := (upTo (laneCount ty)).map fun i => if mask.getLsbD i then (new.getD i {}).bits else old.getD i 0
  let ws := (upTo (laneCount ty)).filterMap fun i => if mask.getLsbD i then some (new.getD i {}) else none
  { v := ofLanes ty ls, f := ws.any fun x => x.invalid || x.ovf, st := stickyOf ws }

/-- The old lanes of the destination. -/
def oldLanes (s : State) (x : Fire) (ty : Nat) : List Nat := lanesOf ty ((s.cell x.c).vec.reg x.f.dst.toNat)

/-- One word of a vector operand as a replay entry keeps it: the low 32 bits of a register, or the broadcast g register (R260, R422);
log entry 96. -/
def vecWord (s : State) (x : Fire) (code : BitVec 5) : Word :=
  if code.toNat < 16 then ((s.cell x.c).vec.reg code.toNat).truncate 32 else (s.elem x.c x.e).greg (code.toNat - 16)

/-- Whether a vector instruction takes SRC2 as an operand (R394, R395, R398). -/
def vecPair (op : Nat) : Bool :=
  decide (op ≤ 0x86) || decide (0x89 ≤ op ∧ op ≤ 0x92) || op == 0x94 || decide (0x9C ≤ op ∧ op ≤ 0x9F)

/-- The captured operands of a VMOVM: the mask that it reads, behind the g register that it merges (R399). -/
def maskArgs (s : State) (x : Fire) : List Word :=
  let low (i : Nat) : Word := ((s.cell x.c).vec.mask (i % 4)).truncate 32
  match x.f.src2.toNat / 4 with
  | 0 => [low x.f.src2.toNat]
  | 1 => [low x.f.src2.toNat]
  | 2 => [(s.elem x.c x.e).greg (x.f.src1.toNat - 16), low x.f.src2.toNat]
  | 3 => [(s.elem x.c x.e).greg (x.f.src1.toNat - 16), low x.f.src2.toNat]
  | 4 => [low x.f.src1.toNat]
  | 5 => [low x.f.src1.toNat]
  | _ => []

/-- The captured operands of a vector operation on registers (R260, R422). -/
def vecArgs (s : State) (x : Fire) : List Word :=
  if x.op = 0xA4 then maskArgs s x
  else vecWord s x x.f.src1
    :: (if vecPair x.op then [if x.f.imm then BitVec.ofNat 32 x.f.src2.toNat else vecWord s x x.f.src2] else [])

/-- A vector firing (R392): its operation is computed from the captured operands and written back later. -/
def State.vecFire (s : State) (op : Nat) (f : Slot) (cost : Nat) (g : Fire → State → VOut) : State :=
  s.fire op f fun x s0 => s0.offer x cost fun s1 =>
    let v := g x s0
    s1.issue x { opOf x (vecArgs s0 x) with phase := .performed, vres := v.v, r := v.r, c := v.c, fflag := v.f, sticky := v.st }

/-- An elementwise firing of two operands (R394). -/
def State.vecLanes (s : State) (op : Nat) (f : Slot) (g : Nat → Nat → Nat → Nat → FRes) : State :=
  s.vecFire op f 96 fun x s0 =>
    let ty := laneType f
    let a := vecSrc s0 x ty f.src1
    let b := vecSrc2 s0 x ty
    let d := oldLanes s0 x ty
    mergeLanes ty (writtenMask s0 x) d ((upTo (laneCount ty)).map fun i => g ty (a.getD i 0) (b.getD i 0) (d.getD i 0))

/-- A lane result without a condition. -/
def plainLane (n : Nat) : FRes := { bits := n }

/-- An integer lane operation. -/
def intLane (g : Word → Word → Word) (a b : Nat) : FRes := plainLane (g (BitVec.ofNat 32 a) (BitVec.ofNat 32 b)).toNat

/-! ### Elementwise instructions (R394, R395) -/

/-- VADD (R394). -/
def execVadd (f : Slot) (s : State) : Host.Outcome State Fault Refusal :=
  .next (s.vecLanes 0x80 f fun ty a b _ => (laneFmt ty).add a b)

/-- VSUB (R394). -/
def execVsub (f : Slot) (s : State) : Host.Outcome State Fault Refusal :=
  .next (s.vecLanes 0x81 f fun ty a b _ => (laneFmt ty).sub a b)

/-- VMUL (R394). -/
def execVmul (f : Slot) (s : State) : Host.Outcome State Fault Refusal :=
  .next (s.vecLanes 0x82 f fun ty a b _ => (laneFmt ty).mul a b)

/-- VFMA (R394): a × b + d. -/
def execVfma (f : Slot) (s : State) : Host.Outcome State Fault Refusal :=
  .next (s.vecLanes 0x83 f fun ty a b d => (laneFmt ty).fma a b d)

/-- VFMS (R394): a × b − d. -/
def execVfms (f : Slot) (s : State) : Host.Outcome State Fault Refusal :=
  .next (s.vecLanes 0x84 f fun ty a b d => (laneFmt ty).fms a b d)

/-- The minimum or maximum of two lanes (R209, R394). -/
def minMaxLane (isMax : Bool) (ty a b : Nat) : FRes :=
  if ty = 3 then intLane (fun x y => if isMax then (maxRes x y).r else (minRes x y).r) a b
  else plainLane ((laneFmt ty).minMax isMax a b)

/-- VMIN (R394). -/
def execVmin (f : Slot) (s : State) : Host.Outcome State Fault Refusal :=
  .next (s.vecLanes 0x85 f fun ty a b _ => minMaxLane false ty a b)

/-- VMAX (R394). -/
def execVmax (f : Slot) (s : State) : Host.Outcome State Fault Refusal :=
  .next (s.vecLanes 0x86 f fun ty a b _ => minMaxLane true ty a b)

/-- VABS of a lane (R394). -/
def absLane (ty a : Nat) : FRes :=
  if ty = 3 then intLane (fun x _ => if x.msb then 0 - x else x) a 0
  else if ((laneFmt ty).decode a).isNan then plainLane (laneFmt ty).nanBits
  else plainLane (a % (laneFmt ty).signBit)

/-- VABS (R394). -/
def execVabs (f : Slot) (s : State) : Host.Outcome State Fault Refusal :=
  .next (s.vecLanes 0x87 f fun ty a _ _ => absLane ty a)

/-- VNEG of a lane (R394). -/
def negLane (ty a : Nat) : FRes :=
  if ty = 3 then intLane (fun x _ => 0 - x) a 0
  else if ((laneFmt ty).decode a).isNan then plainLane (laneFmt ty).nanBits
  else plainLane ((a + (laneFmt ty).signBit) % (2 * (laneFmt ty).signBit))

/-- VNEG (R394). -/
def execVneg (f : Slot) (s : State) : Host.Outcome State Fault Refusal :=
  .next (s.vecLanes 0x88 f fun ty a _ _ => negLane ty a)

/-- The condition of a VCMP lane (R395). -/
def cmpLane (ty cc a b : Nat) : Bool :=
  if ty = 3 then
    let x := BitVec.ofNat 32 a
    let y := BitVec.ofNat 32 b
    match cc with
    | 0 => x == y
    | 1 => x != y
    | 2 => x.slt y
    | 3 => !y.slt x
    | 4 => y.slt x
    | 5 => !x.slt y
    | 6 => x.ult y
    | _ => !x.ult y
  else (laneFmt ty).cmp cc a b

/-- VCMP (R395): the mask, the number of its bits, and whether there are any. -/
def execVcmp (f : Slot) (s : State) : Host.Outcome State Fault Refusal :=
  .next (s.vecFire 0x89 f 96 fun x s0 =>
    let ty := laneType f
    let a := vecSrc s0 x ty f.src1
    let b := vecSrc2 s0 x ty
    let mask := writtenMask s0 x
    let hits := (upTo (laneCount ty)).filter fun i =>
      mask.getLsbD i && cmpLane ty (f.dst.toNat / 4) (a.getD i 0) (b.getD i 0)
    { v := hits.foldl (fun m i => m ||| (1#1024 <<< i)) 0, r := BitVec.ofNat 32 hits.length, c := !hits.isEmpty })

/-- VSEL (R394). -/
def execVsel (f : Slot) (s : State) : Host.Outcome State Fault Refusal :=
  .next (s.vecFire 0x8A f 96 fun x s0 =>
    let ty := laneType f
    let a := vecSrc s0 x ty f.src1
    let b := vecSrc2 s0 x ty
    let m := (s0.cell x.c).vec.mask 0
    { v := ofLanes ty ((upTo (laneCount ty)).map fun i => if m.getLsbD i then a.getD i 0 else b.getD i 0) })

/-- VAND (R394). -/
def execVand (f : Slot) (s : State) : Host.Outcome State Fault Refusal :=
  .next (s.vecLanes 0x8B f fun _ a b _ => intLane (fun x y => x &&& y) a b)

/-- VOR (R394). -/
def execVor (f : Slot) (s : State) : Host.Outcome State Fault Refusal :=
  .next (s.vecLanes 0x8C f fun _ a b _ => intLane (fun x y => x ||| y) a b)

/-- VXOR (R394). -/
def execVxor (f : Slot) (s : State) : Host.Outcome State Fault Refusal :=
  .next (s.vecLanes 0x8D f fun _ a b _ => intLane (fun x y => x ^^^ y) a b)

/-- VSHL (R336, R394). -/
def execVshl (f : Slot) (s : State) : Host.Outcome State Fault Refusal :=
  .next (s.vecLanes 0x8E f fun _ a b _ => intLane (fun x y => (shlRes x y).r) a b)

/-- VSHR (R336, R394). -/
def execVshr (f : Slot) (s : State) : Host.Outcome State Fault Refusal :=
  .next (s.vecLanes 0x8F f fun _ a b _ => intLane (fun x y => (shrRes x y).r) a b)

/-- VSRA (R336, R394). -/
def execVsra (f : Slot) (s : State) : Host.Outcome State Fault Refusal :=
  .next (s.vecLanes 0x90 f fun _ a b _ => intLane (fun x y => (sraRes x y).r) a b)

/-- VIADD (R394). -/
def execViadd (f : Slot) (s : State) : Host.Outcome State Fault Refusal :=
  .next (s.vecLanes 0x91 f fun _ a b _ => intLane (fun x y => x + y) a b)

/-- VIMUL (R394). -/
def execVimul (f : Slot) (s : State) : Host.Outcome State Fault Refusal :=
  .next (s.vecLanes 0x92 f fun _ a b _ => intLane (fun x y => x * y) a b)

/-! ### Conversion, scaling and functions (R211, R394, R396) -/

/-- A lane converted from one type to another (R210, R396). -/
def convLane (src dst a : Nat) : FRes :=
  if src = 3 then if dst = 3 then plainLane a else (laneFmt dst).ofInt (natToInt 32 a)
  else if dst = 3 then
    let z := toIntSat (-(2 ^ 31)) (2 ^ 31 - 1) ((laneFmt src).decode a)
    { bits := intToNat 32 z.1, invalid := z.2 }
  else if src = dst then
    plainLane (if ((laneFmt src).decode a).isNan then (laneFmt src).nanBits else a)
  else (laneFmt dst).ofVal ((laneFmt src).decode a)

/-- The lanes that a VCVT writes, before M0 (R396). -/
def cvtLanes (src dst half : Nat) : List Nat :=
  if laneCount src < laneCount dst then (upTo 32).map fun i => 32 * half + i else upTo (laneCount dst)

/-- VCVT (R396): OTAG[2:1] names the destination type, SRC2 the source type and the half. -/
def execVcvt (f : Slot) (s : State) : Host.Outcome State Fault Refusal :=
  .next (s.vecFire 0x93 f 64 fun x s0 =>
    let dst := laneType f
    let src := f.src2.toNat % 4
    let half := bit (f.src2.getLsbD 2)
    let a := vecSrc s0 x src f.src1
    let lanes := cvtLanes src dst half
    let from_ (i : Nat) : Nat :=
      if laneCount src < laneCount dst then i - 32 * half
      else if laneCount dst < laneCount src then 32 * half + i else i
    let mask := lanes.foldl (fun m i => m ||| (1#64 <<< i)) 0 &&& writtenMask s0 x
    mergeLanes dst mask (oldLanes s0 x dst) ((upTo (laneCount dst)).map fun i =>
      convLane src dst (a.getD (from_ i) 0)))

/-- VSCL (R391, R394): the exponent is a lane integer. -/
def execVscl (f : Slot) (s : State) : Host.Outcome State Fault Refusal :=
  .next (s.vecFire 0x94 f 96 fun x s0 =>
    let ty := laneType f
    let a := vecSrc s0 x ty f.src1
    let b := vecInt2 s0 x ty
    mergeLanes ty (writtenMask s0 x) (oldLanes s0 x ty) ((upTo (laneCount ty)).map fun i =>
      (laneFmt ty).scl (a.getD i 0) (natToInt (laneBits ty) (b.getD i 0))))

/-- A firing of one correctly rounded function (R211, R394). -/
def State.vecFn (s : State) (op : Nat) (f : Slot) (g : FFmt → Nat → FRes) : State :=
  s.vecFire op f 192 fun x s0 =>
    let ty := laneType f
    let a := vecSrc s0 x ty f.src1
    mergeLanes ty (writtenMask s0 x) (oldLanes s0 x ty) ((upTo (laneCount ty)).map fun i => g (laneFmt ty) (a.getD i 0))

/-- VRCP (R211). -/
def execVrcp (f : Slot) (s : State) : Host.Outcome State Fault Refusal := .next (s.vecFn 0x95 f FFmt.rcp)

/-- VRSQ (R211). -/
def execVrsq (f : Slot) (s : State) : Host.Outcome State Fault Refusal := .next (s.vecFn 0x96 f FFmt.rsq)

/-- VEXP2 (R211). -/
def execVexp2 (f : Slot) (s : State) : Host.Outcome State Fault Refusal := .next (s.vecFn 0x97 f FFmt.exp2)

/-- VLOG2 (R211). -/
def execVlog2 (f : Slot) (s : State) : Host.Outcome State Fault Refusal := .next (s.vecFn 0x98 f FFmt.log2)

/-! ### Reductions and scans (R213, R397) -/

/-- The sum of two lanes (R213). -/
def addLane (ty a b : Nat) : FRes :=
  if ty = 3 then plainLane ((a + b) % 2 ^ 32) else (laneFmt ty).add a b

/-- A lane as an operation produces it: a NaN is the canonical one (R207). -/
def canonLane (ty b : Nat) : Nat := if ty != 3 && ((laneFmt ty).decode b).isNan then (laneFmt ty).nanBits else b

/-- One level of the pairwise tree (R213). -/
def treeLevel (ty : Nat) : List (Option Nat) → List (Option Nat) × BitVec 3 × Bool
  | a :: b :: t =>
    let r := treeLevel ty t
    match a, b with
    | some u, some v =>
      let z := addLane ty u v
      (some z.bits :: r.1, z.sticky ||| r.2.1, z.invalid || z.ovf || r.2.2)
    | some u, none => (some u :: r.1, r.2)
    | none, w => (w :: r.1, r.2)
  | l => (l, 0, false)

/-- The tree, one level for each power of two (R213): the sum, the conditions and F. -/
def treeSum (ty : Nat) : Nat → List (Option Nat) → Nat × BitVec 3 × Bool
  | 0, l => (canonLane ty ((l.headD none).getD 0), 0, false)
  | k + 1, l =>
    let a := treeLevel ty l
    let r := treeSum ty k a.1
    (r.1, a.2.1 ||| r.2.1, a.2.2 || r.2.2)

/-- The lanes of an operand, absent where a mask excludes them (R397). -/
def presentLanes (s : State) (x : Fire) (ty : Nat) : List (Option Nat) :=
  let a := vecSrc s x ty x.f.src1
  let m := writtenMask s x
  (upTo (laneCount ty)).map fun i => if m.getLsbD i then some (a.getD i 0) else none

/-- VREDS (R213, R397). -/
def execVreds (f : Slot) (s : State) : Host.Outcome State Fault Refusal :=
  .next (s.vecFire 0x99 f 128 fun x s0 =>
    let ty := laneType f
    let z := treeSum ty 6 (presentLanes s0 x ty)
    { r := BitVec.ofNat 32 z.1, st := z.2.1, f := z.2.2 })

/-- The minimum or maximum of the present lanes, +0 where there is none (R213). -/
def redMinMax (ty : Nat) (isMax : Bool) (ls : List (Option Nat)) : Nat :=
  match ls.filterMap id with
  | [] => 0
  | y :: ys => ys.foldl (fun m z => (minMaxLane isMax ty m z).bits) (minMaxLane isMax ty y y).bits

/-- VREDM (R213, R397). -/
def execVredm (f : Slot) (s : State) : Host.Outcome State Fault Refusal :=
  .next (s.vecFire 0x9A f 128 fun x s0 =>
    let ty := laneType f
    { r := BitVec.ofNat 32 (redMinMax ty (f.src2.getLsbD 0) (presentLanes s0 x ty)) })

/-- Inclusive prefix sums from the sum of no lanes, +0: a masked-off lane receives the prefix unchanged (R213). -/
def scanLanes (ty : Nat) : Nat → List (Option Nat) → List FRes
  | _, [] => []
  | pre, none :: ls => plainLane pre :: scanLanes ty pre ls
  | pre, some v :: ls =>
    let z := addLane ty pre v
    z :: scanLanes ty z.bits ls

/-- VSCAN (R213, R397): every lane of the destination is written. -/
def execVscan (f : Slot) (s : State) : Host.Outcome State Fault Refusal :=
  .next (s.vecFire 0x9B f 128 fun x s0 =>
    let ty := laneType f
    mergeLanes ty (BitVec.allOnes 64) [] (scanLanes ty 0 (presentLanes s0 x ty)))

/-! ### Lane moves and masks (R398, R399) -/

/-- VPERM (R398). -/
def execVperm (f : Slot) (s : State) : Host.Outcome State Fault Refusal :=
  .next (s.vecFire 0x9C f 96 fun x s0 =>
    let ty := laneType f
    let a := vecSrc s0 x ty f.src1
    let b := vecSrc s0 x ty f.src2
    mergeLanes ty (writtenMask s0 x) (oldLanes s0 x ty) ((upTo (laneCount ty)).map fun i =>
      plainLane (a.getD (b.getD i 0 % laneCount ty) 0)))

/-- VBCAST (R398). -/
def execVbcast (f : Slot) (s : State) : Host.Outcome State Fault Refusal :=
  .next (s.vecFire 0x9D f 96 fun x s0 =>
    let ty := laneType f
    let v := (vecSrc s0 x ty f.src1).getD (vecIndex s0 x % laneCount ty) 0
    mergeLanes ty (writtenMask s0 x) (oldLanes s0 x ty) (List.replicate (laneCount ty) (plainLane v)))

/-- VEXT (R398). -/
def execVext (f : Slot) (s : State) : Host.Outcome State Fault Refusal :=
  .next (s.vecFire 0x9E f 96 fun x s0 =>
    let ty := laneType f
    { r := BitVec.ofNat 32 ((vecSrc s0 x ty f.src1).getD (vecIndex s0 x % laneCount ty) 0) })

/-- VINS (R398). -/
def execVins (f : Slot) (s : State) : Host.Outcome State Fault Refusal :=
  .next (s.vecFire 0x9F f 96 fun x s0 =>
    let ty := laneType f
    let v := ((s0.elem x.c x.e).greg (f.src1.toNat - 16)).toNat
    { v := ofLanes ty ((oldLanes s0 x ty).set (vecIndex s0 x % laneCount ty) v) })

/-- VMOVM (R399). -/
def execVmovm (f : Slot) (s : State) : Host.Outcome State Fault Refusal :=
  .next (s.vecFire 0xA4 f 96 fun x s0 =>
    let vec := (s0.cell x.c).vec
    let m := vec.mask (f.src2.toNat % 4)
    let n := vec.mask (f.src1.toNat % 4)
    let g := (s0.elem x.c x.e).greg (f.src1.toNat - 16)
    let all := BitVec.ofNat 64 (2 ^ laneCount (laneType f) - 1)
    match f.src2.toNat / 4 with
    | 0 => { r := m.truncate 32 }
    | 1 => { r := (m >>> 32).truncate 32 }
    | 2 => { v := (BitVec.ofNat 64 (natField m.toNat 32 32 * 2 ^ 32 + g.toNat)).zeroExtend 1024 }
    | 3 => { v := (BitVec.ofNat 64 (natField m.toNat 0 32 + g.toNat * 2 ^ 32)).zeroExtend 1024 }
    | 4 => { v := n.zeroExtend 1024 }
    | 5 => { v := (~~~n &&& all).zeroExtend 1024 }
    | 6 => { v := all.zeroExtend 1024 }
    | _ => {})

/-! ### The spill map (R185, R402) -/

/-- Whether a VPARK of register a into a column and quarter is refused (R402). -/
def parkRefused (cl : Cell) (a col q : Nat) : Bool :=
  decide (col > 127) || (cl.mx.rules.any fun p => p.2.region.hasColumn col)
    || (cl.vec.spill.any fun p => (p.2.col == col && p.2.quarter == q) || p.2.reg == a)
    || decide (16 ≤ cl.vec.spill.length)

/-- The cell after a VPARK: lane i goes to row 32 q + i of the column. -/
def Cell.parkReg (cl : Cell) (a col q : Nat) : Cell :=
  let k := ((upTo 16).find? fun i => (mfind cl.vec.spill i).isNone).getD 0
  let ls := lanesOf 0 (cl.vec.reg a)
  { cl with
    vec := { cl.vec with spill := mset cl.vec.spill k { reg := a, col := col, quarter := q } }
    mx := { cl.mx with acc := (upTo 32).foldl (fun m i =>
      mput m (128 * (32 * q + i) + col) (BitVec.ofNat 32 (ls.getD i 0)) 0) cl.mx.acc } }

/-- VPARK (R402). -/
def execVpark (f : Slot) (s : State) : Host.Outcome State Fault Refusal :=
  .next (s.fire 0xA5 f fun x s0 =>
    let col := ((s0.elem x.c x.e).greg (f.src1.toNat - 16)).toNat
    let q := f.src2.toNat % 4
    if parkRefused (s0.cell x.c) f.dst.toNat col q then s0.faultFire x 48 { code := 0x02, sub := 0xFF, info := col }
    else s0.offer x 48 fun s1 =>
      (s1.updCell x.c fun cl => cl.parkReg f.dst.toNat col q).issue x
        { opOf x [BitVec.ofNat 32 col, ((s0.cell x.c).vec.reg f.dst.toNat).truncate 32] with phase := .performed })

/-- VUNPARK (R402). -/
def execVunpark (f : Slot) (s : State) : Host.Outcome State Fault Refusal :=
  .next (s.fire 0xA6 f fun x s0 =>
    let cl := s0.cell x.c
    match cl.vec.spill.find? fun p => p.2.reg == f.dst.toNat with
    | none => s0.faultFire x 48 { code := 0x02, sub := 0xFF, info := f.dst.toNat }
    | some p => s0.offer x 48 fun s1 =>
      let ls := (upTo 32).map fun i => (mget cl.mx.acc (128 * (32 * p.2.quarter + i) + p.2.col) 0).toNat
      (s1.updCell x.c fun k => { k with vec := { k.vec with spill := mdel k.vec.spill p.1 } }).issue x
        { opOf x [] with phase := .performed, vres := ofLanes 0 ls })

/-! ### Vector memory (R400, R401) -/

/-- The bytes from the first to the last 64-byte half of a 128-byte access that holds a written lane, as offset and
length (R400). -/
def halves (ty : Nat) (mask : BitVec 64) : Nat × Nat :=
  let k := laneCount ty / 2
  let lo := (upTo k).any fun i => mask.getLsbD i
  let hi := (upTo k).any fun i => mask.getLsbD (k + i)
  if lo && hi then (0, 128) else if lo then (0, 64) else if hi then (64, 64) else (0, 0)

/-- The target of a VLD or VST (R400). -/
def State.vecAddress (s : State) (x : Fire) (h : Nat × Nat) (u : Use) : Except AddrFault Target :=
  let w := s.window x (windowNo x.f)
  match windowAddr x.t x.c (windowNo x.f) w ((s.elem x.c x.e).greg (x.f.src1.toNat - 16)) 64 with
  | .error a => .error a
  | .ok tg =>
    let part : Target := { tg with ea := if tg.spad.isSome then tg.ea + h.1 else (tg.ea + h.1) % 2 ^ 48 }
    match s.bindCheck x.t part h.2 u with
    | some a => .error a
    | none => .ok part

/-- The captured data of a vector store, as a replay entry keeps it: the low 32 bits; log entry 96. -/
def storedWord (s : State) (x : Fire) : List Word :=
  if isStore x.op then [((s.cell x.c).vec.reg x.f.dst.toNat).truncate 32] else []

/-- The firing of a VLD or VST (R400). -/
def State.vecMem (s : State) (op : Nat) (f : Slot) (u : Use) : State :=
  s.fire op f fun x s0 =>
    let mask := writtenMask s0 x
    let h := halves (laneType f) mask
    match s0.vecAddress x h u with
    | .error a => s0.faultFire x 48 a
    | .ok tg => s0.offer x 48 fun s1 =>
        let off := (s0.elem x.c x.e).greg (f.src1.toNat - 16)
        (s1.postIncr x (f.src1.toNat - 16) 128).issue x
          { opOf x (off :: storedWord s0 x) with
              spad := tg.spad, ea := tg.ea, len := h.2, left := [h.1], mask := mask,
              vdata := (s0.cell x.c).vec.reg f.dst.toNat }

/-- VLD (R400). -/
def execVld (f : Slot) (s : State) : Host.Outcome State Fault Refusal := .next (s.vecMem 0xA0 f .load)

/-- VST (R400). -/
def execVst (f : Slot) (s : State) : Host.Outcome State Fault Refusal := .next (s.vecMem 0xA1 f .store)

/-- The address that R231 would form for an offset, whatever its faults (R401). -/
def formedAddress (w : BitVec 64) (off : Nat) : Nat :=
  if isSpad w then natField w.toNat 0 20 + off else (natField w.toNat 0 48 + off) % 2 ^ 48

/-- The targets of the written lanes, or the fault of the lowest lane that fails (R401). -/
def State.laneTargets (s : State) (x : Fire) (u : Use) (offs : List Nat) (mask : BitVec 64) :
    Except AddrFault (List (Nat × Target)) :=
  let w := s.window x (windowNo x.f)
  (upTo 32).foldl (fun acc i =>
    match acc with
    | .error a => .error a
    | .ok l =>
      if !mask.getLsbD i then .ok l
      else
        let off := offs.getD i 0
        match windowAddr x.t x.c (windowNo x.f) w (BitVec.ofNat 32 off) 4 with
        | .error a => .error { a with info := formedAddress w off }
        | .ok tg =>
          match s.bindCheck x.t tg 4 u with
          | some a => .error a
          | none => .ok (l ++ [(i, tg)])) (.ok [])

/-- The firing of a VGATH or VSCAT (R401). -/
def State.vecIndexed (s : State) (op : Nat) (f : Slot) (u : Use) : State :=
  s.fire op f fun x s0 =>
    let mask := writtenMask s0 x
    let offs := vecSrc s0 x 3 f.src1
    let n := ((upTo 32).filter fun i => mask.getLsbD i).length
    match s0.laneTargets x u offs mask with
    | .error a => s0.faultFire x (48 + 8 * n) a
    | .ok l => s0.offer x (48 + 8 * n) fun s1 =>
        s1.issue x { opOf x (BitVec.ofNat 32 (offs.getD 0 0) :: storedWord s0 x) with
          spad := (l.head?.map fun p => p.2.spad).getD none, ea := (l.head?.map fun p => p.2.ea).getD 0,
          lanes := l.map fun p => (p.1, p.2.ea), mask := mask, vdata := (s0.cell x.c).vec.reg f.dst.toNat }

/-- VGATH (R401). -/
def execVgath (f : Slot) (s : State) : Host.Outcome State Fault Refusal := .next (s.vecIndexed 0xA2 f .load)

/-- VSCAT (R401). -/
def execVscat (f : Slot) (s : State) : Host.Outcome State Fault Refusal := .next (s.vecIndexed 0xA3 f .store)

/-- A VLD is performed (R400). -/
def State.performVld (s : State) (o : Op) (t : Task) : Perf :=
  let tg : Target := { spad := o.spad, ea := o.ea }
  match s.poisonIn t o.cell tg o.len with
  | some a => .fault (poisonFault a)
  | none =>
    let ty := laneType o.f
    let b := laneBits ty / 8
    let bytes := List.replicate (o.left.headD 0) (0 : Byte) ++ s.readBytes t o.cell tg o.len
    let s1 := if o.spad.isNone then s.watchRead t 0 o.cell o.elem o.ea o.len else s
    let old := lanesOf ty o.vdata
    .ok s1 { vres := ofLanes ty ((upTo (laneCount ty)).map fun i =>
      if o.mask.getLsbD i then bytesToNat ((bytes.drop (b * i)).take b) else old.getD i 0) }

/-- A VST or VSCAT is performed or enters the vestibule, in increasing lane order (R400, R401). -/
def State.performVst (s : State) (o : Op) (t : Task) : Perf :=
  match o.spad with
  | some m => s.spadStore t m o.lanePieces
  | none => s.storePieces t o.cell (s.elemAgent 0 t o.cell o.elem) (o.lanePieces.map fun p => (p.1, p.2, none))

/-- A VGATH is performed (R401). -/
def State.performVgath (s : State) (o : Op) (t : Task) : Perf :=
  match o.lanes.findSome? fun p => s.poisonIn t o.cell { spad := o.spad, ea := p.2 } 4 with
  | some a => .fault (poisonFault a)
  | none =>
    let s1 := if o.spad.isNone then
        foldState o.lanes s fun p st => st.watchRead t 0 o.cell o.elem p.2 4 else s
    .ok s1 { vres := ofLanes 3 (o.lanes.foldl (fun l p =>
      l.set p.1 (bytesToNat (s.readBytes t o.cell { spad := o.spad, ea := p.2 } 4))) (lanesOf 3 o.vdata)) }

end Sys2Proof.Machine
end

