-- ==== Sys2Proof/Machine/Serve.lean ====
section
/-! DEFINITION. What performing an operation comes to, the order in which a scratchpad serves those that wait for it (R189), and
the blocks of tile copies (R379 to R381). -/

namespace Sys2Proof.Machine

/-! ### Accesses of edge ports (R320) -/

/-- The element number under which the accesses of an edge port are ordered. -/
def edgeElem (p : Nat) : Nat := 104 + p

/-- The value of a typed or raw element of an inbound port, or its fault (R222, R320). -/
def State.performEdgeRead (s : State) (o : Op) (t : Task) : Perf :=
  let g := (s.cell o.cell).edge (o.elem - edgeElem 0)
  let b := s.readBlock t o.cell { ea := o.ea }
  let blk := o.ea / 64 * 64
  if tagPoison b.tag then .fault (poisonFault blk)
  else if g.fmt ≠ 0 ∧ tagFmt b.tag ≠ 0x1F ∧ (tagFmt b.tag ≠ g.fmt ∨ numericFmt g.fmt = false) then
    .fault { code := 0x0B, sub := b.tag.toNat, info := blk }
  else
    let s1 := s.watchRead t 0 o.cell 0xFF o.ea o.len
    .ok s1 { r := if g.fmt ≠ 0 ∧ tagFmt b.tag = 0x1F then 0
      else loadValue o.f (s.readBytes t o.cell { ea := o.ea } o.len) }

/-- The store of an outbound port enters the lead cell's vestibule (R320). -/
def State.performEdgeWrite (s : State) (o : Op) (t : Task) : Perf :=
  s.storeVirt t o.cell (s.elemAgent 0 t o.cell 0xFF) o.ea (natToBytes o.len (o.args.headD 0).toNat)

/-! ### Performing an operation -/

/-- What performing an operation comes to, by its opcode. -/
def State.performOp (s : State) (o : Op) (t : Task) : Perf :=
  let m := o.spad.getD 0
  if o.opc = 0x40 ∨ o.opc = 0x41 then s.performLoad o t
  else if o.opc = 0x44 then s.performStore o t
  else if o.opc = 0x4B then (if s.fenceMet o then .ok s {} else .wait)
  else if o.opc = 0x4C then .ok s {}
  else if 0x42 ≤ o.opc ∧ o.opc ≤ 0x4A then s.performWord o t m
  else if 0x55 ≤ o.opc ∧ o.opc ≤ 0x59 then s.performQueue o t m
  else if 0x68 ≤ o.opc ∧ o.opc < 0x70 then s.performRed o t
  else if o.opc = 0xA0 then s.performVld o t
  else if o.opc = 0xA1 ∨ o.opc = 0xA3 then s.performVst o t
  else if o.opc = 0xA2 then s.performVgath o t
  else if o.opc = 0xCC then s.performTagq o t
  else if o.opc = 0xD1 ∨ o.opc = 0xD7 ∨ o.opc = 0xD8 then s.performTransfer o t
  else if o.opc = 0x100 then s.performScan o t
  else if o.opc = 0x101 then s.performEdgeWrite o t
  else if o.opc = 0x102 then s.performEdgeRead o t
  else .wait

/-- Whether performing an operation is the business of this event: tile copies and conversions have block events, and
the other engine operations events of their own. -/
def Op.atHome (o : Op) : Bool :=
  (decide (0x40 ≤ o.opc ∧ o.opc < 0x78) && !decide (0x50 ≤ o.opc ∧ o.opc ≤ 0x54)) || decide (0xA0 ≤ o.opc ∧ o.opc ≤ 0xA3)
    || o.opc == 0xCC || o.opc == 0xD1 || o.opc == 0xD7 || o.opc == 0xD8 || o.opc == 0xF6 || decide (0x100 ≤ o.opc)

/-- Whether an operation has no address: a FENCE, or a DDA transfer with a tile slot. -/
def Op.placeless (o : Op) : Bool := o.opc == 0x4B || (o.spad.isNone && (o.opc == 0xD1 || o.opc == 0xD7 || o.opc == 0xD8))

/-- Whether performing comes to waiting. -/
def Perf.waits (p : Perf) : Bool :=
  match p with
  | .wait => true
  | _ => false

/-- The task of which an operation is left, as far as that is known (R270, R274). -/
def Op.ghost (o : Op) (k : Orphan) : Task :=
  { id := o.task, tag := k.tag, gen := k.gen, age := k.age, st := .running, room := k.room, x0 := k.origin.1, y0 := k.origin.2,
    gw := k.shape.1, gh := k.shape.2 }

/-- An access that waits at a scratchpad (R189): the tick in which it began to wait, its place in the order of that tick, its number, the
bytes it touches, and whether it can be served now. -/
structure Waiter where
  since : Nat := 0
  key : Nat := 0
  num : Nat := 0
  ranges : List (Nat × Nat) := []
  ready : Bool := false
  deriving DecidableEq, Repr

/-- Whether a block of a TSTORE to a scratchpad waits for a mark of another task. The check of the whole range comes before the
first word is written, so that block waits for every mark in the range (R158, R380). -/
def State.storeWaits (s : State) (o : Op) (t : Task) (m i : Nat) : Bool :=
  let hid (k : Nat) : Bool := (s.cell m).spad.hiddenIn ((o.ea + 64 * k) / 4) 16 (some t.id)
  hid i || (o.left.length == o.len / 64 && o.left.any hid)

/-- Whether what is left of a scratchpad write meets a tentative mark, or its condition fails (R158, R274). -/
def State.ghostWaits (s : State) (o : Op) (k : Orphan) (m : Nat) : Bool :=
  if isStore o.opc then k.pieces.any fun q => (wordsIn q.1 q.2.1.length).any fun w => (s.cell m).spad.hidden w none
  else (s.performOp o (o.ghost k)).waits

/-- The task in whose name an operation reaches its home. -/
def State.taskOf (s : State) (o : Op) : Task :=
  match o.orphan with
  | some k => o.ghost k
  | none => s.task o.task

/-- An operation that waits at a scratchpad; a TSTORE is served block by block. -/
def State.opWaiters (s : State) (m : Nat) (o : Op) : List Waiter :=
  if o.spad ≠ some m ∨ o.phase ≠ .waiting ∨ o.replay = true ∨ s.limitPassed o = true then []
  else
    let w (rs : List (Nat × Nat)) (ready : Bool) : Waiter :=
      { since := o.since, key := s.keyOf (s.taskOf o) o, num := o.id, ranges := rs, ready := ready }
    match o.orphan with
    | some k => [w (s.touched o) (!s.ghostWaits o k m)]
    | none =>
      if o.opc = 0x51 then o.left.map fun i => w [(o.ea + 64 * i, 64)] (!s.storeWaits o (s.taskOf o) m i)
      else [w (s.touched o) (!(s.performOp o (s.taskOf o)).waits)]

/-- A fill or arrival that waits for a tentative mark (R376). -/
def State.fillWaiter (s : State) (m : Nat) (k : Fill) : Option Waiter :=
  if handleCell k.target ≠ m then none
  else k.since.map fun n =>
    { since := n, key := k.key, num := k.id, ranges := [(4 * handleWord k.target, 4)],
      ready := ((s.cell m).spad.tentBy (handleWord k.target)).isNone }

/-- A hearth's copy that a mark holds back at a block (R449). -/
def State.copyWaiter (s : State) (m r : Nat) (x : HExec) : Option Waiter :=
  match x.waitFrom, x.heldBy with
  | some n, some (c, i) =>
    if c ≠ m then none
    else some { since := n, key := roomKey r, ranges := [(64 * i, 64)], ready := !(s.cell m).spad.hiddenIn (16 * i) 16 none }
  | _, _ => none

/-- The accesses that wait at a scratchpad: operations, fills and hearth copies (R189). -/
def State.waiters (s : State) (m : Nat) : List Waiter :=
  s.ops.flatMap (s.opWaiters m) ++ s.fills.filterMap (s.fillWaiter m)
    ++ s.rooms.filterMap fun r => r.2.hearth.exec.bind (s.copyWaiter m r.1)

/-- Whether one waiting access began before another: of those that began in one tick the first in the order of the tick (R127, R189). -/
def Waiter.before (a b : Waiter) : Bool :=
  decide (a.since < b.since) || (a.since == b.since && (decide (a.key < b.key) || (a.key == b.key && decide (a.num < b.num))))

/-- Whether an access that has waited longer for one of the bytes of `w` can be served now (R189). -/
def State.waitsBefore (s : State) (m : Nat) (w : Waiter) : Bool :=
  (s.waiters m).any fun p => p.before w && rangesMeet p.ranges w.ranges && p.ready

/-- Whether an access that waits at the same scratchpad bytes since earlier can be served now (R189). -/
def State.servedFirst (s : State) (o : Op) : Bool :=
  o.spad.any fun m =>
    s.waitsBefore m { since := if o.phase = .waiting then o.since else s.clock.tick + 1, key := s.keyOf (s.taskOf o) o, num := o.id,
                      ranges := s.touched o }

/-! ### Blocks -/

/-- The operation of one block of a copy, as the translation and set rules see it. -/
def Op.oneBlock (o : Op) (i : Nat) : Op := { o with ea := (o.ea + 64 * i) % 2 ^ 48, len := 64, left := [0] }

/-- Pays the surcharge of a block whose translation was missing at the firing: 8 mu if it is read from the cellar
(R361). -/
def State.payBlock (s : State) (t : Task) (o : Op) (i : Nat) (go : State → State) : State :=
  if !o.vdata.getLsbD i then go s
  else
    let clear (st : State) : State := st.updOp o.id fun p => { p with vdata := p.vdata &&& ~~~(1#1024 <<< i) }
    if o.opc ≠ 0x51 ∧ s.level (s.phys t (o.ea + 64 * i)) = .cellar ∧ (s.entryOf t).mmode = false then
      match s.payEngine t o.cell o.payKey 8 with
      | .paid s1 => go (clear s1)
      | .stalled s1 => s1
      | .stopped s1 => s1
    else go (clear s)

/-- What stands before one block of a copy (R189, R266, R278, R363). -/
def State.blockAttempt (s : State) (o : Op) (i : Nat) (go : Task → State → State) : State :=
  match s.task? o.task with
  | none => s
  | some t =>
    if !(o.left.contains i) || o.phase == .waitSet || o.phase == .held || !s.mayGo o then s
    else
      match o.spad with
      | some m =>
        let as := s.arrivals t (o.oneBlock i)
        if s.retained (.spad m) then s.beginExit [.spad m]
        else if o.phase == .issued && s.tooLate as then s
        else
          let s1 := s.arrive as
          if s1.servedFirst (o.oneBlock i) then s1 else go t s1
      | none => (s.virtAttempt t (o.oneBlock i) fun s1 => s1.payBlock t o i (go t))

/-- One block fewer to go; after the last, the operation is performed. It goes on waiting while a mark holds another block back. -/
def State.blockDone (s : State) (o : Op) (i : Nat) (last : State → State) : State :=
  let rest := o.left.filter fun k => k != i
  let waits := o.phase == .waiting && o.spad.any fun m => !(s.waitWords { o with left := rest } m).isEmpty
  let s1 := s.updOp o.id fun p => { p with left := rest, phase := if waits then .waiting else .issued }
  if rest.isEmpty then last (s1.perform o id) else s1

/-- The members that a copy fills. -/
def State.copyCells (s : State) (t : Task) (o : Op) : List Nat :=
  if o.opc = 0x52 then (mget (s.cell o.cell).mcast (o.f.dst.toNat / 8) []).map fun p => t.cellAt p.1 p.2 else [o.cell]

/-- Whether an operation is a copy into tile slots. -/
def isFill (o : Op) : Bool := o.opc == 0x50 || o.opc == 0x52

/-- TILE_BLOCK_ARRIVE (R379, R381): a block with its tag arrives; after the last the slot is READY, from the next step on (R183). -/
def execTileBlockArrive (id block : Nat) (s : State) : Host.Outcome State Fault Refusal :=
  .next (match s.op? id with
    | none => s
    | some o =>
      if !isFill o then s
      else s.blockAttempt o block fun t s0 =>
        let o1 := (s0.op? id).getD o
        let tg : Target := { spad := o.spad, ea := if o.spad.isSome then o.ea + 64 * block
          else (o.ea + 64 * block) % 2 ^ 48 }
        let b := s0.readBlock t o.cell tg
        let cells := s0.copyCells t o
        let s1 := foldState cells s0 fun c st => st.updCell c fun cl =>
          let k := cl.tile (dstSlot o.f)
          cl.setTile (dstSlot o.f) { k with blocks := mset k.blocks block b }
        let s2 := if o.spad.isNone then s1.watchRead t 2 o.cell o.elem tg.ea 64 else s1
        s2.blockDone o1 block fun st => foldState cells st fun c s3 => (s3.endStep c).updCell c fun cl =>
          cl.setTile (dstSlot o.f) { cl.tile (dstSlot o.f) with st := .ready })

/-- The first counting word of the blocks that a TSTORE to a scratchpad has left (R187, R380). -/
def State.storeCounting (s : State) (o : Op) (t : Task) (m : Nat) : Option Nat :=
  o.left.findSome? fun i => (s.cell m).spad.countingIn ((o.ea + 64 * i) / 4) 16 (some t.id)

/-- One block of a TSTORE is performed or enters the vestibule (R380). -/
def State.storeBlock (s : State) (o : Op) (t : Task) (i : Nat) : Perf :=
  let b := mget ((s.cell o.cell).tile (dstSlot o.f)).blocks i {}
  match o.spad with
  | some m =>
    let p := (s.cell m).spad
    let a := o.ea + 64 * i
    match s.storeCounting o t m with
    | some w => .fault (countingFault w)
    | none =>
      if s.storeWaits o t m i then .wait
      else s.spadPut t m (p.writeBlock (s.writerOf t) (a / 64) b)
  | none =>
    s.storePieces t o.cell { s.elemAgent 2 t o.cell o.elem with elem := 0xFF }
      [((o.ea + 64 * i) % 2 ^ 48, natToBytes 64 b.data.toNat, some b.tag)]

/-- One block of a TSTORE is offered; after the last the slot is READY again (R380). -/
def State.storeTile (s : State) (o : Op) (block : Nat) : State :=
  s.blockAttempt o block fun t s0 =>
    let o1 := (s0.op? o.id).getD o
    match s0.storeBlock o1 t block with
    | .ok s1 _ => s1.blockDone o1 block fun st => (st.endStep o.cell).updCell o.cell fun cl =>
        cl.setTile (dstSlot o.f) { cl.tile (dstSlot o.f) with st := .ready }
    | .wait => s0.await o1
    | .fault a => s0.raiseOp o1 a
    | .stop s1 => s1

/-- TILE_BLOCK_PERFORMED (R380). -/
def execTileBlockPerformed (id block : Nat) (s : State) : Host.Outcome State Fault Refusal :=
  .next (match s.op? id with
    | none => s
    | some o => if o.opc ≠ 0x51 then s else s.storeTile o block)

end Sys2Proof.Machine
end

