-- ==== Sys2Proof/Machine/Home.lean ====
section
/-! DEFINITION. The events of operations under way: access at a home (R240), the fill and arrival of an ATOMX (R376), retries (R189, R364), walks and wakes (R266,
R267), requests of atomic sets (R123, R166), completions (R362, R392), edge ports (R320), arriving tokens (R177, R179),
the drain of a commit (R160, R161), and the limits of holds and waits (R14, R20, R122). -/

namespace Sys2Proof.Machine

/-! ### Edge ports (R181, R319, R320) -/

/-- Changes an edge port of a cell. -/
def State.updEdge (s : State) (c p : Nat) (f : Edge → Edge) : State :=
  s.updCell c fun cl => { cl with edges := mset cl.edges p (f (cl.edge p)) }

/-- The address of an edge port's next access (R320). -/
def State.edgeAddr (s : State) (c p : Nat) : Nat :=
  let g := (s.cell c).edge p
  (g.base + ((s.cell c).ctr g.ctr).value.toNat) % 2 ^ 48

/-- The bytes of an edge port's access, as a slot's SIZE gives them. -/
def Edge.slot (g : Edge) : Slot := { src2 := BitVec.ofNat 5 g.size }

/-- The destinations of an inbound edge port. -/
def State.edgeDests (s : State) (c p : Nat) : List Dest := if ((s.cell c).edge p).out then [] else (s.cell c).port (4 + p)

/-- The fault of an edge port's next access: alignment, then the bindings (R181, R320). -/
def State.edgeFault (s : State) (t : Task) (c p : Nat) : Option AddrFault :=
  let g := (s.cell c).edge p
  let ea := s.edgeAddr c p
  let n := sizeBytes g.slot
  if ea % n ≠ 0 then some { code := 0x05, sub := sizeCode n, info := ea }
  else s.bindCheck t { ea := ea } n (if g.out then .store else .load)

/-- The debit of an edge port's next access: the counter step, the row of its level and the crossings of its token (R181, R320). -/
def State.edgeCost (s : State) (t : Task) (c p : Nat) : Nat :=
  8 + (s.accessRow t (s.edgeAddr c p)).1 + 4 * crossings t c (s.edgeDests c p)

/-- Starts one access of an edge port: the address, its checks, the debit of the counter step and of the access, the
advance of the counter set (R181, R320). -/
def State.edgeStart (s : State) (t : Task) (c p : Nat) : State :=
  let cl := s.cell c
  let g := cl.edge p
  let ea := s.edgeAddr c p
  match s.edgeFault t c p with
  | some a => s.raiseNode t.id c 8 a
  | none =>
    (s.payEngine t c (256 + p) (s.edgeCost t c p)).step t.id fun s1 =>
      let s2 := ((s1.reserve t (s.edgeDests c p)).updEdge c p fun e =>
        { e with count := g.endValue + 1, ended := false }).advanceCtr t c g.ctr
      let k := s2.fresh
      let o : Op := { id := k.1, inj := k.1, sent := s.clock.tick, cell := c, elem := edgeElem p,
                      opc := if g.out then 0x101 else 0x102, f := g.slot, task := t.id, ea := ea, len := sizeBytes g.slot,
                      short := (s.accessRow t ea).2, args := if g.out then [(g.inq.q.headD {}).val] else [] }
      ({ k.2 with ops := k.2.ops ++ [o] }).updEdge c p fun e =>
        { e with op := some k.1, inq := if g.out then { e.inq with q := e.inq.q.drop 1 } else e.inq }

/-- Ends an access of an edge port that is performed: an inbound one emits its element (R320). -/
def State.edgeFinish (s : State) (t : Task) (c p : Nat) (o : Op) : State :=
  let g := (s.cell c).edge p
  let ds := if g.out then [] else (s.cell c).port (4 + p)
  (((s.unreserve t ds).send t c ds { val := o.r }).delOp o.id).updEdge c p fun e => { e with op := none }

/-- The tag-5 token of an inbound port whose counter set has entered DONE, after the elements of that run (R320). -/
def State.edgeEnd (s : State) (t : Task) (c p : Nat) : State :=
  let ds := (s.cell c).port (4 + p)
  if !s.space t ds then s
  else (s.payEngine t c (256 + p) (4 * crossings t c ds)).step t.id fun s1 =>
    (s1.send t c ds { val := BitVec.ofNat 32 (((s.cell c).edge p).ends.headD 0), tag := 5 }).updEdge c p fun e =>
      { e with ends := e.ends.drop 1 }

/-- Whether an edge port may start an access (R181, R320); none does while the gang's sources are gated (R201, R268). -/
def State.edgeMay (s : State) (t : Task) (c p : Nat) : Bool :=
  let cl := s.cell c
  let g := cl.edge p
  let k := cl.ctr g.ctr
  k.started && !k.isDone && t.gate == .none
    && (if g.out then !g.inq.q.isEmpty && (g.inq.q.headD {}).tag != 7 else s.space t (cl.port (4 + p)))

/-- The debit of what an edge port waits to do: the end of a run, or an access (R134, R181, R320). -/
def State.edgeDebit (s : State) (t : Task) (c p : Nat) : Option Nat :=
  match mfind (s.cell c).edges p with
  | none => none
  | some g =>
    let ds := (s.cell c).port (4 + p)
    if g.op.isSome then none
    else if !g.ends.isEmpty then
      (if (t.gate == .none || t.gate == .switch) && s.space t ds then some (4 * crossings t c ds) else none)
    else if s.edgeMay t c p && !s.allDone t && (s.edgeFault t c p).isNone then some (s.edgeCost t c p)
    else none

/-- EDGE_PORT_ADVANCE (R320). The tag-5 tokens of runs that are over leave under a switch too, ahead of its mark (R202). -/
def execEdgePortAdvance (cell port : Nat) (s : State) : Host.Outcome State Fault Refusal :=
  .next (match s.engineTask cell 8 with
    | none => s
    | some t =>
      match mfind (s.cell cell).edges port with
      | none => s
      | some g =>
        match g.op with
        | some i =>
          match s.op? i with
          | none => s.updEdge cell port fun e => { e with op := none }
          | some o => if o.phase = .performed then s.edgeFinish t cell port o else s
        | none =>
          if !g.ends.isEmpty then (if t.gate = .none ∨ t.gate = .switch then s.edgeEnd t cell port else s)
          else if s.edgeMay t cell port && !s.allDone t then s.edgeStart t cell port
          else s)

/-! ### Access at a home (R240, R364) -/

/-- A message arrives at the homes of some physical pieces: not while one has no route or lies in an array in retention, whose
exit then begins, nor after a later requester of the tick; the slices there have an access (R20, R44, R45, R240). -/
def State.arriveAt (s : State) (pieces : List (Nat × Nat)) (key : Nat) (go : State → State) : State :=
  let sleeping := pieces.flatMap fun r => s.retainedIn r.1 r.2
  let as := s.memArrivals pieces key
  if pieces.any fun r => !s.routed r.1 then s
  else if !sleeping.isEmpty then s.beginExit sleeping
  else if s.tooLate as then s
  else go ((s.arrive as).useRanges pieces)

/-- A message of no operation reaches its homes: behind the earlier messages of its ways, and in the order of the tick (R9, R240). -/
def State.sendTo (s : State) (ways : List Leg) (pieces : List (Nat × Nat)) (key : Nat) (go : State → State) : State :=
  if s.pathBusy [] s.clock.nextId ways then s else s.arriveAt pieces key go

/-- What is left of a scratchpad write of an UNGUARDED task that has vanished is performed, with nobody to answer to: a write to a
counting word is dropped, and one that meets a tentative mark waits for it (R158, R270, R274). -/
def State.performGhost (s : State) (o : Op) (k : Orphan) (m : Nat) : State :=
  let t := o.ghost k
  let p := (s.cell m).spad
  let waits : State := s.updOp o.id fun q => { q with phase := .waiting, since := if q.phase = .waiting then q.since else s.clock.tick }
  if isStore o.opc then
    let ws := k.pieces.flatMap fun q => wordsIn q.1 q.2.1.length
    if s.ghostWaits o k m then waits
    else if ws.any fun w => (p.wst w).counting then s.delOp o.id
    else
      let put (st : Option Spad) (q : Nat × List Byte × Option (BitVec 16)) : Option Spad := st.bind fun a =>
        (a.writeBytes none q.1 q.2.1).bind fun b =>
          match q.2.2 with
          | some tag => b.writeTag none (q.1 / 64) tag
          | none => some b
      ((s.setSpad m ((k.pieces.foldl put (some p)).getD p)).delOp o.id).wakeParks
  else
    match s.performOp o t with
    | .ok s1 _ => ((s1.updCell m fun cl => { cl with spad := cl.spad.settle t.id }).delOp o.id).wakeParks
    | .wait => waits
    | _ => s.delOp o.id

/-- What is left of an operation whose task has vanished reaches its home: a scratchpad in the order of its accesses, or the homes of
its pieces behind the earlier messages of its way (R9, R21, R189, R274). -/
def State.homeOrphan (s : State) (o : Op) (k : Orphan) : State :=
  match o.spad with
  | some m =>
    let as := s.arrivals (o.ghost k) o
    if s.retained (.spad m) then s.beginExit [.spad m]
    else if o.phase == .issued && s.tooLate as then s
    else
      let s1 := s.arrive as
      if s1.servedFirst o then s1 else s1.performGhost o k m
  | none =>
    if s.overtakes o then s
    else s.arriveAt (k.pieces.map fun p => (p.1, max 4 p.2.1.length)) (homeKey o.cell o.elem) fun s1 => s1.performOrphan o k

/-- One access of an operation at its home; a SPAWN reads its body after the tick of its firing (R359). -/
def State.homeOp (s : State) (o : Op) : State :=
  if !(o.atHome || o.orphan.isSome) || o.phase == .held || o.phase == .waitSet || o.phase == .performed || s.limitPassed o then s
  else
    match o.combo, o.orphan with
    | some k, _ =>
      match s.combos.find? fun (j : Combo) => j.id == k with
      | some j => s.arriveAt [(j.pa, 4)] (homeKey o.cell o.elem) fun s1 => s1.performCombo j
      | none => s
    | none, some k => s.homeOrphan o k
    | none, none =>
      if o.opc = 0xF6 ∧ (o.sent = s.clock.tick ∨ o.undo.isSome = true) then s
      else if o.isAtom then s.attempt o fun _ s1 => s1.performAtom ((s1.op? o.id).getD o)
      else if o.placeless then
        match s.task? o.task with
        | some t => if o.replay then s else s.settle o (s.performOp o t)
        | none => s
      else s.attempt o fun t s1 =>
        let o1 := (s1.op? o.id).getD o
        if o.opc = 0xF6 then s1.performSpawn o1 t
        else if s1.servedFirst o1 then s1
        else s1.settle o1 (s1.performOp o1 t)

/-! ### The fill and arrival of an ATOMX (R376) -/

/-- The fill of a word, which wakes every PARK entry on it; a counting word is not filled, and the loss is recorded (R124, R376). -/
def State.fillWord (s : State) (k : Fill) : State :=
  let m := handleCell k.handle
  let w := handleWord k.handle
  let p := (s.cell m).spad
  if (p.wst w).counting then s.logLost k.handle 0
  else ((s.setSpad m (p.setWord w k.val { full := true })).wakeWord m w).wakeParks

/-- The arrival on a counting word; on another word it is not made, and the loss is recorded (R376). -/
def State.arriveWord (s : State) (k : Fill) : State :=
  let m := handleCell k.chandle
  let w := handleWord k.chandle
  let p := (s.cell m).spad
  if !(p.wst w).counting then s.logLost k.chandle 1
  else
    let v := p.word w
    (s.setSpad m (p.setWord w (if v = 0xFFFFFFFF then v else v + 1) (p.wst w))).wakeParks

/-- Changes a fill. -/
def State.updFill (s : State) (id : Nat) (f : Fill → Fill) : State :=
  { s with fills := s.fills.map fun k => if k.id = id then f k else k }

/-- What follows a fill: its arrival, a message of the target cell (R9), or nothing. -/
def State.fillDone (s : State) (k : Fill) : State :=
  if k.filled || k.chandle == 0xFFFFFFFF then { s with fills := s.fills.filter fun j => j.id != k.id }
  else
    let n := s.fresh
    n.2.updFill k.id fun j =>
      { j with filled := true, src := some (wingOfCell (handleCell k.handle)), inj := n.1, since := none }

/-- A fill or arrival is made at its word, unless a tentative mark or an access that has waited longer holds it back (R158, R189). -/
def State.fillAt (s : State) (k : Fill) : State :=
  let m := handleCell k.target
  let w := handleWord k.target
  let me : Waiter := { since := k.since.getD (s.clock.tick + 1), key := k.key, num := k.id, ranges := [(4 * w, 4)] }
  if ((s.cell m).spad.tentBy w).isSome then s.updFill k.id fun j => { j with since := some (k.since.getD s.clock.tick) }
  else if s.waitsBefore m me then s
  else (if k.filled then s.arriveWord k else s.fillWord k).fillDone k

/-- ATOMX_FILL (R376): first the fill, then the arrival. Each comes behind the earlier messages of its way and in the order of the
tick at its word, and waits while the scratchpad is in retention, whose exit it begins (R9, R45, R189). -/
def execAtomxFill (fill : Nat) (s : State) : Host.Outcome State Fault Refusal :=
  .next (match s.fills.find? fun k => k.id == fill with
    | none => s
    | some k =>
      let m := handleCell k.target
      let as : List Served := [{ home := spadHome m, lo := 4 * handleWord k.target, len := 4, key := k.key }]
      if s.retained (.spad m) then s.beginExit [.spad m]
      else if k.since.isNone && (s.pathBusy [k.id] k.inj k.legs || s.tooLate as) then s
      else (s.arrive as).fillAt k)

/-! ### The drain of a commit (R160, R161) -/

/-- Poisons the block that holds an address (R161, R220). -/
def State.poisonBlock (s : State) (pa : Nat) : State :=
  s.putTag pa (BitVec.ofNat 16 (tagFmt (s.physTag pa) + 256 * 0x80))

/-- One reduction record, or a combined one, performed at its home; one whose block is poisoned is not (R161, R218, R374). -/
def State.drainAt (s : State) (pa : Nat) (op : BitVec 3) (val : Nat) (ag : Agent) : State :=
  if tagPoison (s.physTag pa) then s.logError pa 1
  else
    let n := if op.toNat = 1 then 16 else 4
    let z := redApply op (s.physLE pa n) val
    ((s.putBytes pa (natToBytes n z.1)).countXovf pa (bit z.2)).homeWatch pa n true ag

/-- The reduction records of a vestibule without those of a combined request. -/
def dropCombined (k : Nat) (v : List VEntry) : List VEntry :=
  (v.map fun e =>
    match e with
    | .reds rs => .reds (rs.filter fun r => r.combo != some k)
    | e => e).filter fun e => e != .reds []

/-- One reduction record of a line: with the others of its combined request as one action, if a router has combined it (R252). -/
def State.drainRed (s : State) (r : Red) (ag : Agent) : State :=
  match r.combo with
  | none => s.drainAt r.pa r.op r.val ag
  | some i =>
    match s.combos.find? fun (j : Combo) => j.id == i with
    | none => s
    | some k =>
      let s1 := s.drainAt k.pa r.op k.val ag
      { s1 with combos := s1.combos.filter fun (j : Combo) => j.id != i,
                cells := s1.cells.map fun p => (p.1, { p.2 with vest := dropCombined i p.2.vest }) }

/-! ### The SRAM rail (R42, R43) -/

/-- A rail. -/
def State.rail (s : State) (i : Nat) : Rail := mget s.power.rails i {}

/-- Changes the power controls. -/
def State.updPower (s : State) (f : Power → Power) : State := { s with power := f s.power }

/-- Changes a rail. -/
def Power.updRail (p : Power) (i : Nat) (f : Rail → Rail) : Power := { p with rails := mset p.rails i (f (mget p.rails i {})) }

/-- The rail when its step completes; STATUS is that of the last request (R36, R37). -/
def Rail.finish (r : Rail) (volt freq : Nat) : Rail :=
  { r with volt := volt, freq := freq, step := none,
           status := if r.status = 0x01 ∧ r.pending.isNone then 0x00 else r.status }

/-- A request of the SRAM rail that is kept when undervolting is refused. -/
def keepAbove : Option (Nat × Nat) → Option (Nat × Nat)
  | some q => if q.1 < 750 then none else some q
  | none => none

/-- The SRAM rail at a rollback: a step that has begun completes (R37), the rail returns to its last safe point, and a pending
request for less than 750 mV is refused. -/
def Rail.rolledBack (r : Rail) (safe : Nat) : Rail :=
  let done : Rail := match r.step with
    | some p => r.finish p.1 p.2
    | none => r
  { done with volt := safe, pending := keepAbove r.pending,
              status := if keepAbove r.pending = r.pending then done.status else 0x02 }

/-- The rail back at its last safe point, and further undervolting refused (R43). -/
def Power.rollback (p : Power) : Power :=
  { p.updRail 2 fun (r : Rail) => r.rolledBack p.safe with locked := true, steady := false }

/-- A page that the lodge retires (R272). -/
def State.retirePage (s : State) (pa : Nat) : State :=
  let page := pa / 65536 * 65536
  if s.lodge.retired.contains page then s else { s with lodge := { s.lodge with retired := s.lodge.retired ++ [page] } }

/-- Whether the SRAM rail is below 750 mV (R43). -/
def State.lowSram (s : State) : Bool := decide ((s.rail 2).volt < 750)

/-- An uncorrectable error that a drain meets at a home: the block is poisoned and the error logged (R161). -/
def State.drainError (s : State) (pa : Nat) : State := (s.poisonBlock pa).logError pa 0

/-- One that it meets in the landing below 750 mV: the rail returns to its safe point, where the home reads the word again; by a free
value the error lasts, and the page is retired (R43). The task commits all the same (R161). -/
def State.drainErrorLow (s : State) (pa : Nat) : State :=
  let f := ({ s with power := s.power.rollback } : State).free
  if f.1.getLsbD 0 then (f.2.drainError pa).retirePage pa else f.2

/-- The physical ranges that an entry writes. -/
def VEntry.pieces : VEntry → List (Nat × Nat)
  | .line pa _ _ _ => [(pa, 64)]
  | .reds rs => rs.map fun r => (r.pa, if r.op.toNat = 1 then 16 else 4)
  | .spawn _ _ => []

/-- The homes of an entry at which the drain meets an uncorrectable error (R43, R161). -/
def State.drainErrors (s : State) (e : VEntry) (ue : List Nat) : State :=
  foldState (ue.filterMap fun i => e.pieces[i]?) s fun p st =>
    if s.lowSram && s.level p.1 == .landing then st.drainErrorLow p.1 else st.drainError p.1

/-- One vestibule entry performed at its home by the commit drain of a cell. -/
def State.drainEntry (s : State) (t : Task) (c : Nat) (ue : List Nat) (e : VEntry) : State :=
  let ag : Agent := s.elemAgent 1 t c 0xFF
  let s1 := match e with
    | .line pa mask data tag =>
      let s1 := s.putMasked pa mask data
      let s2 := match tag with
        | some k => s1.putTag pa k
        | none => s1
      s2.homeWatch pa 64 true ag
    | .reds rs => foldState rs s fun r st => st.drainRed r ag
    | .spawn _ _ => s
  s1.drainErrors e ue

/-- Whether an entry is a held spawn. -/
def VEntry.isSpawn : VEntry → Bool
  | .spawn _ _ => true
  | _ => false

/-- The next message of a vestibule: a line, or one record of a line of records; held spawns send none (R156, R160). -/
def nextOut (v : List VEntry) : Option VEntry :=
  match v.find? fun e => !e.isSpawn with
  | some (.reds (r :: _)) => some (.reds [r])
  | e => e

/-- A vestibule whose next message has left. -/
def dropOut (v : List VEntry) : List VEntry :=
  v.takeWhile VEntry.isSpawn ++
    match v.dropWhile VEntry.isSpawn with
    | .reds (_ :: r :: rs) :: es => .reds (r :: rs) :: es
    | es => es.drop 1

/-- The ways on which a drain's message goes. -/
def State.entryLegs (s : State) (c : Nat) (e : VEntry) : List Leg :=
  s.legsTo (wingOfCell c) (match e with
    | .reds _ => 2
    | _ => 1) e.pieces

/-- The combined request of which a drain's message is a part (R252). -/
def VEntry.combo : VEntry → Option Nat
  | .reds (r :: _) => r.combo
  | _ => none

/-- The next message of a committing task's cell, in allocation order (R9, R160, R240); a combined one was injected when a router
combined it. Its place in a tick is after the elements of its cell; log entry 2. -/
def State.drain (s : State) (c : Nat) (ue : List Nat) : State :=
  match s.owner? c with
  | none => s
  | some t =>
    if t.st ≠ .committing then s
    else
      match nextOut (s.cell c).vest with
      | none => s
      | some e =>
        if s.pathBusy e.combo.toList (e.combo.getD s.clock.nextId) (s.entryLegs c e) then s
        else
          s.arriveAt e.pieces (homeKey c 0xFF) fun s1 =>
            (s1.updCell c fun cl => { cl with vest := dropOut cl.vest }).drainEntry t c ue e

/-- HOME_ACCESS (R240). -/
def execHomeAccess (target : AccessTarget) (s : State) : Host.Outcome State Fault Refusal :=
  .next (match target with
    | .op id =>
      match s.op? id with
      | some o => s.homeOp o
      | none => s
    | .drain c ue => s.drain c ue)

/-- WAIT_RETRY (R364): a tile copy that waits is offered its first block again, any other operation is performed anew. -/
def execWaitRetry (id : Nat) (s : State) : Host.Outcome State Fault Refusal :=
  .next (match s.op? id with
    | none => s
    | some o =>
      if o.phase ≠ .waiting then s
      else if o.opc = 0x51 then s.storeTile o (o.left.headD 0)
      else s.homeOp o)

/-! ### Completions (R362, R392) -/

/-- Whether a message between the same two wings, injected before the reply of this operation, has not been delivered (R9). -/
def State.replyBehind (s : State) (o : Op) : Bool := s.pathBusy [o.id] o.inj (s.replyLegs o)

/-- MEM_OP_COMPLETE (R9, R17, R362). -/
def execMemOpComplete (id : Nat) (s : State) : Host.Outcome State Fault Refusal :=
  .next (match s.op? id with
    | none => s
    | some o =>
      if s.completable o = true ∧ ((0x40 ≤ o.opc ∧ o.opc < 0x78) ∨ o.opc = 0xCC) ∧ s.replyBehind o = false then s.writeback o
      else s)

/-- ENGINE_WRITEBACK (R392, R425): the vector operations of one element write back in the order of their issue. -/
def execEngineWriteback (id : Nat) (s : State) : Host.Outcome State Fault Refusal :=
  .next (match s.op? id with
    | none => s
    | some o =>
      if s.completable o = true ∧ (isVecOp o.opc = true ∨ (0xD0 ≤ o.opc ∧ o.opc ≤ 0xDC)) ∧ s.replyBehind o = false then
        s.writeback o
      else s)

/-! ### Walks and wakes (R266, R267) -/

/-- Whether an operation is held for a page by a task of a room in an address space. -/
def State.heldFor (s : State) (r asid page : Nat) (o : Op) : Bool :=
  o.phase == .held && o.heldPage == page && (s.task? o.task).any fun t => t.room == r && s.asidOf t == asid

/-- Walks begun for the held accesses whose page no walk is in flight for: those that found all 256 in use (R266). -/
def State.startWalks (s : State) : State :=
  foldState (s.ops.filter fun o => o.phase == .held && !o.reported) s fun o st =>
    match st.task? o.task with
    | some t => st.updRoom t.room fun r => r.beginWalk (st.asidOf t) o.heldPage
    | none => st

/-- WALK_COMPLETE (R266, R267): the accesses that joined are retried in the order in which they were held; a page that is not
present, or may not be written, is reported once; a walk that reads a poisoned block of a table faults POISON for each (R224, log
entry 66). A walk waits for a slice in retention that holds a table (R45). -/
def execWalkComplete (room asid va : Nat) (s : State) : Host.Outcome State Fault Refusal :=
  .next (
    let page := va / 65536 * 65536 % 2 ^ 48
    if !(s.room room).walks.contains (asid, page) then s
    else if !(s.walkAsleep asid page).isEmpty then s.beginExit (s.walkAsleep asid page)
    else
      let s0 := (s.walkUse asid page).updRoom room fun r => { r with walks := r.walks.filter fun w => w != (asid, page) }
      let held := s0.ops.filter (s0.heldFor room asid page)
      let report (st : State) (os : List Op) : State :=
        match os with
        | [] => st
        | o :: _ =>
          if s0.pageReported asid page then st
          else st.pageReport (st.task o.task) (cellX o.cell) (cellY o.cell) asid (o.vaIn page) (writesMem o.opc)
      let ids (os : List Op) : List Nat := os.map (·.id)
      let s2 := match s0.walkPoison asid page, s0.walk asid page with
        | some a, _ => foldState held s0 fun o st => st.raiseOp o (poisonFault a)
        | none, none =>
          let s1 := report s0 held
          { s1 with ops := s1.ops.map fun (o : Op) =>
              if (ids held).contains o.id then { o with reported := true } else o }
        | none, some p =>
          let stay := held.filter fun (o : Op) => writesMem o.opc && !p.wr
          let s1 := report (s0.updRoom room fun r => r.tlbEnter asid p) stay
          { s1 with ops := s1.ops.map fun (o : Op) =>
              if (ids stay).contains o.id then { o with wrHeld := true, reported := true }
              else if (ids held).contains o.id then { o with phase := .issued, heldAt := none, wrHeld := false,
                                                              reported := false, retry := true }
              else o }
      s2.startWalks)

/-- Ten milliseconds in quarter nanoseconds (R14, R20). -/
def tenMs : Nat := 40000000

/-- PAGE_TIMEOUT (R14, R113, R488): ten milliseconds from the first hold of an access, or of a prefetch or an argument read of which
some page has not been woken. -/
def execPageTimeout (s : State) : Host.Outcome State Fault Refusal :=
  .next (
    let id := s.cur.subject
    let due (q : Nat) : Bool := decide (q + tenMs ≤ s.clock.tbase)
    match s.task? id with
    | none => s
    | some t =>
      if (s.ops.any fun o => o.task == id && o.phase == .held && o.heldAt.any due)
          || (t.st == .staged && t.pfHeld.any due && !t.argReported.isEmpty) then s.vanish id .page
      else if t.st == .queued && t.argHeld.any due && !t.argReported.isEmpty then s.argFail t 0x09
      else s)

/-- LINK_TIMEOUT (R20): an access has found no route for ten milliseconds, or the prefetch of the staged task that the
number names has. -/
def execLinkTimeout (id : Nat) (s : State) : Host.Outcome State Fault Refusal :=
  .next (match s.op? id with
    | none =>
      if (s.task? id).any fun t => t.st == .staged && t.pfNoRoute.any fun q => decide (q + tenMs ≤ s.clock.tbase)
      then s.vanish id .link else s
    | some o =>
      match s.task? o.task with
      | none => s
      | some t =>
        if o.phase != .performed && (o.noRoute.any fun q => decide (q + tenMs ≤ s.clock.tbase))
            && (s.physPieces t o.ranges).any (fun r => !s.routed r.1) then s.vanish t.id .link
        else s)

/-! ### Atomic sets (R123, R166, R167) -/

/-- An operation waits for a set in a SET entry; a full wait table makes it try again later (R123). -/
def State.waitInSet (s : State) (t : Task) (o : Op) (k : Nat × Nat) : State :=
  if (s.room t.room).waitTab.length ≥ 64 then s.updOp o.id fun p => { p with since := s.clock.tick + 1 }
  else
    let s1 := s.updRoom t.room fun r => { r with waitTab := r.waitTab ++ [.set o.id] }
    { s1 with locks := s1.locks.map fun (l : Lock) =>
        if l.ctn = k.1 ∧ l.set = k.2 then { l with waiters := l.waiters ++ [o.id] } else l }

/-- A request reaches a lock entry (R166) behind the earlier messages of its way (R9); those of one tick are settled oldest first
(R167), and a landing slice in retention that holds the entry makes it wait (R44, R45). A request that is made again, since it found
the wait table full, is injected anew (R123). -/
def State.setRequest (s0 : State) (o : Op) : State :=
  match s0.task? o.task with
  | none => s0
  | some t =>
    match s0.nextSet t o.ranges with
    | none => s0.updOp o.id fun p => { p with phase := .issued }
    | some k =>
      let pa := s0.lockPa t k
      let asleep := (pa.map fun a => s0.retainedIn a 64).getD []
      let n := if o.since = 0 then o.inj else s0.clock.nextId
      if !asleep.isEmpty then s0.beginExit asleep
      else if s0.pathBusy [o.id] n (s0.setLegs t o) || s0.tooLate [s0.lockArrival t k] then s0
      else
      let s := (match pa with
        | some a => s0.useRange a 64
        | none => s0).arrive [s0.lockArrival t k]
      match s.locks.find? fun (l : Lock) => l.ctn == k.1 && l.set == k.2 with
      | none => ((s.inject o.id).updOp o.id fun p => { p with phase := .issued }).grantSet k.1 k.2 t.id
      | some l =>
        match l.holder.bind s.task? with
        | none => ((s.inject o.id).updOp o.id fun p => { p with phase := .issued }).grantSet k.1 k.2 t.id
        | some h =>
          if ageOlder t.age h.age && h.st != .committing then
            ({ s with locks := s.locks.map fun (x : Lock) =>
                if x.ctn = k.1 ∧ x.set = k.2 then { x with waiters := x.waiters ++ [o.id] } else x }).vanish h.id .wound
          else s.waitInSet t o k

/-- SET_REQUEST_ARRIVE (R166): the first arrival of a request. -/
def execSetRequestArrive (id : Nat) (s : State) : Host.Outcome State Fault Refusal :=
  .next (match s.op? id with
    | none => s
    | some o => if o.phase = .waitSet ∧ o.since = 0 ∧ s.atLock o = false ∧ o.replay = false then s.setRequest o else s)

/-- SET_RETRY (R123): a request that found the wait table full, 1,024 ticks later. -/
def execSetRetry (id : Nat) (s : State) : Host.Outcome State Fault Refusal :=
  .next (match s.op? id with
    | none => s
    | some o =>
      if o.phase = .waitSet ∧ o.since ≠ 0 ∧ o.since + 1024 ≤ s.clock.tick + 1 ∧ s.atLock o = false
          ∧ o.replay = false then s.setRequest o
      else s)

/-! ### Arriving tokens (R177, R179) -/

/-- CHANNEL_TOKEN_ARRIVE (R177). -/
def execChannelTokenArrive (cell elem input : Nat) (s : State) : Host.Outcome State Fault Refusal :=
  .next (s.updInputAt cell elem input fun x =>
    match x.transit with
    | [] => x
    | k :: ks => { x with q := x.q ++ [k], transit := ks })

/-- CONTROL_TOKEN_ARRIVE (R179, R180): an input of 8 + n is START of counter set n. -/
def execControlTokenArrive (cell elem input : Nat) (s : State) : Host.Outcome State Fault Refusal :=
  .next (
    let n := mget (s.elem cell elem).ctlIn input 0
    if n = 0 then s
    else (s.updElem cell elem fun el => { el with ctlIn := mput el.ctlIn input (n - 1) 0 }).controlArrive cell elem
      input)

/-! ### Limits of waits (R121, R122) -/

/-- INFO of WAIT_LIMIT, for the operation's word or queue in a scratchpad (R122). -/
def Op.waitInfo (o : Op) (p : Spad) : Nat :=
  let m := o.spad.getD 0
  let w := o.ea / 4
  let v := some o.task
  if o.opc = 0x55 ∨ o.opc = 0x56 then
    (p.viewWord (w + 1) v).toNat % 2 ^ 16 * 2 ^ 48 + (p.viewWord (w + 2) v).toNat % 2 ^ 16 * 2 ^ 32 + wordHandle m w
  else
    (p.viewWord w v).toNat % 2 ^ 16 * 2 ^ 48 + bit (p.viewSt w v).counting * 2 ^ 33
      + bit (wordFull (p.viewSt w v) (p.viewWord w v)) * 2 ^ 32 + wordHandle m w

/-- In the tick in which its limit expires an operation in place is tried once more at the tick's end, so that a condition met in
that tick wins; INFO keeps what stands then (R121, R122, R130). One that has been issued again after a restore and has not come back to
its word waits there from now on. -/
def State.lastTry (s : State) (o : Op) : State :=
  let s1 := s.homeOp o
  match s1.op? o.id with
  | some p =>
    if p.phase = .waiting ∨ p.phase = .issued then
      (s1.await p).updOp o.id fun q => { q with expInfo := some (p.waitInfo (s1.cell (p.spad.getD 0)).spad) }
    else s1
  | none => s1

/-- A withdrawn operation in the tick in which its limit expires: a condition met in that tick ends the wait, else INFO keeps what
stands then (R121, R122, R130). -/
def State.lastLook (s : State) (t : Task) (o : Op) : Op :=
  let m := o.spad.getD 0
  if s.retained (.spad m) || (s.performOp o t).waits then { o with expInfo := some (o.waitInfo (s.cell m).spad) }
  else { o with limit := none }

/-- The state as a saved context of a task sees a scratchpad: its own gang's is part of the context (R269). -/
def Ctx.view (k : Ctx) (s : State) (t : Task) (m : Nat) : State :=
  let u : Task := { t with room := k.room, x0 := k.x0, y0 := k.y0 }
  if u.holds m then s.setSpad m (mget k.cells (u.posOf m) {}).spad else s

/-- The waits whose limit is the tick that ends: in place, withdrawn, and in saved contexts (R121, R122). -/
def State.endWaits (s : State) : State :=
  let due (o : Op) : Bool :=
    (o.phase == .waiting || o.phase == .issued) && o.limit == some s.clock.tick && !s.paused (s.task o.task)
  let s1 := foldState (s.ops.filter fun o => due o && !o.replay) s fun o st => st.lastTry o
  { s1 with
    ops := s1.ops.map fun (o : Op) => if due o && o.replay then s1.lastLook (s1.task o.task) o else o
    tasks := s1.tasks.map fun t => { t with ctx := t.ctx.map fun k =>
      { k with ops := k.ops.map fun (o : Op) => if due o then (k.view s1 t (o.spad.getD 0)).lastLook t o else o } } }

/-- The end of a wait in place, after the tick of its expiry (R121, R122). -/
def State.waitExpires (s : State) (o : Op) : State :=
  s.raiseOp o { code := 0x0E, sub := o.opc, info := o.expInfo.getD (o.waitInfo (s.cell (o.spad.getD 0)).spad) }

/-- WAIT_LIMIT_EXPIRE (R122): the element traps; a parked task is staged again as if it had been woken. -/
def execWaitLimitExpire (id : Nat) (s : State) : Host.Outcome State Fault Refusal :=
  .next (
    let due (o : Op) : Bool := s.limitPassed o
    match s.op? id with
    | some o =>
      if o.phase = .waiting ∧ due o = true ∧ o.replay = false ∧ s.paused (s.task o.task) = false then s.waitExpires o
      else s
    | none =>
      match s.tasks.find? fun t => t.st == .parked && (t.ctx.any fun k => k.ops.any fun o => o.id == id && due o) with
      | none => s
      | some t => (s.updTask t.id fun k => { k with wake := true, run := .woken }).dropPark t.id)

end Sys2Proof.Machine
end

