-- ==== Sys2Proof/Machine/Lifecycle.lean ====
section
/-! DEFINITION. The events of a running task's life: top-ups and stops (R134, R135, R144 to R146), the commit point
(R160), traps (R254, R264), pre-emption and parking (R124, R200, R268), the age horizon (R96). -/

namespace Sys2Proof.Machine

/-! ### Meters -/

/-- Whether a meter's automatic trigger could ask again (R145, R146). -/
def Meter.autoAgain (m : Meter) : Bool := m.awm != 0 && decide (m.bal < m.awm) && decide (m.acnt < m.am)

/-- A meter after a grant of `mu` (R146). -/
def Meter.granted (m : Meter) (mu : Nat) : Meter :=
  let b := m.bal + mu
  { m with bal := b, topped := m.topped + mu, pend := false,
           st := if m.st = .pending ∨ (m.st = .stalled ∧ m.heldDebit ≤ b) then .paying else m.st }

/-- A meter after a denial (R144, R146). -/
def Meter.refused (m : Meter) : Meter :=
  { m with denied := true, pend := false, st := if m.st = .pending then .paying else m.st }

/-- A meter that a settlement leaves STALLED: a new automatic request, or the stop (R146). -/
def State.stillStalled (s : State) (t : Task) (c : Nat) (grant : Bool) : State :=
  let m := (s.cell c).meter
  if m.st ≠ .stalled then s
  else if grant && m.autoAgain then (s.updMeter c fun k => { k with acnt := k.acnt + 1 }).requestTopup t c m.an
  else s.meterStop t c m.heldDebit false

/-- Whether a request concerns an account. -/
def TopReq.names (q : TopReq) (acct : Nat) : Bool := q.acct == acct || q.dest == some acct

/-- The first request of a list to an account, and the others. -/
def takeReq (acct : Nat) : List TopReq → Option (TopReq × List TopReq)
  | [] => none
  | q :: qs => if q.names acct then some (q, qs) else (takeReq acct qs).map fun r => (r.1, q :: r.2)

/-- Whether a command in execution is the move of a number. -/
def HExec.moves (x : HExec) (n : Nat) : Bool :=
  match x.instr with
  | .topacct _ => x.task == n
  | _ => false

/-- A hearth's move between two accounts, settled: the amount moved is written back to the command that asked for it, if the hearth
still executes it (R171, R458); log entry 94. -/
def State.moveMu (s : State) (q : TopReq) (dest : Nat) : State :=
  let h := (s.room q.room).hearth
  let n := if q.acct = dest then 0 else min (mget h.h q.ha 0).toNat (s.acct q.acct).balance
  let s1 := s.updAcct q.acct fun a => { a with balance := a.balance - n }
  let s2 := s1.updAcct dest fun a => { a with balance := min (a.balance + n) (2 ^ 48 - 1) }
  s2.updRoom q.room fun r =>
    if r.hearth.exec.any fun x => x.moves q.task then
      { r with hearth := { r.hearth with
          h := mput r.hearth.h q.ha (BitVec.ofNat 64 n) 0, exec := r.hearth.exec.map fun x => { x with doneUnits := 1 } } }
    else r

/-- Whether a meter's figures take a grant: one that would carry BAL or TOPPED past 32 bits is a denial (R347). -/
def Meter.takesGrant (m : Meter) (mu : Nat) : Bool := decide (m.bal + mu < 2 ^ 32) && decide (m.topped + mu < 2 ^ 32)

/-- A top-up request settled: a grant or a denial (R144, R146, R347). The debits of a step do not see one that comes in it, so the
cell's next turn begins a new step. -/
def State.settleTopup (s : State) (q : TopReq) : State :=
  match s.task? q.task with
  | none => s
  | some t =>
    if (s.cell q.cell).owner ≠ some t.id then s
    else
      let mu := 64 * q.packets
      if (s.acct q.acct).canDraw mu && (s.cell q.cell).meter.takesGrant mu then
        (((s.updAcct q.acct fun a => a.draw mu).updMeter q.cell fun m => m.granted mu).endStep q.cell).stillStalled t q.cell true
      else ((s.updMeter q.cell Meter.refused).endStep q.cell).stillStalled t q.cell false

/-- The first request to an account is settled; a move between two accounts is settled once it is first at both (R143, R458). -/
def State.settleNext (s : State) (acct : Nat) : State :=
  match takeReq acct s.sched.reqs with
  | none => s
  | some (q, rest) =>
    let s1 := { s with sched := { s.sched with reqs := rest } }
    match q.dest with
    | none => s1.settleTopup q
    | some d =>
      let other := if q.acct = acct then d else q.acct
      if (takeReq other s.sched.reqs).map (·.1) = some q then s1.moveMu q d else s

/-- TOPUP_SETTLE (R143, R144, R458): requests to one account in the order in which they reached it. -/
def execTopupSettle (acct : Nat) (s : State) : Host.Outcome State Fault Refusal := .next (s.settleNext acct)

/-- Every request is settled within 64 ticks of its arrival (R143). -/
def State.settleOverdue (s : State) : State :=
  foldState (s.sched.reqs.filter fun q => decide (q.since + 64 ≤ s.clock.tick + 1)) s fun q st => st.settleNext q.acct

/-- The requests that have reached an account are settled before a draw that reaches it after them (R143), in the order of their
arrival: with them those before them at any account, for which a move between two accounts waits (R458). -/
def State.settleEarlier (s : State) (acct : Nat) : State :=
  let n := s.sched.reqs.length - (s.sched.reqs.reverse.takeWhile fun q => !q.names acct).length
  foldState (s.sched.reqs.take n) s fun q st => st.settleNext q.acct

/-- The debit of a firing that its address does not end (R137, R361). -/
def State.firingCost (s : State) (x : Fire) : Nat :=
  let op := x.op
  let n := ((s.elem x.c x.e).greg (x.f.src1.toNat + 1)).toNat
  let memory : Nat :=
    match windowAddr x.t x.c (windowNo x.f) (s.window x (windowNo x.f)) x.a 1 with
    | .error _ => s.memFaultCost x
    | .ok tg => if op = 0x4C then (s.setRow x.t tg.ea).1 else (s.memCost x tg).1
  let fill : Nat :=
    match s.tileAddress x n .load with
    | .error _ => 8 * n
    | .ok tg => 8 * n + (if tg.spad.isSome then 0 else 8 * (s.tileBlocks x.t tg.ea n).2)
  if 0x06 ≤ op ∧ op ≤ 0x08 then 12
  else if 0x09 ≤ op ∧ op ≤ 0x0C then 40
  else if op < 0x40 then 8
  else if op = 0x4B ∨ op = 0x53 ∨ op = 0x54 ∨ op = 0x5A then 8
  else if (0x4D ≤ op ∧ op ≤ 0x4F) ∨ (0x55 ≤ op ∧ op ≤ 0x59) then 12
  else if op = 0x50 ∨ op = 0x52 then fill
  else if op = 0x51 then 8 * ((s.cell x.c).tile (dstSlot x.f)).len
  else if op < 0x80 then memory
  else if op = 0x93 then 64
  else if 0x95 ≤ op ∧ op ≤ 0x98 then 192
  else if 0x99 ≤ op ∧ op ≤ 0x9B then 128
  else if op = 0xA0 ∨ op = 0xA1 ∨ op = 0xA5 ∨ op = 0xA6 then 48
  else if op = 0xA2 ∨ op = 0xA3 then 48 + 8 * ((upTo 32).filter fun i => (writtenMask s x).getLsbD i).length
  else if op < 0xC0 then 96
  else if op = 0xC1 then 4096
  else if op = 0xC4 ∨ op = 0xC5 then 32
  else if op = 0xD1 ∨ op = 0xD7 ∨ op = 0xD8 then transferCost op
  else 8

/-- The debits of the engine firings of a cell that wait to be made (R134, R137): a row of the matrix engine, a further row of a
drain, a key of a sort, a step of a domain of the DDA, a token of the scan unit, an access of an edge port. -/
def State.engineDebits (s : State) (c : Nat) : List Nat :=
  let cl := s.cell c
  let d := cl.dda
  (if (s.newFiringTask c 10).isSome && (s.nextRule c).isSome then [64 * actWidth cl.mx.afmt] else [])
    ++ (if (s.engineTask c 10).isSome && (cl.mx.drains.head?.any fun q => q.row != 0) then [32] else [])
    ++ (if (s.engineTask c 10).isSome && (cl.mx.sort.any fun j => decide (j.entered < j.keys.length)) then [64] else [])
    ++ (if (s.newFiringTask c 11).isNone then []
      else (upTo 4).filterMap fun n =>
        let o := d.dom n
        let due := match o.mode with
          | .token => decide (1 ≤ (cl.elem o.tel).occ o.tch)
          | .counted => decide (o.next ≤ s.clock.tick)
          | _ => true
        if o.st == .running && due then some ((d.active n + 3) / 4) else none)
    ++ ((s.engineTask c 13).bind fun t => s.scanDebit t c).toList
    ++ ((s.engineTask c 8).map fun t => (upTo 4).filterMap (s.edgeDebit t c)).getD []

/-- Whether an element or an engine of a cell has a firing that waits and that its meter's balance covers (R134). -/
def State.coveredFiring (s : State) (c : Nat) : Bool :=
  ((s.engineDebits c).any fun d => decide (d ≤ (s.cell c).meter.bal)) || (upTo (elemCount c)).any fun e =>
    match s.pickSlot c e with
    | none => false
    | some k =>
      match (s.elem c e).slotAt k with
      | none => false
      | some p => ((s.atSite c e k).fireAt p.1 p.2).any fun x =>
          decide (s.firingCost x + s.tokenCost x ≤ (s.cell c).meter.bal)

/-- BROWNOUT (R134): a strict cistern at the floor with balance left for the firing that waits on it; the lodge logs the cell and
tests it (R272). -/
def execBrownout (s : State) : Host.Outcome State Fault Refusal :=
  .next (
    let c := s.cur.subject
    match s.owner? c with
    | none => s
    | some t =>
      if t.st = .running ∧ (s.entryOf t).mmode = false ∧ s.coveredFiring c = true then
        let s0 := s.logError c 2
        let s1 := { s0 with lodge := { s0.lodge with
                                                   pendingTests := s.lodge.pendingTests ++ [c] } }
        s1.vanish t.id .fault
      else s)

/-- PHYSICAL_STOP (R135, R146): the allowance is used up and a cistern is at the floor. -/
def execPhysicalStop (s : State) : Host.Outcome State Fault Refusal :=
  .next (
    let c := s.cur.subject
    match s.owner? c with
    | none => s
    | some t =>
      let m := (s.cell c).meter
      if t.st ≠ .running ∨ t.frozen = true ∨ (s.entryOf t).mmode = false ∨ 64 ≤ m.bal ∨ (s.cell c).spawning s.clock.tick = true then s
      else if m.st = .pending then s.updMeter c fun k => { k with st := .stalled }
      else if m.st = .paying then s.meterStop t c 0 false
      else s)

/-! ### The commit point (R153, R160) -/

/-- A packet released by a commit (R56, R60, R62, R106, R349): none where it must wait. -/
def State.releaseSpawn (s : State) (t : Task) (p : Packet) : Option State :=
  if p.dev ≠ s.devNum then (if s.routed (p.dev * 2 ^ 44) then some s else none)
  else if (s.rtag p.tag).written && (s.rtag p.tag).cur.host then
    let ring := (s.rtag p.tag).cur.ring
    if s.canRecord ring then
      some ((s.emitRecord ring p.tag true (recordBytes s.devNum t.tag 0 t.pid p.body)).touchWm p.tag)
    else none
  else
    match s.rejectStatus p (16 + p.len) with
    | some st => some (s.report p.tag st p.pid [])
    | none => if s.qfree = 0 then none else some (s.enqueue p s.domainTime none none)

/-- Releases the spawns of one cell in firing order, as far as they can go. -/
def State.releaseCell (s : State) (t : Task) (c : Nat) : List VEntry → State
  | [] => s.updCell c fun cl => { cl with vest := [] }
  | .spawn n p :: es =>
    match s.releaseSpawn t p with
    | some s1 => s1.releaseCell t c es
    | none => s.updCell c fun cl => { cl with vest := .spawn n p :: es }
  | _ :: es => s.releaseCell t c es

/-- Releases the spawns of cells in (y, x) order, stopping at the first that must wait. -/
def State.releaseAll (s : State) (t : Task) : List Nat → State × Bool
  | [] => (s, true)
  | c :: cs =>
    let s1 := s.releaseCell t c (s.cell c).vest
    if (s1.cell c).vest.isEmpty then s1.releaseAll t cs else (s1, false)

/-- What follows the commit of a trap handler (R262, R263). -/
def State.afterHandler (s : State) (t : Task) : State :=
  match t.trapOf with
  | none => s
  | some (k, age) =>
    match s.task? k with
    | some x => if x.frozen && x.frame && x.age == age then s.trapReturn x else s
    | none => s

/-- COMMIT_POINT (R153, R160, R369): every cell is drained; marks are dropped, sets released, spawns and notices
released, balances returned. A release that must wait leaves the task in committing (R62, R106). -/
def execCommitPoint (s : State) : Host.Outcome State Fault Refusal :=
  .next (match s.task? s.cur.subject with
    | none => s
    | some t =>
      if t.st ≠ .committing ∨ (t.gang.any fun c => (s.cell c).vest.any fun e => !e.isSpawn) = true then s
      else
        let s1 := ((s.allSpads fun p => p.settle t.id).releaseSets t).wakeParks
        let s2 := s1.updTask t.id fun k => { k with sets := [] }
        let r := s2.releaseAll t t.gang
        if !r.2 then r.1
        else
          let s3 := ((r.1.settleTask t).dropOps t.id).freeCells t
          ((s3.releaseTicket t.tag t.ticket).endTask t none).afterHandler t)

/-! ### Traps -/

/-- The trap of a gang once its frame and map can be written (R45, R240, R258). -/
def State.trapWhenAwake (s : State) (t : Task) (p : PendFault) (withMap : Bool) : State :=
  s.hearthWrites t withMap fun s1 => s1.enterTrap t p withMap

/-- FAULT_REACH_HEARTH (R254, R257): the faults of a gang that have reached its hearth. -/
def execFaultReachHearth (s : State) : Host.Outcome State Fault Refusal :=
  .next (match s.task? s.cur.subject with
    | none => s
    | some t =>
      if t.frozen then s
      else
        match firstFault t.faults with
        | none => s
        | some p => s.trapWhenAwake t p false)

/-- Whether an operation stands behind one of its element that waits for a condition, or behind one that does (R241). -/
def State.behindWait (s : State) : Nat → Op → Bool
  | 0, _ => false
  | fuel + 1, o => (s.ops.takeWhile fun p => p.id != o.id).any fun p =>
      p.cell == o.cell && p.elem == o.elem && p.orphan.isNone && s.meets p o
        && (p.waits || p.phase == .waitSet || ((p.phase == .issued || p.asleep) && s.behindWait fuel p))

/-- Whether an operation is in progress: held for its translation, on its way, at an array in retention too, or performed and not yet
written back; one that waits for a condition, or behind such a one, is not (R45, R200, R264, R467). -/
def State.inProgress (s : State) (o : Op) : Bool :=
  o.phase == .held || o.phase == .performed
    || ((o.phase == .issued || (o.phase == .waiting && o.asleep)) && o.opc != 0x4B && !s.behindWait s.ops.length o)

/-- Whether a gang's deadlock count pauses (R264). -/
def State.dlockPaused (s : State) (t : Task) : Bool :=
  s.paused t || t.frozen
    || (s.ops.any fun o => o.task == t.id && s.inProgress o)
    || t.gang.any fun c =>
      let cl := s.cell c
      !cl.ctlNext.isEmpty || cl.engineBusy || cl.scan.busy || cl.dda.anyRunning || cl.meter.st == .pending || cl.meter.st == .stalled || s.droopHold c
        || (upTo 4).any fun i => (mfind cl.mx.rules i).any (ruleCanFire cl)

/-- Whether some element of a gang has a ready slot. -/
def State.anyReady (s : State) (t : Task) : Bool :=
  t.gang.any fun c => (upTo (elemCount c)).any fun e => (s.pickSlot c e).isSome

/-- Whether some channel or tile slot of a gang is not empty (R264): the queue of an outbound edge port is a channel too (R176, R318). -/
def State.anythingHeld (s : State) (t : Task) : Bool :=
  t.gang.any fun c =>
    let cl := s.cell c
    let holds (x : Input) : Bool := !x.q.isEmpty || !x.transit.isEmpty
    (cl.elems.any fun p => p.2.ins.any fun q => holds q.2) || (cl.edges.any fun p => holds p.2.inq)
      || cl.tiles.any fun p => p.2.st != .empty

/-- One tick of a gang's deadlock count (R264). -/
def State.dlockTick (s : State) (t : Task) : State :=
  if t.st = .running ∧ s.dlockPaused t = false ∧ s.anyReady t = false ∧ s.anythingHeld t = true then
    s.updTask t.id fun k => { k with dcount := k.dcount + 1 }
  else s

/-- DEADLOCK_EXPIRE (R264, R265): the map is written before the frame, and the frame's NODE is 15. -/
def execDeadlockExpire (s : State) : Host.Outcome State Fault Refusal :=
  .next (match s.task? s.cur.subject with
    | none => s
    | some t =>
      let k := (s.room t.room).dlock
      if t.st = .running ∧ t.frozen = false ∧ s.paused t = false ∧ k ≠ 0 ∧ k ≤ t.dcount then
        s.trapWhenAwake t { reg := { code := 0x0F, node := 15, cell := t.cellAt 0 0, sub := 4 * t.gw + t.gh, info := 65536 } }
          true
      else s)

/-! ### Pre-emption and parking (R124, R200, R268) -/

/-- The word for which an operation may park: the one whose state a full/empty operation waits for, or one whose tentative mark holds
a writer back, but not the indices of a queue that is full or empty (R124, R158, R187, R364). -/
def State.waitWord (s : State) (o : Op) (m : Nat) : Option Nat :=
  let ws := s.waitWords o m
  if (o.opc = 0x55 ∨ o.opc = 0x56) ∧ 1 < ws.length then none else ws.head?

/-- PARK (R124, R125): a wait on a full/empty word outside the gang has lasted longer than THRESH ticks. -/
def execPark (id : Nat) (s : State) : Host.Outcome State Fault Refusal :=
  .next (match s.op? id with
    | none => s
    | some o =>
      match s.task? o.task, o.spad with
      | some t, some m =>
        let r := s.room t.room
        let w := s.waitWord o m
        if o.waits = true ∧ w.isSome = true ∧ t.holds m = false ∧ t.st = .running ∧ t.frozen = false
            ∧ s.paused t = false ∧ t.gate = .none ∧ r.parkThresh ≠ 0 ∧ o.since + r.parkThresh < s.clock.tick
            ∧ r.waitTab.length < 64 ∧ t.contextBytes ≤ s.poolFree then
          ((s.updRoom t.room fun k => { k with waitTab := k.waitTab ++ [.park t.id m (w.getD 0)] }).gateTask t
            .park).updTask t.id fun k =>
              { k with wake := false, parkWord := some (m, w.getD 0), parkOp := o.opc, parkId := o.id }
        else s
      | _, _ => s)

/-- Whether an operation under way can be withdrawn for a pre-emption: held, or waiting (R268). -/
def State.withdrawable (s : State) (o : Op) : Bool :=
  o.replay || o.phase == .held || o.phase == .waitSet || o.waits
    || (o.phase == .issued && (o.opc == 0x4B || !s.mayGo o))

/-- Whether the engines and channels of a cell are quiescent for a pre-emption (R200); what an outbound edge port still holds is
no channel of an element and stays with the gated port, log entry 36. -/
def State.cellQuiet (s : State) (c : Nat) : Bool :=
  let cl := s.cell c
  cl.mx.load.isNone && cl.mx.sort.isNone && cl.mx.drains.isEmpty && cl.conv.job.isNone && !cl.dda.anyRunning
    && !((upTo 4).any fun i => (mfind cl.mx.rules i).any (ruleCanFire cl))
    && (cl.tiles.all fun p => p.2.st == .empty || p.2.st == .ready)
    && cl.ctlNext.isEmpty
    && (cl.elems.all fun p => p.2.held.isNone && p.2.ctlIn.isEmpty
          && p.2.ins.all fun q => q.2.q.isEmpty && q.2.transit.isEmpty)
    && cl.edges.all fun p => p.2.inq.transit.isEmpty

/-- Whether a gang is quiescent for pre-emption (R200, R268). -/
def State.gangQuiet (s : State) (t : Task) : Bool :=
  (t.gang.all s.cellQuiet) && (s.ops.filter fun o => o.task == t.id).all fun o =>
    s.withdrawable o || (o.opc == 0x100 && o.phase == .performed)

/-- Withdraws a gang's operations for a pre-emption: their SET entries are freed, and a block read of the scan unit is
dropped (R268). -/
def State.withdrawAll (s : State) (t : Task) : State :=
  let mine := (s.ops.filter fun o => o.task == t.id).map (·.id)
  let scans := (s.ops.filter fun o => o.task == t.id && o.opc == 0x100).map (·.id)
  let s1 : State :=
    { s with
      ops := (s.ops.filter fun o => !scans.contains o.id).map fun (o : Op) =>
        if o.task = t.id then { o with replay := true } else o
      locks := s.locks.map fun (l : Lock) => { l with waiters := l.waiters.filter fun i => !mine.contains i }
      rooms := s.rooms.map fun r => (r.1, { r.2 with waitTab := r.2.waitTab.filter fun w =>
        match w with
        | .set i => !mine.contains i
        | .park _ _ _ => true }) }
  s1.updGang t fun cl => { cl with scan := { cl.scan with op := none } }

/-- Whether the wait for which a task parks is over before it is swapped out (R124). -/
def State.parkMoot (s : State) (t : Task) : Bool :=
  t.wake || !(s.ops.any fun o => o.id == t.parkId && o.phase == .waiting)

/-- A quiescent gang passes to preempted or parked, and the writing of its context begins (R124, R268). -/
def State.beginSave (s : State) (t : Task) : State :=
  if t.gate = .park then
    let moot := s.parkMoot t
    let s1 := (s.withdrawAll t).updTask t.id fun k =>
      { k with st := .parked, gate := .none, saving := true, wake := moot, run := .woken }
    if moot then s1.dropPark t.id else s1
  else (s.withdrawAll t).updTask t.id fun k =>
    { k with st := .preempted, gate := .none, saving := true, run := .preempted }

/-- PREEMPT_QUIESCENT (R200, R268). -/
def execPreemptQuiescent (s : State) : Host.Outcome State Fault Refusal :=
  .next (match s.task? s.cur.subject with
    | none => s
    | some t =>
      if t.st = .running ∧ t.frozen = false ∧ t.halted = false ∧ (t.gate = .preempt ∨ t.gate = .park)
          ∧ t.faults.isEmpty = true ∧ s.gangQuiet t = true then s.beginSave t
      else s)

/-- The 64-byte blocks of a task's context (R489). -/
def Task.contextBlocks (t : Task) : Nat := t.contextBytes / 64

/-- The context of a gang: its cells by position and its withdrawn operations (R269). -/
def State.contextOf (s : State) (t : Task) : Ctx :=
  { room := t.room, x0 := t.x0, y0 := t.y0, cells := t.gang.map fun c => (t.posOf c, s.cell c),
    ops := s.ops.filter fun o => o.task == t.id }

/-- CONTEXT_SAVE_COMPLETE (R124, R139, R163, R269): the context is written, and the cells are freed. It waits for a
pending top-up. -/
def execContextSaveComplete (s : State) : Host.Outcome State Fault Refusal :=
  .next (match s.task? s.cur.subject with
    | none => s
    | some t =>
      if t.saving = false ∨ (t.st ≠ .preempted ∧ t.st ≠ .parked) ∨ (s.sched.reqs.any fun q => q.task == t.id) = true then s
      else
        let x := s.contextOf t
        let s1 := { s with ops := s.ops.filter fun o => o.task != t.id }
        let s2 := s1.updTask t.id fun k => { k with ctx := some x, saving := false }
        (s2.freeCells t).houseDebit t.room (8 * t.contextBlocks) |>.touchWm t.tag)

/-! ### The age horizon (R96) -/

/-- Whether the domain time has passed a TIME by 2^42 units (R96). -/
def State.pastHorizon (s : State) (age : Nat) : Bool :=
  let d := (s.domainTime + 2 ^ 44 - ageTime age) % 2 ^ 44
  decide (2 ^ 42 ≤ d) && decide (d < 2 ^ 43)

/-- The next unexpanded task of a launch on an ordered tag, removed at the horizon (R96, R115). -/
def State.ageLaunch (s : State) (l : Launch) : State :=
  match l.ages[l.next]? with
  | none => s
  | some a =>
    if s.pastHorizon a then
      let s1 := { s with launches := s.launches.map fun (k : Launch) =>
        if k.id = l.id then { k with next := k.next + 1 } else k }
      (((s1.report l.tag 0x01 l.pid (reportBody a 0 0 0 0 0 0x0B)).releaseTicket l.tag
        (some ((l.ticket0 + l.next) % 2 ^ 32))).launchEnd l.id 1 l.next (some 0x01)).touchWm l.tag
    else s

/-- AGE_HORIZON (R96). -/
def execAgeHorizon (s : State) : Host.Outcome State Fault Refusal :=
  .next (
    let id := s.cur.subject
    match s.task? id with
    | none =>
      match s.launches.find? fun (l : Launch) => l.id == id with
      | some l => s.ageLaunch l
      | none => s
    | some t =>
      if !s.pastHorizon t.age then s
      else if t.st = .queued then
        (s.report t.tag 0x01 t.pid (reportBody t.age 0 0 0 0 t.restarts 0x0B)).endTask t (some 0x01)
      else s.vanish id .aged)

end Sys2Proof.Machine
end

