-- ==== Sys2Proof/Machine/Stage.lean ====
section
/-! DEFINITION. From the queue to the first firing: the expansion of launches and their argument reads (R92, R488), the
dispatcher's choice (R108 to R110), staging, the prefetcher and the standby planes (R113, R170, R271), the entry into
running (R114, R175). -/

namespace Sys2Proof.Machine

/-! ### The head of a queue (R105) -/

/-- What stands at the head of a tag's queue: a task that waits for staging, or a launch whose next task is not yet
expanded. -/
inductive QItem where
  | task (t : Task)
  | launch (l : Launch)
  deriving DecidableEq, Repr

/-- The rank of a run, the first run at the head (R105). -/
def QRun.rank : QRun → Nat
  | .woken => 0
  | .preempted => 1
  | .restarted => 2
  | .fresh => 3

/-- The age of the next task of a launch: issued at its enqueue, the launch packet's for task (0, 0), and the one the
generator would give otherwise (R97, R98, R115). -/
def State.nextAge (s : State) (l : Launch) : Nat :=
  match l.ages[l.next]? with
  | some a => a
  | none => if l.next = 0 then l.age else (s.issueAge (ageTime l.age)).1

/-- The run and the age by which an entry stands in its queue. -/
def State.itemKey (s : State) (q : QItem) : Nat × Nat :=
  match q with
  | .task t => (t.run.rank, t.age)
  | .launch l => (QRun.fresh.rank, s.nextAge l)

/-- The entry at the head of a list of entries: the first run, then the oldest (R105). -/
def State.firstItem (s : State) (qs : List QItem) : Option QItem :=
  qs.foldl (fun best q =>
    match best with
    | none => some q
    | some b =>
      let x := s.itemKey q
      let y := s.itemKey b
      if x.1 < y.1 ∨ (x.1 = y.1 ∧ ageOlder x.2 y.2 = true) then some q else some b) none

/-- The entry at the head of a tag's queue. -/
def State.queueHead (s : State) (tag : Nat) : Option QItem :=
  s.firstItem (((s.tasks.filter fun t => t.tag == tag && t.waiting).map QItem.task)
    ++ ((s.launches.filter fun l => l.tag == tag && decide (0 < l.unexpanded)).map QItem.launch))

/-- The tags that have something queued. -/
def State.queuedTags (s : State) : List Nat :=
  (((s.tasks.filter Task.waiting).map Task.tag)
    ++ ((s.launches.filter fun l => decide (0 < l.unexpanded)).map Launch.tag)).eraseDups

/-! ### Positions (R85, R86, R108, R271) -/

/-- The gang positions of a shape in a room, lower origin index first (R85, R110). -/
def origins (w h : Nat) : List (Nat × Nat) :=
  (upTo 64).filterMap fun i => if i % 8 % w = 0 ∧ i / 8 % h = 0 then some (i % 8, i / 8) else none

/-- Whether a room-relative position matches an image's shape and pattern (R86). -/
def Image.fits (im : Image) (gw gh x y : Nat) : Bool :=
  im.gw == gw && im.gh == gh && im.cells.all fun k => kindCode (kindOf (cellAt (x + k.x) (y + k.y))) == k.kind

/-- A task as it would stand at a position. -/
def State.placed (s : State) (t : Task) (r x y : Nat) : Task :=
  { t with room := r, x0 := x, y0 := y, gw := (s.shape t).1, gh := (s.shape t).2 }

/-- Whether an image of a container is in a room's store (R169). -/
def State.resident (s : State) (r ctn img : Nat) : Bool := (s.room r).store.any fun p => p.2 == (ctn, img)

/-- The image that each cell of a task's gang runs: its handler's, or the one in force at the save (R170, R271). -/
def State.wantImg (s : State) (t : Task) (c : Nat) : ImgRef :=
  let h := s.handlerOf t
  let own : ImgRef := { ctn := h.ctn, img := h.img, x := cellX c % 8 - t.x0, y := cellY c % 8 - t.y0 }
  match t.ctx with
  | some k => ((mfind k.cells (t.posOf c)).bind Cell.active).getD own
  | none => own

/-- Whether a scratchpad holds no word tentative for, and no undo entry of, another task (R271). -/
def Spad.freeFor (p : Spad) (task : Nat) : Bool :=
  (p.tent.all fun w => w.2 == task) && p.undo.all fun u => u.task == task

/-- Whether a position is stageable for a task: pattern, shadow slots, and what a restore asks (R108, R271). -/
def State.positionOk (s : State) (t : Task) (r x y : Nat) : Bool :=
  let u := s.placed t r x y
  (s.imageOf (s.handlerOf t)).fits u.gw u.gh x y
    && (u.gang.all fun c => kindOf c != .compute || decide ((s.cell c).shadow.length < 2))
    && (t.ctx.isNone || u.gang.all fun c =>
        let i := s.wantImg u c
        s.resident r i.ctn i.img && (s.cell c).spad.freeFor t.id)

/-- The stageable positions of a room for a task: for a pinned packet the named one only, until it has run (R450,
R480). -/
def State.positionsIn (s : State) (t : Task) (r : Nat) : List (Nat × Nat) :=
  let all := match t.ctx, t.pin with
    | none, some p => if p.1 = r then [p.2] else []
    | _, _ => origins (2 ^ (s.shape t).1) (2 ^ (s.shape t).2)
  all.filter fun p => s.positionOk t r p.1 p.2

/-- Whether a room may take a task: present, no self-test of a cell due in it (R272), the handler resident, and named in
ROOMS; a parked task returns to its own room (R105, R108, R124, R450, R480). -/
def State.roomMay (s : State) (t : Task) (r : Nat) : Bool :=
  let h := s.handlerOf t
  !(s.room r).absent && !(s.lodge.pendingTests.any fun c => roomOf c == r) && s.resident r h.ctn h.img
    && (if t.st = .parked then r == t.room
        else (t.ctx.isNone && t.pin.isSome) || (s.entryOf t).rooms.getLsbD r)

/-- Whether a room is active (R110). -/
def State.activeRoom (s : State) (r : Nat) : Bool :=
  s.tasks.any fun t => t.room == r && (t.st == .running || t.st == .gated || t.st == .committing || t.st == .staged)

/-- The rooms beside a room within its wing (R110). -/
def besideRooms (r : Nat) : List Nat :=
  ([(1, 2), (2, 1), (0, 1), (1, 0)].filterMap fun d =>
    let x := r % 8 + d.1
    let y := r / 8 + d.2
    if 1 ≤ x ∧ x ≤ 8 ∧ 1 ≤ y ∧ y ≤ 8 then some ((y - 1) * 8 + (x - 1)) else none).filter
      fun q => wingOfRoom q == wingOfRoom r

/-- The keys of R110 for a room, lower values first. -/
def State.roomRank (s : State) (t : Task) (r : Nat) : List Int :=
  let q : Int := (s.room r).temp.toInt
  let check := s.sched.checker && (t.pin.isNone || t.ctx.isSome)
  [if 460 ≤ q then 1 else 0, -((500 - q) / 20), if check then bit (s.activeRoom r) else 0,
    if check then ((besideRooms r).filter s.activeRoom).length else 0, r]

/-- Lexicographic order. -/
def lexLess : List Int → List Int → Bool
  | a :: as, b :: bs => decide (a < b) || (a == b && lexLess as bs)
  | _, _ => false

/-- The least of a list by a rank. -/
def leastBy {α : Type} (rank : α → List Int) : List α → Option α
  | [] => none
  | a :: as =>
    match leastBy rank as with
    | none => some a
    | some b => if lexLess (rank b) (rank a) then some b else some a

/-- Whether every cell of a position is free now: held by no running, gated or committing task, and promised to no staged one (R88,
R110, R485); log entry 97. -/
def State.freeNow (s : State) (t : Task) (r : Nat) (p : Nat × Nat) : Bool :=
  (s.placed t r p.1 p.2).gang.all fun c => (s.cell c).owner.isNone && (s.cell c).shadow.isEmpty

/-- The room and position that the dispatcher of a wing chooses for a task (R110). -/
def State.placeIn (s : State) (t : Task) (wing : Nat) : Option (Nat × Nat × Nat) :=
  let rooms := (upTo 64).filter fun r => wingOfRoom r == wing && s.roomMay t r && !(s.positionsIn t r).isEmpty
  (leastBy (s.roomRank t) rooms).bind fun r =>
    (leastBy (fun (p : Nat × Nat) => [if s.freeNow t r p then 0 else 1, (8 * p.2 + p.1 : Nat)]) (s.positionsIn t r)).map
      fun p => (r, p)

/-! ### Declarations (R141) -/

/-- The METER figures of a gang position (R324). -/
def Handler.fig (h : Handler) (p : Nat) : MeterFig := mget h.meter p {}

/-- A little-endian word of an argument block. -/
def argNat (t : Task) (off : Nat) : Nat := bodyField t.arg off 4

/-- MBASE and MPER in force for a position (R141): the launch body, the argument block, the route-tag entry, the METER
entry. -/
def State.baseAndPer (s : State) (t : Task) (p : Nat) : Nat × Nat :=
  let f := (s.handlerOf t).fig p
  let e := s.entryOf t
  match t.launch.bind fun k => s.launches.find? fun (l : Launch) => l.id == k.launch && l.movr with
  | some l => (l.mbase, l.mper)
  | none =>
    match f.moff with
    | some o => (argNat t o, argNat t (o + 4))
    | none => if e.movr then (e.mbase, e.mper) else (f.mbase, f.mper)

/-- The declaration of a cell (R141). -/
def State.declare (s : State) (t : Task) (p : Nat) : Nat :=
  let f := (s.handlerOf t).fig p
  let b := s.baseAndPer t p
  min ((b.1 + b.2 * (if f.nsrc then argNat t f.noff else f.nconst) + 63) / 64 * 64) 0xFFFFFFC0

/-- The declarations of a task's gang by position. -/
def State.declareAll (s : State) (t : Task) : AMap Nat :=
  (upTo (2 ^ (s.shape t).1 * 2 ^ (s.shape t).2)).map fun p => (p, s.declare t p)

/-- What a task draws at staging; a restore draws nothing (R113, R141). -/
def State.drawOf (s : State) (t : Task) : Nat :=
  if t.ctx.isSome then 0 else ((s.declareAll t).map (·.2)).foldl (· + ·) 0

/-! ### The dispatcher (R108, R109, R118) -/

/-- Whether a task is withheld by the watermark state of a tag that it may spawn into (R118). -/
def State.withheld (s : State) (t : Task) : Bool :=
  (s.handlerOf t).spawns.any fun k => k != t.tag && (s.rtag k).wm

/-- Whether the task of an entry can be staged, its position aside: its arguments are read, and its launch is not
halted (R276, R488). -/
def State.taskMay (s : State) (t : Task) : Bool :=
  t.argWait.isNone
    && !(t.launch.any fun k => s.launches.any fun (l : Launch) => l.id == k.launch && l.halted)
    && (s.acct (s.entryOf t).acct).canDraw (s.drawOf t) && !s.withheld t

/-- The place at which a wing can stage the head task of a tag, where the tag is eligible (R108). -/
def State.eligible (s : State) (wing tag : Nat) : Option (Task × Nat × Nat × Nat) :=
  if !(s.rtag tag).en then none
  else
    match s.queueHead tag with
    | some (.task t) => if s.taskMay t then (s.placeIn t wing).map fun p => (t, p) else none
    | _ => none

/-- Whether tag `a` with its head is chosen before tag `b` (R109). -/
def State.tagBefore (s : State) (a b : Nat × Nat) : Bool :=
  decide (s.effPrio b.1 < s.effPrio a.1) || (s.effPrio a.1 == s.effPrio b.1 && ageOlder a.2 b.2)

/-- The tag that a wing chooses (R109). -/
def State.chooseTag (s : State) (wing : Nat) : Option Nat :=
  let cs := s.queuedTags.filterMap fun k => (s.eligible wing k).map fun p => (k, p.1.age)
  (cs.foldl (fun best q =>
    match best with
    | none => some q
    | some b => if s.tagBefore q b then some q else some b) (none : Option (Nat × Nat))).map (·.1)

/-- The scratchpads of a gang. -/
def Task.spads (t : Task) : List RetArray := (t.gang.filter fun c => kindOf c == .memory).map RetArray.spad

/-- Stages a task at a position: its declaration is drawn, it takes a shadow slot in every cell, and the exit of its
scratchpads from retention begins (R45, R113, R271). -/
def State.stageAt (s : State) (t : Task) (r x y : Nat) : State :=
  let u : Task :=
    { s.placed t r x y with
      st := .staged, runnable := false, stageNo := s.sched.stageNo, prefetched := [], pfCellar := [], pfHeld := none,
      pfNoRoute := none, argReported := [], wake := false, decl := if t.ctx.isSome then t.decl else s.declareAll t }
  let s1 := s.updAcct (s.entryOf t).acct fun a => a.draw (s.drawOf t)
  let s2 := foldState u.gang s1 fun c st => st.updCell c fun cl => { cl with shadow := cl.shadow ++ [t.id] }
  let s3 := s2.beginExit u.spads
  ({ s3.updTask t.id (fun _ => u) with sched := { s3.sched with stageNo := s3.sched.stageNo + 1 } }).touchWm t.tag

/-- The top-up requests that have reached the account of a tag's head task are settled before its draw (R143). -/
def State.settleFor (s : State) (tag : Nat) : State :=
  match s.queueHead tag with
  | some (.task t) => s.settleEarlier (s.entryOf t).acct
  | _ => s

/-- The turn of a wing's dispatcher in a tick. The choices of all wings are those of the tick's first turn, made again
where a watermark clears later in it (R130); a wing then takes the first task of its tag that no lower wing has staged
(R109). -/
def State.dispatch (s : State) (w : Nat) : State :=
  let tick := s.clock.tick
  if 4 ≤ w ∨ s.sched.hold = true ∨ ((upTo 4).any fun v => decide (w ≤ v) && mfind s.sched.lastStage v == some tick) = true
  then s
  else
    let s0 := s.touchAllWm
    let s1 : State :=
      if s0.sched.chosenAt = some tick then s0
      else { s0 with sched := { s0.sched with
        chosenAt := some tick, chosen := (upTo 4).filterMap fun v => (s0.chooseTag v).map fun k => (v, k) } }
    match mfind s1.sched.chosen w with
    | none => s1
    | some k =>
      let s2 := s1.settleFor k
      match s2.eligible w k with
      | some (t, r, x, y) =>
        ({ s2 with sched := { s2.sched with lastStage := mset s2.sched.lastStage w tick } }).stageAt t r x y
      | none => s2

/-- DISPATCH_STAGE (R109). -/
def execDispatchStage (s : State) : Host.Outcome State Fault Refusal := .next (s.dispatch s.cur.subject)

/-- The remaining turns of a tick's dispatchers, taken before a cancel acts: dispatch wins (R67, R130). -/
def State.dispatchTick (s : State) : State := foldState (upTo 4) s fun w st => st.dispatch w

/-! ### Launches (R92, R488) -/

/-- The next task of a launch as its expansion queues it (R92, R98, R115). -/
def State.expand (s : State) (l : Launch) : State :=
  let ordered := !l.ages.isEmpty
  let a := if ordered || l.next == 0 then (s.nextAge l, s) else s.issueAge (ageTime l.age)
  let f := a.2.fresh
  let t : Task :=
    { id := f.1, tag := l.tag, gen := l.gen, age := a.1, pid := l.pid,
      ticket := if ordered then some ((l.ticket0 + l.next) % 2 ^ 32) else none,
      launch := some { launch := l.id, i := l.next % l.nx, j := l.next / l.nx, nx := l.nx, ny := l.ny },
      argWait := some s.clock.tbase }
  { f.2 with tasks := f.2.tasks ++ [t],
             launches := f.2.launches.map fun (k : Launch) => if k.id = l.id then { k with next := k.next + 1 } else k }

/-- LAUNCH_EXPAND (R92): the launch's next task stands at the head of an enabled tag's queue, a wing has a place for it,
and the pool has a free entry above its reserve. -/
def execLaunchExpand (launch : Nat) (s : State) : Host.Outcome State Fault Refusal :=
  .next (match s.launches.find? fun (l : Launch) => l.id == launch with
    | none => s
    | some l =>
      let probe : Task := { tag := l.tag, gen := l.gen }
      if s.queueHead l.tag = some (.launch l) ∧ (s.rtag l.tag).en = true ∧ s.sched.hold = false ∧ l.halted = false
          ∧ 1024 < s.qfree ∧ s.withheld probe = false ∧ ((upTo 4).any fun w => (s.placeIn probe w).isSome) = true then
        (s.expand l).touchWm l.tag
      else s)

/-- The virtual range of a launch task's argument block (R92). -/
def Launch.argRange (l : Launch) (k : LaunchRef) : Nat × Nat :=
  if l.argStride = 0 then (l.argBase, 64) else ((l.argBase + k.number * l.argStride) % 2 ^ 48, l.argStride)

/-- The pages of some ranges. -/
def pagesIn (rs : List (Nat × Nat)) : List Nat := (rs.flatMap fun r => pagesOf r.1 r.2).eraseDups

/-- The pages of some ranges that a walk does not find, or whose walk meets a poisoned table (R233); log entry 66. -/
def State.absentPages (s : State) (asid : Nat) (rs : List (Nat × Nat)) : List Nat :=
  (pagesIn rs).filter fun p => (s.walk asid p).isNone || (s.walkPoison asid p).isSome

/-- The arrays in retention for which the walks of some pages wait (R45). -/
def State.walksAsleep (s : State) (asid : Nat) (pages : List Nat) : List RetArray :=
  (pages.flatMap fun p => s.walkAsleep asid p).eraseDups

/-- The walks of some pages read their tables (R44). -/
def State.walksUse (s : State) (asid : Nat) (pages : List Nat) : State := foldState pages s fun p st => st.walkUse asid p

/-- Whether a read of some pages is held for one of them that has not been woken (R266, R267). -/
def Task.heldFor (t : Task) (pages : List Nat) : Bool := pages.any t.argReported.contains

/-- The physical address of a virtual one by the tables (R233). -/
def State.walkPhys (s : State) (asid va : Nat) : Nat :=
  match s.walk asid (va % 2 ^ 48) with
  | some p => p.pa + (va % 2 ^ 48 - p.base)
  | none => 0

/-- The physical addresses of the blocks of some virtual ranges. -/
def State.blocksAt (s : State) (asid : Nat) (rs : List (Nat × Nat)) : List Nat :=
  rs.flatMap fun r => (upTo ((r.2 + 63) / 64)).map fun i => s.walkPhys asid (r.1 + 64 * i)

/-- The arrays in retention that some blocks wait for (R45). -/
def State.blocksAsleep (s : State) (pas : List Nat) : List RetArray := (pas.flatMap fun pa => s.retainedIn pa 64).eraseDups

/-- The reads of some blocks reach their homes: the watchpoints there compare them, and the slices' idle time begins
again (R44, R279). -/
def State.blocksRead (s : State) (ag : Agent) (pas : List Nat) : State :=
  foldState pas s fun pa st => st.homeWatch pa 64 false ag

/-- The agent of an argument read: no cell and no element makes it; log entry 67. -/
def State.argAgent (s : State) (t : Task) : Agent :=
  { kind := 0, elem := 0xFF, x := 0xFF, y := 0xFF, dev := s.devNum, tag := t.tag, age := t.age }

/-- Reports of pages not present, one for each page and address space that has none out (R267), with the X and Y of the
reading cell; the task waits for every one of them. -/
def State.reportPages (s : State) (t : Task) (x y : Nat) (pages : List Nat) : State :=
  let s1 := foldState pages s fun p st => if st.pageReported (st.asidOf t) p then st else st.pageReport t x y (st.asidOf t) p false
  s1.updTask t.id fun k => { k with argReported := k.argReported ++ pages.filter fun p => !k.argReported.contains p }

/-- Reports of an argument block's pages: no cell reads it, and no rule gives X and Y, which are free; log entry 3. -/
def State.reportArgPages (s : State) (t : Task) (pages : List Nat) : State :=
  let f := s.free
  f.2.reportPages t (natField f.1.toNat 0 8) (natField f.1.toNat 8 8) pages

/-- ARG_READ_COMPLETE (R488): the argument block of an expanded task is copied into its entry, or the task ends. A read that is held
walks again once its pages have been woken (R266, R267), and one that comes after a later requester of the tick is of the next one (R240). -/
def execArgReadComplete (s : State) : Host.Outcome State Fault Refusal :=
  .next (match s.task? s.cur.subject with
    | none => s
    | some t =>
      match t.launch, t.argWait with
      | some k, some _ =>
        match s.launches.find? fun (l : Launch) => l.id == k.launch with
        | none => s
        | some l =>
          let asid := s.asidOf t
          let rg := l.argRange k
          let pages := pagesIn [rg]
          let absent := s.absentPages asid [rg]
          let blocks := s.blocksAt asid [rg]
          let tables := s.walksAsleep asid pages
          let asleep := s.blocksAsleep blocks
          let as := s.memArrivals (blocks.map fun p => (p, 64)) argKey
          if t.st ≠ .queued ∨ t.heldFor pages = true then s
          else if !tables.isEmpty then s.beginExit tables
          else if (s.bindCheck t { ea := rg.1 } rg.2 .load).isSome
              ∨ (pages.any fun p => (s.walkPoison asid p).isSome) = true then s.argFail t 0x03
          else if !absent.isEmpty then
            ((s.walksUse asid pages).reportArgPages t absent).updTask t.id fun q =>
              { q with argHeld := match q.argHeld with
                | some h => some h
                | none => some s.clock.tbase }
          else if !asleep.isEmpty then s.beginExit asleep
          else if !(blocks.all s.routed) || s.tooLate as then s
          else
            let s1 := ((s.walksUse asid pages).arrive as).blocksRead (s.argAgent t) blocks
            if blocks.any fun p => tagPoison (s.physTag p) then s1.argFail t 0x03
            else s1.updTask t.id fun q =>
              { q with arg := blocks.flatMap fun p => s.physBytes p 64, argWait := none, argHeld := none, argReported := [] }
      | _, _ => s)

/-! ### Standby planes and the prefetcher (R113, R170) -/

/-- The cell record of an image for a gang-relative position. -/
def Image.cellAt? (im : Image) (x y : Nat) : Option CellImg := im.cells.find? fun k => k.x == x && k.y == y

/-- The image cell that a reference names. -/
def State.imgCell (s : State) (i : ImgRef) : CellImg :=
  (((s.ctn i.ctn).images.getD i.img {}).cellAt? i.x i.y).getD {}

/-- The 64-byte blocks of a cell record (R316). -/
def CellImg.blocks (k : CellImg) : Nat := 5 + 4 * (if k.kind = 1 then 8 else 4) + (if k.patch.isSome then 64 else 0)

/-- STANDBY_FILL_COMPLETE (R139, R170): the standby plane of a cell receives the image of the first task staged there,
and the room's housekeeping account pays. -/
def execStandbyFillComplete (s : State) : Host.Outcome State Fault Refusal :=
  .next (
    let c := s.cur.subject
    match (s.cell c).shadow.head?.bind s.task? with
    | none => s
    | some t =>
      let i := s.wantImg t c
      if (s.cell c).standby = some i ∨ s.resident t.room i.ctn i.img = false then s
      else (s.updCell c fun cl => { cl with standby := some i }).houseDebit t.room (8 * (s.imgCell i).blocks))

/-- Whether every cell's standby plane holds the image that a task runs. -/
def State.planesHeld (s : State) (t : Task) : Bool := t.gang.all fun c => (s.cell c).standby == some (s.wantImg t c)

/-- The virtual start and the length in bytes of a prefetch entry for a task (R322). -/
def Prefetch.range (p : Prefetch) (t : Task) : Nat × Nat :=
  ((if p.fromArg then bodyField t.arg p.argOff 8 else p.va) % 2 ^ 48 / 64 * 64, 64 * p.blocks)

/-- The blocks of a prefetch entry, with their tags (R223). -/
def State.prefetchTile (s : State) (t : Task) (p : Prefetch) : Tile :=
  let rg := p.range t
  { st := .ready, len := p.blocks,
    blocks := (upTo p.blocks).map fun i => (i, s.physBlock (s.walkPhys (s.asidOf t) (rg.1 + 64 * i))) }

/-- The blocks of a prefetch entry whose source lies in the cellar (R114). -/
def State.cellarBlocks (s : State) (t : Task) (p : Prefetch) : Nat :=
  let rg := p.range t
  ((upTo p.blocks).filter fun i => s.level (s.walkPhys (s.asidOf t) (rg.1 + 64 * i)) == .cellar).length

/-- The position of a prefetch entry's cell in a gang. -/
def Prefetch.pos (p : Prefetch) (t : Task) : Nat := p.y * t.width + p.x

/-- The reads of a prefetch list at their homes: a tile copy's, attributed to the cell; log entry 67. -/
def State.prefetchRead (s : State) (t : Task) (ps : List Prefetch) : State :=
  foldState ps s fun p st =>
    st.blocksRead (st.elemAgent 2 t (t.cellAt p.x p.y) 0xFF) (s.blocksAt (s.asidOf t) [p.range t])

/-- The arrivals of the loads of a prefetch list at their homes: each at the place of its cell, after the elements (R240). -/
def State.prefetchArrivals (s : State) (t : Task) (ps : List Prefetch) : List Served :=
  ps.flatMap fun p => s.memArrivals ((s.blocksAt (s.asidOf t) [p.range t]).map fun a => (a, 64)) (homeKey (t.cellAt p.x p.y) 0xFF)

/-- Whether a load of a prefetch list stands behind an earlier message on its way (R9). -/
def State.prefetchBehind (s : State) (t : Task) (ps : List Prefetch) : Bool :=
  ps.any fun p => s.pathBusy [] s.clock.nextId (s.legsTo (wingOfCell (t.cellAt p.x p.y)) 0
    ((s.blocksAt (s.asidOf t) [p.range t]).map fun a => (a, 64)))

/-- The loads of a staged task's prefetch list: held while a page is not present, until it is woken (R113, R267); they wait for a
slice in retention, for a route, for the earlier messages of their ways and for later requesters of the tick (R9, R20, R45, R240). -/
def State.prefetch (s : State) (t : Task) : State :=
  let ps := (s.handlerOf t).prefetch
  let rs := ps.map fun p => p.range t
  let pages := pagesIn rs
  let absent := s.absentPages (s.asidOf t) rs
  let blocks := s.blocksAt (s.asidOf t) rs
  let tables := s.walksAsleep (s.asidOf t) pages
  let asleep := s.blocksAsleep blocks
  if t.heldFor pages then s
  else if !tables.isEmpty then s.beginExit tables
  else if !absent.isEmpty then
    (foldState ps (s.walksUse (s.asidOf t) pages) fun p st =>
      let c := t.cellAt p.x p.y
      st.reportPages t (cellX c) (cellY c) (s.absentPages (s.asidOf t) [p.range t])).updTask t.id fun k =>
      { k with pfHeld := match k.pfHeld with
        | some q => some q
        | none => some s.clock.tbase }
  else if !asleep.isEmpty then s.beginExit asleep
  else if !(blocks.all s.routed) then
    s.updTask t.id fun k =>
      { k with pfNoRoute := match k.pfNoRoute with
        | some q => some q
        | none => some s.clock.tbase }
  else if s.prefetchBehind t ps || s.tooLate (s.prefetchArrivals t ps) then s
  else
    (((s.walksUse (s.asidOf t) pages).arrive (s.prefetchArrivals t ps)).prefetchRead t ps).updTask t.id fun k =>
      { k with
        runnable := true, pfHeld := none, pfNoRoute := none, argReported := []
        prefetched := ps.foldl (fun m p => mset m (2 * p.pos t + p.slot) (s.prefetchTile t p)) []
        pfCellar := ps.foldl (fun m p => mset m (p.pos t) (mget m (p.pos t) 0 + s.cellarBlocks t p)) [] }

/-- PREFETCH_COMPLETE (R113, R139, R170): every load of a staged task completes; a restored one has its context read
instead. -/
def execPrefetchComplete (s : State) : Host.Outcome State Fault Refusal :=
  .next (match s.task? s.cur.subject with
    | none => s
    | some t =>
      if t.st ≠ .staged ∨ t.runnable = true ∨ s.planesHeld t = false then s
      else if t.ctx.isSome then
        (s.updTask t.id fun k => { k with runnable := true }).houseDebit t.room (16 * t.contextBlocks)
      else s.prefetch t)

/-! ### Entry into running (R114, R175, R271) -/

/-- An element at task entry (R175, R317). -/
def ElemImg.enter (g : ElemImg) : Elem :=
  { pb := g.pb, k := g.k, w := g.w, slots := g.slots, source := g.source, rot := g.rot, outs := g.outs,
    ctlMap := g.ctlMap, done := !(g.slots.any fun p => validOfBits p.2.toNat) }

/-- A counter set at task entry (R180). -/
def CtrSet.enter (c : CtrSet) : CtrSet := { c with n := c.ext.map fun _ => 0, started := c.entry, isDone := false }

/-- An edge port at task entry: its base may come from the argument block (R319). -/
def Edge.enter (g : Edge) (t : Task) : Edge := if g.argBase then { g with base := bodyField t.arg g.argOff 8 } else g

/-- The parts of a cell that an image sets (R170, R175). -/
def Cell.withImage (cl : Cell) (k : CellImg) (t : Task) : Cell :=
  { cl with
    elems := k.elems.map fun p => (p.1, p.2.enter)
    ctrs := k.ctrs.map fun p => (p.1, p.2.enter)
    ports := k.ports
    ctl := k.ctl
    mcast := k.mcast
    edges := k.edges.map fun p => (p.1, p.2.enter t)
    dda := match k.patch with
      | some q => ({ cl.dda with patch := q } : Dda).prunePorts
      | none => cl.dda }

/-- The exchange of planes, and the cell taken by its task (R114). -/
def Cell.taken (cl old : Cell) (t : Task) : Cell :=
  { cl with owner := some t.id, shadow := old.shadow.filter fun k => k != t.id, active := old.standby,
            standby := old.active }

/-- A meter at the first entry of a run (R147). -/
def freshMeter (f : MeterFig) (d : Nat) : Meter := { st := .paying, bal := d, decl := d, awm := f.awm, an := f.an, am := f.am }

/-- The tile slots that a cell finds at entry (R114, R182). -/
def Task.entryTiles (t : Task) (p : Nat) : AMap Tile :=
  ((upTo 2).filterMap fun i => (mfind t.prefetched (2 * p + i)).map fun x => (i, x))

/-- A cell at the first entry of a run. -/
def State.enterCell (s : State) (t : Task) (c : Nat) : State :=
  let p := t.posOf c
  s.updCell c fun old =>
    let base : Cell := { spad := { old.spad with table := [] }, tiles := t.entryTiles p,
                         meter := freshMeter ((s.handlerOf t).fig p) (mget t.decl p 0) }
    (base.withImage (s.imgCell (s.wantImg t c)) t).taken old t

/-- The scratchpad of a saved context as it is loaded over a cell: other tasks' marks are not part of it (R269, R271). -/
def Spad.loaded (p : Spad) (task : Nat) : Spad :=
  { p with undo := p.undo.filter fun u => u.task == task, tent := p.tent.filter fun w => w.2 == task }

/-- A domain as a restore takes it: one that the gating stopped runs on (R196, R440). -/
def Dom.restored (d : Dom) (tick : Nat) : Dom :=
  if d.gated then { d with st := .running, gated := false, next := tick + 2 ^ d.div } else d

/-- The cell to which a restore moves a cell of the gang; a cell outside the gang stays (R269, R271). -/
def Task.movedCell (old new : Task) (c : Nat) : Nat :=
  if old.holds c then new.cellAt (cellX c % 8 - old.x0) (cellY c % 8 - old.y0) else c

/-- A cell at a restore (R271): a scan of a scratchpad of the gang goes on where that scratchpad is now (R418), and the SPAWNs that were
held back may fire (R118). -/
def State.restoreCell (s : State) (from_ t : Task) (c : Nat) (k : Cell) : State :=
  s.updCell c fun old =>
    let d : Dda := { k.dda with doms := k.dda.doms.map fun (p : Nat × Dom) => (p.1, p.2.restored s.clock.tick) }
    let n : Cell := { k with spad := if kindOf c = .memory then k.spad.loaded t.id else old.spad, dda := d, turned := none,
                             scan := { k.scan with spad := k.scan.spad.map (from_.movedCell t) },
                             elems := k.elems.map fun (p : Nat × Elem) => (p.1, { p.2 with barred := 0 }) }
    n.taken old t

/-- An operation of a saved context as it is issued again; one that waits past its limit waits on for its trap
(R121, R122, R269). INFO of that trap names its word where it is now. -/
def State.reissue (s : State) (old new : Task) (o : Op) : Op :=
  let move := old.movedCell new
  { o with cell := move o.cell, spad := o.spad.map move, replay := false, retry := false, asleep := false,
           expInfo := o.expInfo.map fun i => i / 2 ^ 32 * 2 ^ 32 + wordHandle (move (o.spad.getD 0)) (o.ea / 4),
           phase := if o.phase = .performed then .performed
             else if o.limit.any fun l => decide (l < s.clock.tick) then .waiting else .issued }

/-- The entry debit of a cell (R114, R136). -/
def Task.entryCost (t : Task) (p : Nat) : Nat :=
  192 + 8 * (((t.entryTiles p).map fun x => x.2.len).foldl (· + ·) 0) + 8 * mget t.pfCellar p 0

/-- The entry debits of a gang, cell by cell: the first that cannot be paid stops it (R114, R146). -/
def State.entryDebits (s : State) (tid : Nat) : List Nat → State
  | [] => s
  | c :: cs =>
    match s.task? tid with
    | none => s
    | some t =>
      let d := t.entryCost (t.posOf c)
      if d ≤ (s.cell c).meter.bal then (((s.updMeter c fun m => m.entryDebit d).autoTopup t c)).entryDebits tid cs
      else s.meterStop t c d true

/-- TASK_ENTER_RUNNING (R88, R114): every cell is free and the task is the first staged in each. A restore writes the
scratchpads, so it waits for their exit from retention (R45, R271). -/
def execTaskEnterRunning (s : State) : Host.Outcome State Fault Refusal :=
  .next (match s.task? s.cur.subject with
    | none => s
    | some t =>
      if t.st ≠ .staged ∨ t.runnable = false ∨ s.planesHeld t = false
          ∨ (t.gang.all fun c => (s.cell c).owner.isNone && (s.cell c).shadow.head? == some t.id) = false then s
      else if t.ctx.isSome ∧ (t.spads.any s.retained) = true then s.beginExit t.spads
      else
        match t.ctx with
        | some k =>
          let old : Task := { t with room := k.room, x0 := k.x0, y0 := k.y0 }
          let s1 := foldState t.gang s fun c st => st.restoreCell old t c (mget k.cells (t.posOf c) {})
          let s2 := s1.updTask t.id fun q => { q with st := .running, runnable := false, ctx := none, wake := false,
                                                      parkWord := none, parkOp := 0, parkId := 0, gate := .none }
          ({ s2 with ops := s2.ops ++ k.ops.map (s.reissue old t) }).injectAll (k.ops.map Op.id)
        | none =>
          let s1 := foldState t.gang s fun c st => st.enterCell t c
          let s2 := s1.updTask t.id fun q => { q with st := .running, runnable := false, iters := 0, dcount := 0 }
          let s3 := if (s.entryOf t).mmode then s2 else s2.entryDebits t.id t.gang
          s3.updTask t.id fun q => { q with prefetched := [], pfCellar := [] })

end Sys2Proof.Machine
end

