-- ==== Sys2Proof/Machine/Hearth.lean ====
section
/-! DEFINITION. The hearth (R171, R172, R300): its addresses and region words (R443, R444), its commands (R442 to R460),
the switch of configurations (R200 to R204), and the limits of its commands. -/

namespace Sys2Proof.Machine

/-! ### The hearth's course (R171, R300) -/

/-- The hearth of a room. -/
def State.hearth (s : State) (r : Nat) : Hearth := (s.room r).hearth

/-- Changes the hearth of a room. -/
def State.updHearth (s : State) (r : Nat) (f : Hearth → Hearth) : State :=
  s.updRoom r fun k => { k with hearth := f k.hearth }

/-- An h register. -/
def Hearth.hreg (h : Hearth) (i : Nat) : BitVec 64 := mget h.h i 0

/-- The command position moved: past the last command the hearth is ENDED (R300). -/
def Hearth.goto (h : Hearth) (pos : Nat) : Hearth :=
  { h with pos := pos, st := if pos < h.prog.length then .wait else .ended, exec := none }

/-- The hearth of a command that has done all but its signal. -/
def Hearth.endLater (h : Hearth) (c : HCmd) (pos : Nat) : Hearth := { h with exec := some { ending := some (c, pos) } }

/-- A command completes: its signal, then its next position; a hearth that the signal traps keeps its position. A signal on a semaphore
that the hearth has tested in this tick is of the next one, in which the command then completes (R171, R172, R300); log entry 21. -/
def State.endCmd (s : State) (r : Nat) (c : HCmd) (pos : Nat) : State :=
  s.updRoom r fun k =>
    if c.sen && k.tested.contains c.ssem.toNat then { k with hearth := k.hearth.endLater c pos }
    else
      let k1 := if c.sen then k.addSem c.ssem.toNat c.sinc.toNat else k
      { k1 with hearth := if k1.hearth.st = .exec then k1.hearth.goto pos else { k1.hearth with exec := none } }

/-- A command that moves POS by one completes. -/
def State.finishCmd (s : State) (r : Nat) (c : HCmd) : State := s.endCmd r c ((s.hearth r).pos + 1)

/-- A refused command: recorded in ROOM_HERR; it has passed its wait and makes its signal (R442). -/
def State.refuseCmd (s : State) (r cmd : Nat) (c : HCmd) (reason : Nat) : State :=
  (s.updRoom r fun k => { k with herr := { count := min (k.herr.count + 1) 0xFFFF, a := reason, b := cmd,
                                           c := k.hearth.pos } }).finishCmd r c

/-- The command of a hearth in EXEC that has not begun: 8 mu, then its effect (R139). -/
def State.command (s : State) (body : Nat → State → State) : State :=
  let r := s.cur.subject
  if (s.hearth r).st = .exec ∧ (s.hearth r).exec = none then body r (s.houseDebit r 8) else s

/-- A command that takes time begins. -/
def State.beginCmd (s : State) (r : Nat) (i : Instr) (task : Nat) : State :=
  s.updHearth r fun h => { h with exec := some { instr := i, since := s.clock.tick, task := task } }

/-- One unit of a command is done. -/
def State.unitDone (s : State) (r : Nat) : State :=
  s.updHearth r fun h => { h with exec := h.exec.map fun x => { x with doneUnits := x.doneUnits + 1, heldBy := none, waitFrom := none } }

/-! ### Operands (R443, R444) -/

/-- What a hearth address names. -/
inductive HAddr where
  | spad (cell off : Nat)
  | phys (pa : Nat)
  deriving DecidableEq, Repr

/-- A hearth address of a range, none where it is refused with 0x01 (R112, R443). -/
def State.hearthAddr (s : State) (r : Nat) (v : BitVec 64) (len align : Nat) : Option HAddr :=
  let n := v.toNat
  if v.getLsbD 63 then
    let c := roomCell r (natField n 53 3) (natField n 50 3)
    let off := natField n 0 20
    if !v.getLsbD 62 || natField n 56 6 != 0 || natField n 20 30 != 0 || kindOf c != .memory || off % align != 0
        || decide (2 ^ 20 < off + len) then none
    else some (.spad c off)
  else
    let last := n + (max len 1 - 1)
    if natField n 57 6 != 0 || n % align != 0 || localLevel (localOf n) == .reserved || devOf last != devOf n
        || localLevel (localOf last) != localLevel (localOf n)
        || (devOf n == s.devNum && s.inPools (localOf n) (max len 1)) then none
    else some (.phys n)

/-- The fields GW, GH, X0 and Y0 of a region word, none where it is refused with 0x02 (R85, R444). -/
def regionWord (v : BitVec 64) : Option (Nat × Nat × Nat × Nat) :=
  let n := v.toNat
  let gw := natField n 10 2
  let gh := natField n 8 2
  let x := natField n 3 3
  let y := natField n 0 3
  if natField n 12 52 ≠ 0 ∨ natField n 6 2 ≠ 0 ∨ x % 2 ^ gw ≠ 0 ∨ y % 2 ^ gh ≠ 0 then none else some (gw, gh, x, y)

/-- The running task whose gang a region is. -/
def State.gangAt (s : State) (r : Nat) (g : Nat × Nat × Nat × Nat) : Option Task :=
  s.tasks.find? fun t => t.room == r && t.gw == g.1 && t.gh == g.2.1 && t.x0 == g.2.2.1 && t.y0 == g.2.2.2
    && t.st == .running

/-- The cells of a region. -/
def regionCells (r : Nat) (g : Nat × Nat × Nat × Nat) : List Nat :=
  (positions (2 ^ g.1) (2 ^ g.2.1)).map fun p => roomCell r (g.2.2.1 + p.1) (g.2.2.2 + p.2)

/-- The operand of a command whose HA names a region: refused with 0x02, or `go` with the region. -/
def State.withRegion (s : State) (r cmd : Nat) (c : HCmd) (go : Nat × Nat × Nat × Nat → State) : State :=
  match regionWord ((s.hearth r).hreg c.ha.toNat) with
  | none => s.refuseCmd r cmd c 0x02
  | some g => go g

/-! ### Commands that complete at once (R446, R451, R455 to R460) -/

/-- HNOP (R446). -/
def execHnop (c : HCmd) (s : State) : Host.Outcome State Fault Refusal :=
  .next (s.command fun r s1 => s1.finishCmd r c)

/-- HSET (R446). -/
def execHset (c : HCmd) (s : State) : Host.Outcome State Fault Refusal :=
  .next (s.command fun r s1 => (s1.updHearth r fun h => { h with h := mput h.h c.ha.toNat c.imm 0 }).finishCmd r c)

/-- EN and PEND of a tag after a TAGCTL (R451). -/
def RouteTag.control (x : RouteTag) (imm : Nat) : RouteTag :=
  { x with en := match natField imm 12 2 with
                 | 1 => true
                 | 2 => false
                 | _ => x.en,
           pend := x.pend && natField imm 14 2 != 2 }

/-- TAGCTL (R451): each is kept with its tick, since an entry write of the same tick applies first (R66). -/
def execTagctl (c : HCmd) (s : State) : Host.Outcome State Fault Refusal :=
  .next (s.command fun r s1 =>
    (s1.updRtag (natField c.imm.toNat 0 12) fun x =>
      { x.control c.imm.toNat with
        ctl := x.ctl.filter (fun k => k.tick == s1.clock.tick) ++ [{ tick := s1.clock.tick, imm := c.imm.toNat }] }).finishCmd r c)

/-- REPEAT (R455). -/
def execRepeat (c : HCmd) (s : State) : Host.Outcome State Fault Refusal :=
  .next (s.command fun r s1 =>
    let h := s1.hearth r
    let n := mget h.reps h.pos 1
    let k := c.imm.toNat
    if k = 0 ∨ n < k then
      (if k = 0 then s1 else s1.updHearth r fun h => { h with reps := mset h.reps h.pos (n + 1) }).endCmd r c
        (h.pos - c.ha.toNat)
    else (s1.updHearth r fun h => { h with reps := mdel h.reps h.pos }).finishCmd r c)

/-- Whether the condition of a SKIPIF holds (R456). -/
def State.skipHolds (s : State) (r : Nat) (c : HCmd) : Bool :=
  let v := c.imm.toNat
  let sem := (s.room r).sem (natField v 0 8)
  match c.ha.toNat with
  | 0 => decide (natField v 16 16 ≤ sem)
  | 1 => decide (sem < natField v 16 16)
  | 2 => (s.rtag (natField v 0 12)).pend
  | 3 => !(s.rtag (natField v 0 12)).en
  | _ => (s.hearth r).hreg (natField v 0 4) == 0

/-- A semaphore that the hearth has tested in this tick: later increments of the tick come in the next one (R172). -/
def Room.test (r : Room) (n : Nat) : Room := { r with tested := if r.tested.contains n then r.tested else r.tested ++ [n] }

/-- SKIPIF (R456): a semaphore is read after the tick's increments (R172). -/
def execSkipif (c : HCmd) (s : State) : Host.Outcome State Fault Refusal :=
  .next (s.command fun r s1 =>
    let p := (s1.hearth r).pos + 1
    let s2 := if c.ha.toNat < 2 then s1.updRoom r fun k => k.test (natField c.imm.toNat 0 8) else s1
    s2.endCmd r c (if s1.skipHolds r c then p + c.hb.toNat else p))

/-- SEMSET (R457): the value is written, then the tick's increments are added to it. -/
def execSemset (c : HCmd) (s : State) : Host.Outcome State Fault Refusal :=
  .next (s.command fun r s1 =>
    (s1.updRoom r fun k =>
      let n := c.ha.toNat
      let inc := mget k.semInc n 0
      let k1 := ({ k with sems := mput k.sems n (c.imm.toNat % 65536) 0, semInc := mdel k.semInc n } : Room)
      if inc = 0 then k1 else k1.addSem n inc).finishCmd r c)

/-- WATCH (R459). -/
def execWatch (c : HCmd) (s : State) : Host.Outcome State Fault Refusal :=
  .next (s.command fun r s1 =>
    match s1.hearthAddr r ((s1.hearth r).hreg c.hb.toNat) 1 1 with
    | some (.phys pa) =>
      let w : Watch := { en := c.imm.getLsbD 63, rd := c.imm.getLsbD 62, wr := c.imm.getLsbD 61,
                         len := natField c.imm.toNat 0 6, addr := pa }
      (s1.updRoom r fun k => { k with watch := mset k.watch c.ha.toNat w }).finishCmd r c
    | _ => s1.refuseCmd r 0x0F c 0x01)

/-- HEND (R460): it signals nothing and moves POS nowhere. -/
def execHend (_c : HCmd) (s : State) : Host.Outcome State Fault Refusal :=
  .next (s.command fun r s1 => s1.updHearth r fun h => { h with st := .ended })

/-- Who makes a hearth's own access, for the home watchpoints (R280). -/
def State.roomAgent (s : State) (r : Nat) : Agent :=
  { kind := 3, x := r % 8 * 8, y := r / 8 * 8, dev := s.devNum }

/-- The arrays in retention that a range at a hearth address waits for (R45). -/
def State.hearthAsleep (s : State) (a : HAddr) (off n : Nat) : List RetArray :=
  match a with
  | .spad c _ => if s.retained (.spad c) then [.spad c] else []
  | .phys p => s.retainedIn (p + off) n

/-- The physical range at a hearth address. -/
def HAddr.pieces (a : HAddr) (off n : Nat) : List (Nat × Nat) :=
  match a with
  | .spad _ _ => []
  | .phys p => [(p + off, n)]

/-- The words of a scratchpad at which an access of a hearth arrives, in its room's place (R189). -/
def HAddr.served (a : HAddr) (r off n : Nat) : List Served :=
  match a with
  | .spad c o => [{ home := spadHome c, lo := o + off, len := n, key := roomKey r }]
  | .phys _ => []

/-- Whether an access that has waited longer for bytes of a scratchpad that a hearth reads or writes can be served now (R189). -/
def State.hearthBehind (s : State) (r : Nat) (a : HAddr) (off n : Nat) : Bool :=
  match a with
  | .spad c o =>
    s.waitsBefore c { since := ((s.hearth r).exec.bind (·.waitFrom)).getD (s.clock.tick + 1), key := roomKey r, ranges := [(o + off, n)] }
  | .phys _ => false

/-- A hearth reads a range and writes another: behind the earlier messages of its ways, and in the order of the tick and of the
waits at each home; arrays in retention and routes are waited for (R9, R20, R45, R189, R240). -/
def State.hearthSend (s : State) (r : Nat) (reads writes : List (HAddr × Nat × Nat)) (go : State → State) : State :=
  let ps (l : List (HAddr × Nat × Nat)) : List (Nat × Nat) := l.flatMap fun x => x.1.pieces x.2.1 x.2.2
  let as := (reads ++ writes).flatMap fun x => x.1.served r x.2.1 x.2.2
  let asleep := (reads ++ writes).flatMap fun x => s.hearthAsleep x.1 x.2.1 x.2.2
  if !asleep.isEmpty then s.beginExit asleep
  else if s.tooLate as || (reads ++ writes).any fun x => s.hearthBehind r x.1 x.2.1 x.2.2 then s
  else s.sendTo (s.legsTo (wingOfRoom r) 0 (ps reads) ++ s.legsTo (wingOfRoom r) 1 (ps writes)) (ps reads ++ ps writes) (roomKey r)
    fun s1 => go (s1.arrive as)

/-- The read of a range at a hearth address as the home watchpoints see it (R279). -/
def State.hearthRead (s : State) (r : Nat) (a : HAddr) (off n : Nat) : State :=
  match a with
  | .spad _ _ => s
  | .phys p => s.homeWatch (p + off) n false (s.roomAgent r)

/-- Whether a block that a hearth's read of n bytes touches is poisoned (R224). -/
def State.hearthPoison (s : State) (a : HAddr) (n : Nat) : Bool :=
  match a with
  | .spad c off => (upTo ((off % 64 + n + 63) / 64)).any fun i => tagPoison ((s.cell c).spad.viewTag (off / 64 + i) none)
  | .phys p => (upTo ((p % 64 + n + 63) / 64)).any fun i => tagPoison (s.physTag (p / 64 * 64 + 64 * i))

/-- The progress of a TRAPRET (R454): the frame is read from this room's trap area, and its age names a frozen task (R263).
The action takes what the frame holds; a poisoned one refuses the command (R224); log entry 44. -/
def State.trapretStep (s : State) (r : Nat) (c : HCmd) : State :=
  let a := ((s.hearth r).hreg c.ha.toNat).toNat
  match s.trapArea r with
  | none => s.refuseCmd r 0x0A c 0x01
  | some b =>
    let base := s.devNum * 2 ^ 44 + b
    if a < base ∨ base + 65536 ≤ a ∨ (a - base) % 1024 ≠ 0 then s.refuseCmd r 0x0A c 0x01
    else s.hearthSend r [(.phys a, 0, 1024)] [] fun s0 =>
      let s1 := s0.hearthRead r (.phys a) 0 1024
      if s.hearthPoison (.phys a) 1024 then s1.refuseCmd r 0x0A c 0x01
      else
        let fr := s.physBytes a 1024
        let act := if natField c.imm.toNat 0 2 = 0 then (fr.getD 34 0).toNat else natField c.imm.toNat 0 2
        let s2 := match s1.tasks.find? fun t => t.frozen && t.frame && t.room == r && t.age == bodyField fr 16 8 with
          | some t => s1.trapAct t act fr
          | none => s1
        s2.finishCmd r c

/-- TRAPRET (R454). -/
def execTrapret (c : HCmd) (s : State) : Host.Outcome State Fault Refusal :=
  .next (s.command fun r s1 => (s1.beginCmd r (.trapret c) 0).trapretStep r c)

/-! ### HCOPY (R449) -/

/-- Block i of a hearth address: a tentative word is read with its old value (R449). -/
def State.hearthBlock (s : State) (a : HAddr) (i : Nat) : Block :=
  match a with
  | .spad c off => (s.cell c).spad.viewBlock (off / 64 + i) none
  | .phys p => s.physBlock (p + 64 * i)

/-- Writes block i at a hearth address; none where it waits for a tentative word (R449). -/
def State.hearthPut (s : State) (r : Nat) (a : HAddr) (i : Nat) (b : Block) : Option State :=
  match a with
  | .spad c off =>
    let p := (s.cell c).spad
    let blk := off / 64 + i
    if p.hiddenIn (16 * blk) 16 none then none else (p.writeBlock none blk b).map fun q => (s.setSpad c q).wakeParks
  | .phys q => some ((s.putBlock (q + 64 * i) b).homeWatch (q + 64 * i) 64 true (s.roomAgent r))

/-- The housekeeping debit of block i of a source: 8 mu, and 8 more for one read from the cellar (R139, R442). -/
def State.copyCost (s : State) (a : HAddr) (i : Nat) : Nat :=
  match a with
  | .phys p => if s.level (p + 64 * i) = .cellar then 16 else 8
  | .spad _ _ => 8

/-- The scratchpad block of a destination, for the count of those that wait on its words (R188). -/
def HAddr.spadBlock : HAddr → Nat → Option (Nat × Nat)
  | .spad c off, i => some (c, off / 64 + i)
  | .phys _, _ => none

/-- The next block of a copy: it waits also for a tentative word of its destination, and is then one of those held back by the mark
(R188, R189). -/
def State.copyStep (s : State) (r : Nat) (c : HCmd) (x : HExec) : State :=
  let n := c.imm.toNat
  let h := s.hearth r
  match s.hearthAddr r (h.hreg c.ha.toNat) (64 * n) 64, s.hearthAddr r (h.hreg c.hb.toNat) (64 * n) 64 with
  | some d, some a =>
    let i := x.doneUnits
    if n ≤ i then s.finishCmd r c
    else s.hearthSend r [(a, 64 * i, 64)] [(d, 64 * i, 64)] fun s0 =>
      match (s0.hearthRead r a (64 * i) 64).hearthPut r d i (s.hearthBlock a i) with
      | none => s0.updHearth r fun h => { h with exec := h.exec.map fun y =>
          { y with heldBy := d.spadBlock i, waitFrom := some (y.waitFrom.getD s.clock.tick) } }
      | some s1 =>
        let s2 := (s1.houseDebit r (s.copyCost a i)).unitDone r
        if n = i + 1 then s2.finishCmd r c else s2
  | _, _ => s.refuseCmd r 0x04 c 0x01

/-- HCOPY (R449): a counting word in the destination refuses the command before any block is written. -/
def execHcopy (c : HCmd) (s : State) : Host.Outcome State Fault Refusal :=
  .next (s.command fun r s1 =>
    let n := c.imm.toNat
    let h := s1.hearth r
    match s1.hearthAddr r (h.hreg c.ha.toNat) (64 * n) 64, s1.hearthAddr r (h.hreg c.hb.toNat) (64 * n) 64 with
    | some d, some _ =>
      let counting := match d with
        | .spad m off => (s1.cell m).spad.words.any fun w => w.2.counting && decide (off / 4 ≤ w.1)
            && decide (w.1 < off / 4 + 16 * n)
        | .phys _ => false
      if counting then s1.refuseCmd r 0x04 c 0x07 else s1.beginCmd r (.hcopy c) 0
    | _, _ => s1.refuseCmd r 0x04 c 0x01)

/-! ### CFGLOAD (R447) -/

/-- The next cell of a CFGLOAD: it waits for a staged task that holds the cell's standby plane. -/
def State.loadStep (s : State) (r : Nat) (c : HCmd) (x : HExec) : State :=
  match regionWord ((s.hearth r).hreg c.ha.toNat), mfind (s.room r).store c.imm.toNat with
  | some g, some im =>
    match (regionCells r g)[x.doneUnits]? with
    | none => s.finishCmd r c
    | some k =>
      if !(s.cell k).shadow.isEmpty then s
      else
        let i : ImgRef := { ctn := im.1, img := im.2, x := cellX k % 8 - g.2.2.1, y := cellY k % 8 - g.2.2.2 }
        let s1 := if (s.cell k).standby = some i then s
          else (s.updCell k fun cl => { cl with standby := some i }).houseDebit r (8 * (s.imgCell i).blocks)
        let s2 := s1.unitDone r
        if (regionCells r g).length = x.doneUnits + 1 then s2.finishCmd r c else s2
  | _, _ => s.refuseCmd r 0x02 c 0x05

/-- CFGLOAD (R447). -/
def execCfgload (c : HCmd) (s : State) : Host.Outcome State Fault Refusal :=
  .next (s.command fun r s1 => s1.withRegion r 0x02 c fun g =>
    match mfind (s1.room r).store c.imm.toNat with
    | none => s1.refuseCmd r 0x02 c 0x05
    | some im =>
      if ((s1.ctn im.1).images.getD im.2 {}).fits g.1 g.2.1 g.2.2.1 g.2.2.2 then s1.beginCmd r (.cfgload c) 0
      else s1.refuseCmd r 0x02 c 0x05)

/-! ### CFGSWITCH (R200 to R204, R448) -/

/-- Whether some output or port of a gang feeds an input (R176). -/
def State.hasSource (s : State) (t : Task) (c e i : Nat) : Bool :=
  let feeds (ds : List Dest) : Bool := ds.any fun d => t.cellAt d.x d.y == c && d.e == e && d.i == i
  t.gang.any fun k =>
    ((s.cell k).elems.any fun p => p.2.outs.any fun o => feeds o.2) || (s.cell k).ports.any fun p => feeds p.2

/-- Whether a channel holds exactly one token, of tag 7 (R202). -/
def Input.onlySwitch (x : Input) : Bool :=
  x.q.length == 1 && (x.q.headD {}).tag == 7 && x.transit.isEmpty && x.reserved == 0

/-- The inputs of an element that have a source. -/
def State.fedInputs (s : State) (t : Task) (c e : Nat) : List Nat := (upTo 4).filter fun i => s.hasSource t c e i

/-- Whether an element is quiescent for a switch (R202). One without inputs that has nothing to fire needs no mark. -/
def State.elemSwitched (s : State) (t : Task) (c e : Nat) : Bool :=
  let el := s.elem c e
  match s.fedInputs t c e with
  | [] => el.switchMark || (el.source == 0 && el.done)
  | is => is.all fun i => (el.input i).onlySwitch

/-- The tag-7 token of a switch. -/
def switchToken : Token := { val := 0, tag := 7 }

/-- An element that is quiescent for the switch appends a tag-7 token to each routed output that has space (R202). -/
def State.forwardMark (s : State) (t : Task) (c e : Nat) : State :=
  if !s.elemSwitched t c e then s
  else foldState (upTo 4) s fun o st =>
    let el := st.elem c e
    let ds := el.out o
    if ds.isEmpty || el.forwarded.getLsbD o || !st.space t ds then st
    else (st.updElem c e fun x => { x with forwarded := x.forwarded ||| (1#4 <<< o) }).send t c ds switchToken

/-- Whether the engine behind a port of a cell is idle: 0 converter, 1 and 2 sort, 3 scan unit, 4 to 7 edge ports. The gated
scan unit has nothing in progress and keeps its place through the switch (R418, R422). -/
def Cell.portIdle (cl : Cell) (p : Nat) : Bool :=
  if p = 0 then cl.conv.job.isNone
  else if p < 3 then cl.mx.sort.isNone
  else if p = 3 then true
  else (cl.edge (p - 4)).op.isNone && (cl.edge (p - 4)).ends.isEmpty

/-- The engines of a gang forward the mark once they are idle, and a tag-7 token follows the last element of every
inbound edge port (R201, R202). -/
def State.forwardPorts (s : State) (t : Task) : State :=
  foldState t.gang s fun c st => foldState (upTo 8) st fun p q =>
    let cl := q.cell c
    let ds := cl.port p
    if ds.isEmpty || cl.fwdPorts.contains p || !cl.portIdle p || !q.space t ds then q
    else (q.updCell c fun k => { k with fwdPorts := k.fwdPorts ++ [p] }).send t c ds switchToken

/-- Whether a gang is quiescent for a switch (R200, R202); the gated scan unit keeps the block that it has read (R418). -/
def State.switchQuiet (s : State) (t : Task) : Bool :=
  (s.ops.all fun o => o.task != t.id || (o.opc == 0x100 && o.phase == .performed)) && t.gang.all fun c =>
    let cl := s.cell c
    cl.ctlNext.isEmpty && !cl.engineBusy && !cl.dda.anyRunning && !((upTo 4).any fun i => (mfind cl.mx.rules i).any (ruleCanFire cl))
      && (cl.tiles.all fun p => p.2.st == .empty || p.2.st == .ready)
      && (cl.elems.all fun p => p.2.held.isNone && p.2.ctlIn.isEmpty)
      && (cl.edges.all fun p => p.2.op.isNone && p.2.ends.isEmpty)
      && ((upTo (elemCount c)).all fun e => s.elemSwitched t c e)
      && cl.edges.all fun p => !s.hasSource t c (p.1 + 4) 0 || p.2.inq.onlySwitch

/-- An element as the switch leaves it: its g registers, taint, sticky status and ENG are kept (R203). -/
def Elem.switched (new old : Elem) : Elem :=
  { new with g := old.g, taint := old.taint, sticky := old.sticky, eng := old.eng }

/-- A DDA whose patches a switch replaces: a gated domain that they give other integrators stays STOPPED (R440). -/
def Dda.regrouped (new old : Dda) : Dda :=
  { new with doms := new.doms.map fun p => (p.1, if new.members p.1 = old.members p.1 then p.2 else { p.2 with gated := false }) }

/-- A cell as the switch leaves it: the planes exchange, and what R203 does not keep comes from the new image. -/
def Cell.switched (cl : Cell) (k : CellImg) (t : Task) : Cell :=
  let n := cl.withImage k t
  { n with elems := n.elems.map fun p => (p.1, p.2.switched (cl.elem p.1)), active := cl.standby, standby := cl.active,
           dda := n.dda.regrouped cl.dda, turned := none }

/-- The switch itself (R203): the tag-7 tokens are discarded and the gang runs on, on the new image. -/
def State.switchOver (s : State) (t : Task) : State :=
  let s1 := s.clearSwitch t
  let s2 := foldState t.gang s1 fun c st =>
    match (st.cell c).standby with
    | some i => st.updCell c fun cl => cl.switched (st.imgCell i) t
    | none => st
  (s2.ungateTask t).updTask t.id fun k => { k with iters := 0 }

/-- Begins a switch: the sources are gated, and every element with a `.source` slot and no input is marked (R201). -/
def State.beginSwitch (s : State) (t : Task) : State :=
  let s1 := s.gateTask t .switch
  let s2 := foldState t.gang s1 fun c st => foldState (upTo (elemCount c)) st fun e q =>
    if (q.elem c e).source != 0 && (q.fedInputs t c e).isEmpty then
      q.updElem c e fun el => { el with switchMark := true } else q
  s2.forwardPorts t

/-- Puts the withdrawn operations of a task back on their way (R452). -/
def State.reissueAll (s : State) (t : Task) : State :=
  { s with ops := s.ops.map fun (o : Op) => if o.task = t.id ∧ o.replay = true then s.reissue t t o else o }

/-- CFGSWITCH (R448), of a frozen gang too. It takes over the gating of a QUIESCE, and waits for a pre-emption that is under way; log
entry 84. -/
def execCfgswitch (c : HCmd) (s : State) : Host.Outcome State Fault Refusal :=
  .next (s.command fun r s1 => s1.withRegion r 0x03 c fun g =>
    match s1.gangAt r g with
    | none => s1.refuseCmd r 0x03 c 0x03
    | some t =>
      if (t.gang.any fun k => (s1.cell k).standby.isNone) = true then s1.refuseCmd r 0x03 c 0x03
      else
        let s2 := match t.gate with
          | .none => s1.beginSwitch t
          | .quiesce => (s1.reissueAll t).beginSwitch t
          | _ => s1
        s2.beginCmd r (.cfgswitch c) t.id)

/-- The progress of a switch (R202, R203): a region that is quiescent only after the limit is not switched. -/
def State.switchStep (s : State) (r : Nat) (c : HCmd) (x : HExec) : State :=
  match s.task? x.task with
  | none => s.refuseCmd r 0x03 c 0x03
  | some t =>
    if t.st ≠ .running then s.refuseCmd r 0x03 c 0x03
    else if t.frozen ∨ s.paused t = true then s
    else if t.gate = .none then s.beginSwitch t
    else if t.gate ≠ .switch ∨ x.since + c.imm.toNat < s.clock.tick then s
    else
      let s1 := s.forwardPorts t
      if s1.switchQuiet t then (s1.switchOver t).finishCmd r c else s1

/-- SWITCH_STUCK (R204, R265, R448): the hearth traps at its CFGSWITCH, the map is written before the frame, and the task is trapped;
of a gang already frozen the map is written and the fault is counted (R257). A quiescent region is switched in the tick of the limit. -/
def execSwitchStuck (s : State) : Host.Outcome State Fault Refusal :=
  .next (
    let r := s.cur.subject
    match (s.hearth r).exec with
    | none => s
    | some x =>
      match x.instr, s.task? x.task with
      | .cfgswitch c, some t =>
        let lim := x.since + c.imm.toNat
        if (s.hearth r).st ≠ .exec ∨ t.st ≠ .running ∨ s.paused t = true ∨ s.clock.tick < lim then s
        else if !t.frozen && t.gate == .switch && s.clock.tick == lim && s.switchQuiet t then (s.switchOver t).finishCmd r c
        else
          let reg : FaultReg := { code := 0x10, node := 15, cell := t.cellAt 0 0, info := 65536 }
          s.hearthWrites t true fun s0 =>
            let s1 := s0.updHearth r fun h => { h with st := .trapped, cause := 0x02, exec := none }
            if t.frozen then (s1.putMap t).countFault t else s1.enterTrap t { reg := reg } true
      | _, _ => s)

/-! ### GANGRUN (R450) -/

/-- Whether a tag can take a GANGRUN at a region. -/
def State.gangrunOk (s : State) (tag : Nat) (g : Nat × Nat × Nat × Nat) : Bool :=
  let e := (s.rtag tag).cur
  s.tagLoaded tag && !e.launch
    && (s.imageOf (s.handler e.handler)).fits g.1 g.2.1 g.2.2.1 g.2.2.2

/-- The bytes that a hearth reads at one of its addresses. -/
def State.hearthBytes (s : State) (a : HAddr) (n : Nat) : List Byte :=
  match a with
  | .spad c off => (s.cell c).spad.viewBytes off n none
  | .phys p => s.physBytes p n

/-- The PID of a GANGRUN's packet (R450). -/
def State.gangrunPid (s : State) (r : Nat) : BitVec 64 := BitVec.ofNat 64 (0xFFFF000000000000 + r * 65536 + (s.hearth r).pos)

/-- The packet of a GANGRUN joins its queue, pinned to the region; it waits while the pool stands at its reserve. A cancel of
its PID in the same tick comes after it (R461). -/
def State.gangrunJoin (s : State) (r : Nat) (c : HCmd) (g : Nat × Nat × Nat × Nat) (body : List Byte) : State :=
  let p : Packet := { dev := s.devNum, tag := natField c.imm.toNat 0 12, len := body.length, pid := s.gangrunPid r,
                      body := body }
  if s.qfree ≤ 1024 ∨ s.sched.cancels.contains p.pid = true then s
  else (s.enqueue p s.domainTime (some (r, g.2.2.1, g.2.2.2)) none).finishCmd r c

/-- The operands of a GANGRUN, checked: the region and the place of the body, or the reason of its refusal. -/
def State.gangrunArgs (s : State) (r : Nat) (c : HCmd) : Except Nat ((Nat × Nat × Nat × Nat) × Option HAddr) :=
  let h := s.hearth r
  let len := natField c.imm.toNat 12 8
  match regionWord (h.hreg c.ha.toNat) with
  | none => .error 0x02
  | some g =>
    if !s.gangrunOk (natField c.imm.toNat 0 12) g then .error 0x08
    else if len = 0 then .ok (g, none)
    else
      match s.hearthAddr r (h.hreg c.hb.toNat) len 1 with
      | none => .error 0x01
      | some a => .ok (g, some a)

/-- The progress of a GANGRUN: its body is read as a message of the hearth (R9, R45, R240); a poisoned body refuses it (R224); log
entry 44. -/
def State.gangrunStep (s : State) (r : Nat) (c : HCmd) (g : Nat × Nat × Nat × Nat) (body : Option HAddr) : State :=
  let len := natField c.imm.toNat 12 8
  match body with
  | none => s.gangrunJoin r c g []
  | some a =>
    if decide (s.qfree ≤ 1024) || s.sched.cancels.contains (s.gangrunPid r) then s
    else s.hearthSend r [(a, 0, len)] [] fun s1 =>
      if s.hearthPoison a len then (s1.hearthRead r a 0 len).refuseCmd r 0x05 c 0x01
      else (s1.hearthRead r a 0 len).gangrunJoin r c g (s.hearthBytes a len)

/-- GANGRUN (R450). -/
def execGangrun (c : HCmd) (s : State) : Host.Outcome State Fault Refusal :=
  .next (s.command fun r s1 =>
    match s1.gangrunArgs r c with
    | .error e => s1.refuseCmd r 0x05 c e
    | .ok a => (s1.beginCmd r (.gangrun c) 0).gangrunStep r c a.1 a.2)

/-! ### QUIESCE, CTXSAVE and CTXLOAD (R452, R453) -/

/-- A region reaches quiescence: its waiting operations stand withdrawn until a CTXSAVE or a release. -/
def State.quiesced (s : State) (r : Nat) (c : HCmd) (t : Task) : State := (s.withdrawAll t).finishCmd r c

/-- QUIESCE (R452), of a frozen gang too, and of one that is gated already: it gates the region once nothing else does; log
entry 84. -/
def execQuiesce (c : HCmd) (s : State) : Host.Outcome State Fault Refusal :=
  .next (s.command fun r s1 => s1.withRegion r 0x07 c fun g =>
    match s1.gangAt r g with
    | none => s1.refuseCmd r 0x07 c 0x03
    | some t =>
      if natBit c.imm.toNat 32 then
        if t.gate = .quiesce ∧ natField c.imm.toNat 0 32 = 0 then
          ((s1.reissueAll t).ungateTask t).finishCmd r c
        else s1.refuseCmd r 0x07 c 0x03
      else (if t.gate = .none then s1.gateTask t .quiesce else s1).beginCmd r (.quiesce c) t.id)

/-- The progress of a QUIESCE: quiescent, or its task holds the region no longer. -/
def State.quiesceStep (s : State) (r : Nat) (c : HCmd) (x : HExec) : State :=
  match s.task? x.task with
  | none => s.refuseCmd r 0x07 c 0x03
  | some t =>
    if t.st ∈ [.queued, .staged, .parked, .preempted] then s.refuseCmd r 0x07 c 0x03
    else if t.st ≠ .running then s
    else if t.gate = .none then s.gateTask t .quiesce
    else if t.gate = .quiesce ∧ t.frozen = false ∧ s.paused t = false ∧ t.faults.isEmpty = true ∧ s.gangQuiet t = true then
      s.quiesced r c t
    else s

/-- The QUIESCE commands whose task has ended in this tick are refused in it (R452). -/
def State.quiesceEnds (s : State) : State :=
  foldState (upTo 64) s fun r st =>
    match (st.hearth r).exec with
    | none => st
    | some x =>
      match x.instr with
      | .quiesce c => if (st.hearth r).st = .exec ∧ (st.task? x.task).all (fun t => t.st == .queued) = true then st.refuseCmd r 0x07 c 0x03 else st
      | _ => st

/-- QUIESCE_LIMIT_EXPIRE (R452, R461): quiescence wins in the tick of the limit. -/
def execQuiesceLimitExpire (s : State) : Host.Outcome State Fault Refusal :=
  .next (
    let r := s.cur.subject
    match (s.hearth r).exec with
    | none => s
    | some x =>
      match x.instr with
      | .quiesce c =>
        let lim := natField c.imm.toNat 0 32
        if (s.hearth r).st ≠ .exec ∨ lim = 0 ∨ s.clock.tick < x.since + lim ∨ s.paused (s.task x.task) = true then s
        else
          let s1 := s.quiesceStep r c x
          if (s1.hearth r).exec.isNone then s1
          else
            match s.task? x.task with
            | some t => (if t.gate = .quiesce then s.ungateTask t else s).refuseCmd r 0x07 c 0x04
            | none => s1
      | _ => s)

/-- The progress of a CTXSAVE: the save begins once the gang is quiescent, which a gang that a fault freezes is only after its trap
(R263, R268), and the command completes when the context is in the pool (R453). One that is gated no longer before that refuses it. -/
def State.ctxsaveStep (s : State) (r : Nat) (c : HCmd) (x : HExec) : State :=
  match s.task? x.task with
  | none => if x.doneUnits = 0 then s.refuseCmd r 0x08 c 0x03 else s.finishCmd r c
  | some t =>
    if x.doneUnits = 0 then
      if t.st ≠ .running ∨ t.gate ≠ .quiesce then s.refuseCmd r 0x08 c 0x03
      else if t.frozen ∨ t.faults.isEmpty = false ∨ s.paused t = true ∨ s.gangQuiet t = false then s
      else if s.poolFree < t.contextBytes then s.refuseCmd r 0x08 c 0x06
      else (s.beginSave t).unitDone r
    else if t.saving then s
    else s.finishCmd r c

/-- CTXSAVE (R453). -/
def execCtxsave (c : HCmd) (s : State) : Host.Outcome State Fault Refusal :=
  .next (s.command fun r s1 => s1.withRegion r 0x08 c fun g =>
    match s1.gangAt r g with
    | none => s1.refuseCmd r 0x08 c 0x03
    | some t =>
      if t.gate ≠ .quiesce then s1.refuseCmd r 0x08 c 0x03
      else if s1.poolFree < t.contextBytes then s1.refuseCmd r 0x08 c 0x06
      else s1.beginCmd r (.ctxsave c) t.id)

/-- Stages the preempted task of an age at a region, or refuses; under HOLD no task is staged, so it refuses (R111, R271,
R453). -/
def State.ctxloadStep (s : State) (r : Nat) (c : HCmd) (g : Nat × Nat × Nat × Nat) : State :=
  let age := ((s.hearth r).hreg c.hb.toNat).toNat
  match s.tasks.find? fun t => t.st == .preempted && !t.saving && t.age == age with
  | none => s.refuseCmd r 0x09 c 0x03
  | some t =>
    if s.sched.hold ∨ s.shape t ≠ (g.1, g.2.1) ∨ s.roomMay t r = false
        ∨ s.positionOk t r g.2.2.1 g.2.2.2 = false then
      s.refuseCmd r 0x09 c 0x05
    else (s.stageAt t r g.2.2.1 g.2.2.2).finishCmd r c

/-- CTXLOAD (R453). -/
def execCtxload (c : HCmd) (s : State) : Host.Outcome State Fault Refusal :=
  .next (s.command fun r s1 => s1.withRegion r 0x09 c fun g => (s1.beginCmd r (.ctxload c) 0).ctxloadStep r c g)

/-! ### TOPACCT (R458) -/

/-- TOPACCT (R458): the move is settled with the other requests to each account. -/
def execTopacct (c : HCmd) (s : State) : Host.Outcome State Fault Refusal :=
  .next (s.command fun r s1 =>
    if 2 ^ 48 ≤ ((s1.hearth r).hreg c.ha.toNat).toNat then s1.refuseCmd r 0x0E c 0x01
    else
      let n := s1.fresh
      let q : TopReq := { since := s1.clock.tick, acct := natField c.imm.toNat 16 16, task := n.1,
                          dest := some (natField c.imm.toNat 0 16), room := r, ha := c.ha.toNat }
      ({ n.2 with sched := { n.2.sched with reqs := n.2.sched.reqs ++ [q] } }).beginCmd r (.topacct c) n.1)

/-! ### Commands that take time (R300) -/

/-- HEARTH_CMD_COMPLETE (R300): the command in execution makes its next unit, or completes. One that has only its signal left makes it
in the next tick. -/
def execHearthCmdComplete (s : State) : Host.Outcome State Fault Refusal :=
  .next (
    let r := s.cur.subject
    match (s.hearth r).exec with
    | none => s
    | some x =>
      if (s.hearth r).st ≠ .exec then s
      else
        match x.ending with
        | some p => s.endCmd r p.1 p.2
        | none =>
        match x.instr with
        | .hcopy c => s.copyStep r c x
        | .cfgload c => s.loadStep r c x
        | .cfgswitch c => s.switchStep r c x
        | .trapret c => s.trapretStep r c
        | .gangrun c =>
          match s.gangrunArgs r c with
          | .error e => s.refuseCmd r 0x05 c e
          | .ok a => s.gangrunStep r c a.1 a.2
        | .quiesce c => s.quiesceStep r c x
        | .ctxsave c => s.ctxsaveStep r c x
        | .ctxload c => s.withRegion r 0x09 c fun g => s.ctxloadStep r c g
        | .topacct c => if x.doneUnits = 1 then s.finishCmd r c else s
        | _ => s)

/-- HEARTH_CONT (R171, R173): a 1 written to CONT takes a TRAPPED hearth past its trapping command. -/
def execHearthCont (room : Nat) (v : BitVec 64) (s : State) : Host.Outcome State Fault Refusal :=
  .next (if v.getLsbD 63 ∧ (s.hearth room).st = .trapped then
      s.updHearth room fun h => { h.goto (h.pos + 1) with cause := 0 }
    else s)

/-- A hearth's turn in WAIT: a command whose wait is met passes to EXEC, and WCON subtracts in the same turn (R171,
R300). The command itself is the second part. -/
def Room.passWait (r : Room) (w : BitVec 128) : Option Room :=
  let n := w.toNat
  let sem := natField n 114 8
  let thr := natField n 98 16
  if r.hearth.st ≠ .wait ∨ r.sem sem < thr then none
  else
    let k := if thr = 0 then r else r.test sem
    some { k with sems := if natBit n 97 then mput r.sems sem (r.sem sem - thr) 0 else r.sems,
                  hearth := { r.hearth with st := .exec, exec := none } }

end Sys2Proof.Machine
end

