-- ==== Sys2Proof/Machine/Intake.lean ====
section
/-! DEFINITION. The ways in and out of the device's queues: intake rings (R53 to R58), cancels (R67, R68), completion and
report rings (R59 to R63), the route-tag table (R64 to R66), the front door (R29 to R32, R69 to R74, R490). -/

namespace Sys2Proof.Machine

/-! ### Intake rings (R53 to R57) -/

/-- An intake ring. -/
def State.intakeRing (s : State) (n : Nat) : IntakeRing := mget s.intake n {}

/-- Changes an intake ring. -/
def State.updIntake (s : State) (n : Nat) (f : IntakeRing → IntakeRing) : State :=
  { s with intake := mset s.intake n (f (s.intakeRing n)) }

/-- The span of window 1 that a ring takes, and where its guard words begin (R26). -/
def ringSpan : Nat := 0x80000
def guardBase : Nat := 0x40000

/-- What a host write does to 256 bytes of slots: the slot's bytes, or nothing and true where its guard is full (R54). -/
def IntakeRing.putSlot (r : IntakeRing) (off : Nat) (bytes : List Byte) : IntakeRing × Bool :=
  if (mfind r.guards (off / 256)).isSome then (r, true) else ({ r with slots := r.slots.writeBytes off bytes }, false)

/-- What a host write does to a guard word (R54). -/
def IntakeRing.putGuard (r : IntakeRing) (off : Nat) (bytes : List Byte) : IntakeRing × Bool :=
  let i := (off - guardBase) / 4
  if bytes.length ≠ 4 ∨ (mfind r.guards i).isSome then (r, true)
  else ({ r with guards := mset r.guards i (bytesToNat bytes) }, false)

/-- The parts of a host write: each within one slot, one guard word, or a stretch that no name covers. -/
def intakePieces (off : Nat) : Nat → List Byte → List (Nat × List Byte)
  | 0, _ => []
  | _, [] => []
  | fuel + 1, bs =>
    let unit := if off % ringSpan < guardBase then 256 else 4
    let n := unit - off % unit
    (off, bs.take n) :: intakePieces (off + n) fuel (bs.drop n)

/-- One part of a host write; the rings that discarded something are gathered. -/
def State.intakePiece (s : State) (p : Nat × List Byte) : State × Option Nat :=
  let n := p.1 / ringSpan
  let o := p.1 % ringSpan
  if 8 ≤ n ∨ guardBase + 4096 ≤ o then (s, none)
  else
    let r := if o < guardBase then (s.intakeRing n).putSlot o p.2 else (s.intakeRing n).putGuard o p.2
    (s.updIntake n fun _ => r.1, if r.2 then some n else none)

/-- The parts of a host write in order. -/
def State.intakeAll (s : State) (lost : List Nat) : List (Nat × List Byte) → State × List Nat
  | [] => (s, lost)
  | p :: ps =>
    let r := s.intakePiece p
    r.1.intakeAll (match r.2 with
      | some n => if lost.contains n then lost else lost ++ [n]
      | none => lost) ps

/-- HOST_INTAKE_WRITE (R54): a write is counted once in DISCARDS of a ring that discards any of it. -/
def execHostIntakeWrite (off : Nat) (bytes : List Byte) (s : State) : Host.Outcome State Fault Refusal :=
  .next (
    let r := s.intakeAll [] (intakePieces off (bytes.length + 1) bytes)
    foldState r.2 r.1 fun n st => st.updIntake n fun k => { k with discards := min (k.discards + 1) (2 ^ 32 - 1) })

/-- A byte of a ring's part of window 1: a slot's, a guard word's, and zero where nothing is named (R26, R53). -/
def IntakeRing.byteAt (r : IntakeRing) (o : Nat) : Byte :=
  if o < guardBase then (r.slots.readBytes o 1).headD 0
  else if o < guardBase + 4096 then BitVec.ofNat 8 (natField (mget r.guards ((o - guardBase) / 4) 0) (8 * ((o - guardBase) % 4)) 8)
  else 0

/-- What a host read of window 1 returns (R26). -/
def State.intakeBytes (s : State) (off n : Nat) : List Byte :=
  (upTo n).map fun i =>
    if (off + i) / ringSpan < 8 then (s.intakeRing ((off + i) / ringSpan)).byteAt ((off + i) % ringSpan) else 0

/-- The bytes that a host read returns; `rd` holds the first eight (R26). -/
def State.returns (s : State) (bytes : List Byte) : State :=
  { s with rdBytes := bytes, rd := BitVec.ofNat 64 (bytesToNat (bytes.take 8)) }

/-- A host read of window 1. -/
def State.intakeRead (s : State) (off n : Nat) : State := s.returns (s.intakeBytes off n)

/-- The packet in the bytes of a slot (R50). -/
def packetOf (b : List Byte) : Packet :=
  let h := bytesToNat (b.take 16)
  let len := natField h 92 8
  { dev := natField h 115 13, tag := natField h 103 12, kind := natField h 101 2, cmode := natBit h 100, len := len,
    rsv := natField h 64 28, pid := BitVec.ofNat 64 h, body := (b.drop 16).take len }

/-! ### Cancel (R67, R68) -/

/-- The PID that a cancel names: body bytes 0 to 7. The bytes that a shorter body lacks count as zero; log entry 71. -/
def cancelTarget (p : Packet) : BitVec 64 := BitVec.ofNat 64 (bodyField p.body 0 8)

/-- A cancel acts on one task: a queued one is removed, ANY vanishes one that has not entered committing, and any other
case is too late. The task whose trap a removed handler task was to handle stays frozen; log entry 93. -/
def State.cancelTask (s : State) (anyMode : Bool) (id : Nat) : State :=
  match s.task? id with
  | none => s
  | some t =>
    if t.st = .queued then (s.report t.tag 0x02 t.pid (reportBody t.age 0 0 0 0 t.restarts 0)).endTask t (some 0x02)
    else if anyMode && t.st != .committing then s.vanish id .cancel
    else s.report t.tag 0x03 t.pid (s.taskReport t 0 t.lastCause)

/-- The tickets of a launch's unexpanded tasks released (R68, R115). -/
def State.releaseLaunch (s : State) (l : Launch) : State :=
  if l.ages.isEmpty then s
  else
    let more := (upTo l.unexpanded).map fun i => (l.ticket0 + l.next + i) % 2 ^ 32
    (s.updRtag l.tag fun r => { r with released := r.released ++ more }).openGate l.tag

/-- The unexpanded tasks of a launch removed together, with one record (R67). -/
def State.cancelLaunch (s : State) (l : Launch) : State :=
  let s1 : State := { s with launches := s.launches.map fun (k : Launch) =>
    if k.id = l.id then { k with next := k.nx * k.ny } else k }
  ((s1.report l.tag 0x02 l.pid []).releaseLaunch l).launchEnd l.id l.unexpanded l.next (some 0x02)

/-- A cancel acts (R67, R130): the dispatchers' turns of the tick come first; a GANGRUN of this PID comes in a later tick
(R461). -/
def State.cancel (s : State) (p : Packet) : State :=
  let sd := s.dispatchTick
  let s0 : State := { sd with sched := { sd.sched with cancels := sd.sched.cancels ++ [cancelTarget p] } }
  let ts := (s0.tasks.filter fun t => t.tag == p.tag && t.pid == cancelTarget p).map (·.id)
  let ls := s0.launches.filter fun l => l.tag == p.tag && l.pid == cancelTarget p && decide (0 < l.unexpanded)
  if ts.isEmpty && ls.isEmpty then s0.report p.tag 0x08 (cancelTarget p) []
  else (foldState ts (foldState ls s0 fun l st => st.cancelLaunch l) fun i st => st.cancelTask p.cmode i).touchWm p.tag

/-- CANCEL (R67): a cancel packet that passes the checks of R56. -/
def execCancel (p : Packet) (s : State) : Host.Outcome State Fault Refusal :=
  .next (if p.kind ≠ 1 then s
    else
      match s.rejectStatus p (16 + p.len) with
      | some st => s.report p.tag st p.pid []
      | none => s.cancel p)

/-- A packet of this device acts or joins its queue; none where it must wait for the pool's reserve (R56, R106). -/
def State.acceptPacket (s : State) (p : Packet) (guard time : Nat) (slot : Option (Nat × Nat)) : Option State :=
  match s.rejectStatus p guard with
  | some st => some ((s.report p.tag st p.pid []).freeSlot slot)
  | none =>
    if p.kind = 1 then some (s.cancel p)
    else if s.qfree ≤ 1024 then none
    else some (s.enqueue p time none slot)

/-- INTAKE_TAKE_SLOT (R51, R55, R56): a packet for another device is forwarded once a route exists. -/
def execIntakeTakeSlot (ring : Nat) (s : State) : Host.Outcome State Fault Refusal :=
  .next (
    let r := s.intakeRing ring
    match mfind r.guards r.next with
    | none => s
    | some g =>
      if !r.en then s
      else
        let p := packetOf (r.slots.readBytes (256 * r.next) 256)
        let out := if p.dev = s.devNum ∨ g ≠ 16 + p.len ∨ 256 < g then s.acceptPacket p g s.domainTime none
          else if s.routed (p.dev * 2 ^ 44) then some s else none
        match out with
        | none => s
        | some s1 => s1.updIntake ring fun k => { k with guards := mdel k.guards r.next, next := (r.next + 1) % 1024 })

/-! ### Rings (R59 to R63) -/

/-- The record of an attestation request is written: GO reads 0 (R79). -/
def State.attDone (s : State) : State := { s with lodge := { s.lodge with attGo := false, attStatus := 0x00 } }

/-- The buffered records that a ring can now take, in order (R62). -/
def State.drainNotices (s : State) : List Notice → List Notice → State
  | [], kept => { s with notices := kept }
  | n :: ns, kept =>
    if (kept.any fun k => k.ring == n.ring) || (s.ring n.ring).full then s.drainNotices ns (kept ++ [n])
    else
      let s1 := s.putRecord n.ring n.bytes
      (if n.att then s1.attDone else s1).drainNotices ns kept

/-- The buffered records written as room permits; watermarks follow, and waiting launch records are tried again (R62,
R93). -/
def State.drainRings (s : State) : State :=
  let s1 := (s.drainNotices s.notices []).touchAllWm
  foldState s1.launches s1 fun l st => st.launchRecord l

/-- HOST_RING_WRITE (R59, R62): PROD is read-only. -/
def execHostRingWrite (ring word : Nat) (v : BitVec 64) (s : State) : Host.Outcome State Fault Refusal :=
  .next (if 16 < ring then s
    else
      let n := v.toNat
      let r := s.ring ring
      let r1 : HostRing :=
        if word = 0 then { r with base := natField n 12 52 * 4096, sz := natField n 8 4, en := natBit n 0 }
        else { r with vec := natField n 48 16, cons := natField n 16 16 }
      ({ s with rings := mset s.rings ring r1 }).drainRings)

/-- RING_INTERRUPT (R63): at most one each microsecond, after PROD has advanced. -/
def execRingInterrupt (ring : Nat) (s : State) : Host.Outcome State Fault Refusal :=
  .next (
    let r := s.ring ring
    if r.irqDue && !(r.irqLast.any fun q => decide (s.clock.tbase < q + 4000)) then
      { s with rings := mset s.rings ring { r with irqDue := false, irqLast := some s.clock.tbase,
                                                   irqSent := r.irqSent + 1 } }
    else s)

/-! ### The route-tag table (R64 to R66) -/

/-- The four words of an entry as they read (R64). -/
def RouteTag.words (r : RouteTag) : List Nat :=
  let e := r.cur
  [bit r.en * 2 ^ 63 + bit r.pend * 2 ^ 62 + bit e.ord * 2 ^ 61 + bit e.launch * 2 ^ 60 + bit e.host * 2 ^ 59
     + bit e.mmode * 2 ^ 58 + bit e.unguarded * 2 ^ 57 + bit e.movr * 2 ^ 56 + e.prio * 2 ^ 53 + e.gw * 2 ^ 50
     + e.gh * 2 ^ 48 + e.handler * 2 ^ 32 + e.acct * 2 ^ 16,
   e.rooms.toNat, e.mbase * 2 ^ 32 + e.mper,
   e.hiwm * 2 ^ 48 + e.lowm * 2 ^ 32 + e.restart * 2 ^ 24 + e.ring * 2 ^ 16]

/-- A stage register (R64). -/
def State.stageWord (s : State) (i : Nat) : Nat := (mget s.sched.rtStage i 0).toNat

/-- The entry in the stage. -/
def State.stagedEntry (s : State) : RtEntry :=
  let a := s.stageWord 0
  let c := s.stageWord 2
  let d := s.stageWord 3
  { ord := natBit a 61, launch := natBit a 60, host := natBit a 59, mmode := natBit a 58, unguarded := natBit a 57,
    movr := natBit a 56, prio := natField a 53 3, gw := natField a 50 2, gh := natField a 48 2,
    handler := natField a 32 16, acct := natField a 16 16, rooms := BitVec.ofNat 64 (s.stageWord 1),
    mbase := natField c 32 32, mper := natField c 0 32, hiwm := natField d 48 16, lowm := natField d 32 16,
    restart := natField d 24 8, ring := natField d 16 8 }

/-- Whether the stage is refused with BADVAL (R65). -/
def State.stageBad (s : State) : Bool :=
  let e := s.stagedEntry
  natBit (s.stageWord 0) 52 || natField (s.stageWord 0) 0 16 != 0 || natField (s.stageWord 3) 0 16 != 0
    || decide (e.hiwm < e.lowm) || decide (15 < e.ring) || (!e.host && (mfind s.handlers e.handler).isNone)

/-- Whether a generation of a tag other than its current one still has tasks (R66). -/
def State.oldBusy (s : State) (tag : Nat) : Bool :=
  let g := (s.rtag tag).gen
  (s.tasks.any fun t => t.tag == tag && t.gen != g)
    || s.launches.any fun l => l.tag == tag && l.gen != g && decide (0 < l.unexpanded)

/-- A tag after an entry write: the new generation, the one before it, and every TAGCTL of the same tick in order (R66, R115). -/
def RouteTag.write (r : RouteTag) (e : RtEntry) (en : Bool) (tick : Nat) : RouteTag :=
  let n : RouteTag := { r with en := en, written := true, gen := r.gen + 1, cur := e,
                               old := if r.written then some r.cur else none }
  (r.ctl.filter fun c => c.tick == tick).foldl (fun x c => x.control c.imm) n

/-- The status and the tag of the last RT_CMD. -/
def State.rtDone (s : State) (tag status : Nat) : State :=
  { s with sched := { s.sched with rtTag := tag, rtStatus := status } }

/-- A write of RT_CMD with an OP that names no action: TAG is kept (R65). -/
def State.rtIdle (s : State) (v : BitVec 64) : State :=
  if natField v.toNat 62 2 = 0 ∨ natField v.toNat 62 2 = 3 then s.rtDone (natField v.toNat 0 12) s.sched.rtStatus else s

/-- The stage is written into an entry, or refused (R65, R66). -/
def State.rtWrite (s : State) (tag : Nat) : State :=
  if s.stageBad then s.rtDone tag 0x02
  else if s.oldBusy tag then s.rtDone tag 0x01
  else ((s.updRtag tag fun r => r.write s.stagedEntry (natBit (s.stageWord 0) 63) s.clock.tick).touchWm tag).rtDone tag 0x00

/-- The entry writes that waited for the lodge's restart, in order, each with the stage that it was given (R81). -/
def State.rtHeld (s : State) : State :=
  let ws := s.lodge.heldWrites
  let st := s.sched.rtStage
  let put (s1 : State) (m : AMap (BitVec 64)) : State := { s1 with sched := { s1.sched with rtStage := m } }
  put (foldState ws { s with lodge := { s.lodge with heldWrites := [] } } fun w s1 =>
    (put s1 w.stage).rtWrite (natField w.cmd.toNat 0 12)) st

/-- RT_WRITE (R65, R66): it waits while the lodge restarts, with the stage as it stands (R81); log entry 72. -/
def execRtWrite (v : BitVec 64) (s : State) : Host.Outcome State Fault Refusal :=
  .next (
    let tag := natField v.toNat 0 12
    if natField v.toNat 62 2 ≠ 1 then s.rtIdle v
    else if s.lodge.st = 6 then
      { s with lodge := { s.lodge with heldWrites := s.lodge.heldWrites ++ [{ cmd := v, stage := s.sched.rtStage }] }
               sched := { s.sched with rtTag := tag } }
    else s.rtWrite tag)

/-- RT_READ (R65). -/
def execRtRead (v : BitVec 64) (s : State) : Host.Outcome State Fault Refusal :=
  .next (
    let tag := natField v.toNat 0 12
    if natField v.toNat 62 2 ≠ 2 then s.rtIdle v
    else
      let ws := (s.rtag tag).words
      ({ s with sched := { s.sched with rtStage := (upTo 4).foldl (fun m i =>
        mput m i (BitVec.ofNat 64 (ws.getD i 0)) 0) s.sched.rtStage } }).rtDone tag 0x00)

/-! ### The front door (R29, R69 to R74, R490) -/

/-- A port of the front door. -/
def State.ethPort (s : State) (p : Nat) : EthPort := mget s.eth.ports p {}

/-- Changes a port. -/
def State.updPort (s : State) (p : Nat) (f : EthPort → EthPort) : State :=
  { s with eth := { s.eth with ports := mset s.eth.ports p (f (s.ethPort p)) } }

/-- A stream. -/
def State.stream (s : State) (n : Nat) : Stream := mget s.eth.streams n {}

/-- Changes a stream. -/
def State.updStream (s : State) (n : Nat) (f : Stream → Stream) : State :=
  { s with eth := { s.eth with streams := mset s.eth.streams n (f (s.stream n)) } }

/-- A big-endian field of a frame. -/
def frameField (b : List Byte) (off n : Nat) : Nat :=
  ((b.drop off).take n).foldl (fun a x => 256 * a + x.toNat) 0

/-- Whether a frame has bytes up to an offset. -/
def frameHas (b : List Byte) (n : Nat) : Bool := decide (n ≤ b.length)

/-- Whether two type bytes are a VLAN tag's (R490). -/
def isVlan (n : Nat) : Bool := n == 0x8100 || n == 0x88A8

/-- What a port reads in a frame (R490): the VID of the outermost tag, the two bytes after the last recognised tag, the
UDP destination port. -/
structure Parsed where
  vid : Option Nat := none
  etype : Nat := 0
  udp : Option Nat := none
  deriving DecidableEq, Repr

/-- The UDP destination port of a packet whose network header begins at an offset (R490). -/
def udpPort (b : List Byte) (etype off : Nat) : Option Nat :=
  if etype = 0x0800 then
    let ihl := 4 * natField (frameField b off 1) 0 4
    if frameHas b (off + ihl + 4) ∧ frameField b (off + 9) 1 = 17 ∧ frameField b (off + 6) 2 % 8192 = 0 then
      some (frameField b (off + ihl + 2) 2)
    else none
  else if etype = 0x86DD then
    if frameHas b (off + 44) ∧ frameField b (off + 6) 1 = 17 then some (frameField b (off + 42) 2) else none
  else none

/-- The parse of a frame (R490). -/
def parseFrame (b : List Byte) : Parsed :=
  let first := isVlan (frameField b 12 2)
  let second := first && isVlan (frameField b 16 2)
  let off := if second then 20 else if first then 16 else 12
  let et := frameField b off 2
  { vid := if first then some (frameField b 14 2 % 4096) else none, etype := et, udp := udpPort b et (off + 2) }

/-- Whether an enabled rule matches a frame (R69). -/
def ruleMatches (a : BitVec 64) (p : Parsed) : Bool :=
  let n := a.toNat
  natBit n 63 && (!natBit n 62 || p.etype == natField n 32 16) && (!natBit n 61 || p.vid == some (natField n 48 12))
    && (!natBit n 60 || p.udp == some (natField n 16 16))

/-- The rule that decides a frame: the first that matches (R69). -/
def EthPort.rule (e : EthPort) (p : Parsed) : Option Nat := (upTo 256).find? fun i => ruleMatches (mget e.ruleA i 0) p

/-- The stream that a rule names (R69). -/
def EthPort.ruleStream (e : EthPort) (i : Nat) : Nat := natField (mget e.ruleB i 0).toNat 0 10

/-- The ports whose enabled rules name a stream (R73). -/
def State.portsOf (s : State) (st : Nat) : List Nat :=
  (upTo 4).filter fun p => (s.ethPort p).ruleA.any fun r => r.2.getLsbD 63 && (s.ethPort p).ruleStream r.1 == st

/-- The slot size of a stream in bytes, none where the stream is disabled (R70, R72). -/
def Stream.slotSize (x : Stream) : Option Nat :=
  let k := natField x.cfg.toNat 28 4
  if natBit x.cfg.toNat 0 ∧ k ≤ 7 then some (2 ^ (k + 7)) else none

/-- The landing address of a slot (R70), also where the buffer runs past the landing's end; log entry 101. -/
def State.slotAddr (s : State) (x : Stream) (k size : Nat) : Nat :=
  s.devNum * 2 ^ 44 + 0x80000000000 + natField x.cfg.toNat 32 29 / 4096 * 4096 + k * size

/-- An ingress stamp in the layout of R30. -/
def stampNat (q : Nat) : Nat := q / 4000000000 * 2 ^ 32 + q % 4000000000

/-- The bytes of a slot (R71). -/
def slotBytes (f : EthFrame) (seq rule : Nat) : List Byte :=
  recBytes [(8, stampNat f.stamp), (4, seq), (2, f.bytes.length), (1, f.port), (1, rule), (16, 0)] ++ f.bytes

/-- A frame packet joins its queue or waits in arrival order (R71, R106). -/
def State.framePacket (s : State) (p : Packet) (time st slot : Nat) : State :=
  if !s.eth.waiting.isEmpty then { s with eth := { s.eth with waiting := s.eth.waiting ++ [(p, time, st, slot)] } }
  else
    match s.acceptPacket p (16 + p.len) time (some (st, slot)) with
    | some s1 => s1
    | none => { s with eth := { s.eth with waiting := [(p, time, st, slot)] } }

/-- The frame packets that wait, as far as the pool takes them (R106). -/
def State.flushFront (s : State) : List (Packet × Nat × Nat × Nat) → State
  | [] => { s with eth := { s.eth with waiting := [] } }
  | w :: ws =>
    match s.acceptPacket w.1 (16 + w.1.len) w.2.1 (some (w.2.2.1, w.2.2.2)) with
    | some s1 => s1.flushFront ws
    | none => { s with eth := { s.eth with waiting := w :: ws } }

/-- The bytes of the slot that a matched frame would take, as an address and a length; none where it would be dropped (R70 to
R72). -/
def State.landing (s : State) (f : EthFrame) (rule : Nat) : Option (Nat × Nat) :=
  let x := s.stream ((s.ethPort f.port).ruleStream rule)
  x.slotSize.bind fun size =>
    if size - 32 < f.bytes.length ∨ x.taken.contains x.nextSlot then none
    else some (s.slotAddr x x.nextSlot size, 32 + f.bytes.length)

/-- What keeps a frame's write from its home in this tick: an array in retention, whose exit begins, or a request of a later
place that was performed there (R45, R240). -/
def State.landingWaits (s : State) (f : EthFrame) (rule : Nat) : Option State :=
  (s.landing f rule).bind fun a =>
    let sleeping := s.retainedIn a.1 a.2
    if !sleeping.isEmpty then some (s.beginExit sleeping)
    else if s.tooLate (s.memArrivals [a] (doorKey f.port)) then some s
    else none

/-- A matched frame lands in its stream's next slot, or is dropped and counted (R71, R72). The rule's stream and TAG are read at
this moment; log entry 73. -/
def State.landFrame (s : State) (f : EthFrame) (rule : Nat) : State :=
  let e := s.ethPort f.port
  let n := e.ruleStream rule
  let x := s.stream n
  match x.slotSize with
  | none => s.updPort f.port fun k => { k with noMatch := min (k.noMatch + 1) (2 ^ 32 - 1) }
  | some size =>
    let seq := x.nextSeq
    let s1 := s.updStream n fun k => { k with nextSeq := (seq + 1) % 2 ^ 32 }
    if size - 32 < f.bytes.length then s1.updStream n fun k => { k with dropLen := min (k.dropLen + 1) (2 ^ 32 - 1) }
    else if x.taken.contains x.nextSlot then
      s1.updStream n fun k => { k with dropFull := min (k.dropFull + 1) (2 ^ 32 - 1) }
    else
      let slot := x.nextSlot
      let bytes := slotBytes f seq rule
      let a := s.slotAddr x slot size
      let s2 := ((s1.arrive (s1.memArrivals [(a, bytes.length)] (doorKey f.port))).putBytes a bytes).homeWatch a bytes.length true
        { kind := 6, x := f.port, y := f.port, dev := s.devNum }
      let s3 := s2.updStream n fun k =>
        { k with taken := k.taken ++ [slot], nextSlot := (slot + 1) % (natField x.cfg.toNat 16 12 + 1) }
      let p : Packet := { dev := s.devNum, tag := natField (mget e.ruleB rule 0).toNat 20 12, len := 18,
                          pid := BitVec.ofNat 64 (stampNat f.stamp),
                          body := recBytes [(2, n), (2, slot), (4, seq), (8, stampNat f.stamp), (2, f.bytes.length)] }
      s3.framePacket p (s.toDomain f.stamp) n slot

/-- Whether a frame is a PAUSE or priority flow control frame (R29): MAC control, opcode 0x0001 or 0x0101. -/
def isPause (b : List Byte) : Bool :=
  frameField b 12 2 == 0x8808 && (frameField b 14 2 == 0x0001 || frameField b 14 2 == 0x0101)

/-- Whether a frame's stamp is one that its port can give now: later than the port's last one, and earlier than now by the
calibrated delay of the port's path and at most the 100 ns that the reception of the longest frame takes (R30, R32, R73). -/
def State.stampOk (s : State) (f : EthFrame) : Bool :=
  let e := s.ethPort f.port
  let t := f.stamp + e.delay
  decide (t ≤ s.clock.tbase) && decide (s.clock.tbase ≤ t + 400) && e.lastStamp.all fun q => decide (q < f.stamp)

/-- A frame that carries a stamp, matched, landed or held (R32, R69, R73): behind the frames of its stream that are held, and
while its write must wait, it is held too; log entry 73. -/
def State.takeFrame (s : State) (f : EthFrame) : State :=
  let p := f.port
  match (s.ethPort p).rule (parseFrame f.bytes) with
  | none => s.updPort p fun k => { k with noMatch := min (k.noMatch + 1) (2 ^ 32 - 1) }
  | some i =>
    let n := (s.ethPort p).ruleStream i
    let keep (st : State) : State := st.updStream n fun x => { x with held := x.held ++ [(f, i)] }
    if (s.stream n).slotSize.isSome ∧ (1 < (s.portsOf n).length ∨ !(s.stream n).held.isEmpty) then keep s
    else
      match s.landingWaits f i with
      | some s1 => keep s1
      | none => s.landFrame f i

/-- ETH_FRAME_RECEIVE (R29, R32, R69, R73): a frame of a stream that several ports feed is held. A stamp that the port cannot
give is no reception of this part. Frames are taken in every STATE of the lodge; log entry 103. -/
def execEthFrameReceive (frame : EthFrame) (s : State) : Host.Outcome State Fault Refusal :=
  .next (
    let p := frame.port
    let top := 2 ^ 32 - 1
    if 4 ≤ p then s
    else if !frame.fcsOk then s.updPort p fun k => { k with fcs := min (k.fcs + 1) top }
    else if 9212 < frame.bytes.length then s.updPort p fun k => { k with oversize := min (k.oversize + 1) top }
    else if isPause frame.bytes then s.updPort p fun k => { k with pause := min (k.pause + 1) top }
    else if !s.stampOk frame then s
    else (s.updPort p fun k => { k with lastStamp := some frame.stamp }).takeFrame frame)

/-- The held frame of the earliest stamp, the lower port first (R73). -/
def firstHeld (l : List (EthFrame × Nat)) : Option (EthFrame × Nat) :=
  l.foldl (fun best x =>
    match best with
    | none => some x
    | some b => if x.1.stamp < b.1.stamp ∨ (x.1.stamp = b.1.stamp ∧ x.1.port < b.1.port) then some x else some b) none

/-- The merge delay of a stream in quarter nanoseconds (R73). -/
def State.mergeDelay (s : State) (n : Nat) : Nat := ((s.portsOf n).map fun p => (s.ethPort p).delay).foldl max 0 + 400

/-- Whether a stream's held frame may go: its merge delay has passed, or one port alone feeds the stream (R73). -/
def State.heldDue (s : State) (n : Nat) (f : EthFrame) : Bool :=
  decide ((s.portsOf n).length ≤ 1) || decide (f.stamp + s.mergeDelay n < s.clock.tbase)

/-- ETH_FRAME_RELEASE (R73). -/
def execEthFrameRelease (stream : Nat) (s : State) : Host.Outcome State Fault Refusal :=
  .next (match firstHeld (s.stream stream).held with
    | none => s
    | some f =>
      if !s.heldDue stream f.1 then s
      else
        match s.landingWaits f.1 f.2 with
        | some s1 => s1
        | none => (s.updStream stream fun x => { x with held := x.held.erase f }).landFrame f.1 f.2)

end Sys2Proof.Machine
end

