-- ==== Sys2Proof/Machine/Integer.lean ====
section
/-! DEFINITION. The integer instructions, opcodes 0x00 to 0x1F (R334 to R337). -/

namespace Sys2Proof.Machine

/-- NOP (R334). -/
def execNop (f : Slot) (s : State) : Host.Outcome State Fault Refusal :=
  .next (s.plain 0x00 f 8 fun _ _ => {})

/-- MOV (R334). -/
def execMov (f : Slot) (s : State) : Host.Outcome State Fault Refusal :=
  .next (s.plain 0x01 f 8 fun x _ => { r := x.a })

/-- ADD (R334). -/
def execAdd (f : Slot) (s : State) : Host.Outcome State Fault Refusal :=
  .next (s.plain 0x02 f 8 fun x _ => addRes x.a x.b false)

/-- ADDC (R334). -/
def execAddc (f : Slot) (s : State) : Host.Outcome State Fault Refusal :=
  .next (s.plain 0x03 f 8 fun x _ => addRes x.a x.b x.cin)

/-- SUB (R334). -/
def execSub (f : Slot) (s : State) : Host.Outcome State Fault Refusal :=
  .next (s.plain 0x04 f 8 fun x _ => subRes x.a x.b false)

/-- SUBB (R334). -/
def execSubb (f : Slot) (s : State) : Host.Outcome State Fault Refusal :=
  .next (s.plain 0x05 f 8 fun x _ => subRes x.a x.b x.cin)

/-- MUL (R334). -/
def execMul (f : Slot) (s : State) : Host.Outcome State Fault Refusal :=
  .next (s.plain 0x06 f 12 fun x _ => mulRes x.a x.b)

/-- MULH (R334). -/
def execMulh (f : Slot) (s : State) : Host.Outcome State Fault Refusal :=
  .next (s.plain 0x07 f 12 fun x _ => mulhRes x.a x.b)

/-- MULHU (R334). -/
def execMulhu (f : Slot) (s : State) : Host.Outcome State Fault Refusal :=
  .next (s.plain 0x08 f 12 fun x _ => mulhuRes x.a x.b)

/-- DIV (R335). -/
def execDiv (f : Slot) (s : State) : Host.Outcome State Fault Refusal :=
  .next (s.plain 0x09 f 40 fun x _ => divRes x.a x.b)

/-- DIVU (R335). -/
def execDivu (f : Slot) (s : State) : Host.Outcome State Fault Refusal :=
  .next (s.plain 0x0A f 40 fun x _ => divuRes x.a x.b)

/-- REM (R335). -/
def execRem (f : Slot) (s : State) : Host.Outcome State Fault Refusal :=
  .next (s.plain 0x0B f 40 fun x _ => remRes x.a x.b)

/-- REMU (R335). -/
def execRemu (f : Slot) (s : State) : Host.Outcome State Fault Refusal :=
  .next (s.plain 0x0C f 40 fun x _ => remuRes x.a x.b)

/-- AND (R334). -/
def execAnd (f : Slot) (s : State) : Host.Outcome State Fault Refusal :=
  .next (s.plain 0x0D f 8 fun x _ => { r := x.a &&& x.b })

/-- OR (R334). -/
def execOr (f : Slot) (s : State) : Host.Outcome State Fault Refusal :=
  .next (s.plain 0x0E f 8 fun x _ => { r := x.a ||| x.b })

/-- XOR (R334). -/
def execXor (f : Slot) (s : State) : Host.Outcome State Fault Refusal :=
  .next (s.plain 0x0F f 8 fun x _ => { r := x.a ^^^ x.b })

/-- ANDN (R334). -/
def execAndn (f : Slot) (s : State) : Host.Outcome State Fault Refusal :=
  .next (s.plain 0x10 f 8 fun x _ => { r := x.a &&& ~~~x.b })

/-- SHL (R336). -/
def execShl (f : Slot) (s : State) : Host.Outcome State Fault Refusal :=
  .next (s.plain 0x11 f 8 fun x _ => shlRes x.a x.b)

/-- SHR (R336). -/
def execShr (f : Slot) (s : State) : Host.Outcome State Fault Refusal :=
  .next (s.plain 0x12 f 8 fun x _ => shrRes x.a x.b)

/-- SRA (R336). -/
def execSra (f : Slot) (s : State) : Host.Outcome State Fault Refusal :=
  .next (s.plain 0x13 f 8 fun x _ => sraRes x.a x.b)

/-- ROT (R336). -/
def execRot (f : Slot) (s : State) : Host.Outcome State Fault Refusal :=
  .next (s.plain 0x14 f 8 fun x _ => rotRes x.a x.b)

/-- CLZ (R336). -/
def execClz (f : Slot) (s : State) : Host.Outcome State Fault Refusal :=
  .next (s.plain 0x15 f 8 fun x _ => clzRes x.a)

/-- POPC (R336). -/
def execPopc (f : Slot) (s : State) : Host.Outcome State Fault Refusal :=
  .next (s.plain 0x16 f 8 fun x _ => popcRes x.a)

/-- BFX (R336). -/
def execBfx (f : Slot) (s : State) : Host.Outcome State Fault Refusal :=
  .next (s.plain 0x17 f 8 fun x _ => bfxRes x.a x.b)

/-- BFI (R336): DST is read as the third source. -/
def execBfi (f : Slot) (s : State) : Host.Outcome State Fault Refusal :=
  .next (s.plain 0x18 f 8 fun x s0 => bfiRes x.a x.b ((s0.elem x.c x.e).greg f.dst.toNat))

/-- MIN (R334). -/
def execMin (f : Slot) (s : State) : Host.Outcome State Fault Refusal :=
  .next (s.plain 0x19 f 8 fun x _ => minRes x.a x.b)

/-- MAX (R334). -/
def execMax (f : Slot) (s : State) : Host.Outcome State Fault Refusal :=
  .next (s.plain 0x1A f 8 fun x _ => maxRes x.a x.b)

/-- MINU (R334). -/
def execMinu (f : Slot) (s : State) : Host.Outcome State Fault Refusal :=
  .next (s.plain 0x1B f 8 fun x _ => minuRes x.a x.b)

/-- MAXU (R334). -/
def execMaxu (f : Slot) (s : State) : Host.Outcome State Fault Refusal :=
  .next (s.plain 0x1C f 8 fun x _ => maxuRes x.a x.b)

/-- SEL (R334). -/
def execSel (f : Slot) (s : State) : Host.Outcome State Fault Refusal :=
  .next (s.plain 0x1D f 8 fun x _ => selRes x.a x.b x.cin)

/-- ICMP (R334, R295). -/
def execIcmp (f : Slot) (s : State) : Host.Outcome State Fault Refusal :=
  .next (s.plain 0x1E f 8 fun x _ => cmpRes (icmpCond f.otag x.a x.b))

/-- The bit that a PLOG computes from the predicates as they stood (R337). -/
def plogOf (el : Elem) (f : Slot) : Bool := plogBit el.pb (f.src1.toNat % 8) (f.dst.toNat % 8) f.src2

/-- PLOG (R337): the bit goes to P[PIDX]; R is the bit. -/
def execPlog (f : Slot) (s : State) : Host.Outcome State Fault Refusal :=
  .next (s.fire 0x1F f fun x s0 => s0.offer x 8 fun s1 =>
    let v := plogOf (s0.elem x.c x.e) f
    (s1.finish x { r := BitVec.ofNat 32 (bit v) } x.tnt).updElem x.c x.e fun el =>
      { el with pb := setPred el.pb f.pidx.toNat v })

end Sys2Proof.Machine
end

