-- ==== Sys2Proof/Machine/Registers.lean ====
section
/-! DEFINITION. The control registers of window 0 (R26, R27): what each offset reads, what a read clears, and the writes
that have no row of their own; then the registers of the lodge and of the accounts whose writes have a row. -/

namespace Sys2Proof.Machine

/-- The index of a register in an array of a base, a count and a stride; none outside it or off the stride. -/
def regIndex (off base count stride : Nat) : Option Nat :=
  if base ≤ off ∧ off < base + count * stride ∧ (off - base) % stride = 0 then some ((off - base) / stride) else none

/-- The words of a log's register (R150). -/
def HostLog.word (l : HostLog) (i : Nat) : Nat := if i = 0 then l.base + l.sz * 2 ^ 8 + bit l.en else l.prod

/-- Word 0 of a log's register written (R150). -/
def HostLog.put (l : HostLog) (v : Nat) : HostLog :=
  { l with base := natField v 12 52 * 4096, sz := natField v 8 4, en := natBit v 0 }

/-! ### Reads -/

/-- The registers of the lodge (R27, R48, R75, R76, R79, R80, R95). -/
def State.lodgeWord (s : State) (off : Nat) : Nat :=
  let l := s.lodge
  match off with
  | 0x00 => l.lost * 2 ^ 48 + l.nxw * 2 ^ 40 + l.roomsOff * 2 ^ 32 + l.img * 2 ^ 4 + l.st
  | 0x08 => l.cuts * 2 ^ 16 + l.causeWing * 2 ^ 14 + l.causeRoom * 2 ^ 10 + l.cause
  | 0x10 => l.attAddr.toNat
  | 0x18 => (mget l.attNonce 0 0).toNat
  | 0x20 => (mget l.attNonce 1 0).toNat
  | 0x28 => (mget l.attNonce 2 0).toNat
  | 0x30 => (mget l.attNonce 3 0).toNat
  | 0x38 => bit l.attGo * 2 ^ 63 + l.attLen * 2 ^ 32 + l.attStatus
  | 0x40 => l.epochSec * 2 ^ 32 + l.epochNs
  | 0x48 => l.ptp.toNat
  | 0x50 => l.ptpst.offset.toNat * 2 ^ 32 + l.ptpst.step * 2 ^ 4 + l.ptpst.state
  | 0x60 => mget l.rb 0 0
  | 0x68 => mget l.rb 1 0
  | 0x70 => mget l.rb 2 0
  | _ => 0

/-- The power registers (R36, R40, R47). -/
def State.powerWord (s : State) (off : Nat) : Nat :=
  let p := s.power
  match off with
  | 0x100040 => p.droopTicks
  | 0x100048 => p.eccLim
  | 0x100050 => p.idleTicks
  | 0x100058 => p.errs * 2 ^ 32 + bit p.locked * 2 ^ 16 + p.safe
  | _ =>
    match regIndex off 0x100000 4 8, regIndex off 0x100020 4 8, regIndex off 0x101000 64 8 with
    | some i, _, _ => (s.rail i).status * 2 ^ 40 + (if i = 3 then (s.rail i).freq * 2 ^ 16 else 0) + (s.rail i).volt
    | _, some w, _ => (mget p.stall w 0).toNat
    | _, _, some r => (s.room r).temp.toNat
    | _, _, _ => 0

/-- SCHED_TAGST (R120). -/
def State.tagWord (s : State) (n : Nat) : Nat :=
  let r := s.rtag n
  let active := (s.tasks.filter fun t => t.tag == n && t.st != .queued && t.st != .committing).length
  min (s.depth n) 0xFFFF * 2 ^ 48 + s.effPrio n * 2 ^ 45 + bit r.wm * 2 ^ 44 + min active 0xFFF * 2 ^ 32
    + (if r.cur.ord then r.next else 0)

/-- A stage register as it reads: its reserved bits are zero (R4, R64). -/
def readMask (i v : Nat) : Nat :=
  if i = 0 then natField v 53 11 * 2 ^ 53 + natField v 16 36 * 2 ^ 16 else if i = 3 then v / 2 ^ 16 * 2 ^ 16 else v

/-- The intake, ring, scheduler and account registers (R58, R59, R64, R65, R103, R111, R112, R120, R142). -/
def State.schedWord (s : State) (off : Nat) : Nat :=
  let c := s.sched
  match off with
  | 0x202020 => c.rtStatus * 2 ^ 48 + c.rtTag
  | 0x203000 => c.qcap * 2 ^ 44 + s.qfree * 2 ^ 24 + bit c.checker * 2 + bit c.hold
  | 0x203008 => (upTo 64).foldl (fun a r => a + (if (s.room r).absent then 0 else 2 ^ r)) 0
  | 0x203010 => c.qcap * 96 * 2 ^ 32 + c.qpoolOff
  | 0x203018 => c.cpoolBase
  | 0x203020 => c.cpoolSize
  | _ =>
    match regIndex off 0x200000 8 8, regIndex off 0x201000 34 8, regIndex off 0x202000 4 8, regIndex off 0x210000 4096 8,
        regIndex off 0x300000 262144 8 with
    | some n, _, _, _, _ => (s.intakeRing n).discards * 2 ^ 32 + (s.intakeRing n).next * 2 ^ 16 + bit (s.intakeRing n).en
    | _, some i, _, _, _ =>
      let r := s.ring (i / 2)
      if i % 2 = 0 then r.base + r.sz * 2 ^ 8 + bit r.en else r.vec * 2 ^ 48 + r.cons * 2 ^ 16 + r.prod
    | _, _, some i, _, _ => readMask i (s.stageWord i)
    | _, _, _, some n, _ => s.tagWord n
    | _, _, _, _, some i =>
      let a := s.acct (i / 4)
      if i % 4 = 0 then a.balance else if i % 4 = 1 then a.consumed
      else if i % 4 = 2 then a.ceil * 2 ^ 32 + a.outPackets else 0
    | _, _, _, _, _ => 0

/-- The state code of a hearth (R173). -/
def hearthCode : HearthSt → Nat
  | .idle => 0
  | .wait => 1
  | .exec => 2
  | .trapped => 3
  | .ended => 4

/-- A register of a room's block (R27, R126, R139, R173, R258, R264, R376, R442). -/
def Room.word (r : Room) (off : Nat) : Nat :=
  match off with
  | 0x00 => r.hearth.cause * 2 ^ 40 + hearthCode r.hearth.st * 2 ^ 32 + r.hearth.pos
  | 0x08 => r.trapBase.toNat
  | 0x10 => r.trapVa.toNat
  | 0x18 =>
    let parked := (r.waitTab.filter fun w =>
      match w with
      | .park _ _ _ => true
      | .set _ => false).length
    parked * 2 ^ 48 + (r.waitTab.length - parked) * 2 ^ 40 + r.parkThresh
  | 0x20 => r.dlock
  | 0x28 => r.hkAcct
  | 0x30 => r.herr.count * 2 ^ 48 + r.herr.a * 2 ^ 32 + r.herr.b * 2 ^ 16 + r.herr.c
  | 0x38 => r.axlost.count * 2 ^ 48 + r.axlost.b * 2 ^ 32 + r.axlost.a
  | _ => 0

/-- Whether an invalidation still waits for an access that used an entry it dropped (R235). -/
def State.invBusy (s : State) : Bool := s.logs.invWait.any fun i => (s.op? i).any fun o => o.phase != .performed

/-- The logs, debug, translation and watch registers (R150, R219, R234, R235, R262, R267, R275, R279, R280, R303, R328). -/
def State.debugWord (s : State) (off : Nat) : Nat :=
  let g := s.logs
  match off with
  | 0x600000 => g.meter.word 0
  | 0x600008 => g.meter.word 1
  | 0x600010 => g.trap.word 0
  | 0x600018 => g.trap.word 1
  | 0x600020 => g.wlog.word 0
  | 0x600028 => g.wlog.word 1
  | 0x600030 => g.pf.word 0
  | 0x600038 => g.pf.word 1
  | 0x600040 => g.haltScope * 2 ^ 60 + g.haltSt * 2 ^ 57 + cellX g.haltCell * 2 ^ 6 + cellY g.haltCell
  | 0x600048 => g.cfgLoad.toNat
  | 0x600050 => g.cfgLoadSt.toNat
  | 0x600058 => bit s.invBusy * 2 ^ 63 + g.inv.toNat
  | 0x600060 => g.wakeReg.toNat
  | _ =>
    match regIndex off 0x610000 256 8, regIndex off 0x620000 4 8, regIndex off 0x621000 64 8, regIndex off 0x700000 2048 8 with
    | some a, _, _, _ => (mget g.roots a 0).toNat
    | _, some w, _, _ => (mget g.xovf w {}).count * 2 ^ 48 + (mget g.xovf w {}).a * 2 ^ 4
    | _, _, some i, _ => (mget g.watch i 0).toNat
    | _, _, _, some i => (s.room (i / 32)).word (8 * (i % 32))
    | _, _, _, _ => 0

/-- The Ewejan and Ethernet registers (R24, R69, R70, R74). -/
def State.linkWord (s : State) (off : Nat) : Nat :=
  match regIndex off 0x800000 96 8, regIndex off 0xA00000 1024 8, regIndex off 0xA10000 2048 8 with
  | some p, _, _ =>
    let e := mget s.ewj p {}
    e.peer * 2 ^ 51 + e.peerPort * 2 ^ 44 + e.retries * 2 ^ 16 + e.lanes.toNat * 2 ^ 6 + e.st * 2 ^ 3
  | _, some n, _ => (s.stream n).cfg.toNat
  | _, _, some i =>
    let x := s.stream (i / 2)
    if i % 2 = 0 then x.nextSeq * 2 ^ 32 + x.nextSlot else x.dropFull * 2 ^ 32 + x.dropLen
  | _, _, _ =>
    if 0x900000 ≤ off ∧ off < 0x910000 ∧ off % 8 = 0 then
      let e := s.ethPort ((off - 0x900000) / 0x4000)
      let o := (off - 0x900000) % 0x4000
      if o < 0x1000 then (if o % 16 = 0 then (mget e.ruleA (o / 16) 0).toNat else (mget e.ruleB (o / 16) 0).toNat)
      else if o = 0x1000 then e.fcs * 2 ^ 32 + e.oversize
      else if o = 0x1008 then e.pause * 2 ^ 32 + e.noMatch
      else 0
    else 0

/-- What an aligned 8-byte read of window 0 returns (R27). -/
def State.regWord (s : State) (off : Nat) : Nat :=
  if off < 0x100000 then s.lodgeWord off
  else if off < 0x200000 then s.powerWord off
  else if off < 0x600000 then s.schedWord off
  else if off < 0x800000 then s.debugWord off
  else s.linkWord off

/-! ### What a read clears -/

/-- The counters of a port cleared by a read of a word of ETH_PORTST (R74). -/
def EthPort.clear (e : EthPort) (o : Nat) : EthPort :=
  if o = 0x1000 then { e with fcs := 0, oversize := 0 } else if o = 0x1008 then { e with pause := 0, noMatch := 0 } else e

/-- The state after a read of a register: the counters that a read clears are zero (R24, R58, R74, R142, R219, R376,
R442). -/
def State.readClears (s : State) (off : Nat) : State :=
  match regIndex off 0x200000 8 8, regIndex off 0x300000 262144 8, regIndex off 0x620000 4 8, regIndex off 0x700000 2048 8 with
  | some n, _, _, _ => s.updIntake n fun k => { k with discards := 0 }
  | _, some i, _, _ => if i % 4 = 1 then s.updAcct (i / 4) fun a => { a with consumed := 0 } else s
  | _, _, some w, _ =>
    { s with logs := { s.logs with xovf := mset s.logs.xovf w { mget s.logs.xovf w {} with count := 0 } } }
  | _, _, _, some i =>
    if i % 32 = 6 then s.updRoom (i / 32) fun r => { r with herr := { r.herr with count := 0 } }
    else if i % 32 = 7 then s.updRoom (i / 32) fun r => { r with axlost := { r.axlost with count := 0 } }
    else s
  | _, _, _, _ =>
    match regIndex off 0x800000 96 8, regIndex off 0xA10000 2048 8 with
    | some p, _ => { s with ewj := mset s.ewj p { mget s.ewj p {} with retries := 0 } }
    | _, some i => if i % 2 = 1 then s.updStream (i / 2) fun x => { x with dropFull := 0, dropLen := 0 } else s
    | _, _ =>
      if 0x900000 ≤ off ∧ off < 0x910000 ∧ off % 8 = 0 then
        s.updPort ((off - 0x900000) / 0x4000) fun e => e.clear ((off - 0x900000) % 0x4000)
      else s

/-- COUNTER_READ_CLEAR (R27, R74): an aligned read of any register of window 0; the value stands in `rd`. -/
def execCounterReadClear (off : Nat) (s : State) : Host.Outcome State Fault Refusal :=
  .next { s.readClears off with rd := BitVec.ofNat 64 (s.regWord off), rdBytes := natToBytes 8 (s.regWord off) }

/-! ### Writes without a row of their own (R27) -/

/-- A register of a room's block written; ROOM_HEARTH has its own row. -/
def Room.putWord (r : Room) (off v : Nat) : Room :=
  match off with
  | 0x08 => { r with trapBase := BitVec.ofNat 64 (natField v 17 27 * 2 ^ 17 + natField v 0 1) }
  | 0x10 => { r with trapVa := BitVec.ofNat 64 (natField v 0 48) }
  | 0x18 => { r with parkThresh := natField v 0 32 }
  | 0x20 => { r with dlock := natField v 0 32 }
  | 0x28 => { r with hkAcct := natField v 0 16 }
  | _ => r

/-- A register of the lodge or of power written: the attestation address and nonce, LODGE_CAUSE, and three power limits
(R44, R47, R48, R79). -/
def State.putLow (s : State) (off v : Nat) : State :=
  let l := s.lodge
  match off with
  | 0x08 => { s with lodge := { l with cuts := 0, causeWing := 0, causeRoom := 0, cause := 0 } }
  | 0x10 => { s with lodge := { l with attAddr := BitVec.ofNat 64 v } }
  | 0x18 => { s with lodge := { l with attNonce := mput l.attNonce 0 (BitVec.ofNat 64 v) 0 } }
  | 0x20 => { s with lodge := { l with attNonce := mput l.attNonce 1 (BitVec.ofNat 64 v) 0 } }
  | 0x28 => { s with lodge := { l with attNonce := mput l.attNonce 2 (BitVec.ofNat 64 v) 0 } }
  | 0x30 => { s with lodge := { l with attNonce := mput l.attNonce 3 (BitVec.ofNat 64 v) 0 } }
  | 0x100040 => { s with power := { s.power with droopTicks := max 16 (natField v 0 16) } }
  | 0x100050 => { s with power := { s.power with idleTicks := natField v 0 32 } }
  | _ => s

/-- A register of the intake, the stage, the scheduler or an account written (R58, R64, R111, R142). -/
def State.putSched (s : State) (off v : Nat) : State :=
  if off = 0x202020 then s.rtIdle (BitVec.ofNat 64 v)
  else if off = 0x203000 then { s with sched := { s.sched with checker := natBit v 1, hold := natBit v 0 } }
  else
    match regIndex off 0x200000 8 8, regIndex off 0x202000 4 8, regIndex off 0x300000 262144 8 with
    | some n, _, _ => s.updIntake n fun k => { k with en := natBit v 0 }
    | _, some i, _ => { s with sched := { s.sched with rtStage := mput s.sched.rtStage i (BitVec.ofNat 64 v) 0 } }
    | _, _, some i => if i % 4 = 2 then s.updAcct (i / 4) fun a => { a with ceil := natField v 32 32 } else s
    | _, _, _ => s

/-- A register of the logs, the translation roots, the home watchpoints or a room written (R150, R234, R279). -/
def State.putDebug (s : State) (off v : Nat) : State :=
  let g := s.logs
  match off with
  | 0x600000 => { s with logs := { g with meter := g.meter.put v } }
  | 0x600010 => { s with logs := { g with trap := g.trap.put v } }
  | 0x600020 => { s with logs := { g with wlog := g.wlog.put v } }
  | 0x600030 => { s with logs := { g with pf := g.pf.put v } }
  | _ =>
    match regIndex off 0x610000 256 8, regIndex off 0x621000 64 8, regIndex off 0x700000 2048 8 with
    | some a, _, _ =>
      { s with logs := { g with roots := mput g.roots a (BitVec.ofNat 64 (natField v 20 37 * 2 ^ 20 + natField v 0 1)) 0 } }
    | _, some i, _ =>
      { s with logs := { g with watch := mput g.watch i (BitVec.ofNat 64 (natField v 61 3 * 2 ^ 61 + natField v 0 44)) 0 } }
    | _, _, some i => s.updRoom (i / 32) fun r => r.putWord (8 * (i % 32)) v
    | _, _, _ => s

/-- A register of the front door written (R69, R70). A stream keeps its next slot, its taken slots and its sequence number
through a write of its configuration; log entry 73. -/
def State.putLink (s : State) (off v : Nat) : State :=
  match regIndex off 0xA00000 1024 8 with
  | some n => s.updStream n fun x => { x with cfg := BitVec.ofNat 64 (natField v 44 17 * 2 ^ 44 + natField v 16 16 * 2 ^ 16 + natField v 0 1) }
  | none =>
    if 0x900000 ≤ off ∧ off < 0x910000 ∧ off % 8 = 0 ∧ (off - 0x900000) % 0x4000 < 0x1000 then
      let i := (off - 0x900000) % 0x4000 / 16
      s.updPort ((off - 0x900000) / 0x4000) fun e =>
        if off % 16 = 0 then { e with ruleA := mput e.ruleA i (BitVec.ofNat 64 (natField v 16 48 * 2 ^ 16)) 0 }
        else { e with ruleB := mput e.ruleB i (BitVec.ofNat 64 (natField v 20 12 * 2 ^ 20 + natField v 0 10)) 0 }
    else s

/-- REGISTER_WRITE (R4, R27): an aligned write of a register that has no row of its own; reserved bits and read-only
fields are ignored. -/
def execRegisterWrite (off : Nat) (v : BitVec 64) (s : State) : Host.Outcome State Fault Refusal :=
  .next (if off < 0x200000 then s.putLow off v.toNat
    else if off < 0x600000 then s.putSched off v.toNat
    else if off < 0x800000 then s.putDebug off v.toNat
    else s.putLink off v.toNat)

/-! ### Window 2 (R26) -/

/-- Whether a host access through window 2 reaches memory (R26, R112). -/
def State.windowOk (s : State) (addr n : Nat) (write : Bool) : Bool :=
  let l := localLevel addr
  (l == .landing || l == .cellar || l == .attic) && localLevel (addr + n - 1) == l
    && !(write && s.inPools addr n)

/-- A byte as window 2 reads it: the pools and what is no memory read as zero (R26, R112). -/
def State.windowByte (s : State) (addr : Nat) : Byte :=
  if s.windowOk addr 1 false && !s.inPools addr 1 then s.physByte (s.devNum * 2 ^ 44 + addr) else 0

/-- A read of window 0 of another size than 8 bytes, or not at a multiple of 8, returns zeros (R27). -/
def State.oddRead (s : State) (off n : Nat) : State :=
  if n = 8 ∧ off % 8 = 0 then s else s.returns (List.replicate n 0)

/-- The bytes of a read through window 2: those of a poisoned block, which no read takes, are free values (R26, R224); log entry
88. -/
def State.windowBytes (s : State) : Nat → Nat → List Byte × State
  | _, 0 => ([], s)
  | a, n + 1 =>
    let hidden := s.windowOk a 1 false && !s.inPools a 1 && tagPoison (s.physTag (s.devNum * 2 ^ 44 + a))
    let f := if hidden then s.free else (0, s)
    let r := f.2.windowBytes (a + 1) n
    ((if hidden then f.1.setWidth 8 else s.windowByte a) :: r.1, r.2)

/-- HOST_MEMORY_WINDOW (R26, R45, R223, R240): a raw access, which keeps block tags and waits for slices in retention and for its
place in the order of the tick, after every cell's requests; log entry 2. -/
def execHostMemoryWindow (write : Bool) (addr : Nat) (bytes : List Byte) (s : State) : Host.Outcome State Fault Refusal :=
  .next (
    let pa := s.devNum * 2 ^ 44 + addr
    let n := bytes.length
    let ag : Agent := { kind := 7, dev := s.devNum }
    let sleeping := s.retainedIn pa n
    let as := s.memArrivals [(pa, n)] hostKey
    if !s.windowOk addr n write then (if write then s else s.returns ((upTo n).map fun i => s.windowByte (addr + i)))
    else if !sleeping.isEmpty then s.beginExit sleeping
    else if s.tooLate as then s
    else if write then ((s.arrive as).putBytes pa bytes).homeWatch pa n true ag
    else
      let r := ((s.arrive as).homeWatch pa n false ag).windowBytes addr n
      r.2.returns r.1)

/-! ### Registers with a row of their own -/

/-- ACCT_BALANCE_WRITE (R142). -/
def execAcctBalanceWrite (acct : Nat) (v : BitVec 64) (s : State) : Host.Outcome State Fault Refusal :=
  .next (if 65536 ≤ acct then s
    else s.updAcct acct fun a =>
      { a with balance := (max 0 (min ((a.balance : Int) + natToInt 48 v.toNat) ((2 ^ 48 - 1 : Nat) : Int))).toNat })

/-- Whether a task is live (R95). -/
def State.anyLive (s : State) : Bool := !s.tasks.isEmpty || s.launches.any fun l => decide (0 < l.unexpanded)

/-- LODGE_EPOCH_WRITE (R95). -/
def execLodgeEpochWrite (v : BitVec 64) (s : State) : Host.Outcome State Fault Refusal :=
  .next (if s.sched.hold && !s.anyLive then
      { s with lodge := { s.lodge with epochSec := natField v.toNat 32 32, epochNs := natField v.toNat 0 30 } }
    else s)

/-- LODGE_PTP_WRITE (R75): a transport of 3 is refused; a change of port or transport, and an enabling, starts the client
afresh. OFFSET then reads 0 until the next measurement; log entry 102. -/
def execLodgePtpWrite (v : BitVec 64) (s : State) : Host.Outcome State Fault Refusal :=
  .next (
    let n := v.toNat
    let old := s.lodge.ptp.toNat
    if natField n 4 2 = 3 then s
    else
      let new := natField n 8 8 * 2 ^ 8 + natField n 2 4 * 2 ^ 2 + natField n 0 1
      let st : PtpReport :=
        if !natBit n 0 then { s.lodge.ptpst with port := natField n 2 2, state := 0 }
        else if natField n 2 4 ≠ natField old 2 4 ∨ !natBit old 0 then { port := natField n 2 2, step := 15, state := 1 }
        else s.lodge.ptpst
      { s with lodge := { s.lodge with ptp := BitVec.ofNat 64 new, ptpst := st } })

/-- PTP_MESSAGE (R31, R75): the client, where it is enabled on that port, takes the state that the message leads to. -/
def execPtpMessage (report : PtpReport) (s : State) : Host.Outcome State Fault Refusal :=
  .next (
    let p := s.lodge.ptp.toNat
    if natBit p 0 ∧ report.port = natField p 2 2 ∧ 1 ≤ report.state ∧ report.state ≤ 4
        ∧ (report.step ≤ 1 ∨ report.step = 15) then { s with lodge := { s.lodge with ptpst := report } }
    else s)

/-- The version to which a class's counter may advance (R80). -/
def State.verifiedVersion (s : State) (cls : Nat) : Nat :=
  if cls = 0 then mget s.lodge.versions s.lodge.img 0
  else if cls = 1 then mget s.lodge.versions (2 + s.power.fwImg) 0
  else mget s.lodge.verified 2 0

/-- ROLLBACK_ADVANCE (R80). -/
def execRollbackAdvance (cls : Nat) (v : BitVec 64) (s : State) : Host.Outcome State Fault Refusal :=
  .next (
    let ver := natField v.toNat 0 32
    if cls < 3 ∧ natBit v.toNat 63 ∧ mget s.lodge.rb cls 0 < ver ∧ ver ≤ s.verifiedVersion cls then
      { s with lodge := { s.lodge with rb := mset s.lodge.rb cls ver } }
    else s)

/-! ### Attestation (R78, R79) -/

/-- The bytes of the route-tag table: 4,096 entries as they read (R78). -/
def State.tagTable (s : State) : List Byte :=
  (upTo 4096).flatMap fun t => (s.rtag t).words.flatMap (natToBytes 8)

/-- Thirty-two bytes of a text, zero beyond its end. -/
def thirtyTwo (b : List Byte) : List Byte := (b ++ List.replicate 32 0).take 32

/-- The report but for its signature (R78). -/
def State.attBody (s : State) : List Byte :=
  let cs := (upTo 65536).filterMap s.ctn?
  let image (i : Nat) : List Byte := thirtyTwo (Config.shake256 (mget s.lodge.images i []))
  recBytes [(4, 0x54414A4C), (2, 1), (2, s.ctns.length)] ++ thirtyTwo (Config.shake256 Config.identityKey)
    ++ (upTo 4).flatMap (fun i => natToBytes 8 (mget s.lodge.attNonce i 0).toNat)
    ++ image 0 ++ image 1 ++ image 2 ++ image 3
    ++ recBytes [(1, s.lodge.img + 2 * s.power.fwImg), (7, 0)] ++ thirtyTwo (Config.shake256 s.tagTable)
    ++ recBytes [(8, s.lodgeWord 0), (8, 0)] ++ cs.flatMap fun c => thirtyTwo c.digest

/-- The whole report: the signature's length is that of every signature of the device (R78). -/
def State.attReport (s : State) : List Byte :=
  let len := min (Config.falconSign []).length 1600
  let body := s.attBody ++ natToBytes 2 len
  let sig := Config.falconSign (Config.shake256 body)
  body ++ (sig ++ List.replicate len 0).take len

/-- The record of an attestation report: written to ring 16 or buffered; one that finds both full is lost, and the request is
then done with it (R62, R79); log entry 74. -/
def State.attRecord (s : State) (len : Nat) : State :=
  let r := recordBytes s.devNum 0 0x00 (mget s.lodge.attNonce 0 0) (fullBody (natToBytes 4 len))
  if !s.ringBusy 16 then (s.putRecord 16 r).attDone
  else if s.notices.length < 4096 then { s with notices := s.notices ++ [{ ring := 16, att := true, bytes := r }] }
  else { s.attDone with lodge := { s.attDone.lodge with lost := min (s.lodge.lost + 1) 0xFFFF } }

/-- The attestation request that is under way is answered (R78, R79); GO reads 1 until its record is written. ADDR and the nonce
are read here, as they stand when a restart that the request waited for ends; log entry 74. -/
def State.attest (s : State) : State :=
  let addr := s.lodge.attAddr.toNat
  if addr % 64 ≠ 0 then { s with lodge := { s.lodge with attGo := false, attStatus := 0x02 } }
  else
    let b := s.attReport
    let s1 := { s with hostMem := s.hostMem.writeBytes addr b }
    ({ s1 with lodge := { s1.lodge with attLen := b.length % 2 ^ 16 } }).attRecord b.length

/-- ATTESTATION_REQUEST (R78, R79, R81): a write of GO to word 5; it waits while the lodge restarts. -/
def execAttestationRequest (v : BitVec 64) (s : State) : Host.Outcome State Fault Refusal :=
  .next (if s.lodge.attGo || !natBit v.toNat 63 then s
    else
      let s1 := { s with lodge := { s.lodge with attGo := true, attStatus := 0x01 } }
      if s.lodge.st = 6 then s1 else s1.attest)

end Sys2Proof.Machine
end

