-- ==== Sys2Proof/Machine/Power.lean ====
section
/-! DEFINITION. Power and thermal control (R33 to R49): rails, droop hold, undervolting, retention, temperature, current, the
power firmware; and what becomes of a room that is disabled (R102). -/

namespace Sys2Proof.Machine

/-! ### Requests and steps (R33, R36 to R38) -/

/-- The floor of a rail in mV, on the fabric rail that of the frequency, and the top of its range (R33). -/
def railFloor (i f : Nat) : Nat := if i = 2 then 600 else if i = 3 then 450 + (f + 3) / 4 else 850
def railTop (i : Nat) : Nat := if i = 2 then 800 else if i = 3 then 850 else 1000

/-- The status with which a request is denied, none where it is accepted (R37, R43). -/
def Power.denies (p : Power) (i volt freq : Nat) : Option Nat :=
  if volt < railFloor i freq ∨ (i = 2 ∧ p.locked = true ∧ volt < 750) then some 0x02
  else if railTop i < volt ∨ (i = 3 ∧ (freq < 800 ∨ 1600 < freq)) then some 0x03
  else none

/-- RAIL_REQUEST (R37): a denied request keeps the point; an accepted one takes the place of one that has not begun, which
then reports superseded until the new one begins; log entry 76. -/
def execRailRequest (rail : Nat) (v : BitVec 64) (s : State) : Host.Outcome State Fault Refusal :=
  .next (
    let volt := natField v.toNat 0 16
    let freq := if rail = 3 then natField v.toNat 16 16 else 0
    if 3 < rail then s
    else
      match s.power.denies rail volt freq with
      | some st => s.updPower fun p => p.updRail rail fun r => { r with status := st }
      | none => s.updPower fun p => p.updRail rail fun r =>
          { r with status := if r.pending.isSome then 0x04 else 0x01, pending := some (volt, freq) })

/-- The rail when its pending request begins (R38): a rise in frequency raises the voltage first, a fall lowers the
frequency first, and the other part follows when the step completes. -/
def Rail.begin (r : Rail) (volt freq : Nat) : Rail :=
  let b : Rail := { r with pending := none, step := some (volt, freq), status := if r.status = 0x04 then 0x01 else r.status }
  if r.freq < freq then { b with volt := volt } else if freq < r.freq then { b with freq := freq } else b

/-- RAIL_STEP_COMPLETE (R37, R38, R49): a step that has begun completes; a pending request begins where the firmware
runs. -/
def execRailStepComplete (rail : Nat) (s : State) : Host.Outcome State Fault Refusal :=
  .next (
    let r := s.rail rail
    if 3 < rail then s
    else
      match r.step with
      | some p => s.updPower fun w =>
          let w1 := w.updRail rail fun k => k.finish p.1 p.2
          if rail = 2 ∧ p.1 ≠ r.volt then { w1 with steady := false } else w1
      | none =>
        match r.pending with
        | some p => if s.power.fwHung then s else s.updPower fun w => w.updRail rail fun k => k.begin p.1 p.2
        | none => s)

/-! ### Droop, current, temperature, stall counts -/

/-- DROOP_DETECT (R41) in a wing: a new droop restarts the count. -/
def execDroopDetect (s : State) : Host.Outcome State Fault Refusal :=
  .next (if s.cur.subject < 4 then
      s.updPower fun p => { p with droopUntil := mset p.droopUntil s.cur.subject (s.clock.tick + p.droopTicks) }
    else s)

/-- DROOP_HOLD_EXPIRE (R41). -/
def execDroopHoldExpire (s : State) : Host.Outcome State Fault Refusal :=
  .next (match mfind s.power.droopUntil s.cur.subject with
    | some t => if t ≤ s.clock.tick then s.updPower fun p => { p with droopUntil := mdel p.droopUntil s.cur.subject } else s
    | none => s)

/-- CURRENT_LIMIT (R35). -/
def execCurrentLimit (wing : Nat) (on : Bool) (s : State) : Host.Outcome State Fault Refusal :=
  .next (if wing < 4 then s.updPower fun p => { p with capped := mset p.capped wing on } else s)

/-- Ten microseconds in quarter nanoseconds (R1, R40, R42, R46). -/
def window10us : Nat := 40000

/-- Whether a window of 10 µs has passed since an instant. -/
def State.windowDue (s : State) (last : Nat) : Bool := decide (last + window10us ≤ s.clock.tbase)

/-- PWR_STALL_WINDOW (R40): a window ends 10 µs after the last one. The stalls for cistern charge and banks are the operands;
on the fabric rail at least the ticks count in which a channel of the model stalled. -/
def execPwrStallWindow (wing matrix vector sram fabric : Nat) (s : State) : Host.Outcome State Fault Refusal :=
  .next (if wing < 4 ∧ s.windowDue (mget s.power.stallAt wing 0) = true then
      let sat (n : Nat) : Nat := min n 0xFFFF
      let fab := max fabric (mget s.power.fabTicks wing 0)
      let w := BitVec.ofNat 64 (sat matrix * 2 ^ 48 + sat vector * 2 ^ 32 + sat sram * 2 ^ 16 + sat fab)
      s.updPower fun p => { p with stall := mset p.stall wing w, stallAt := mset p.stallAt wing s.clock.tbase,
                                   fabTicks := mdel p.fabTicks wing }
    else s)

/-- ROOM_TEMP_SAMPLE (R46): every 10 µs; 115 °C and 110 °C in quarter degrees. -/
def execRoomTempSample (room : Nat) (temp : BitVec 16) (s : State) : Host.Outcome State Fault Refusal :=
  .next (if room < 64 ∧ s.windowDue (s.room room).tempAt = true then
      s.updRoom room fun r => { r with temp := temp, tempAt := s.clock.tbase, capHalved := if 460 ≤ temp.toInt then true
        else if temp.toInt < 440 then false else r.capHalved }
    else s)

/-! ### Undervolting (R42, R43) -/

/-- SRAM_ECC_WINDOW (R42), 10 µs after the last one: the safe point falls to a voltage held for the whole window, or the rail
rises to it. -/
def execSramEccWindow (errs : Nat) (s : State) : Host.Outcome State Fault Refusal :=
  .next (
    let p := s.power
    let v := (s.rail 2).volt
    let p1 := { p with errs := min errs 0xFFFF, steady := true, eccAt := s.clock.tbase }
    if !s.windowDue p.eccAt then s
    else if errs ≤ p.eccLim then
      { s with power := if p.steady && decide (v < p.safe) then { p1 with safe := v } else p1 }
    else if v < p.safe then { s with power := { p1.updRail 2 fun r => { r with volt := p.safe } with steady := false } }
    else { s with power := p1 })

/-- ECCLIM_WRITE (R43, R47). -/
def execEcclimWrite (v : BitVec 64) (s : State) : Host.Outcome State Fault Refusal :=
  .next (s.updPower fun p => { p with eccLim := natField v.toNat 0 32, locked := false })

/-! ### Rooms out of service (R102) -/

/-- A room disabled: its logical room absent, its tasks that hold cells vanish with UE (R102). -/
def State.disableRoom (s : State) (r : Nat) : State :=
  let ts := (s.tasks.filter fun t => t.room == r
    && (t.st == .staged || t.st == .running || t.st == .gated || t.st == .parked)).map (·.id)
  let s1 := if (s.room r).absent then s
    else { s.updRoom r fun k => { k with absent := true } with
            lodge := { s.lodge with roomsOff := s.lodge.roomsOff + 1 } }
  foldState ts s1 fun i st => st.vanish i .ue

/-- Vanishes the tasks that hold some cells. -/
def State.vanishCells (s : State) (cs : List Nat) (c : Cause) : State :=
  foldState cs s fun x st =>
    match st.owner? x with
    | some t => st.vanish t.id c
    | none => st

/-- A self-test of a cell comes due (R272). -/
def State.testDue (s : State) (c : Nat) : State :=
  let s1 := s.logError c 2
  { s1 with lodge := { s1.lodge with
                                   pendingTests := if s.lodge.pendingTests.contains c then s.lodge.pendingTests
                                     else s.lodge.pendingTests ++ [c] } }

/-- The tasks that read a word at the same moment, in one combined request (R252, R273). -/
def State.readersOf (s : State) (pa : Nat) : List Nat :=
  let parts := (s.combos.filter fun k => k.pa / 64 == pa / 64).flatMap fun k => k.parts.map (·.1)
  (parts.filterMap fun i => (s.op? i).map (·.cell))

/-- An uncorrectable error at its site (R272, R273): the tasks that saw it vanish, a lasting one poisons its block and
retires its page, and an error in a cell's arrays brings a self-test of the cell. Under `undervolt` the home has read the word
again at the safe point: only a lasting error brings the test, and it poisons a scratchpad's block (R43). -/
def State.ueAt (s : State) (site : UeSite) (cause : Cause) (undervolt : Bool) : State :=
  match site with
  | .cell c _ lasting => (if undervolt && !lasting then s else s.testDue c).vanishCells [c] cause
  | .home c pa lasting =>
    let s1 := s.vanishCells (c :: s.readersOf pa) cause
    if lasting then (((s1.poisonBlock pa).logError pa 0).retirePage pa) else if undervolt then s1 else s1.logError pa 3
  | .spad c m blk lasting =>
    let s1 := (if undervolt && !lasting then s else s.testDue m).vanishCells [c, m] cause
    if lasting && undervolt then
      let bad (p : Spad) : BitVec 16 := BitVec.ofNat 16 (tagFmt (mget p.tags blk 0) + 256 * 0x80)
      s1.updCell m fun cl => { cl with spad := { cl.spad with tags := mset cl.spad.tags blk (bad cl.spad) } }
    else s1

/-- An uncorrectable error met while the SRAM rail is below 750 mV (R43). -/
def State.ueLow (s : State) (site : UeSite) : State := (s.updPower Power.rollback).ueAt site .ueUndervolt true

/-- Whether an access of SRAM met the error: a cell's arrays, a scratchpad's, or the landing's (R42, R43). -/
def State.ueSram (s : State) : UeSite → Bool
  | .cell _ sram _ => sram
  | .home _ pa _ => s.level pa == .landing
  | .spad _ _ _ _ => true

/-- UE_DETECT (R272, R273): below 750 mV an error that an access of SRAM met takes the course of R43. -/
def execUeDetect (site : UeSite) (s : State) : Host.Outcome State Fault Refusal :=
  .next (if s.lowSram && s.ueSram site then s.ueLow site else s.ueAt site .ue false)

/-- UE_UNDERVOLT (R43): only of an error that an access of SRAM met, while the SRAM rail is below 750 mV. -/
def execUeUndervolt (site : UeSite) (s : State) : Host.Outcome State Fault Refusal :=
  .next (if s.lowSram && s.ueSram site then s.ueLow site else s)

/-- LODGE_SELF_TEST (R272): a cell whose test is due; a fault that lasts takes its room out of service. -/
def execLodgeSelfTest (cell : Nat) (ok : Bool) (s : State) : Host.Outcome State Fault Refusal :=
  .next (if s.lodge.pendingTests.contains cell then
      let s1 := { s with lodge := { s.lodge with pendingTests := s.lodge.pendingTests.filter fun c => c != cell } }
      if ok then s1 else s1.disableRoom (roomOf cell)
    else s)

/-! ### Retention (R44, R45) -/

/-- Whether a landing slice holds a lock entry: the home of some set's lowest address lies in it (R10, R164). -/
def State.sliceLocked (s : State) (wing n : Nat) : Bool :=
  s.locks.any fun l =>
    let pa := s.walkPhys (s.ctn l.ctn).asid (s.setBase l.ctn l.set)
    s.level pa == .landing && (s.homeWing pa).getD 0 == wing && sliceOf pa == n

/-- Whether an array is idle (R44). -/
def State.arrayIdle (s : State) : RetArray → Bool
  | .spad c => kindOf c == .memory && (s.cell c).owner.isNone
  | .slice w n => decide (w < 4) && decide (n < 32) && s.power.idleTicks != 0 && !s.sliceLocked w n
      && decide (mget s.power.sliceUse (32 * w + n) 0 + s.power.idleTicks ≤ s.clock.tick)

/-- RETENTION_ENTER (R44). -/
def execRetentionEnter (arr : RetArray) (s : State) : Host.Outcome State Fault Refusal :=
  .next (if s.arrayIdle arr && !s.retained arr then s.updPower fun p => { p with retained := p.retained ++ [arr] } else s)

/-- RETENTION_EXIT (R45): an exit that an access or the prefetcher began completes, and the accesses that waited go on. -/
def execRetentionExit (arr : RetArray) (s : State) : Host.Outcome State Fault Refusal :=
  .next (if s.power.exiting.contains arr then
      s.updPower fun p => { p with retained := p.retained.filter fun a => a != arr,
                                   exiting := p.exiting.filter fun a => a != arr }
    else s)

/-! ### The power firmware (R49, R77) -/

/-- Whether an image of a class passes the checks of R77: its signature, and its version against the rollback counter. -/
def State.imageOk (s : State) (cls : Nat) (image : List Byte) (version : Nat) : Bool :=
  Config.falconVerify 0 0 (Config.shake256 image) [] && decide (mget s.lodge.rb cls 0 ≤ version)

/-- The idle image of a pair written (R49, R81): images 0 and 1 are the lodge's, 2 and 3 the power firmware's. -/
def Lodge.putImage (l : Lodge) (i version : Nat) (image : List Byte) : Lodge :=
  { l with images := mset l.images i image, versions := mset l.versions i version }

/-- One millisecond in quarter nanoseconds (R1, R49). -/
def oneMs : Nat := 4000000

/-- PWR_WATCHDOG (R49): firmware that has not checked in for 1 ms is reset. The rails keep their points. -/
def execPwrWatchdog (s : State) : Host.Outcome State Fault Refusal :=
  .next (if s.power.checkIn + oneMs ≤ s.clock.tbase then
      s.updPower fun p => { p with fwHung := true, checkIn := s.clock.tbase }
    else s)

/-- POWER_FIRMWARE_UPDATE (R49, R77): the idle image is written; one that passes its checks is restarted into. -/
def execPowerFirmwareUpdate (image : List Byte) (version : Nat) (s : State) : Host.Outcome State Fault Refusal :=
  .next (
    let idle := 1 - s.power.fwImg
    let s1 := { s with lodge := s.lodge.putImage (2 + idle) version image }
    if s.imageOk 1 image version then
      s1.updPower fun p => { p with fwHung := true, fwImg := idle, checkIn := s.clock.tbase }
    else s1)

/-- The power firmware as time passes (R49): by free values it checks in, or resumes after a reset or a restart; log entry
77. -/
def State.firmwareActs (s : State) : State :=
  let f := s.free
  if f.1.getLsbD 0 then f.2.updPower fun p => { p with fwHung := false, checkIn := s.clock.tbase } else f.2

end Sys2Proof.Machine
end

