-- ==== Sys2Proof/Machine/Links.lean ====
section
/-! DEFINITION. Ewejan messages (R16 to R22), reset, the losses of supply and the recovery of a domain (R23, R48, R76, R103),
the lodge's own update (R81), invalidations and wakes of translations (R235, R267), the debug halt (R275, R276). -/

namespace Sys2Proof.Machine

/-! ### Ewejan (R17 to R22) -/

/-- An Ewejan port. -/
def State.ewjPort (s : State) (p : Nat) : EwjPort := mget s.ewj p {}

/-- Changes a port. -/
def State.updEwj (s : State) (p : Nat) (f : EwjPort → EwjPort) : State := { s with ewj := mset s.ewj p (f (s.ewjPort p)) }

/-- Whether a port carries messages: up, or degraded to one lane (R19, R24). -/
def EwjPort.live (e : EwjPort) : Bool := e.st == 2 || e.st == 3

/-- A port after a lasting error on a lane (R18). -/
def EwjPort.retire (e : EwjPort) (lane : Nat) : EwjPort :=
  let l := e.lanes &&& ~~~(1#2 <<< lane)
  { e with lanes := l, st := if l = 0 then 4 else 3 }

/-- EWJ_FLIT_RECEIVE (R18): a first failed check asks for the flit again; a resent flit that arrives intact counts as a
retry, and one that fails again retires its lane. -/
def execEwjFlitReceive (port lane : Nat) (crcOk resent : Bool) (s : State) : Host.Outcome State Fault Refusal :=
  .next (if 96 ≤ port ∨ !(s.ewjPort port).live ∨ 1 < lane ∨ !(s.ewjPort port).lanes.getLsbD lane then s
    else if !resent then s
    else if crcOk then s.updEwj port fun e => { e with retries := min (e.retries + 1) 0xFFFF }
    else s.updEwj port fun e => e.retire lane)

/-- EWJ_PORT_FAIL (R20): the other ports carry its routes. -/
def execEwjPortFail (port : Nat) (s : State) : Host.Outcome State Fault Refusal :=
  .next (if 96 ≤ port then s else s.updEwj port fun e => { e with st := 4, lanes := 0 })

/-- The wing of an Ewejan port (R8, R16). -/
def portWing (p : Nat) : Nat := p / 24

/-- The number of a kind of message (R17). -/
def ewjKind : EwjBody → Nat
  | .load _ _ => 0
  | .store _ _ => 1
  | .atomic _ _ _ _ => 2
  | .reduction _ _ _ => 2
  | .packet _ => 3
  | .reply _ => 4

/-- The address that a message names. -/
def ewjPa : EwjBody → Option Nat
  | .load pa _ => some pa
  | .store pa _ => some pa
  | .atomic pa _ _ _ => some pa
  | .reduction pa _ _ => some pa
  | .packet _ => none
  | .reply _ => none

/-- The bytes of payload of a message, those of its reply for a load (R17). -/
def ewjPayload : EwjBody → Nat
  | .load _ len => len
  | .store _ bytes => bytes.length
  | .packet p => 16 + p.len
  | _ => 16

/-- Where a message goes within its device: a home, a route tag, or the operation that a reply answers (R21). -/
def State.ewjDest (s : State) : EwjBody → Nat
  | .packet p => p.tag
  | .reply op => op
  | b => ((ewjPa b).bind s.homeOf).getD 0

/-- The stream of a message, within which Ewejan keeps the order of injection: source, kind and destination (R21). -/
def State.ewjStream (s : State) (m : EwjMsg) : Nat × Nat × Nat := (m.src, ewjKind m.body, s.ewjDest m.body)

/-- Whether a sequence number is that of `last`, or before it in the circle of 16-bit numbers. -/
def seqOld (seq last : Nat) : Bool :=
  let d := (seq + 2 ^ 16 - last % 2 ^ 16) % 2 ^ 16
  d == 0 || decide (2 ^ 15 ≤ d)

/-- Whether a message has been delivered before (R20), or waits already: a stream never goes back in its order (R21). -/
def State.delivered (s : State) (m : EwjMsg) : Bool :=
  (s.ewjSeq.any fun l => (l.src, l.kind, l.dest) == s.ewjStream m && seqOld m.seq l.seq)
    || s.ewjWait.any fun k => s.ewjStream k == s.ewjStream m && seqOld m.seq k.seq

/-- The last sequence number of a message's stream; the numbers of the source's other streams that lie half the circle back are
forgotten (R20, R21). -/
def State.ewjMark (s : State) (m : EwjMsg) : State :=
  let q := s.ewjStream m
  let kept := s.ewjSeq.filter fun l => (l.src, l.kind, l.dest) != q
    && !(l.src == m.src && decide (2 ^ 15 ≤ (m.seq + 2 ^ 16 - l.seq % 2 ^ 16) % 2 ^ 16))
  { s with ewjSeq := kept ++ [{ src := q.1, kind := q.2.1, dest := q.2.2, seq := m.seq % 2 ^ 16 }] }

/-- Whether a remote access may reach an address: memory of this device, or the host's through its window (R12, R14, R487). -/
def State.remoteMay (s : State) (pa : Nat) : Bool :=
  devOf pa == s.devNum && (s.level pa == .landing || s.level pa == .cellar || s.level pa == .attic || s.level pa == .host)

/-- A remote access at its home: `go`, or none while it waits for an array in retention, whose exit begins, or for its place in
the order of the tick, after every local request and by port (R45, R240). One that reaches no memory has no effect. -/
def State.remoteAt (s : State) (port pa n : Nat) (go : State → State) : State × Bool :=
  let sleeping := s.retainedIn pa n
  let as := s.memArrivals [(pa, n)] (ewjKey port)
  if !s.remoteMay pa then (s, true)
  else if !sleeping.isEmpty then (s.beginExit sleeping, false)
  else if s.tooLate as then (s, false)
  else (go ((s.arrive as).useRange pa n), true)

/-- The device's own act on a message's body, and whether it is done (R17, R22, R51). A load's reply leaves the model; an atomic
on a poisoned block changes nothing (R224), and a reply ends an operation's wait (R17). -/
def State.deliver (s : State) (m : EwjMsg) : State × Bool :=
  let ag : Agent := { kind := 8, dev := m.src, tag := m.tag, age := m.age }
  match m.body with
  | .load pa len => s.remoteAt m.port pa len fun s1 => s1.homeWatch pa len false ag
  | .store pa bytes => s.remoteAt m.port pa bytes.length fun s1 => (s1.putBytes pa bytes).homeWatch pa bytes.length true ag
  | .atomic pa op a b => s.remoteAt m.port pa 4 fun s1 =>
      if tagPoison (s1.physTag pa) then s1.homeWatch pa 4 false ag
      else
        let r := atomApply op.toNat (BitVec.ofNat 32 (s1.physLE pa 4)) a b
        (s1.putBytes pa (natToBytes 4 r.1.toNat)).homeWatch pa 4 true ag
  | .reduction pa op a => s.remoteAt m.port pa (redBytes op) fun s1 => s1.drainAt pa op a ag
  | .packet p =>
    if p.dev = s.devNum then
      match s.acceptPacket p (16 + p.len) s.domainTime none with
      | some s1 => (s1, true)
      | none => (s, false)
    else (s, s.routed (p.dev * 2 ^ 44))
  | .reply op => (s.updOp op fun o => { o with awaits := false }, true)

/-- Whether a message must stay behind an earlier one that waits: of its stream, or on its way between the same two wings (R9,
R21). -/
def State.ewjBehind (s : State) (m k : EwjMsg) : Bool :=
  s.ewjStream k == s.ewjStream m
    || (match ewjPa m.body, ewjPa k.body with
      | some a, some b => portWing k.port == portWing m.port && s.homeWing b == s.homeWing a
      | _, _ => false)

/-- The messages received, each delivered in its turn or kept (R21). -/
def State.ewjFlush (s : State) : List EwjMsg → List EwjMsg → State
  | [], kept => { s with ewjWait := kept }
  | m :: ms, kept =>
    if kept.any (s.ewjBehind m) then s.ewjFlush ms (kept ++ [m])
    else
      let r := s.deliver m
      if r.2 then (r.1.ewjMark m).ewjFlush ms kept else r.1.ewjFlush ms (kept ++ [m])

/-- EWJ_MESSAGE_RECEIVE (R17, R20, R21): a whole message of at most 256 bytes; a duplicate is discarded. -/
def execEwjMessageReceive (msg : EwjMsg) (s : State) : Host.Outcome State Fault Refusal :=
  .next (if 96 ≤ msg.port ∨ !(s.ewjPort msg.port).live ∨ 256 < ewjPayload msg.body ∨ s.delivered msg then s
    else s.ewjFlush (s.ewjWait ++ [msg]) [])

/-! ### Logical room numbers (R103) -/

/-- The rooms of a wing in increasing number. -/
def wingRooms (w : Nat) : List Nat := (upTo 64).filter fun r => wingOfRoom r == w

/-- The new number of every room: in each wing the rooms that are present come first (R103). -/
def roomOrder (absent : Nat → Bool) : AMap Nat :=
  (upTo 4).foldl (fun m w =>
    let rs := wingRooms w
    let order := (rs.filter fun r => !absent r) ++ rs.filter absent
    (order.zip rs).foldl (fun k p => mset k p.1 p.2) m) []

/-- A room's new number. -/
def newRoom (m : AMap Nat) (r : Nat) : Nat := mget m r r

/-- A cell's new number. -/
def newCell (m : AMap Nat) (c : Nat) : Nat := roomCell (newRoom m (roomOf c)) (cellX c % 8) (cellY c % 8)

/-- A map with its keys renumbered. -/
def rekey {α : Type} (f : Nat → Nat) (l : AMap α) : AMap α := l.foldl (fun m p => mset m (f p.1) p.2) []

/-- A wait-table entry with its cell renumbered. -/
def WaitEnt.renumber (m : AMap Nat) : WaitEnt → WaitEnt
  | .park t c w => .park t (newCell m c) w
  | .set o => .set o

/-- An operation with its cells renumbered. -/
def Op.renumber (m : AMap Nat) (o : Op) : Op := { o with cell := newCell m o.cell, spad := o.spad.map (newCell m) }

/-- A fault register with its cell renumbered. -/
def FaultReg.renumber (m : AMap Nat) (r : FaultReg) : FaultReg := { r with cell := newCell m r.cell }

/-- A cell whose references to cells are renumbered. -/
def Cell.renumber (m : AMap Nat) (c : Cell) : Cell :=
  { c with scan := { c.scan with spad := c.scan.spad.map (newCell m) },
           nodeFault := c.nodeFault.map fun p => (p.1, p.2.renumber m),
           elems := c.elems.map fun p => (p.1, { p.2 with fault := p.2.fault.renumber m }) }

/-- A task with its room and cells renumbered. -/
def Task.renumber (m : AMap Nat) (t : Task) : Task :=
  { t with room := newRoom m t.room, pin := t.pin.map fun p => (newRoom m p.1, p.2),
           parkWord := t.parkWord.map fun p => (newCell m p.1, p.2),
           faults := t.faults.map fun p => { p with reg := p.reg.renumber m },
           ctx := t.ctx.map fun (c : Ctx) =>
             { c with room := newRoom m c.room, ops := c.ops.map (Op.renumber m),
                      cells := c.cells.map fun p => (p.1, p.2.renumber m) } }

/-- A hearth with the cell of its command renumbered. -/
def Hearth.renumber (m : AMap Nat) (h : Hearth) : Hearth :=
  { h with exec := h.exec.map fun x => { x with heldBy := x.heldBy.map fun p => (newCell m p.1, p.2) } }

/-- An array with its cell renumbered. -/
def RetArray.renumber (m : AMap Nat) : RetArray → RetArray
  | .spad c => .spad (newCell m c)
  | .slice w n => .slice w n

/-- The device with its physical rooms behind other logical numbers (R103). -/
def State.renumber (s : State) (m : AMap Nat) : State :=
  let cell := newCell m
  { s with
    rooms := (rekey (newRoom m) s.rooms).map fun (p : Nat × Room) =>
      (p.1, { p.2 with waitTab := p.2.waitTab.map (WaitEnt.renumber m), hearth := p.2.hearth.renumber m })
    cells := (rekey cell s.cells).map fun (p : Nat × Cell) => (p.1, p.2.renumber m)
    ops := s.ops.map (Op.renumber m)
    tasks := s.tasks.map (Task.renumber m)
    sched := { s.sched with reqs := s.sched.reqs.map fun (q : TopReq) =>
      { q with cell := cell q.cell, room := newRoom m q.room } }
    logs := { s.logs with haltCell := cell s.logs.haltCell }
    power := { s.power with retained := s.power.retained.map (RetArray.renumber m),
                            exiting := s.power.exiting.map (RetArray.renumber m) }
    ctns := s.ctns.map fun (k : Container) => { k with seqRooms := k.seqRooms.map (newRoom m) }
    lodge := { s.lodge with pendingTests := s.lodge.pendingTests.map cell } }

/-- DOMAIN_RECOVERY (R23, R102, R103): the lodge restores routes by training some ports again, retires pages and disables the
rooms found lost, and the surviving rooms take the lowest numbers of their wing. -/
def execDomainRecovery (what : Recovery) (s : State) : Host.Outcome State Fault Refusal :=
  .next (
    let s1 := foldState (what.ports.filter fun p => decide (p < 96)) s fun p st => st.updEwj p fun e => { st := 1, retries := e.retries }
    let s2 := foldState what.pages s1 fun pa st => st.retirePage pa
    let s3 := foldState ((upTo 64).filter fun r => what.absent.getLsbD r) s2 fun r st => st.disableRoom r
    s3.renumber (roomOrder fun r => (s3.room r).absent))

/-! ### Reset and the losses of supply (R48, R76) -/

/-- What stands when the device's own state is lost: time, the world outside (host memory, other devices), what is fixed or
in one-time storage, the firmware images, LODGE_CAUSE, and which rooms were found failing (R48, R76, R80). The windows of the
power controls begin afresh. -/
def State.lost (s : State) : State :=
  let remote (pa : Nat) : Bool := devOf pa != s.devNum
  { State.reset with
    clock := s.clock
    agenda := s.agenda
    cur := s.cur
    devNum := s.devNum
    mem := s.mem.filter fun p => remote p.1
    tags := s.tags.filter fun p => remote (64 * p.1)
    hostMem := s.hostMem
    lodge := { cause := s.lodge.cause, causeWing := s.lodge.causeWing, causeRoom := s.lodge.causeRoom, cuts := s.lodge.cuts,
               rb := s.lodge.rb, images := s.lodge.images, versions := s.lodge.versions, img := s.lodge.img }
    rooms := (s.rooms.filter fun p => p.2.absent).map fun p => (p.1, { absent := true, tempAt := s.clock.tbase })
    power := { fwImg := s.power.fwImg, eccAt := s.clock.tbase, stallAt := (upTo 4).map fun w => (w, s.clock.tbase),
               checkIn := s.clock.tbase } }

/-- An Ewejan port as link training leaves it: a free value (R76); only a read clears its RETRIES (R24). -/
def trainedPort (w : BitVec 64) (retries : Nat) : EwjPort :=
  let lanes := natField w.toNat 0 2
  { peer := natField w.toNat 2 13, peerPort := natField w.toNat 15 7 % 96, retries := retries, lanes := BitVec.ofNat 2 lanes,
    st := if lanes = 3 then 2 else if lanes = 0 then 0 else 3 }

/-- The port that training leaves, where it is being trained. -/
def State.trainPort (s : State) (p : Nat) : State :=
  if (s.ewjPort p).st = 1 then
    let f := s.free
    f.2.updEwj p fun e => trainedPort f.1 e.retries
  else s

/-- Every port in training trained; an access that found no route begins to look for one anew where one has come back (R20,
R76). -/
def State.trainPorts (s : State) : State :=
  let s1 := foldState (upTo 96) s fun p st => st.trainPort p
  if s1.ewj.any fun p => p.2.live then
    { s1 with ops := s1.ops.map fun (o : Op) => { o with noRoute := none }
              tasks := s1.tasks.map fun (t : Task) => { t with pfNoRoute := none } }
  else s1

/-- The rooms that memory test finds failing: in each wing as many as were known to fail, or more; they take the highest
numbers of the wing (R76, R103). -/
def State.testRooms (s : State) : State :=
  let s0 : State := { s with lodge := { s.lodge with roomsOff := 0 } }
  foldState (upTo 4) s0 fun w st =>
    let f := st.free
    let n := max ((wingRooms w).filter fun r => (s.room r).absent).length (f.1.toNat % 17)
    let off := (wingRooms w).drop (16 - n)
    let s1 := foldState (wingRooms w) f.2 fun r st1 => st1.updRoom r fun k => { k with absent := off.contains r }
    { s1 with lodge := { s1.lodge with roomsOff := s1.lodge.roomsOff + off.length } }

/-- The pages that memory test finds failing, by free values (R76). -/
def State.testPages (s : State) : State :=
  let f := s.free
  foldState (upTo (f.1.toNat % 4096)) f.2 fun _ st =>
    let g := st.free
    g.2.retirePage g.1.toNat

/-- The receive delays of the Ethernet ports, which link training calibrates (R30, R73, R76). -/
def State.calibrate (s : State) : State :=
  foldState (upTo 4) s fun p st =>
    let f := st.free
    f.2.updPort p fun e => { e with delay := natField f.1.toNat 0 32 }

/-- The epoch that the lodge writes at domain formation (R95). -/
def State.formDomain (s : State) : State :=
  let f := s.free
  { f.2 with lodge := { f.2.lodge with epochSec := natField f.1.toNat 32 32, epochNs := natField f.1.toNat 0 30 } }

/-- The lodge enters a state of its bring-up (R76): memory test disables rooms and retires pages before link training brings the
ports up; READY has the Narrax width, the ports, the delays and the epoch. -/
def State.enterLodge (s : State) (st : Nat) : State :=
  let s1 := if st = 4 then foldState (upTo 96) s.testRooms.testPages fun p q => q.updEwj p fun e => { st := 1, retries := e.retries }
    else if st = 5 then
      let f := s.trainPorts.calibrate.formDomain.free
      { f.2 with lodge := { f.2.lodge with nxw := 8 * 2 ^ (f.1.toNat % 3) } }
    else s
  { s1 with lodge := { s1.lodge with st := st } }

/-- A tick of the lodge's bring-up (R76): by a free value it stays in its state, goes on to the next, or fails; at READY the
ports in training are trained by free values. Log entry 79. -/
def State.lodgeTick (s : State) : State :=
  let st := s.lodge.st
  if 1 ≤ st ∧ st ≤ 4 then
    let f := s.free
    if f.1.toNat % 4 = 1 then f.2.enterLodge (st + 1) else if f.1.toNat % 4 = 2 then f.2.enterLodge 7 else f.2
  else if st = 5 ∧ (s.ewj.any fun p => p.2.st == 1) = true then
    let f := s.free
    if f.1.getLsbD 0 then f.2.trainPorts else f.2
  else s

/-- The lodge boots: it begins to bring the device up (R48, R76). -/
def State.boot (s : State) : State := { s with lodge := { s.lodge with st := 1 } }

/-- LODGE_CAUSE records a cause (R48). -/
def State.recordCause (s : State) (cause wing room : Nat) : State :=
  { s with lodge := { s.lodge with cause := cause, causeWing := wing, causeRoom := room } }

/-- RESET (R48, R76): power-on 0x00 or board reset 0x03; the lodge boots. After a loss of supply the recorded cause survives. -/
def execReset (cause : BitVec 8) (s : State) : Host.Outcome State Fault Refusal :=
  .next (if cause ≠ 0x00 ∧ cause ≠ 0x03 then s
    else (if s.power.off then s.lost else s.lost.recordCause cause.toNat 0 0).boot)

/-- LODGE_WATCHDOG (R48). -/
def execLodgeWatchdog (s : State) : Host.Outcome State Fault Refusal :=
  .next (s.lost.recordCause 0x04 0 0).boot

/-- THERMAL_CUT (R48): every rail is cut and all state is lost until power returns. -/
def execThermalCut (room : Nat) (s : State) : Host.Outcome State Fault Refusal :=
  .next (
    let s1 := s.lost.recordCause 0x01 (wingOfRoom room) (room / 8 % 4 * 4 + room % 8 % 4)
    { s1 with lodge := { s1.lodge with cuts := min (s1.lodge.cuts + 1) 0xFFFF }, power := { s1.power with off := true } })

/-- CONVERTER_FAULT (R48): the supply ends. -/
def execConverterFault (s : State) : Host.Outcome State Fault Refusal :=
  .next (
    let s1 := s.lost.recordCause 0x02 0 0
    { s1 with power := { s1.power with off := true } })

/-- The end of the lodge's restart (R81): the errors that its buffer held are logged, the entry writes that waited are made, and
the attestation request that waited is answered. -/
def State.lodgeBack (s : State) : State :=
  let s1 := { s with lodge := { s.lodge with st := 5, errLog := s.lodge.errLog ++ s.lodge.errBuf, errBuf := [] } }
  let s2 := s1.rtHeld
  if s2.lodge.attGo && !(s2.notices.any fun n => n.att) then s2.attest else s2

/-- LODGE_UPDATE (R77, R81): the idle image is written; one that passes its checks is restarted into, and a second move ends
the restart. -/
def execLodgeUpdate (image : List Byte) (version : Nat) (s : State) : Host.Outcome State Fault Refusal :=
  .next (if s.lodge.st = 6 then s.lodgeBack
    else if s.lodge.st = 5 then
      let idle := 1 - s.lodge.img
      let s1 := { s with lodge := s.lodge.putImage idle version image }
      if s.imageOk 0 image version then { s1 with lodge := { s1.lodge with st := 6, img := idle } } else s1
    else s)

/-! ### Translations (R235, R267) -/

/-- XLAT_INV (R235): the entries it covers leave every room's cache. BUSY reads 1 until the combined requests and the writes of
ended tasks that were translated before have been performed; any other access in flight is translated again. A second write
while BUSY is 1 begins anew: BUSY then shows that invalidation with what the first still waited for; log entry 87. -/
def execXlatInv (v : BitVec 64) (s : State) : Host.Outcome State Fault Refusal :=
  .next (
    let n := v.toNat
    let asid := natField n 48 8
    let gone (t : Tlb) : Bool := if natBit n 62 then t.asid == asid else t.covers asid (natField n 16 32 * 65536)
    let w := natField n 62 1 * 2 ^ 62 + natField n 16 40 * 2 ^ 16
    let used (o : Op) : Bool :=
      let t := s.task o.task
      (s.room t.room).tlb.any fun e => gone e && e.covers (s.asidOf t) o.ea
    let parts := s.combos.flatMap fun (k : Combo) => k.parts.map (·.1)
    let wait := (s.ops.filter fun o => o.orphan.isSome || (parts.contains o.id && used o)).map (·.id)
    { s with rooms := s.rooms.map fun (p : Nat × Room) => (p.1, { p.2 with tlb := p.2.tlb.filter fun t => !gone t })
             logs := { s.logs with inv := BitVec.ofNat 64 w, invWait := (s.logs.invWait.filter (fun i => (s.op? i).isSome) ++ wait).eraseDups } })

/-- A task of an address space may report a page again (R267). -/
def Task.forget (t : Task) (page : Nat) : Task := { t with argReported := t.argReported.filter fun p => p != page }

/-- XLAT_WAKE (R267): the accesses held for the page walk again, and a page still not present is reported again. -/
def execXlatWake (v : BitVec 64) (s : State) : Host.Outcome State Fault Refusal :=
  .next (
    let asid := natField v.toNat 48 8
    let page := natField v.toNat 16 32 * 65536
    let held (o : Op) : Bool := o.phase == .held && o.heldPage == page && s.asidOf (s.task o.task) == asid
    let rooms := ((s.ops.filter held).map fun o => (s.task o.task).room).eraseDups
    let s1 := { s with
      ops := s.ops.map fun (o : Op) => if held o then { o with reported := false } else o
      tasks := s.tasks.map fun (t : Task) => if s.asidOf t = asid then t.forget page else t
      logs := { s.logs with wakeReg := BitVec.ofNat 64 (natField v.toNat 16 40 * 2 ^ 16) } }
    foldState rooms s1 fun r st => st.updRoom r fun k => k.beginWalk asid page)

/-! ### The debug halt (R275, R276) -/

/-- Halts the running tasks that a condition picks. -/
def State.haltTasks (s : State) (pick : Task → Bool) : State :=
  { s with tasks := s.tasks.map fun (t : Task) => if t.st = .running ∧ pick t = true then { t with halted := true } else t }

/-- DBG_HALT (R275, R276): a write with both HALT and GO set halts; log entry 78. -/
def execDbgHalt (v : BitVec 64) (s : State) : Host.Outcome State Fault Refusal :=
  .next (if !natBit v.toNat 63 then s
    else
      let c := cellAt (natField v.toNat 6 6) (natField v.toNat 0 6)
      let scope := natField v.toNat 60 2
      let s1 := { s with logs := { s.logs with haltCell := c, haltScope := scope, haltSt := 2 } }
      let own := s.owner? c
      match scope with
      | 0 => s1.haltTasks fun t => own.any fun k => k.id == t.id
      | 1 =>
        let same (t : Task) : Bool := own.any fun k => k.id == t.id || (k.launch.any fun a => t.launch.any fun b => a.launch == b.launch)
        let s2 := s1.haltTasks same
        match own.bind (·.launch) with
        | some l => { s2 with launches := s2.launches.map fun (x : Launch) => if x.id = l.launch then { x with halted := true } else x }
        | none => s2
      | 2 =>
        let s2 := s1.haltTasks fun _ => true
        { s2 with sched := { s2.sched with hold := true } }
      | _ => s1.updCell c fun cl => { cl with halted := true, elems := cl.elems.map fun (e : Nat × Elem) => (e.1, { e.2 with halted := true }) })

/-- DBG_GO (R275). -/
def execDbgGo (v : BitVec 64) (s : State) : Host.Outcome State Fault Refusal :=
  .next (if !natBit v.toNat 62 ∨ natBit v.toNat 63 then s
    else
      { s with
        logs := { s.logs with haltSt := 0 }
        tasks := s.tasks.map fun (t : Task) => { t with halted := false }
        launches := s.launches.map fun (x : Launch) => { x with halted := false }
        cells := s.cells.map fun (p : Nat × Cell) =>
          (p.1, { p.2 with halted := false, elems := p.2.elems.map fun (e : Nat × Elem) => (e.1, { e.2 with halted := false }) }) })

end Sys2Proof.Machine
end

