-- ==== Sys2Proof/WellFormed.lean ====
section
/-! DEFINITION. The load-time checks of an instruction (R288 to R294, R296, R297, R301, R302, R342, R393, R404, R415, R426):
what each opcode lets its fields hold, in the cell that the image puts it in, with the reason code of R302. -/

namespace Sys2Proof

/-! ### How an opcode uses its fields -/

/-- What DST is (R286, R288, R292 to R294). -/
inductive DstUse where
  | result            -- R286
  | none              -- 28
  | data              -- a source code, for the value written
  | greg (max : Nat)  -- g0 to g[max]
  | tile              -- [4:3] 00, [2:0] slot
  | mcast             -- [4:3] group, [2:0] slot
  | pair              -- [4] 0, [3] PAIR, [2:0] slot
  | vreg              -- V0 to V15
  | cond              -- [4:2] condition, [1:0] mask
  | plog              -- [4:3] 00, [2:0] predicate
  | maskMove          -- R399
  | transfer          -- R429
  | lane              -- R286, or V0 to V15 with I = 1
  deriving DecidableEq, Repr

/-- What SRC1 is. -/
inductive SrcUse where
  | zero
  | code              -- R285
  | addr              -- R285, a g register with I = 1 (R290)
  | greg (max : Nat)
  | vec               -- V or a broadcast g register
  | onlyV
  | onlyG             -- 16 to 31
  | plog
  | maskMove
  | transfer
  deriving DecidableEq, Repr

/-- What SRC2 and I are. -/
inductive Src2Use where
  | zero              -- 0 with I = 0
  | code              -- R285, or an immediate
  | reg               -- R285 with I = 0
  | imm (max : Nat)   -- an immediate from 0 to max
  | window            -- an immediate, [1:0] window, [4:2] 000
  | size (signed : Bool) | limPost | limit | plain | noPost | word  -- [4:3] window, [2:0] as R291
  | scope             -- [4:3] 00, [2:0] scope, I = 0
  | vec               -- V, a broadcast g register, or an immediate
  | onlyV
  | lane              -- a g register's value, or an immediate
  | vmem              -- [4:3] window, [2:0] 000, I post-increment
  | vgath             -- [4:3] window, [2:0] 000, I = 0
  | plog
  | transfer
  | convert           -- an immediate, [1:0] source type, [2] half, [4:3] 00
  | lanePick          -- 0 with I = 0, or a lane with I = 1
  deriving DecidableEq, Repr

/-- What OTAG is (R288). -/
inductive OtagUse where
  | token             -- the tag of a token, 000 where DST is no output
  | any               -- a condition
  | direction         -- 0 to 6
  | order             -- [2] order token, [1:0] its output
  | lanes (types : Nat) (mask : Bool)
  | zero
  deriving DecidableEq, Repr

/-- The fields of an opcode, and the cell kinds that have it, compute 1, memory 2, address 4 (R297). -/
structure Shape where
  dst : DstUse
  src1 : SrcUse
  src2 : Src2Use
  otag : OtagUse
  kinds : Nat := 7
  deriving DecidableEq, Repr

/-- Two sources and a result (R334). -/
def shBinary : Shape := ⟨.result, .code, .code, .token, 7⟩

/-- One source and a result (R334). -/
def shUnary : Shape := ⟨.result, .code, .zero, .token, 7⟩

/-- A query with a selector (R342, R404, R415). -/
def shQuery (max : Nat) : Shape := ⟨.result, .zero, .imm max, .token, 7⟩

/-- A vector operation of two sources, by the lane types it accepts (R393). -/
def shVec2 (types : Nat) (mask : Bool) : Shape := ⟨.vreg, .vec, .vec, .lanes types mask, 1⟩

/-- A vector operation of one source (R393). -/
def shVec1 (types : Nat) : Shape := ⟨.vreg, .onlyV, .zero, .lanes types true, 1⟩

/-- Lane types: floating point, INT32, all, FP32, FP32 or INT32 (R393). -/
def tF : Nat := 7
def tI : Nat := 8
def tAll : Nat := 15
def t32 : Nat := 1
def tFI : Nat := 9

/-- The integer group (R295, R334 to R337). -/
def intShape (op : Nat) : Shape :=
  if op = 0 then ⟨.none, .zero, .zero, .token, 7⟩
  else if op = 0x01 ∨ op = 0x15 ∨ op = 0x16 then shUnary
  else if op = 0x18 then ⟨.greg 15, .code, .code, .token, 7⟩
  else if op = 0x1E then ⟨.result, .code, .code, .any, 7⟩
  else if op = 0x1F then ⟨.plog, .plog, .plog, .zero, 7⟩
  else shBinary

/-- The scalar floating-point group (R295, R338 to R341). -/
def fpShape (operation : Nat) : Shape :=
  if operation = 3 then ⟨.greg 15, .code, .code, .token, 7⟩
  else if operation = 6 then ⟨.result, .code, .code, .any, 7⟩
  else if operation = 7 then ⟨.result, .code, .zero, .direction, 7⟩
  else shBinary

/-- The memory and atomic groups (R292, R293, R297). -/
def memShape (op : Nat) : Option Shape :=
  match op with
  | 0x40 => some ⟨.result, .addr, .size true, .order, 7⟩
  | 0x41 => some ⟨.result, .addr, .size true, .order, 7⟩
  | 0x42 => some ⟨.result, .addr, .limPost, .order, 7⟩
  | 0x43 => some ⟨.result, .addr, .limPost, .order, 7⟩
  | 0x44 => some ⟨.data, .addr, .size false, .order, 7⟩
  | 0x45 => some ⟨.data, .addr, .limPost, .order, 7⟩
  | 0x46 => some ⟨.data, .addr, .plain, .order, 7⟩
  | 0x47 => some ⟨.none, .addr, .plain, .order, 7⟩
  | 0x48 => some ⟨.result, .addr, .plain, .order, 7⟩
  | 0x49 => some ⟨.data, .addr, .plain, .order, 7⟩
  | 0x4A => some ⟨.none, .addr, .plain, .order, 7⟩
  | 0x4B => some ⟨.none, .zero, .scope, .order, 7⟩
  | 0x4C => some ⟨.none, .addr, .noPost, .order, 7⟩
  | 0x4D => some ⟨.result, .code, .zero, .order, 2⟩
  | 0x4E => some ⟨.none, .code, .code, .order, 2⟩
  | 0x4F => some ⟨.none, .code, .zero, .order, 2⟩
  | 0x50 => some ⟨.tile, .greg 14, .plain, .order, 1⟩
  | 0x51 => some ⟨.tile, .greg 15, .plain, .order, 1⟩
  | 0x52 => some ⟨.mcast, .greg 14, .plain, .order, 2⟩
  | 0x53 => some ⟨.tile, .zero, .zero, .order, 1⟩
  | 0x54 => some ⟨.result, .zero, .code, .order, 1⟩
  | 0x55 => some ⟨.data, .code, .limit, .order, 7⟩
  | 0x56 => some ⟨.result, .code, .limit, .order, 7⟩
  | 0x57 => some ⟨.data, .code, .noPost, .order, 7⟩
  | 0x58 => some ⟨.result, .code, .noPost, .order, 7⟩
  | 0x59 => some ⟨.result, .code, .noPost, .order, 7⟩
  | 0x5A => some ⟨.none, .addr, .plain, .zero, 7⟩
  | _ =>
    if 0x60 ≤ op ∧ op < 0x68 then some ⟨.greg (if op = 0x67 then 14 else 15), .addr, .word, .order, 7⟩
    else if 0x68 ≤ op ∧ op < 0x70 then some ⟨.data, .addr, .word, .order, 7⟩
    else if 0x70 ≤ op ∧ op < 0x78 then some ⟨.greg (if op = 0x77 then 12 else 13), .addr, .word, .order, 7⟩
    else none

/-- The vector group (R393). -/
def vecShape (op : Nat) : Option Shape :=
  if op ≤ 0x84 then some (shVec2 tF true)
  else if op ≤ 0x86 then some (shVec2 tAll true)
  else if op ≤ 0x88 then some (shVec1 tAll)
  else match op with
  | 0x89 => some ⟨.cond, .vec, .vec, .lanes tAll true, 1⟩
  | 0x8A => some (shVec2 tAll false)
  | 0x93 => some ⟨.vreg, .onlyV, .convert, .lanes tAll true, 1⟩
  | 0x94 => some (shVec2 tF true)
  | 0x99 => some ⟨.result, .onlyV, .zero, .lanes tAll true, 1⟩
  | 0x9A => some ⟨.result, .onlyV, .imm 1, .lanes tAll true, 1⟩
  | 0x9B => some (shVec1 tAll)
  | 0x9C => some ⟨.vreg, .onlyV, .onlyV, .lanes tAll true, 1⟩
  | 0x9D => some ⟨.vreg, .onlyV, .lane, .lanes tAll true, 1⟩
  | 0x9E => some ⟨.result, .onlyV, .lane, .lanes tAll false, 1⟩
  | 0x9F => some ⟨.vreg, .onlyG, .lane, .lanes tAll false, 1⟩
  | 0xA0 => some ⟨.vreg, .onlyG, .vmem, .lanes tAll true, 1⟩
  | 0xA1 => some ⟨.vreg, .onlyG, .vmem, .lanes tAll true, 1⟩
  | 0xA2 => some ⟨.vreg, .onlyV, .vgath, .lanes tFI true, 1⟩
  | 0xA3 => some ⟨.vreg, .onlyV, .vgath, .lanes tFI true, 1⟩
  | 0xA4 => some ⟨.maskMove, .maskMove, .imm 31, .lanes tAll false, 1⟩
  | 0xA5 => some ⟨.vreg, .onlyG, .imm 3, .lanes t32 false, 1⟩
  | 0xA6 => some ⟨.vreg, .zero, .zero, .lanes t32 false, 1⟩
  | _ =>
    if op ≤ 0x92 then some (shVec2 tI true)
    else if op ≤ 0x98 then some (shVec1 tF)
    else none

/-- The matrix, converter, scan, query and DDA groups (R297, R404, R415, R418 to R421, R426). -/
def engShape (op : Nat) : Option Shape :=
  match op with
  | 0xC0 => some ⟨.none, .code, .zero, .token, 1⟩
  | 0xC1 => some ⟨.pair, .zero, .zero, .zero, 1⟩
  | 0xC2 => some ⟨.none, .code, .reg, .token, 1⟩
  | 0xC3 => some ⟨.none, .code, .zero, .token, 1⟩
  | 0xC4 => some ⟨.vreg, .code, .zero, .zero, 1⟩
  | 0xC5 => some ⟨.tile, .code, .zero, .zero, 1⟩
  | 0xC6 => some ⟨.tile, .code, .zero, .zero, 1⟩
  | 0xC7 => some { shQuery 5 with kinds := 1 }
  | 0xC8 => some ⟨.result, .code, .code, .token, 1⟩
  | 0xC9 => some { shQuery 2 with kinds := 1 }
  | 0xCA => some ⟨.none, .greg 14, .window, .token, 4⟩
  | 0xCB => some { shQuery 2 with kinds := 4 }
  | 0xCC => some ⟨.result, .code, .window, .token, 7⟩
  | 0xCD => some (shQuery 3)
  | 0xD0 => some ⟨.none, .greg 14, .imm 5, .token, 1⟩
  | 0xD1 => some ⟨.transfer, .transfer, .transfer, .token, 1⟩
  | 0xD2 => some ⟨.none, .code, .code, .token, 1⟩
  | 0xD3 => some ⟨.none, .code, .code, .token, 1⟩
  | 0xD4 => some ⟨.none, .greg 14, .zero, .token, 1⟩
  | 0xD5 => some ⟨.none, .zero, .imm 3, .token, 1⟩
  | 0xD6 => some ⟨.none, .zero, .imm 3, .token, 1⟩
  | 0xD7 => some ⟨.transfer, .transfer, .transfer, .token, 1⟩
  | 0xD8 => some ⟨.transfer, .transfer, .transfer, .token, 1⟩
  | 0xD9 => some ⟨.lane, .code, .lanePick, .token, 1⟩
  | 0xDA => some ⟨.result, .code, .zero, .token, 1⟩
  | 0xDB => some ⟨.none, .code, .code, .token, 1⟩
  | 0xDC => some { shQuery 15 with kinds := 1 }
  | _ => none

/-- The system group (R342). -/
def sysShape (op : Nat) : Option Shape :=
  match op with
  | 0xF0 => some shBinary
  | 0xF1 => some (shQuery 12)
  | 0xF2 => some ⟨.greg 14, .zero, .zero, .token, 7⟩
  | 0xF3 => some ⟨.greg 14, .zero, .imm 1, .token, 7⟩
  | 0xF4 => some (shQuery 4)
  | 0xF5 => some ⟨.none, .zero, .code, .token, 7⟩
  | 0xF6 => some ⟨.none, .greg 14, .code, .token, 7⟩
  | 0xF7 => some ⟨.none, .code, .code, .token, 7⟩
  | 0xF8 => some ⟨.result, .zero, .code, .token, 7⟩
  | 0xF9 => some ⟨.none, .greg 14, .imm 3, .token, 7⟩
  | 0xFA => some ⟨.none, .code, .imm 7, .token, 7⟩
  | 0xFB => some (shQuery 3)
  | 0xFC => some (shQuery 11)
  | 0xFD => some ⟨.none, .zero, .imm 3, .token, 7⟩
  | 0xFE => some ⟨.none, .zero, .zero, .token, 7⟩
  | 0xFF => some ⟨.none, .greg 15, .code, .token, 7⟩
  | _ => none

/-- The fields of an opcode; none where it is reserved (R295, R296). -/
def shapeOf (op : Nat) : Option Shape :=
  if op < 0x20 then some (intShape op)
  else if op < 0x40 then some (fpShape ((op - 0x20) / 4))
  else if op < 0x80 then memShape op
  else if op < 0xC0 then vecShape op
  else if op < 0xF0 then engShape op
  else sysShape op

/-! ### The cell that holds the slot -/

/-- What the image says of the element's cell: its kind (1 compute, 2 memory, 3 address), the inputs that have a
source, the outputs and control outputs that are routed, the counter sets in use and not driven by an edge port, the
ports routed, the multicast groups defined. -/
structure SlotCtx where
  kind : Nat := 1
  inputs : Nat := 15
  outs : Nat := 15
  ctls : Nat := 15
  ctrs : Nat := 3
  ports : Nat := 255
  groups : Nat := 15
  deriving DecidableEq, Repr

/-- Whether a code names a head operand. -/
def isHead (n : Nat) : Bool := decide (16 ≤ n) && decide (n < 20)

/-- The head operands of a slot, as channel numbers (R285). -/
def headsOf (h : Shape) (f : Slot) : List Nat :=
  let one (n : Nat) : List Nat := if isHead n then [n - 16] else []
  (if h.src1 = .code ∨ h.src1 = .addr ∨ (h.src1 = .transfer ∧ f.dst = 0) then one f.src1.toNat else [])
    ++ (if (h.src2 = .code ∨ h.src2 = .reg) ∧ f.imm = false then one f.src2.toNat else [])
    ++ (if h.dst = .data then one f.dst.toNat else [])

/-- Whether DST is read under R286. -/
def resultForm (h : Shape) (f : Slot) : Bool :=
  h.dst == .result || (h.dst == .lane && !f.imm) || (h.dst == .maskMove && decide (f.src2.toNat < 8))

/-- The output that DST names. -/
def dstOutput (h : Shape) (f : Slot) : Option Nat :=
  if resultForm h f && isHead f.dst.toNat then some (f.dst.toNat - 16) else none

/-! ### The checks of R302, one for each reason -/

/-- Reason 0x02: operand and destination codes. -/
def badCode (h : Shape) (f : Slot) : Bool :=
  let d := f.dst.toNat
  let a := f.src1.toNat
  let b := f.src2.toNat
  let vm := b / 4
  (resultForm h f && ((decide (20 ≤ d) && decide (d < 28)) || decide (30 ≤ d)))
  || (match h.dst with
      | .greg m => decide (m < d)
      | .vreg => decide (16 ≤ d)
      | .maskMove => if vm < 2 then (decide (20 ≤ d) && decide (d < 28)) || decide (30 ≤ d) else d != 28
      | _ => false)
  || (match h.src1 with
      | .greg m => decide (m < a)
      | .onlyV => decide (16 ≤ a)
      | .onlyG => decide (a < 16)
      | .addr => f.imm && decide (16 ≤ a)
      | .maskMove => if vm = 2 ∨ vm = 3 then decide (a < 16) else if vm = 4 ∨ vm = 5 then decide (4 ≤ a) else a != 0
      | _ => false)
  || (match h.src2 with
      | .onlyV => decide (16 ≤ b)
      | .lane => !f.imm && decide (b < 16)
      | _ => false)

/-- Reason 0x03: widths, sizes, conditions, directions, lane types, scopes, and the numbers that an instruction reads in an immediate
beyond the last that it names, such as a query's selector or a quarter; log entry 89. -/
def badSelector (op : Nat) (h : Shape) (f : Slot) : Bool :=
  let low := f.src2.toNat % 8
  (decide (0x20 ≤ op) && decide (op < 0x40) && op % 4 == 3)
  || (match h.otag with
      | .direction => f.otag.toNat == 7
      | .lanes types _ => !natBit types (f.otag.toNat / 2)
      | _ => false)
  || (match h.src2 with
      | .size signed => low == 3 || decide (6 ≤ low) || (!signed && decide (4 ≤ low))
      | .word => low != 2
      | .scope => low == 7
      | .imm m => decide (m < f.src2.toNat)
      | _ => false)
  || (op == 0xFC && f.src2.toNat / 4 % 4 == 3)
  || (op == 0x54 && f.imm && decide (7 < f.src2.toNat))

/-- Reason 0x04: what the cell lacks (R297). -/
def badKind (ctx : SlotCtx) (op : Nat) (h : Shape) (f : Slot) : Bool :=
  !natBit h.kinds (ctx.kind - 1)
  || (h.dst == .mcast && !natBit ctx.groups (f.dst.toNat / 8))
  || (decide (0xFA ≤ op) && decide (op ≤ 0xFC) && decide (2 ≤ f.src2.toNat % 4) && ctx.kind != 3)

/-- Whether a lane type has 32-bit lanes (R294). -/
def wideLane (t : Nat) : Bool := t == 0 || t == 3

/-- Reason 0x05: fields that the instruction does not use. -/
def badField (op : Nat) (h : Shape) (f : Slot) : Bool :=
  let d := f.dst.toNat
  let b := f.src2.toNat
  (f.pmode == 0 && f.pidx != 0 && op != 0x1F)
  || (!f.ten && (f.tch != 0 || f.tag != 0))
  || (f.pval &&& ~~~f.pmask) != 0
  || (match h.dst with
      | .none => d != 28
      | .tile => decide (8 ≤ d)
      | .pair => decide (16 ≤ d) || decide (8 ≤ d ∧ d % 2 = 1)
      | .plog => decide (8 ≤ d)
      | .lane => f.imm && decide (16 ≤ d)
      | .transfer => decide (16 ≤ d) || (d / 8 == 0 && d % 8 != 0)
      | _ => false)
  || (match h.src1 with
      | .zero => f.src1 != 0
      | .plog => decide (8 ≤ f.src1.toNat)
      | .transfer => d / 8 == 1 && f.src1 != 0
      | _ => false)
  || (match h.src2 with
      | .zero => f.imm || b != 0
      | .reg | .onlyV => f.imm
      | .imm _ => !f.imm
      | .window => !f.imm || decide (4 ≤ b)
      | .plain => b % 8 != 0
      | .noPost => f.imm || b % 8 != 0
      | .limit => f.imm
      | .scope => f.imm || decide (8 ≤ b)
      | .vmem => b % 8 != 0
      | .vgath => f.imm || b % 8 != 0
      | .plog => !f.imm || decide (16 ≤ b)
      | .transfer => if d / 8 = 0 then !f.imm || decide (4 ≤ b) else f.imm || b != 0
      | .lanePick => !f.imm && b != 0
      | .convert => !f.imm || decide (8 ≤ b)
          || (natBit b 2 && wideLane (b % 4) == wideLane (f.otag.toNat / 2))
      | _ => false)
  || (match h.otag with
      | .token => (dstOutput h f).isNone && f.otag != 0
      | .order => !f.otag.getLsbD 2 && f.otag != 0
      | .lanes _ mask => !mask && f.otag.getLsbD 0
      | .zero => f.otag != 0
      | _ => false)
  || (op == 0x1F && f.pmode != 0)

/-- Reason 0x06: channels. -/
def badChannel (ctx : SlotCtx) (h : Shape) (f : Slot) : Bool :=
  let src : BitVec 4 := BitVec.ofNat 4 ctx.inputs
  (f.deq &&& ~~~f.need) != 0
  || (headsOf h f).any (fun c => !f.need.getLsbD c)
  || (f.need &&& ~~~src) != 0 || (f.deq &&& ~~~src) != 0
  || (f.ten && !src.getLsbD f.tch.toNat)

/-- Reason 0x07: outputs (R178, R291, R356, R413, R418). -/
def badOutput (ctx : SlotCtx) (op : Nat) (h : Shape) (f : Slot) : Bool :=
  let orderOut := f.otag.toNat % 4
  (match dstOutput h f with
   | some o => !natBit ctx.outs o || (h.otag == .token && f.otag.toNat == 7)
   | none => false)
  || (h.otag == .order && f.otag.getLsbD 2 && (!natBit ctx.outs orderOut || dstOutput h f == some orderOut))
  || (op == 0xFD && !natBit ctx.ctls (f.src2.toNat % 4))
  || (op == 0xCA && !natBit ctx.ports 3)
  || (op == 0xC6 && !(natBit ctx.ports 1 && natBit ctx.ports 2))

/-- Reason 0x0A: a counter set that the image leaves unused or that an edge port drives (R342, R353). -/
def badCounter (ctx : SlotCtx) (op : Nat) (f : Slot) : Bool :=
  decide (0xFA ≤ op) && decide (op ≤ 0xFC) && !natBit ctx.ctrs (f.src2.toNat % 4)

/-- The reason for which a valid slot is rejected, the lowest code first (R302). -/
def slotReason (ctx : SlotCtx) (op : Nat) (f : Slot) : Option Nat :=
  match shapeOf op with
  | none => some 0x01
  | some h =>
    if badCode h f then some 0x02
    else if badSelector op h f then some 0x03
    else if badKind ctx op h f then some 0x04
    else if badField op h f then some 0x05
    else if badChannel ctx h f then some 0x06
    else if badOutput ctx op h f then some 0x07
    else if badCounter ctx op f then some 0x0A
    else none

/-- The check of a slot's word; one with V = 0 is not checked (R302). -/
def wordReason (ctx : SlotCtx) (w : Nat) : Option Nat :=
  if validOfBits w then slotReason ctx (opOfBits w) (slotOfBits w) else none

/-! ### Hearth commands (R301, R445, R455, R456) -/

/-- Whether HA, HB and IMM hold values that the command's description gives (R445, R450 to R452). -/
def hOperandsOk (cmd : Nat) (c : HCmd) : Bool :=
  let a := c.ha.toNat
  let b := c.hb.toNat
  let v := c.imm.toNat
  let h (n : Nat) : Bool := decide (n < 16)
  match cmd with
  | 0 => a == 0 && b == 0 && v == 0
  | 1 => h a && b == 0
  | 2 => h a && b == 0 && decide (v ≤ 7)
  | 3 => h a && b == 0 && decide (1 ≤ v) && decide (v < 2 ^ 32)
  | 4 => h a && h b && decide (1 ≤ v) && decide (v < 2 ^ 32)
  | 5 => h a && h b && decide (v < 2 ^ 20) && decide (v / 2 ^ 12 ≤ 240) && (v / 2 ^ 12 != 0 || b == 0)
  | 6 => a == 0 && b == 0 && decide (v < 2 ^ 16) && v / 2 ^ 12 % 4 != 3 && v / 2 ^ 14 % 2 == 0
  | 7 => h a && b == 0 && (decide (v < 2 ^ 32) || v == 2 ^ 32)
  | 8 => h a && b == 0 && v == 0
  | 9 => h a && h b && v == 0
  | 10 => h a && b == 0 && decide (v < 4)
  | 11 => decide (1 ≤ a) && b == 0
  | 12 => decide (a ≤ 4) && decide (1 ≤ b) &&
      (if a < 2 then decide (v < 2 ^ 32) && v / 2 ^ 8 % 2 ^ 8 == 0 else if a < 4 then decide (v < 2 ^ 12) else h v)
  | 13 => b == 0 && decide (v < 2 ^ 16)
  | 14 => h a && b == 0 && decide (v < 2 ^ 32)
  | 15 => decide (a < 8) && h b && v % 2 ^ 61 / 2 ^ 6 == 0
  | 16 => a == 0 && b == 0 && v == 0
  | _ => false

/-- Whether one command passes the checks of R301 that need no other command. -/
def hcmdOk (cmd : Nat) (c : HCmd) : Bool :=
  hOperandsOk cmd c && !(c.wthr == 0 && c.wcon) && (c.sen || (c.ssem == 0 && c.sinc == 0))
    && !(c.sen && c.sinc == 0) && !(cmd == 16 && c.sen)

/-- The bodies of the REPEAT commands of a program: where each begins, and the position of its REPEAT (R455). -/
def repeatBodies (ws : List (Nat × HCmd)) : Nat → List (Nat × Nat)
  | 0 => []
  | n + 1 =>
    match ws[n]? with
    | some (11, c) => repeatBodies ws n ++ [(n - c.ha.toNat, n)]
    | _ => repeatBodies ws n

/-- The bodies that hold a position; a REPEAT is not part of its own body (R455). -/
def bodiesAt (bs : List (Nat × Nat)) (p : Nat) : List (Nat × Nat) := bs.filter fun b => decide (b.1 ≤ p) && decide (p < b.2)

/-- Whether two bodies overlap without nesting (R455). -/
def crossed (a b : Nat × Nat) : Bool :=
  (decide (a.1 < b.1) && decide (b.1 < a.2) && decide (a.2 < b.2))
    || (decide (b.1 < a.1) && decide (a.1 < b.2) && decide (b.2 < a.2))

/-- Whether the command at a position of a program is accepted (R301, R455, R456). -/
def hcmdAtOk (ws : List (Nat × HCmd)) (p : Nat) : Bool :=
  let bs := repeatBodies ws ws.length
  match ws[p]? with
  | none => false
  | some (cmd, c) =>
    hcmdOk cmd c
    && (cmd != 11 || (decide (c.ha.toNat ≤ p) && !(bs.any fun b => crossed b (p - c.ha.toNat, p))
          && decide ((bodiesAt bs (p - c.ha.toNat)).length ≤ 4)))
    && (cmd != 12 || (decide (p + 1 + c.hb.toNat < ws.length) && bodiesAt bs p == bodiesAt bs (p + 1 + c.hb.toNat)))

/-! ### Instructions -/

/-- Whether an instruction is accepted at load in a cell: an element instruction by R302, a hearth command by R301. An
event of the part is no instruction that is loaded. -/
def Instr.wellFormed (ctx : SlotCtx) (i : Instr) : Bool :=
  match slotParts i with
  | some (op, f) => (slotReason ctx op f).isNone
  | none =>
    match hearthParts i with
    | some (cmd, c) => hcmdOk cmd c
    | none => true

end Sys2Proof
end

