-- ==== Sys2Proof/Machine/Load.lean ====
section
/-! DEFINITION. Loading and unloading a container: its format (R314 to R327), relocation (R326), the checks at load (R302,
R303, R164, R86), and what a load and an UNLOAD change (R328 to R331). -/

namespace Sys2Proof.Machine

/-! ### Refusals (R303, R330) -/

/-- A refused load, as CFG_LOADST reports it. -/
structure Refused where
  status : Nat
  what : Nat := 0
  reason : Nat := 0
  room : Nat := 0
  x : Nat := 0
  y : Nat := 0
  elem : Nat := 0
  index : Nat := 0
  pos : Nat := 0
  deriving DecidableEq, Repr

/-- The word of CFG_LOADST (R303). -/
def Refused.word (r : Refused) : BitVec 64 :=
  BitVec.ofNat 64 (r.status * 2 ^ 56 + r.what * 2 ^ 52 + r.reason * 2 ^ 44 + r.room * 2 ^ 38 + r.x * 2 ^ 35 + r.y * 2 ^ 32
    + r.elem * 2 ^ 29 + r.index * 2 ^ 16 + r.pos)

/-- A refusal that names a section kind (R330). -/
def refuse {α : Type} (status kind : Nat) : Except Refused α := .error { status := status, index := kind }

/-- Goes on where a condition holds. -/
def require (ok : Bool) (r : Refused) : Except Refused Unit := if ok then .ok () else .error r

/-- A container breaks the format of a section. -/
def format (ok : Bool) (kind : Nat) : Except Refused Unit := require ok { status := 0x04, index := kind }

/-- Whether a stretch of bytes is zero. -/
def zeros (b : List Byte) (off n : Nat) : Bool := ((b.drop off).take n).all fun x => x == 0

/-- The bytes from an offset. -/
def slice (b : List Byte) (off n : Nat) : List Byte := (b.drop off).take n

/-- The equal parts of a list of bytes. -/
def chunks (n : Nat) (b : List Byte) : List (List Byte) := (upTo (b.length / n)).map fun i => slice b (n * i) n

/-! ### HEAD and sections (R314, R315) -/

/-- The offset and length of a section. -/
def secAt (b : List Byte) (kind : Nat) : Nat × Nat :=
  (bodyField b (64 + 16 * (kind - 1) + 8) 4, bodyField b (64 + 16 * (kind - 1) + 12) 4)

/-- The bytes of a section. -/
def secBytes (b : List Byte) (kind : Nat) : List Byte := slice b (secAt b kind).1 (secAt b kind).2

/-- Whether the sections lie in kind order from an offset on, without overlap and within the container. The offset of an absent
section is not looked at; log entry 80. -/
def sectionsOk (b : List Byte) : Nat → List Nat → Bool
  | _, [] => true
  | at_, k :: ks =>
    let s := secAt b k
    bodyField b (64 + 16 * (k - 1)) 2 == k && zeros b (64 + 16 * (k - 1) + 2) 6
      && (if s.2 = 0 then sectionsOk b at_ ks
          else s.1 % 64 == 0 && decide (at_ ≤ s.1) && decide (s.1 + s.2 ≤ b.length) && sectionsOk b (s.1 + s.2) ks)

/-- Whether HEAD follows R314 and R315. -/
def headOk (b : List Byte) : Bool :=
  decide (256 ≤ b.length) && bodyField b 0 4 == 0x0059524B && bodyField b 4 2 == 1 && zeros b 6 2
    && bodyField b 8 8 == b.length && zeros b 24 40 && sectionsOk b 256 [1, 2, 3, 4, 5, 6, 7, 8, 9, 10, 11, 12]
    && (secAt b 12).2 == 0 && (secAt b 11).2 != 0

/-! ### IMAGE (R316 to R318) -/

/-- The element records of a cell of a kind. -/
def elemsOfKind (kind : Nat) : Nat := if kind = 1 then 8 else 4

/-- The valid halfwords of four at an offset (R318). -/
def routeWords (b : List Byte) (off : Nat) : List Nat :=
  ((upTo 4).map fun i => bodyField b (off + 2 * i) 2).filter fun h => natBit h 15

/-- A destination of a route (R318). -/
def routeDest (h : Nat) : Dest := { x := natField h 12 3, y := natField h 9 3, e := natField h 6 3, i := natField h 4 2 }

/-- A destination of a control route (R318). -/
def ctlDestOf (h : Nat) : CtlDest :=
  if natBit h 3 then { x := natField h 12 3, y := natField h 9 3, i := natField h 6 2, start := true }
  else { x := natField h 12 3, y := natField h 9 3, e := natField h 6 3, i := natField h 4 2 }

/-- A counter set's record (R316). -/
def ctrOf (b : List Byte) : CtrSet :=
  let n := bodyField b 4 1
  { base := BitVec.ofNat 32 (bodyField b 0 4), entry := bodyField b 5 1 == 1,
    ext := (upTo n).map fun i => bodyField b (8 + 6 * i) 2 + 1,
    stride := (upTo n).map fun i => BitVec.ofNat 32 (bodyField b (8 + 6 * i + 2) 4),
    n := (upTo n).map fun _ => 0 }

/-- Entries of a table that are not empty. -/
def sparse {α : Type} (n : Nat) (f : Nat → Option α) : AMap α := (upTo n).filterMap fun i => (f i).map fun v => (i, v)

/-- An element record (R317). -/
def elemImgOf (b : List Byte) : ElemImg :=
  { slots := sparse 16 fun i =>
      let w := bodyField b (8 * i) 8
      if w = 0 then none else some (BitVec.ofNat 64 w)
    k := sparse 8 fun i =>
      let w := bodyField b (128 + 4 * i) 4
      if w = 0 then none else some (BitVec.ofNat 32 w)
    w := sparse 4 fun i =>
      let w := bodyField b (160 + 8 * i) 8
      if w = 0 then none else some (BitVec.ofNat 64 w)
    pb := BitVec.ofNat 8 (bodyField b 192 1)
    rot := natBit (bodyField b 193 1) 0
    ctlMap := sparse 4 fun c =>
      let m := natField (bodyField b 194 2) (4 * c) 4
      if natBit m 3 then some (m % 8) else none
    source := BitVec.ofNat 16 (bodyField b 196 2)
    outs := sparse 4 fun o =>
      let ds := (routeWords b (200 + 8 * o)).map routeDest
      if ds.isEmpty then none else some ds }

/-- Whether a halfword of a channel route follows R318: no reserved bit, and START only in control routes. -/
def routeFormat (h : Nat) : Bool := h % 8 == 0 && (!natBit h 15 || !natBit h 3)

/-- Whether an element record's reserved fields are zero. -/
def elemFormat (b : List Byte) : Bool :=
  decide (bodyField b 193 1 ≤ 1) && zeros b 198 2 && zeros b 232 24
    && (upTo 16).all fun i => routeFormat (bodyField b (200 + 2 * i) 2)

/-- The control routes of a cell, by source (R318). -/
def ctlOf (b : List Byte) : AMap (List CtlDest) :=
  (upTo 16).foldl (fun m i =>
    let src := bodyField b (200 + 4 * i) 1
    if src = 0xFF then m else mset m src (mget m src [] ++ [ctlDestOf (bodyField b (200 + 4 * i + 2) 2)])) []

/-- A cell record with its elements (R316). -/
def cellImgOf (b : List Byte) : CellImg :=
  let kind := bodyField b 2 1
  let n := elemsOfKind kind
  { x := bodyField b 0 1, y := bodyField b 1 1, kind := kind
    ctrs := sparse 4 fun i =>
      let c := slice b (8 + 32 * i) 32
      if bodyField c 4 1 = 0 then none else some (ctrOf c)
    ports := sparse 8 fun p =>
      let ds := (routeWords b (136 + 8 * p)).map routeDest
      if ds.isEmpty then none else some ds
    ctl := ctlOf b
    mcast := sparse 4 fun g =>
      let m := bodyField b (264 + 8 * g) 8
      let cs := ((upTo 64).filter fun i => natBit m i).map fun i => (i % 8, i / 8)
      if cs.isEmpty then none else some cs
    elems := (upTo n).map fun e => (e, elemImgOf (slice b (320 + 256 * e) 256))
    patch := if natBit (bodyField b 4 4) 0 then
        some (sparse 256 fun i =>
          let v := bodyField b (320 + 256 * n + 16 * i) 16
          if BitVec.ofNat 128 v = emptyPatch then none else some (BitVec.ofNat 128 v))
      else none }

/-- The length of a cell record with what follows it. -/
def cellRecLen (b : List Byte) : Nat :=
  320 + 256 * elemsOfKind (bodyField b 2 1) + (if natBit (bodyField b 4 4) 0 then 4096 else 0)

/-- Whether the destination halfword of a control route follows R318. -/
def ctlFormat (h : Nat) : Bool := h % 8 == 0 && (!natBit h 3 || (!natBit h 8 && natField h 4 2 == 0))

/-- Whether a cell record's fixed fields and reserved fields are right. -/
def cellFormat (b : List Byte) : Bool :=
  let kind := bodyField b 2 1
  let flags := bodyField b 4 4
  decide (1 ≤ kind ∧ kind ≤ 3) && bodyField b 3 1 == elemsOfKind kind && decide (flags ≤ 1) && (flags == 0 || kind == 1)
    && (kind == 3 || zeros b 72 64) && (kind == 2 || zeros b 264 32) && zeros b 296 24
    && ((upTo 4).all fun i => zeros b (8 + 32 * i + 6) 2 && decide (bodyField b (8 + 32 * i + 5) 1 ≤ 1)
        && decide (bodyField b (8 + 32 * i + 4) 1 ≤ 4))
    && ((upTo 32).all fun i => routeFormat (bodyField b (136 + 2 * i) 2))
    && ((upTo 16).all fun i => zeros b (200 + 4 * i + 1) 1 && ctlFormat (bodyField b (200 + 4 * i + 2) 2)
        && (bodyField b (200 + 4 * i) 1 != 0xFF || zeros b (200 + 4 * i + 2) 2))
    && ((upTo (elemsOfKind kind)).all fun e => elemFormat (slice b (320 + 256 * e) 256))

/-- The cell records of an image, in order. -/
def cellRecs (b : List Byte) : Nat → Option (List (List Byte))
  | 0 => if b.isEmpty then some [] else none
  | n + 1 =>
    let l := cellRecLen b
    if b.length < l then none else (cellRecs (b.drop l) n).map fun rs => b.take l :: rs

/-- An image with the bytes of its cell records. -/
structure RawImage where
  img : Image
  recs : List (List Byte)
  deriving DecidableEq, Repr

/-- The cell of an image that a destination names. -/
def Image.kindAt (im : Image) (x y : Nat) : Nat :=
  if x < 2 ^ im.gw ∧ y < 2 ^ im.gh then ((im.cells.find? fun k => k.x == x && k.y == y).map (·.kind)).getD 0 else 0

/-- The channel destinations that a cell record routes to, ports before elements. -/
def CellImg.dests (k : CellImg) : List Dest := k.ports.flatMap (·.2) ++ k.elems.flatMap fun e => e.2.outs.flatMap (·.2)

/-- Whether every destination that names an outbound edge port has input field 0 (R318). -/
def Image.edgeInputsOk (im : Image) : Bool :=
  im.cells.all fun k => k.dests.all fun d => im.kindAt d.x d.y != 3 || decide (d.e < 4) || d.i == 0

/-- One image from its bytes; none where it breaks R316 to R318. -/
def imageOf (b : List Byte) : Option RawImage :=
  let gw := bodyField b 4 1
  let gh := bodyField b 5 1
  let w := 2 ^ gw
  let n := bodyField b 6 2
  if 3 < gw ∨ 3 < gh ∨ n ≠ w * 2 ^ gh ∨ !zeros b 24 8 then none
  else
    match cellRecs (b.drop 32) n with
    | none => none
    | some rs =>
      let pat := bodyField b 8 16
      let okAt (p : Nat) : Bool :=
        let r := rs.getD p []
        cellFormat r && bodyField r 0 1 == p % w && bodyField r 1 1 == p / w && natField pat (2 * p) 2 == bodyField r 2 1
      let im : Image := { gw := gw, gh := gh, size := b.length, cells := rs.map cellImgOf }
      if (upTo n).all okAt && pat / 2 ^ (2 * n) == 0 && im.edgeInputsOk then some { img := im, recs := rs } else none

/-- The images of the section, one after another by their lengths. -/
def imagesOf (b : List Byte) : Nat → Option (List RawImage)
  | 0 => if b.isEmpty then some [] else none
  | n + 1 =>
    let l := bodyField b 0 4
    if l < 32 ∨ b.length < l then none
    else
      match imageOf (b.take l), imagesOf (b.drop l) n with
      | some i, some is => some (i :: is)
      | _, _ => none

/-! ### The other sections (R319, R321 to R326) -/

/-- An EDGE record with its place, and the counter set that it programs (R319). Its used levels reach to the last one
that is not zero. -/
structure EdgeRec where
  x : Nat
  y : Nat
  port : Nat
  edge : Edge
  levels : List (Nat × Word)
  deriving DecidableEq, Repr

/-- The levels of an EDGE record. -/
def edgeLevels (b : List Byte) : List (Nat × Word) :=
  let all := (upTo 4).map fun i => (bodyField b (24 + 8 * i) 2 + 1, BitVec.ofNat 32 (bodyField b (28 + 8 * i) 4))
  let used := (all.reverse.dropWhile fun l => l.1 == 1 && l.2 == 0).reverse
  if used.isEmpty then all.take 1 else used

/-- An EDGE record (R319). -/
def edgeOf (b : List Byte) : EdgeRec :=
  { x := bodyField b 0 1, y := bodyField b 1 1, port := bodyField b 2 1
    edge := { out := bodyField b 3 1 == 1, fmt := bodyField b 4 1, size := bodyField b 5 1, ctr := bodyField b 6 1,
              argBase := bodyField b 7 1 == 1, argOff := bodyField b 8 2, base := bodyField b 16 8 }
    levels := edgeLevels b }

/-- Whether an EDGE record follows R319: a size code of R291, none signed for OUT, and a counter set. -/
def edgeFormat (b : List Byte) : Bool :=
  let size := bodyField b 5 1
  (decide (size < 3) || (bodyField b 3 1 == 0 && (size == 4 || size == 5))) && decide (bodyField b 6 1 < 4)
    && decide (bodyField b 2 1 ≤ 3) && decide (bodyField b 3 1 ≤ 1) && (bodyField b 3 1 == 0 || bodyField b 4 1 == 0)
    && decide (bodyField b 7 1 ≤ 1) && bodyField b 8 2 % 8 == 0 && zeros b 10 6
    && (upTo 4).all fun i => zeros b (26 + 8 * i) 2

/-- A sequencing program: its room mask and its commands (R321). -/
structure SeqRec where
  mask : Nat
  cmds : List Nat
  deriving DecidableEq, Repr

/-- The SEQ programs, with fuel; none where the section breaks R321. -/
def seqsOf (b : List Byte) : Nat → Option (List SeqRec)
  | 0 => none
  | fuel + 1 =>
    if b.isEmpty then some []
    else
      let n := bodyField b 8 4
      let l := 16 + 16 * n
      if n = 0 ∨ 65536 < n ∨ b.length < l ∨ !zeros b 12 4 then none
      else (seqsOf (b.drop l) fuel).map fun rs =>
        { mask := bodyField b 0 8, cmds := (upTo n).map fun i => bodyField b (16 + 16 * i) 16 } :: rs

/-- A TAGS entry (R322). -/
structure TagsRec where
  img : Nat
  trap : Option Nat
  spawns : List Nat
  prefetch : List Prefetch
  deriving DecidableEq, Repr

/-- A prefetch entry (R322). -/
def prefetchOf (b : List Byte) : Prefetch :=
  { x := bodyField b 0 1, y := bodyField b 1 1, slot := bodyField b 2 1, fromArg := bodyField b 3 1 == 1,
    argOff := bodyField b 4 2, blocks := bodyField b 6 2 + 1, va := bodyField b 8 8 }

/-- The length of a TAGS entry by its counts. -/
def tagsLen (b : List Byte) : Nat := 16 + (2 * bodyField b 9 1 + 15) / 16 * 16 + 16 * bodyField b 8 1

/-- A TAGS entry; none where it breaks R322. -/
def tagsOf (b : List Byte) (images : List RawImage) : Option TagsRec :=
  let ns := bodyField b 9 1
  let po := 16 + (2 * ns + 15) / 16 * 16
  let trap := bodyField b 6 2
  let pf := (upTo (bodyField b 8 1)).map fun i => prefetchOf (slice b (po + 16 * i) 16)
  match images[bodyField b 4 2]? with
  | none => none
  | some im =>
    let okPf (p : Prefetch) : Bool := decide (p.slot ≤ 1)
      && (im.img.cells.any fun k => k.x == p.x && k.y == p.y && k.kind == 1)
    let okSrc := (upTo (bodyField b 8 1)).all fun i => decide (bodyField b (po + 16 * i + 3) 1 ≤ 1)
    let places := pf.map fun p => (p.x, p.y, p.slot)
    if 64 < ns ∨ !zeros b 10 6 ∨ (trap < 0x8000 ∧ trap ≠ 0) ∨ 0x9000 ≤ trap ∨ !okSrc ∨ !pf.all okPf
        ∨ places.eraseDups.length ≠ places.length ∨ !zeros b (16 + 2 * ns) (po - 16 - 2 * ns) then none
    else some { img := bodyField b 4 2, trap := if natBit trap 15 then some (trap % 4096) else none,
                spawns := (upTo ns).map fun i => bodyField b (16 + 2 * i) 2 % 4096, prefetch := pf }

/-- The TAGS entries, as many as HEAD says. -/
def allTags (images : List RawImage) (b : List Byte) : Nat → Option (List TagsRec)
  | 0 => if b.isEmpty then some [] else none
  | n + 1 =>
    let l := bodyField b 0 4
    if l ≠ tagsLen b ∨ b.length < l then none
    else
      match tagsOf (b.take l) images, allTags images (b.drop l) n with
      | some t, some ts => some (t :: ts)
      | _, _ => none

/-- The SETS records, with fuel (R323). -/
def setsOf (b : List Byte) : Nat → Option (List SetRec)
  | 0 => none
  | fuel + 1 =>
    if b.isEmpty then some []
    else
      let n := bodyField b 2 2
      let l := 8 + 16 * n
      let rs := (upTo n).map fun i => (bodyField b (8 + 16 * i) 8, bodyField b (16 + 16 * i) 8)
      if b.length < l ∨ !zeros b 4 4 ∨ !rs.all (fun r => r.1 % 64 == 0 && r.2 % 64 == 0) then none
      else (setsOf (b.drop l) fuel).map fun ss => { n := bodyField b 0 2, ranges := rs } :: ss

/-- A binding's kind by its code (R323). -/
def bindKindOf : Nat → Option BindKind
  | 0 => some .guardedSet
  | 1 => some .guardedWord
  | 2 => some .fe
  | 3 => some .priv
  | 4 => some .escape
  | 5 => some .unguarded
  | 6 => some .stream
  | 7 => some .streamOnce
  | _ => none

/-- Whether a scratchpad start or handle of R323 has the window form with SP = 1 and REL = 0 (R230). -/
def spadForm (v : Nat) : Bool := natField v 56 8 == 0x80 && natField v 20 30 == 0

/-- A BIND record; none where it breaks R323 or its kind and level disagree (R236). -/
def bindOf (b : List Byte) : Option Bind :=
  let sp := bodyField b 1 1
  let start := bodyField b 8 8
  match bindKindOf (bodyField b 0 1) with
  | none => none
  | some k =>
    let levelOk := if sp = 1 then k == .fe || k == .streamOnce else k != .fe
    if 1 < sp ∨ !levelOk ∨ !zeros b 4 4 ∨ (k = .stream ∧ 0x1000 ≤ bodyField b 2 2)
        ∨ (sp = 1 ∧ spadForm start = false) ∨ (k = .guardedWord ∧ spadForm (bodyField b 24 8) = false) ∨ (sp = 0 ∧ 2 ^ 48 ≤ start) then none
    else some { kind := k, spad := sp == 1, obj := bodyField b 2 2, cx := natField start 53 3, cy := natField start 50 3,
                start := if sp = 1 then start % 2 ^ 20 else start % 2 ^ 48, len := bodyField b 16 8,
                handle := bodyField b 24 8 }

/-- Every element of a list read, or none. -/
def readAll {α β : Type} (f : α → Option β) : List α → Option (List β)
  | [] => some []
  | a :: as =>
    match f a, readAll f as with
    | some b, some bs => some (b :: bs)
    | _, _ => none

/-- Whether two bindings overlap (R323). -/
def Bind.meets (a b : Bind) : Bool :=
  a.spad == b.spad && (!a.spad || (a.cx == b.cx && a.cy == b.cy)) && overlaps a.start a.len b.start b.len

/-- Whether no two elements of a list stand in a relation. -/
def apart {α : Type} (r : α → α → Bool) : List α → Bool
  | [] => true
  | a :: as => !as.any (r a) && apart r as

/-- The figures of one position (R324); none outside the ranges of R140. -/
def meterOf (b : List Byte) : Option MeterFig :=
  let noff := bodyField b 20 1
  let moff := bodyField b 21 1
  if 0xFFFFFFC0 < bodyField b 0 4 ∨ 1 < bodyField b 19 1 ∨ 236 < noff ∨ noff % 4 ≠ 0 ∨ bodyField b 16 2 = 0
      ∨ (moff ≠ 0xFF ∧ (232 < moff ∨ moff % 4 ≠ 0)) ∨ !zeros b 22 2 then none
  else some { mbase := bodyField b 0 4, mper := bodyField b 4 4, nconst := bodyField b 8 4, awm := bodyField b 12 4,
              an := bodyField b 16 2, am := bodyField b 18 1, nsrc := bodyField b 19 1 == 1, noff := noff,
              moff := if moff = 0xFF then none else some moff }

/-- The METER records by TAGS index, with fuel (R324). -/
def metersOf (images : List RawImage) (tags : List TagsRec) (b : List Byte) : Nat → Option (AMap (AMap MeterFig))
  | 0 => none
  | fuel + 1 =>
    if b.isEmpty then some []
    else
      let n := bodyField b 2 2
      let l := 4 + 24 * n
      match tags[bodyField b 0 2]? with
      | none => none
      | some t =>
        let places := (images.getD t.img { img := {}, recs := [] }).img.cells.length
        if b.length < l ∨ n ≠ places then none
        else
          match readAll (fun i => meterOf (slice b (4 + 24 * i) 24)) (upTo n), metersOf images tags (b.drop l) fuel with
          | some fs, some ms => some (mset ms (bodyField b 0 2) ((upTo n).zip fs))
          | _, _ => none

/-- A DATA segment (R325). -/
structure Segment where
  va : Nat
  blocks : List (List Byte × Nat)
  deriving DecidableEq, Repr

/-- The DATA segments, with fuel (R325). -/
def dataOf (b : List Byte) : Nat → Option (List Segment)
  | 0 => none
  | fuel + 1 =>
    if b.isEmpty then some []
    else
      let va := bodyField b 0 8
      let len := bodyField b 8 8
      let n := len / 64
      let po := (16 + 2 * n + 63) / 64 * 64
      if va % 64 ≠ 0 ∨ len % 64 ≠ 0 ∨ b.length < po + len then none
      else (dataOf (b.drop (po + len)) fuel).map fun ss =>
        { va := va, blocks := (upTo n).map fun i => (slice b (po + 64 * i) 64, bodyField b (16 + 2 * i) 2) } :: ss

/-- Everything that a container holds. -/
structure Contents where
  images : List RawImage
  edges : List EdgeRec
  seqs : List SeqRec
  tags : List TagsRec
  sets : List SetRec
  binds : List Bind
  meters : AMap (AMap MeterFig)
  data : List Segment
  deriving DecidableEq, Repr

/-- What a section gives, or FORMAT. -/
def sectionOr {α : Type} (kind : Nat) : Option α → Except Refused α
  | some a => .ok a
  | none => refuse 0x04 kind

/-- The SYMS and RELOC sections and SIGN follow R326 and R327. -/
def tailOk (b : List Byte) : Except Refused Unit := do
  let syms := secBytes b 9
  let rel := secBytes b 10
  let sg := secBytes b 11
  let n := bodyField syms 0 4
  let goodRel (e : List Byte) : Bool :=
    let w := if bodyField e 0 1 = 1 then 8 else 2
    decide (1 ≤ bodyField e 0 1 ∧ bodyField e 0 1 ≤ 3) && zeros e 2 2 && decide (bodyField e 4 4 < n)
      && decide (1 ≤ bodyField e 1 1 ∧ bodyField e 1 1 ≤ 8)
      && decide (bodyField e 8 8 + w ≤ (secAt b (bodyField e 1 1)).2)
  format (syms.isEmpty || (decide (4 + 16 * n ≤ syms.length)
    && (upTo n).all fun i => zeros syms (4 + 16 * i + 5) 3 && decide (bodyField syms (4 + 16 * i + 4) 1 ≤ 5))) 9
  format (rel.length % 16 == 0 && (chunks 16 rel).all goodRel) 10
  format (zeros sg 1 1 && zeros sg 6 2 && decide (bodyField sg 4 2 ≤ 1600) && decide (40 + bodyField sg 4 2 ≤ sg.length)) 11

/-- The contents of a container, or the section that breaks its format (R329 step 2). -/
def contentsOf (b : List Byte) : Except Refused Contents := do
  format (headOk b) 0
  let fuel := b.length + 1
  let images ← sectionOr 1 (imagesOf (secBytes b 1) (bodyField b 20 2))
  let eb := secBytes b 2
  format (eb.length % 56 == 0 && (chunks 56 eb).all fun e => edgeFormat e
    && images.any fun r => r.img.kindAt (bodyField e 0 1) (bodyField e 1 1) == 3) 2
  let seqs ← sectionOr 3 (seqsOf (secBytes b 3) fuel)
  format (apart (fun (p q : SeqRec) => (upTo 64).any fun i => natBit p.mask i && natBit q.mask i) seqs) 3
  let tags ← sectionOr 4 (allTags images (secBytes b 4) (bodyField b 22 2))
  let sets ← sectionOr 5 (setsOf (secBytes b 5) fuel)
  let bb := secBytes b 6
  let binds ← sectionOr 6 (if bb.length % 32 = 0 then readAll bindOf (chunks 32 bb) else none)
  format (apart Bind.meets binds) 6
  let meters ← sectionOr 7 (metersOf images tags (secBytes b 7) fuel)
  let data ← sectionOr 8 (dataOf (secBytes b 8) fuel)
  tailOk b
  return { images := images, edges := (chunks 56 eb).map edgeOf, seqs := seqs, tags := tags, sets := sets,
           binds := binds, meters := meters, data := data }

/-! ### Relocation (R326) -/

/-- Bytes replaced at an offset. -/
def putAt (b : List Byte) (off : Nat) (v : List Byte) : List Byte := b.take off ++ v ++ b.drop (off + v.length)

/-- One relocation; a field of an image is a window, whose VBASE alone takes the bias. -/
def relocate (bias : Nat) (tagMap : AMap Nat) (first : Nat) (e : List Byte) (b : List Byte) : Except Refused (List Byte) :=
  let off := (secAt b (bodyField e 1 1)).1 + bodyField e 8 8
  let sym := bodyField e 4 4
  match bodyField e 0 1 with
  | 1 =>
    let v := bodyField b off 8
    let new := if bodyField e 1 1 = 1 then v / 2 ^ 48 * 2 ^ 48 + (v + bias) % 2 ^ 48 else (v + bias) % 2 ^ 64
    .ok (putAt b off (natToBytes 8 new))
  | 2 =>
    match mfind tagMap sym with
    | none => refuse 0x06 10
    | some t => .ok (putAt b off (natToBytes 2 (bodyField b off 2 / 4096 * 4096 + t)))
  | _ => .ok (putAt b off (natToBytes 2 (first + bodyField (secBytes b 9) (4 + 16 * sym + 8) 8)))

/-- Whether every route-tag symbol has an entry in the tag map (R329 step 3). -/
def symsMapped (tagMap : AMap Nat) (syms : List Byte) : Bool :=
  (upTo (bodyField syms 0 4)).all fun i => bodyField syms (4 + 16 * i + 4) 1 != 1 || (mfind tagMap i).isSome

/-- Every relocation of a container in order (R329 step 3). -/
def relocateAll (bias : Nat) (tagMap : AMap Nat) (first : Nat) (b : List Byte) : Except Refused (List Byte) :=
  (chunks 16 (secBytes b 10)).foldl (fun r e => r.bind (relocate bias tagMap first e)) (.ok b)

/-! ### The checks of R302 on an image -/

/-- Every input that a route of an image feeds, in the order of the cells, ports before elements. -/
def Image.fed (im : Image) : List Dest := im.cells.flatMap CellImg.dests

/-- Why a channel destination is refused: outside the gang (R89, R302), or an element that its cell lacks (R174, R297). -/
def Image.destBad (im : Image) (d : Dest) : Option Nat :=
  let k := im.kindAt d.x d.y
  if k = 0 then some 0x0A else if d.e < elemsOfKind k ∨ k = 3 then none else some 0x04

/-- Whether the number of counter sets of a kind includes one (R180). -/
def ctrOfKind (kind n : Nat) : Bool := decide (n < 2) || kind == 3

/-- Why a control destination is refused (R174, R318). -/
def Image.ctlDestBad (im : Image) (d : CtlDest) : Option Nat :=
  let k := im.kindAt d.x d.y
  if k = 0 then some 0x0A
  else if (if d.start then ctrOfKind k d.i else decide (d.e < elemsOfKind k)) = true then none else some 0x04

/-- Why the source code of a control route is refused: none of the table (R318), or a part that its cell lacks (R174). -/
def ctlSourceBad (kind src : Nat) : Option Nat :=
  if 0x28 < src then some 0x0A
  else if src < 0x20 then (if src < 4 * elemsOfKind kind then none else some 0x04)
  else if src < 0x24 then (if ctrOfKind kind (src - 0x20) then none else some 0x04)
  else if kind = 1 then none else some 0x04

/-- Whether a port exists in a cell of a kind (R316). -/
def portOfKind (kind p : Nat) : Bool := if p < 3 then kind == 1 else kind == 3

/-- What the image says of an element, for the slot checks (R302). -/
def slotCtxOf (im : Image) (k : CellImg) (e : Nat) : SlotCtx :=
  let bits (n : Nat) (p : Nat → Bool) : Nat := (upTo n).foldl (fun a i => a + (if p i then 2 ^ i else 0)) 0
  { kind := k.kind
    inputs := bits 4 fun i => im.fed.contains { x := k.x, y := k.y, e := e, i := i }
    outs := bits 4 fun o => !((mget k.elems e {}).outs.filter fun p => p.1 == o).isEmpty
    ctls := bits 4 fun o => (mfind k.ctl (4 * e + o)).isSome
    ctrs := bits 4 fun n => (mfind k.ctrs n).isSome && !(k.edges.any fun p => p.2.ctr == n)
    ports := bits 8 fun p => (mfind k.ports p).isSome
    groups := bits 4 fun g => (mfind k.mcast g).isSome }

/-- A refusal with CFG_ILLEGAL at a place of an image (R303). -/
def illegal (room : Nat) (k : CellImg) (what reason elem index : Nat) : Refused :=
  { status := 0x01, what := what, reason := reason, room := room, x := k.x, y := k.y, elem := elem, index := index }

/-- Whether a list feeds an input that it or an earlier route has fed. -/
def secondFeed (earlier : List Dest) : List Dest → Bool
  | [] => false
  | d :: ds => earlier.contains d || secondFeed (d :: earlier) ds

/-- Why the channel destinations of a port or an element are refused, after those of the routes before (R176, R302). -/
def Image.routesBad (im : Image) (before ds : List Dest) : Option Nat :=
  match ds.findSome? im.destBad with
  | some r => some r
  | none => if secondFeed before ds then some 0x0A else none

/-- No reason to refuse, or a refusal. -/
def refuseIf (bad : Option Nat) (r : Nat → Refused) : Except Refused Unit :=
  match bad with
  | some n => .error (r n)
  | none => .ok ()

/-- Why a control-route entry is refused; a used one has a valid destination; log entry 81. -/
def Image.ctlBad (im : Image) (kind src h : Nat) : Option Nat :=
  if src = 0xFF then none
  else
    match ctlSourceBad kind src with
    | some r => some r
    | none => if natBit h 15 then im.ctlDestBad (ctlDestOf h) else some 0x0A

/-- The checks on a cell's ports, control routes and multicast groups. -/
def checkCell (im : Image) (room : Nat) (k : CellImg) (raw : List Byte) (before : List Dest) : Except Refused Unit := do
  let bad (what reason : Nat) : Refused := illegal room k what reason 0 0
  refuseIf (if k.ports.all fun p => portOfKind k.kind p.1 then none else some 0x04) (bad 1)
  refuseIf (im.routesBad before (k.ports.flatMap (·.2))) (bad 1)
  refuseIf ((upTo 16).findSome? fun i => im.ctlBad k.kind (bodyField raw (200 + 4 * i) 1) (bodyField raw (200 + 4 * i + 2) 2))
    (bad 1)
  require (k.mcast.all fun g => g.2.all fun p => im.kindAt p.1 p.2 == 1) (bad 2 0x0A)

/-- The checks on one element's routes and slots. -/
def checkElem (im : Image) (room : Nat) (k : CellImg) (e : Nat) (g : ElemImg) (before : List Dest) : Except Refused Unit := do
  refuseIf (im.routesBad before (g.outs.flatMap (·.2))) fun r => illegal room k 1 r e 0
  let ctx := slotCtxOf im k e
  g.slots.foldl (fun r p => r.bind fun _ => refuseIf (wordReason ctx p.2.toNat) fun n => illegal room k 0 n e p.1) (.ok ())

/-- The checks on a patch table (R195). -/
def checkPatch (room : Nat) (k : CellImg) : Except Refused Unit :=
  match k.patch with
  | none => .ok ()
  | some t =>
    match tableFault t with
    | some f => .error (illegal room k 3 0x08 0 f.1)
    | none => .ok ()

/-- The checks on one cell in the order of its record, after the routes of the cells before it. -/
def checkCellAll (im : Image) (room : Nat) (k : CellImg) (raw : List Byte) (before : List Dest) : Except Refused Unit := do
  checkCell im room k raw before
  let _ ← k.elems.foldl (fun (r : Except Refused (List Dest)) e => r.bind fun seen =>
    (checkElem im room k e.1 e.2 seen).map fun _ => seen ++ e.2.outs.flatMap (·.2)) (.ok (before ++ k.ports.flatMap (·.2)))
  checkPatch room k

/-- The checks of R302 on one image, cell by cell. -/
def checkImage (room : Nat) (ri : RawImage) (im : Image) : Except Refused Unit :=
  ((im.cells.zip ri.recs).foldl (fun (r : Except Refused (List Dest)) p => r.bind fun before =>
    (checkCellAll im room p.1 p.2 before).map fun _ => before ++ p.1.dests) (.ok [])).map fun _ => ()

/-! ### Edge records on the images (R319) -/

/-- The counter set that an EDGE record programs: its levels, with BASE and start of the cell's own record. -/
def EdgeRec.program (r : EdgeRec) (c : CtrSet) : CtrSet :=
  { c with ext := r.levels.map (·.1), stride := r.levels.map (·.2), n := r.levels.map fun _ => 0 }

/-- An image with an EDGE record at its address cell of that place. -/
def Image.withEdge (im : Image) (r : EdgeRec) : Image :=
  { im with cells := im.cells.map fun (k : CellImg) =>
      if k.x = r.x ∧ k.y = r.y ∧ k.kind = 3 then
        { k with edges := mset k.edges r.port r.edge,
                 ctrs := mset k.ctrs r.edge.ctr (r.program (mget k.ctrs r.edge.ctr {})) }
      else k }

/-- Whether an EDGE record has a port and a counter set of its own in its cell; log entry 82. -/
def edgeOk (all : List EdgeRec) (r : EdgeRec) : Bool :=
  (all.filter fun q => q.x == r.x && q.y == r.y && (q.port == r.port || q.edge.ctr == r.edge.ctr)).length == 1

/-! ### Step 4 of R329 -/

/-- The lowest room of a mask (R303). -/
def lowRoom (mask : Nat) : Nat := ((upTo 64).find? fun i => natBit mask i).getD 0

/-- The first command of a program that is rejected (R301). -/
def badCommand (r : SeqRec) : Option Nat :=
  let ws := r.cmds.map fun w => (cmdOfBits w, hcmdOfBits w)
  (upTo ws.length).find? fun p => !hcmdAtOk ws p

/-- The ranges of different sets that overlap (R164). -/
def setsMeet (a b : SetRec) : Bool := a.n != b.n && a.ranges.any fun x => b.ranges.any fun y => overlaps x.1 x.2 y.1 y.2

/-- Step 4 of R329; it gives the images with their edge ports. -/
def checkContents (rooms : Nat) (k : Contents) : Except Refused (List Image) := do
  let room := lowRoom rooms
  let ims := k.images.map fun r => k.edges.foldl Image.withEdge r.img
  (k.images.zip ims).foldl (fun r p => r.bind fun _ => checkImage room p.1 p.2) (.ok ())
  let setup (x y : Nat) : Refused := { status := 0x01, what := 2, reason := 0x0A, room := room, x := x, y := y }
  refuseIf ((k.edges.find? fun r => !edgeOk k.edges r).map fun r => r.x + 8 * r.y) fun p => setup (p % 8) (p / 8)
  k.seqs.foldl (fun r q => r.bind fun _ =>
    match badCommand q with
    | some p => .error { status := 0x01, what := 4, reason := 0x09, room := lowRoom q.mask, pos := p }
    | none => .ok ()) (.ok ())
  refuseIf (((k.tags.flatMap (·.prefetch)).find? fun p => decide (256 < p.blocks)).map fun p => p.x + 8 * p.y) fun p =>
    setup (p % 8) (p / 8)
  require (decide ((k.sets.map (·.n)).eraseDups.length ≤ 4096) && apart setsMeet k.sets) { status := 0x07, index := 5 }
  require (ims.all fun im => im.cells.any fun c => c.kind == 1) { status := 0x08, index := 1 }
  return ims

/-! ### The load (R328 to R330) -/

/-- The bytes of a container's image in a room's store. -/
def State.storeUsed (s : State) (r : Nat) : Nat :=
  ((s.room r).store.map fun p => ((s.ctn p.2.1).images.getD p.2.2 {}).size).foldl (· + ·) 0

/-- Step 5 of R329. -/
def State.storeFits (s : State) (rooms : Nat) (ims : List Image) : Bool :=
  (upTo 64).all fun r => !natBit rooms r
    || (decide ((s.room r).store.length + ims.length ≤ 8)
        && decide (s.storeUsed r + (ims.map (·.size)).foldl (· + ·) 0 ≤ 2 ^ 20))

/-- Step 6 of R329. -/
def State.hearthsFree (s : State) (seqs : List SeqRec) : Bool :=
  seqs.all fun q => (upTo 64).all fun r => !natBit q.mask r || (s.room r).hearth.st == .idle || (s.room r).hearth.st == .ended

/-- The virtual addresses of the blocks of DATA. -/
def dataBlocks (data : List Segment) : List Nat :=
  data.flatMap fun g => (upTo g.blocks.length).map fun i => (g.va + 64 * i) % 2 ^ 48

/-- The pages of every DATA block are present (R329 step 7): a walk that meets a poisoned table finds none (R224); log entry 66. -/
def State.dataMapped (s : State) (asid : Nat) (data : List Segment) : Bool :=
  (dataBlocks data).all fun va => (s.walk asid va).isSome && (s.walkPoison asid va).isNone

/-- The memory that a load reads and writes through an address space: the tables of its walks and the blocks of DATA (R233,
R329). -/
def State.loadPieces (s : State) (asid : Nat) (data : List Segment) : List (Nat × Nat) :=
  (dataBlocks data).flatMap fun va => (s.walkList asid va).map (fun a => (a, 8))
    ++ (if (s.walk asid va).isSome then [(s.walkPhys asid va, 64)] else [])

/-- The memory that a load uses has an access, at the place of the host in the order of the tick (R44, R240). -/
def State.loadReaches (s : State) (asid : Nat) (data : List Segment) : State :=
  let ps := s.loadPieces asid data
  (s.arrive (s.memArrivals ps hostKey)).useRanges ps

/-- One DATA block written with its tag; the home watchpoints take the loader for the host; log entry 67. -/
def State.putData (s : State) (asid va : Nat) (b : List Byte × Nat) : State :=
  let pa := s.walkPhys asid va
  ((s.putBytes pa b.1).putTag pa (BitVec.ofNat 16 b.2)).homeWatch pa 64 true { kind := 7, dev := s.devNum }

/-- Step 7 of R329. -/
def State.writeData (s : State) (asid : Nat) (data : List Segment) : State :=
  foldState data s fun g st =>
    foldState ((upTo g.blocks.length).zip g.blocks) st fun p st1 => st1.putData asid ((g.va + 64 * p.1) % 2 ^ 48) p.2

/-- The lowest number of a run of free handler indices (R329 step 9). -/
def State.firstHandlerFor (s : State) (n : Nat) : Nat :=
  let used := s.handlers.map (·.1)
  (((0 :: used.map (· + 1)).filter fun f => !(used.any fun u => decide (f ≤ u ∧ u < f + n))).foldl min (2 ^ 32))

/-- The lowest free container identifier. -/
def State.freeCtn (s : State) : Nat :=
  ((upTo (s.ctns.length + 1)).find? fun i => (s.ctn? i).isNone).getD 0

/-- The lowest free positions of a store taken by a container's images. -/
def fillStore (store : AMap (Nat × Nat)) (id : Nat) : List Nat → AMap (Nat × Nat)
  | [] => store
  | i :: is =>
    let p := ((upTo 8).find? fun k => (mfind store k).isNone).getD 7
    fillStore (mset store p (id, i)) id is

/-- Step 8 of R329 for one room. -/
def Room.receive (r : Room) (room rooms id n : Nat) (seqs : List SeqRec) : Room :=
  let r1 := if natBit rooms room then { r with store := fillStore r.store id (upTo n) } else r
  match seqs.find? fun q => natBit q.mask room with
  | none => r1
  | some q => { r1 with hearth := { r1.hearth with st := .wait, pos := 0, reps := [], exec := none, owner := some id,
                                                   prog := q.cmds.map fun w => BitVec.ofNat 128 w } }

/-- A container as it is held after a load, and its handlers. -/
def loadedOf (k : Contents) (ims : List Image) (b : List Byte) (id asid bias rooms first : Nat) :
    Container × List (Nat × Handler) :=
  ({ id := id, asid := asid, bias := bias, rooms := BitVec.ofNat 64 rooms, version := bodyField b 16 4, images := ims,
     firstHandler := first, handlerCount := k.tags.length, sets := k.sets, binds := k.binds,
     seqRooms := (upTo 64).filter fun r => k.seqs.any fun q => natBit q.mask r,
     digest := slice (secBytes b 11) 8 32 },
   (upTo k.tags.length).map fun i =>
     let t := k.tags.getD i { img := 0, trap := none, spawns := [], prefetch := [] }
     (first + i, { ctn := id, img := t.img, trap := t.trap, spawns := t.spawns, prefetch := t.prefetch,
                   meter := mget k.meters i [] }))

/-- Step 1 of R329: the signature over the digest, and the rollback counter (R77, R327). -/
def State.signedOk (s : State) (b : List Byte) : Except Refused Unit := do
  let sg := secBytes b 11
  let digest := Config.shake256 (b.take (secAt b 11).1)
  require (slice sg 8 32 == digest && decide (bodyField sg 0 1 ≤ 1)
    && Config.falconVerify (bodyField sg 0 1) (bodyField sg 2 2) digest (slice sg 40 (bodyField sg 4 2)))
    { status := 0x02, index := 11 }
  require (decide (mget s.lodge.rb 2 0 ≤ bodyField b 16 4)) { status := 0x03 }

/-- A container that has passed every check of R329: its bytes after relocation, what they hold, and its first handler index. -/
structure Loadable where
  b : List Byte
  k : Contents
  ims : List Image
  first : Nat
  bias : Nat
  rooms : Nat

/-- The checks of R329 before the walk of DATA, in their order, on the container that a descriptor names. -/
def State.checked (s : State) (desc : Nat) : Except Refused Loadable := do
  let d := s.hostMem.readBytes desc 64
  let b := s.hostMem.readBytes (bodyField d 0 8) (bodyField d 8 8)
  let bias := bodyField d 16 8
  let rooms := bodyField d 24 8
  let maps := (upTo (bodyField d 32 2)).map fun i => s.hostMem.readLE (desc + 64 + 4 * i) 4
  let tagMap : AMap Nat := maps.foldl (fun m e => mset m (e / 4096) (e % 4096)) []
  s.signedOk b
  let k0 ← contentsOf b
  let first := s.firstHandlerFor k0.tags.length
  require (symsMapped tagMap (secBytes b 9)) { status := 0x06, index := 10 }
  let b1 ← relocateAll bias tagMap first b
  let k ← contentsOf b1
  let ims ← checkContents rooms k
  require (s.storeFits rooms ims && decide (first + k.tags.length ≤ 65536)) { status := 0x05, index := 1 }
  require (s.hearthsFree k.seqs) { status := 0x09, index := 3 }
  return { b := b, k := k, ims := ims, first := first, bias := bias, rooms := rooms }

/-- The refusal of a load whose DATA has a page that is not present (R329 step 7). -/
def dataAbsent : Refused := { status := 0x0A, index := 8 }

/-- Every check of R329. -/
def State.loadable (s : State) (asid desc : Nat) : Except Refused Loadable := do
  let x ← s.checked desc
  require (s.dataMapped asid x.k.data) dataAbsent
  return x

/-- What a load does once its checks have passed: steps 7 to 9 of R329. -/
def State.loadApply (s : State) (asid desc : Nat) (x : Loadable) : State :=
  let id := s.freeCtn
  let l := loadedOf x.k x.ims x.b id asid x.bias x.rooms x.first
  let s1 := s.writeData asid x.k.data
  let s2 := foldState (upTo 64) s1 fun r st => st.updRoom r fun y => y.receive r x.rooms id x.ims.length x.k.seqs
  let ids := natToBytes 2 id ++ natToBytes 2 x.first ++ natToBytes 2 x.k.tags.length
  { s2 with
    ctns := s2.ctns ++ [l.1]
    handlers := l.2.foldl (fun m h => mset m h.1 h.2) s2.handlers
    hostMem := s2.hostMem.writeBytes (desc + 34) ids
    lodge := { s2.lodge with verified := mset s2.lodge.verified 2 (max (mget s2.lodge.verified 2 0) (bodyField x.b 16 4)) } }

/-- The steps of R329 on the container that a descriptor names. -/
def State.loadWith (s : State) (asid desc : Nat) : Except Refused State := do
  let x ← s.loadable asid desc
  return s.loadApply asid desc x

/-- What keeps a load that has come to its DATA from memory in this tick: arrays in retention, whose exit begins, or a request of
a later place performed at a home it uses (R45, R240); log entry 88. -/
def State.loadWaits (s : State) (asid desc : Nat) : Option State :=
  match s.checked desc with
  | .error _ => none
  | .ok x =>
    let ps := s.loadPieces asid x.k.data
    let sleeping := (ps.flatMap fun p => s.retainedIn p.1 p.2).eraseDups
    if !sleeping.isEmpty then some (s.beginExit sleeping)
    else if s.tooLate (s.memArrivals ps hostKey) then some s
    else none

/-- CFG_LOAD as it reads after a write of UNLOAD, AS and DESC, with GO as it stands (R328). -/
def State.keepLoad (s : State) (go : Bool) (v : BitVec 64) : State :=
  { s with logs := { s.logs with
      cfgLoad := BitVec.ofNat 64 (bit go * 2 ^ 63 + bit (natBit v.toNat 62) * 2 ^ 62 + natField v.toNat 0 56) } }

/-- A status in CFG_LOADST (R303, R330). -/
def State.loadStatus (s : State) (st : BitVec 64) : State := { s with logs := { s.logs with cfgLoadSt := st } }

/-- The end of a load or an UNLOAD: GO reads 0 again, and CFG_LOADST is written (R303, R328). -/
def State.loadDone (s : State) (v st : BitVec 64) : State := (s.keepLoad false v).loadStatus st

/-- A load as it goes on: it waits with GO at 1, or ends (R328, R329). -/
def State.loadGo (s : State) (v : BitVec 64) : State :=
  let asid := natField v.toNat 48 8
  let desc := natField v.toNat 0 48
  match s.loadWaits asid desc, s.checked desc with
  | some s1, _ => s1.keepLoad true v
  | none, .error r => s.loadDone v r.word
  | none, .ok x =>
    let s0 := s.loadReaches asid x.k.data
    if s.dataMapped asid x.k.data then (s0.loadApply asid desc x).loadDone v 0 else s0.loadDone v dataAbsent.word

/-- Whether a load is in progress. -/
def State.loading (s : State) : Bool := s.logs.cfgLoad.getLsbD 63

/-- The load that waits, at a tick. -/
def State.loadTick (s : State) : State := if s.loading then s.loadGo s.logs.cfgLoad else s

/-- CFG_LOAD (R328 to R330): without GO its fields are kept; while a load is in progress GO is answered BUSY, and any other write
is dropped; log entry 88. -/
def execCfgLoad (v : BitVec 64) (s : State) : Host.Outcome State Fault Refusal :=
  .next (if natBit v.toNat 62 then s
    else if s.loading then (if natBit v.toNat 63 then s.loadStatus ({ status := 0x09 : Refused }).word else s)
    else if natBit v.toNat 63 then s.loadGo v
    else s.keepLoad false v)

/-! ### UNLOAD (R331) -/

/-- Whether a route-tag entry, in either of its generations, names a handler of a container (R331). -/
def State.handlersNamed (s : State) (k : Container) : Bool :=
  let mine (e : RtEntry) : Bool := !e.host && decide (k.firstHandler ≤ e.handler)
    && decide (e.handler < k.firstHandler + k.handlerCount)
  s.rtags.any fun p => p.2.written && (mine p.2.cur || p.2.old.any mine)

/-- What an UNLOAD removes from a room (R331): its hearth is the container's while it runs the container's program. -/
def Room.unload (r : Room) (id : Nat) : Room :=
  let r1 := { r with store := r.store.filter fun p => p.2.1 != id }
  if r1.hearth.owner = some id then
    { r1 with hearth := { r1.hearth with st := .idle, prog := [], reps := [], exec := none, owner := none } }
  else r1

/-- A cell whose planes hold no image of a container (R170, R331). -/
def Cell.unload (c : Cell) (id : Nat) : Cell :=
  let kept (p : Option ImgRef) : Option ImgRef := if p.any fun i => i.ctn == id then none else p
  { c with standby := kept c.standby, active := kept c.active }

/-- CFG_UNLOAD (R328, R331): its images leave the stores and the planes. An identifier that no container has is answered BUSY; log
entry 88. -/
def execCfgUnload (v : BitVec 64) (s : State) : Host.Outcome State Fault Refusal :=
  .next (if !natBit v.toNat 62 then s
    else if s.loading then (if natBit v.toNat 63 then s.loadStatus ({ status := 0x09 : Refused }).word else s)
    else if !natBit v.toNat 63 then s.keepLoad false v
    else
      let id := s.hostMem.readLE (natField v.toNat 0 48 + 34) 2
      match s.ctn? id with
      | none => s.loadDone v ({ status := 0x09 : Refused }).word
      | some k =>
        if s.handlersNamed k then s.loadDone v ({ status := 0x09 : Refused }).word
        else
          ({ s with
              ctns := s.ctns.filter fun x => x.id != id
              handlers := s.handlers.filter fun h => h.2.ctn != id
              cells := s.cells.map fun (c : Nat × Cell) => (c.1, c.2.unload id)
              rooms := s.rooms.map fun (r : Nat × Room) => (r.1, r.2.unload id) }).loadDone v 0)

end Sys2Proof.Machine
end

