-- ==== Sys2Proof/Machine/Dispatch.lean ====
section
/-! DEFINITION. Every operation and event of the part, each by one call of its meaning. -/

namespace Sys2Proof.Machine

/-- The meaning of an instruction, a hearth command or an event. -/
def exec (i : Instr) (s : State) : Host.Outcome State Fault Refusal :=
  match i with
  | .nop f => Sys2Proof.Machine.execNop f s
  | .mov f => Sys2Proof.Machine.execMov f s
  | .add f => Sys2Proof.Machine.execAdd f s
  | .addc f => Sys2Proof.Machine.execAddc f s
  | .sub f => Sys2Proof.Machine.execSub f s
  | .subb f => Sys2Proof.Machine.execSubb f s
  | .mul f => Sys2Proof.Machine.execMul f s
  | .mulh f => Sys2Proof.Machine.execMulh f s
  | .mulhu f => Sys2Proof.Machine.execMulhu f s
  | .div f => Sys2Proof.Machine.execDiv f s
  | .divu f => Sys2Proof.Machine.execDivu f s
  | .rem f => Sys2Proof.Machine.execRem f s
  | .remu f => Sys2Proof.Machine.execRemu f s
  | .and_ f => Sys2Proof.Machine.execAnd f s
  | .or_ f => Sys2Proof.Machine.execOr f s
  | .xor_ f => Sys2Proof.Machine.execXor f s
  | .andn f => Sys2Proof.Machine.execAndn f s
  | .shl f => Sys2Proof.Machine.execShl f s
  | .shr f => Sys2Proof.Machine.execShr f s
  | .sra f => Sys2Proof.Machine.execSra f s
  | .rot f => Sys2Proof.Machine.execRot f s
  | .clz f => Sys2Proof.Machine.execClz f s
  | .popc f => Sys2Proof.Machine.execPopc f s
  | .bfx f => Sys2Proof.Machine.execBfx f s
  | .bfi f => Sys2Proof.Machine.execBfi f s
  | .min_ f => Sys2Proof.Machine.execMin f s
  | .max_ f => Sys2Proof.Machine.execMax f s
  | .minu f => Sys2Proof.Machine.execMinu f s
  | .maxu f => Sys2Proof.Machine.execMaxu f s
  | .sel f => Sys2Proof.Machine.execSel f s
  | .icmp f => Sys2Proof.Machine.execIcmp f s
  | .plog f => Sys2Proof.Machine.execPlog f s
  | .fadd w f => Sys2Proof.Machine.execFadd w f s
  | .fsub w f => Sys2Proof.Machine.execFsub w f s
  | .fmul w f => Sys2Proof.Machine.execFmul w f s
  | .ffma w f => Sys2Proof.Machine.execFfma w f s
  | .fmin w f => Sys2Proof.Machine.execFmin w f s
  | .fmax w f => Sys2Proof.Machine.execFmax w f s
  | .fcmp w f => Sys2Proof.Machine.execFcmp w f s
  | .fcvt w f => Sys2Proof.Machine.execFcvt w f s
  | .ld f => Sys2Proof.Machine.execLd f s
  | .ldc f => Sys2Proof.Machine.execLdc f s
  | .ldwf f => Sys2Proof.Machine.execLdwf f s
  | .ldtk f => Sys2Proof.Machine.execLdtk f s
  | .st f => Sys2Proof.Machine.execSt f s
  | .stfl f => Sys2Proof.Machine.execStfl f s
  | .stsf f => Sys2Proof.Machine.execStsf f s
  | .feclr f => Sys2Proof.Machine.execFeclr f s
  | .feq f => Sys2Proof.Machine.execFeq f s
  | .ctrinit f => Sys2Proof.Machine.execCtrinit f s
  | .arrive f => Sys2Proof.Machine.execArrive f s
  | .fence f => Sys2Proof.Machine.execFence f s
  | .acq f => Sys2Proof.Machine.execAcq f s
  | .tlook f => Sys2Proof.Machine.execTlook f s
  | .tins f => Sys2Proof.Machine.execTins f s
  | .tinv f => Sys2Proof.Machine.execTinv f s
  | .tload f => Sys2Proof.Machine.execTload f s
  | .tstore f => Sys2Proof.Machine.execTstore f s
  | .tmcast f => Sys2Proof.Machine.execTmcast f s
  | .tfree f => Sys2Proof.Machine.execTfree f s
  | .tstatq f => Sys2Proof.Machine.execTstatq f s
  | .qpush f => Sys2Proof.Machine.execQpush f s
  | .qpop f => Sys2Proof.Machine.execQpop f s
  | .dqpush f => Sys2Proof.Machine.execDqpush f s
  | .dqpop f => Sys2Proof.Machine.execDqpop f s
  | .dqsteal f => Sys2Proof.Machine.execDqsteal f s
  | .pref f => Sys2Proof.Machine.execPref f s
  | .atom op f => Sys2Proof.Machine.execAtom op f s
  | .red op f => Sys2Proof.Machine.execRed op f s
  | .atomx op f => Sys2Proof.Machine.execAtomx op f s
  | .vadd f => Sys2Proof.Machine.execVadd f s
  | .vsub f => Sys2Proof.Machine.execVsub f s
  | .vmul f => Sys2Proof.Machine.execVmul f s
  | .vfma f => Sys2Proof.Machine.execVfma f s
  | .vfms f => Sys2Proof.Machine.execVfms f s
  | .vmin f => Sys2Proof.Machine.execVmin f s
  | .vmax f => Sys2Proof.Machine.execVmax f s
  | .vabs f => Sys2Proof.Machine.execVabs f s
  | .vneg f => Sys2Proof.Machine.execVneg f s
  | .vcmp f => Sys2Proof.Machine.execVcmp f s
  | .vsel f => Sys2Proof.Machine.execVsel f s
  | .vand f => Sys2Proof.Machine.execVand f s
  | .vor f => Sys2Proof.Machine.execVor f s
  | .vxor f => Sys2Proof.Machine.execVxor f s
  | .vshl f => Sys2Proof.Machine.execVshl f s
  | .vshr f => Sys2Proof.Machine.execVshr f s
  | .vsra f => Sys2Proof.Machine.execVsra f s
  | .viadd f => Sys2Proof.Machine.execViadd f s
  | .vimul f => Sys2Proof.Machine.execVimul f s
  | .vcvt f => Sys2Proof.Machine.execVcvt f s
  | .vscl f => Sys2Proof.Machine.execVscl f s
  | .vrcp f => Sys2Proof.Machine.execVrcp f s
  | .vrsq f => Sys2Proof.Machine.execVrsq f s
  | .vexp2 f => Sys2Proof.Machine.execVexp2 f s
  | .vlog2 f => Sys2Proof.Machine.execVlog2 f s
  | .vreds f => Sys2Proof.Machine.execVreds f s
  | .vredm f => Sys2Proof.Machine.execVredm f s
  | .vscan f => Sys2Proof.Machine.execVscan f s
  | .vperm f => Sys2Proof.Machine.execVperm f s
  | .vbcast f => Sys2Proof.Machine.execVbcast f s
  | .vext f => Sys2Proof.Machine.execVext f s
  | .vins f => Sys2Proof.Machine.execVins f s
  | .vld f => Sys2Proof.Machine.execVld f s
  | .vst f => Sys2Proof.Machine.execVst f s
  | .vgath f => Sys2Proof.Machine.execVgath f s
  | .vscat f => Sys2Proof.Machine.execVscat f s
  | .vmovm f => Sys2Proof.Machine.execVmovm f s
  | .vpark f => Sys2Proof.Machine.execVpark f s
  | .vunpark f => Sys2Proof.Machine.execVunpark f s
  | .mxcfg f => Sys2Proof.Machine.execMxcfg f s
  | .mxldb f => Sys2Proof.Machine.execMxldb f s
  | .mxrule f => Sys2Proof.Machine.execMxrule f s
  | .mxclr f => Sys2Proof.Machine.execMxclr f s
  | .mxrd f => Sys2Proof.Machine.execMxrd f s
  | .mxdrn f => Sys2Proof.Machine.execMxdrn f s
  | .mxsort f => Sys2Proof.Machine.execMxsort f s
  | .mxq f => Sys2Proof.Machine.execMxq f s
  | .cvcfg f => Sys2Proof.Machine.execCvcfg f s
  | .cvq f => Sys2Proof.Machine.execCvq f s
  | .zscan f => Sys2Proof.Machine.execZscan f s
  | .zsq f => Sys2Proof.Machine.execZsq f s
  | .tagq f => Sys2Proof.Machine.execTagq f s
  | .statq f => Sys2Proof.Machine.execStatq f s
  | .dpatch f => Sys2Proof.Machine.execDpatch f s
  | .dpload f => Sys2Proof.Machine.execDpload f s
  | .dsety f => Sys2Proof.Machine.execDsety f s
  | .dsetr f => Sys2Proof.Machine.execDsetr f s
  | .ddom f => Sys2Proof.Machine.execDdom f s
  | .drun f => Sys2Proof.Machine.execDrun f s
  | .dstop f => Sys2Proof.Machine.execDstop f s
  | .dsave f => Sys2Proof.Machine.execDsave f s
  | .drest f => Sys2Proof.Machine.execDrest f s
  | .dgety f => Sys2Proof.Machine.execDgety f s
  | .dgetn f => Sys2Proof.Machine.execDgetn f s
  | .dinj f => Sys2Proof.Machine.execDinj f s
  | .dstat f => Sys2Proof.Machine.execDstat f s
  | .arg f => Sys2Proof.Machine.execArg f s
  | .coord f => Sys2Proof.Machine.execCoord f s
  | .ageq f => Sys2Proof.Machine.execAgeq f s
  | .timeq f => Sys2Proof.Machine.execTimeq f s
  | .meterq f => Sys2Proof.Machine.execMeterq f s
  | .topup f => Sys2Proof.Machine.execTopup f s
  | .spawn f => Sys2Proof.Machine.execSpawn f s
  | .semsig f => Sys2Proof.Machine.execSemsig f s
  | .semq f => Sys2Proof.Machine.execSemq f s
  | .wset f => Sys2Proof.Machine.execWset f s
  | .ctrset f => Sys2Proof.Machine.execCtrset f s
  | .ctrstep f => Sys2Proof.Machine.execCtrstep f s
  | .ctrq f => Sys2Proof.Machine.execCtrq f s
  | .ctok f => Sys2Proof.Machine.execCtok f s
  | .done f => Sys2Proof.Machine.execDone f s
  | .trap f => Sys2Proof.Machine.execTrap f s
  | .memOpComplete id => Sys2Proof.Machine.execMemOpComplete id s
  | .engineWriteback id => Sys2Proof.Machine.execEngineWriteback id s
  | .waitRetry id => Sys2Proof.Machine.execWaitRetry id s
  | .walkComplete room asid va => Sys2Proof.Machine.execWalkComplete room asid va s
  | .homeAccess target => Sys2Proof.Machine.execHomeAccess target s
  | .routerCombine first second => Sys2Proof.Machine.execRouterCombine first second s
  | .replySplit combo => Sys2Proof.Machine.execReplySplit combo s
  | .atomxFill fill => Sys2Proof.Machine.execAtomxFill fill s
  | .tileBlockArrive id block => Sys2Proof.Machine.execTileBlockArrive id block s
  | .tileBlockPerformed id block => Sys2Proof.Machine.execTileBlockPerformed id block s
  | .setRequestArrive id => Sys2Proof.Machine.execSetRequestArrive id s
  | .setRetry id => Sys2Proof.Machine.execSetRetry id s
  | .ddaDomainStep cell domain => Sys2Proof.Machine.execDdaDomainStep cell domain s
  | .edgePortAdvance cell port => Sys2Proof.Machine.execEdgePortAdvance cell port s
  | .channelTokenArrive cell elem input => Sys2Proof.Machine.execChannelTokenArrive cell elem input s
  | .controlTokenArrive cell elem input => Sys2Proof.Machine.execControlTokenArrive cell elem input s
  | .hostIntakeWrite off bytes => Sys2Proof.Machine.execHostIntakeWrite off bytes s
  | .intakeTakeSlot ring => Sys2Proof.Machine.execIntakeTakeSlot ring s
  | .cancel p => Sys2Proof.Machine.execCancel p s
  | .launchExpand launch => Sys2Proof.Machine.execLaunchExpand launch s
  | .topupSettle acct => Sys2Proof.Machine.execTopupSettle acct s
  | .park id => Sys2Proof.Machine.execPark id s
  | .waitLimitExpire id => Sys2Proof.Machine.execWaitLimitExpire id s
  | .ueDetect site => Sys2Proof.Machine.execUeDetect site s
  | .lodgeSelfTest cell ok => Sys2Proof.Machine.execLodgeSelfTest cell ok s
  | .currentLimit wing on => Sys2Proof.Machine.execCurrentLimit wing on s
  | .sramEccWindow errs => Sys2Proof.Machine.execSramEccWindow errs s
  | .ueUndervolt site => Sys2Proof.Machine.execUeUndervolt site s
  | .pwrStallWindow wing matrix vector sram fabric => Sys2Proof.Machine.execPwrStallWindow wing matrix vector sram fabric s
  | .roomTempSample room temp => Sys2Proof.Machine.execRoomTempSample room temp s
  | .thermalCut room => Sys2Proof.Machine.execThermalCut room s
  | .railStepComplete rail => Sys2Proof.Machine.execRailStepComplete rail s
  | .retentionEnter arr => Sys2Proof.Machine.execRetentionEnter arr s
  | .retentionExit arr => Sys2Proof.Machine.execRetentionExit arr s
  | .reset cause => Sys2Proof.Machine.execReset cause s
  | .lodgeUpdate image version => Sys2Proof.Machine.execLodgeUpdate image version s
  | .ewjFlitReceive port lane crcOk resent => Sys2Proof.Machine.execEwjFlitReceive port lane crcOk resent s
  | .ewjMessageReceive msg => Sys2Proof.Machine.execEwjMessageReceive msg s
  | .ewjPortFail port => Sys2Proof.Machine.execEwjPortFail port s
  | .linkTimeout id => Sys2Proof.Machine.execLinkTimeout id s
  | .domainRecovery what => Sys2Proof.Machine.execDomainRecovery what s
  | .ethFrameReceive frame => Sys2Proof.Machine.execEthFrameReceive frame s
  | .ethFrameRelease stream => Sys2Proof.Machine.execEthFrameRelease stream s
  | .ptpMessage report => Sys2Proof.Machine.execPtpMessage report s
  | .ringInterrupt ring => Sys2Proof.Machine.execRingInterrupt ring s
  | .hostRingWrite ring word v => Sys2Proof.Machine.execHostRingWrite ring word v s
  | .rtWrite v => Sys2Proof.Machine.execRtWrite v s
  | .rtRead v => Sys2Proof.Machine.execRtRead v s
  | .attestationRequest v => Sys2Proof.Machine.execAttestationRequest v s
  | .lodgeEpochWrite v => Sys2Proof.Machine.execLodgeEpochWrite v s
  | .lodgePtpWrite v => Sys2Proof.Machine.execLodgePtpWrite v s
  | .rollbackAdvance cls v => Sys2Proof.Machine.execRollbackAdvance cls v s
  | .railRequest rail v => Sys2Proof.Machine.execRailRequest rail v s
  | .ecclimWrite v => Sys2Proof.Machine.execEcclimWrite v s
  | .acctBalanceWrite acct v => Sys2Proof.Machine.execAcctBalanceWrite acct v s
  | .cfgLoad v => Sys2Proof.Machine.execCfgLoad v s
  | .cfgUnload v => Sys2Proof.Machine.execCfgUnload v s
  | .xlatInv v => Sys2Proof.Machine.execXlatInv v s
  | .xlatWake v => Sys2Proof.Machine.execXlatWake v s
  | .dbgHalt v => Sys2Proof.Machine.execDbgHalt v s
  | .dbgGo v => Sys2Proof.Machine.execDbgGo v s
  | .hearthCont room v => Sys2Proof.Machine.execHearthCont room v s
  | .hostMemoryWindow write addr bytes => Sys2Proof.Machine.execHostMemoryWindow write addr bytes s
  | .counterReadClear off => Sys2Proof.Machine.execCounterReadClear off s
  | .registerWrite off v => Sys2Proof.Machine.execRegisterWrite off v s
  | .hnop c => Sys2Proof.Machine.execHnop c s
  | .hset c => Sys2Proof.Machine.execHset c s
  | .cfgload c => Sys2Proof.Machine.execCfgload c s
  | .cfgswitch c => Sys2Proof.Machine.execCfgswitch c s
  | .hcopy c => Sys2Proof.Machine.execHcopy c s
  | .gangrun c => Sys2Proof.Machine.execGangrun c s
  | .tagctl c => Sys2Proof.Machine.execTagctl c s
  | .quiesce c => Sys2Proof.Machine.execQuiesce c s
  | .ctxsave c => Sys2Proof.Machine.execCtxsave c s
  | .ctxload c => Sys2Proof.Machine.execCtxload c s
  | .trapret c => Sys2Proof.Machine.execTrapret c s
  | .repeat_ c => Sys2Proof.Machine.execRepeat c s
  | .skipif c => Sys2Proof.Machine.execSkipif c s
  | .semset c => Sys2Proof.Machine.execSemset c s
  | .topacct c => Sys2Proof.Machine.execTopacct c s
  | .watch c => Sys2Proof.Machine.execWatch c s
  | .hend c => Sys2Proof.Machine.execHend c s
  | .powerFirmwareUpdate image version => Sys2Proof.Machine.execPowerFirmwareUpdate image version s
  | .matrixOpComplete id => Sys2Proof.Machine.execMatrixOpComplete id s
  | .pageTimeout => Sys2Proof.Machine.execPageTimeout s
  | .rowFire => Sys2Proof.Machine.execRowFire s
  | .mxldbComplete => Sys2Proof.Machine.execMxldbComplete s
  | .drainRow => Sys2Proof.Machine.execDrainRow s
  | .sortKeyEnter => Sys2Proof.Machine.execSortKeyEnter s
  | .sortEmit => Sys2Proof.Machine.execSortEmit s
  | .convertBlock => Sys2Proof.Machine.execConvertBlock s
  | .convertComplete => Sys2Proof.Machine.execConvertComplete s
  | .scanToken => Sys2Proof.Machine.execScanToken s
  | .commitPoint => Sys2Proof.Machine.execCommitPoint s
  | .argReadComplete => Sys2Proof.Machine.execArgReadComplete s
  | .dispatchStage => Sys2Proof.Machine.execDispatchStage s
  | .prefetchComplete => Sys2Proof.Machine.execPrefetchComplete s
  | .standbyFillComplete => Sys2Proof.Machine.execStandbyFillComplete s
  | .taskEnterRunning => Sys2Proof.Machine.execTaskEnterRunning s
  | .brownout => Sys2Proof.Machine.execBrownout s
  | .physicalStop => Sys2Proof.Machine.execPhysicalStop s
  | .ageHorizon => Sys2Proof.Machine.execAgeHorizon s
  | .deadlockExpire => Sys2Proof.Machine.execDeadlockExpire s
  | .preemptQuiescent => Sys2Proof.Machine.execPreemptQuiescent s
  | .faultReachHearth => Sys2Proof.Machine.execFaultReachHearth s
  | .droopDetect => Sys2Proof.Machine.execDroopDetect s
  | .droopHoldExpire => Sys2Proof.Machine.execDroopHoldExpire s
  | .pwrWatchdog => Sys2Proof.Machine.execPwrWatchdog s
  | .switchStuck => Sys2Proof.Machine.execSwitchStuck s
  | .quiesceLimitExpire => Sys2Proof.Machine.execQuiesceLimitExpire s
  | .hearthCmdComplete => Sys2Proof.Machine.execHearthCmdComplete s
  | .lodgeWatchdog => Sys2Proof.Machine.execLodgeWatchdog s
  | .converterFault => Sys2Proof.Machine.execConverterFault s
  | .contextSaveComplete => Sys2Proof.Machine.execContextSaveComplete s

end Sys2Proof.Machine
end

