-- ==== Sys2Proof/Machine/Moves.lean ====
section
/-! DEFINITION. The moves of the device's world (Config.Move): what each does before, or instead of, one instruction, command
or event of the opcode table; the passage of ticks and of the time base; how a word is placed to be fetched next. -/

namespace Sys2Proof.Machine

/-- What a move comes to: an instruction, command or event to be carried out, or a state already reached. -/
inductive Turn where
  | run (i : Instr) (s : State)
  | done (s : State)

/-! ### An element's turn (R83, R128, R202, R283) -/

/-- A held firing whose slot is no longer ready is let go, where the meter takes debits again (R146). -/
def State.letGo (s : State) (t : Task) (c e : Nat) : State :=
  if (s.elem c e).held.isSome && (s.cell c).meter.takes && t.st == .running && !t.frozen && !t.halted then
    s.updElem c e fun el => { el with held := none }
  else s

/-- An element without a ready slot: it lets a held firing go, and under a switch it forwards the mark (R202). -/
def State.idleTurn (s : State) (c e : Nat) : State :=
  match s.owner? c with
  | none => s
  | some t =>
    let s1 := s.letGo t c e
    if t.gate = .switch then s1.forwardMark t c e else s1

/-- The engine that slot k of an element uses. -/
def State.slotEngine (s : State) (c e k : Nat) : Option Nat := ((s.elem c e).slotAt k).bind fun p => engineOf p.1

/-- The turn of an element: the instruction in the slot that it fires (R128, R129, R281). -/
def State.elementTurn (s : State) (c e : Nat) : Turn :=
  if 4096 ≤ c ∨ elemCount c ≤ e then .done s
  else
    let s1 := s.beginTurn c e
    match s1.chooseSlot c e with
    | none => .done ((s1.noteTurn c e none).idleTurn c e)
    | some k =>
      match decodeSlot (s1.slotWord c e k) with
      | .ok i => .run i ((s1.noteTurn c e (s1.slotEngine c e k)).atSite c e k)
      | .error _ => .done s1

/-! ### A hearth's turn (R171, R300) -/

/-- The turn of a hearth: in WAIT, the command at POS once its wait is met; in EXEC, the progress of the command. -/
def State.hearthTurn (s : State) (r : Nat) : Turn :=
  let h := (s.room r).hearth
  let s1 := { s with cur := { s.cur with subject := r } }
  if 64 ≤ r then .done s
  else if h.st = .exec then .run .hearthCmdComplete s1
  else
    match h.prog[h.pos]? with
    | none => .done s
    | some w =>
      match (s.room r).passWait w, decodeHearth w.toNat with
      | some k, .ok i => .run i (s1.updRoom r fun _ => k)
      | _, _ => .done s

/-! ### Ticks and time (R1, R39, R172, R264, R276) -/

/-- A tick added to a tick-based limit. -/
def addTick (o : Option Nat) : Option Nat := o.map (· + 1)

/-- An operation whose limits pause keeps what is left of them (R276). -/
def Op.pause (o : Op) : Op := { o with limit := addTick o.limit, since := o.since + 1 }

/-- An operation at a tick: the limits of a task within the halt's scope pause. -/
def State.pauseOp (s : State) (o : Op) : Op := if s.paused (s.task o.task) then o.pause else o

/-- A task at a tick: the limits of a saved context within the halt's scope pause. -/
def State.pauseTask (s : State) (t : Task) : Task :=
  if s.paused t then { t with ctx := t.ctx.map fun (k : Ctx) => { k with ops := k.ops.map Op.pause } } else t

/-- The command in progress at a tick: its limit pauses with its target (R276, R457). -/
def State.pauseExec (s : State) (x : HExec) : HExec := if s.paused (s.task x.task) then { x with since := x.since + 1 } else x

/-- A room at a tick: SEMQ reads the semaphores as they stood, the tick's increments and tests are counted afresh, and the limit of a
command whose target is paused pauses (R172, R276, R457). -/
def State.tickRoom (s : State) (r : Room) : Room :=
  { r with semPrev := r.sems, semInc := [], tested := [], hearth := { r.hearth with exec := r.hearth.exec.map s.pauseExec } }

/-- Whether the engine behind a port of a cell has a token to send: 0 converter, 1 and 2 sort, 3 scan unit, 4 to 7 edge ports. A
gated source sends nothing but the ends of its runs (R176, R201, R320). -/
def State.portOffers (s : State) (t : Task) (c p : Nat) : Bool :=
  let cl := s.cell c
  let g := cl.edge (p - 4)
  if p = 0 then cl.conv.job.any fun j => !j.tokens.isEmpty
  else if p < 3 then cl.mx.sort.any fun j => decide (j.keys.length ≤ j.entered)
  else if p = 3 then t.gate == .none && s.scanOffers cl.scan
  else (mfind cl.edges (p - 4)).isSome && !g.out && g.op.isNone
    && (!g.ends.isEmpty || (t.gate == .none && (cl.ctr g.ctr).started && !(cl.ctr g.ctr).isDone))

/-- Whether something in a cell stalls for lack of credit: a slot, or an engine or edge port (R40, R176). -/
def State.stalls (s : State) (t : Task) (c : Nat) : Bool :=
  t.st == .running && !t.frozen && !t.halted && !(s.cell c).halted
    && (((upTo (elemCount c)).any fun e => (upTo 16).any (s.slotStalls c e))
      || (upTo 8).any fun p => !s.space t ((s.cell c).port p) && s.portOffers t c p)

/-- The wings in which a channel stalls for lack of credit. -/
def State.stalledWings (s : State) : List Nat :=
  (s.cells.filterMap fun p => (s.owner? p.1).bind fun t => if s.stalls t p.1 then some (wingOfCell p.1) else none).eraseDups

/-- The fabric's stalled ticks after one more tick (R40). -/
def State.countStalls (s : State) : State :=
  let ticks := s.stalledWings.foldl (fun m w => mset m w (mget m w 0 + 1)) s.power.fabTicks
  { s with power := { s.power with fabTicks := ticks } }

/-- The end of a tick: the waits whose limit it is are tried once more; SPAWNs whose tag has reached its watermark are taken
back; requests that have waited long enough are settled; gangs that have finished commit, unless a wound came first; trap
packets that waited try the queue again; a QUIESCE whose task has ended is refused (R106, R118, R121, R130, R143, R359, R452). -/
def State.endTick (s : State) : State :=
  let s1 := s.endWaits.holdSpawns.settleOverdue
  let s2 := foldState ((s1.tasks.filter fun t => t.st == .running).map (·.id)) s1 fun i st => st.tryCommit i
  let s3 := foldState (s2.tasks.filter fun t => t.trapDue && t.frozen) s2 fun t st => st.sendTrap t
  s3.quiesceEnds.countStalls

/-- The beginning of the next tick: no home has served a request in it yet, and limits that pause move on with it. -/
def State.nextTick (s : State) : State :=
  { s with
    clock := { s.clock with tick := s.clock.tick + 1 }
    served := []
    sched := { s.sched with cancels := [] }
    ops := s.ops.map s.pauseOp
    tasks := s.tasks.map s.pauseTask
    rooms := s.rooms.map fun (p : Nat × Room) => (p.1, s.tickRoom p.2) }

/-- What the hearths owe the frames that they could not reach is done at the beginning of a tick (R45, R240). -/
def State.framesDue (s : State) : State :=
  foldState ((s.tasks.filter fun t => t.actDue.isSome || t.countDue).map (·.id)) s fun i st =>
    match st.task? i with
    | some t => st.frameDue t
    | none => st

/-- One tick of the room clock: its end, the next one's beginning, what hearths owe their frames, the deadlock counts, what waits at the front door and at the
Ewejan ports, a load that waits, and the lodge's bring-up. -/
def State.tick (s : State) : State :=
  let s1 := s.endTick.nextTick.framesDue
  let s2 := foldState s1.tasks s1 fun t st => st.dlockTick t
  let s3 := s2.flushFront s2.eth.waiting
  (s3.ewjFlush s3.ewjWait []).loadTick.lodgeTick

/-- A time-base instant moved on. -/
def addTime (q : Nat) (o : Option Nat) : Option Nat := o.map (· + q)

/-- An operation whose 10 ms timers pause (R276). -/
def Op.pauseTime (o : Op) (q : Nat) : Op := { o with heldAt := addTime q o.heldAt, noRoute := addTime q o.noRoute }

/-- The time base moves on; the 10 ms timers of tasks within the halt's scope pause, those of their saved contexts too (R14, R20,
R276), and the power firmware may check in (R49). -/
def State.timePasses (s : State) (q : Nat) : State :=
  ({ s with
    clock := { s.clock with tbase := s.clock.tbase + q }
    ops := s.ops.map fun (o : Op) =>
      if s.paused (s.task o.task) then o.pauseTime q else o
    tasks := s.tasks.map fun (t : Task) =>
      if s.paused t then { t with pfHeld := addTime q t.pfHeld, argHeld := addTime q t.argHeld,
                                  pfNoRoute := addTime q t.pfNoRoute,
                                  ctx := t.ctx.map fun (k : Ctx) => { k with ops := k.ops.map fun (o : Op) => o.pauseTime q } }
      else t }).firmwareActs

/-! ### Every move -/

/-- Whether an event may come while the supply is off: the return of power, or a read of a register of the always-on
domain (R48). -/
def alwaysOn : Instr → Bool
  | .reset _ => true
  | .counterReadClear _ => true
  | _ => false

/-- What a move does. Only an event of the part is made by an event move: elements and hearths have their own. -/
def State.turn (s : State) : Move → Turn
  | .element c e => if s.power.off then .done s else s.elementTurn c e
  | .hearth r => if s.power.off then .done s else s.hearthTurn r
  | .event subject i =>
    if encodable i || (s.power.off && !alwaysOn i) then .done s
    else .run i { s with cur := { s.cur with subject := subject } }
  | .tick => .done s.tick
  | .time q => .done (s.timePasses q)
  | .intakeRead off n => .done (s.intakeRead off n)
  | .oddRead off n => .done (s.oddRead off n)
  | .hostStore a bs => .done { s with hostMem := s.hostMem.writeBytes a bs }
  | .remoteStore a bs =>
    if bs.length ≤ 2 ^ 44 ∧ devOf a ≠ s.devNum ∧ devOf (a + bs.length - 1) ≠ s.devNum then
      .done { s with mem := s.mem.writeBytes a bs }
    else .done s

/-- The next move: the first of the agenda, or past its end a free one (log entry 2). -/
def State.nextMove (s : State) : Move × State :=
  match s.agenda with
  | m :: ms => (m, { s with agenda := ms })
  | [] => (Config.freeMove s.clock.moves, { s with clock := { s.clock with moves := s.clock.moves + 1 } })

/-! ### Placing a word -/

/-- The cell that takes a word: a compute cell, or the kind that alone has the opcode (R297). -/
def placeCell (op : Nat) : Nat :=
  match shapeOf op with
  | some h => if h.kinds = 2 then cellAt 0 1 else if h.kinds = 4 then cellAt 1 0 else cellAt 0 0
  | none => cellAt 0 0

/-- The source value of a placed word: CVCFG fires only with a free destination slot, which is slot 1 here (R416). -/
def placedValue (op : Nat) : Word := if op = 0xC8 then 0x02000000 else 0

/-- The registers of a placed word's element. -/
def placedRegs (op : Nat) : AMap Word := if op = 0xC8 then (upTo 16).map fun i => (i, placedValue op) else []

/-- An element that holds a word in slot 0 with its trigger met. -/
def placedElem (w : Nat) : Elem :=
  let f := slotOfBits w
  let v := placedValue (opOfBits w)
  { slots := [(0, BitVec.ofNat 64 w)], pb := f.pval, g := placedRegs (opOfBits w),
    ins := (upTo 4).map fun i =>
      (i, { q := if f.need.getLsbD i ∨ (f.ten ∧ f.tch.toNat = i) then [{ val := v, tag := f.tag }] else [] }) }

/-- The tile slots of a placed word that are READY: those it reads. -/
def placedReads (op : Nat) (f : Slot) : List Nat := if op = 0xC8 then [0] else (needsOf op f).reads.eraseDups

/-- A one-cell task that runs on a cell. -/
def placedTask (c id : Nat) : Task :=
  { id := id, st := .running, room := roomOf c, x0 := cellX c % 8, y0 := cellY c % 8 }

/-- A cell with the element, its task's meter, and the tile slots that the word reads READY. -/
def placedCell (w id : Nat) : Cell :=
  { owner := some id, elems := [(0, placedElem w)], meter := { st := .paying, bal := 2 ^ 30, decl := 2 ^ 30 },
    tiles := (placedReads (opOfBits w) (slotOfBits w)).map fun i => (i, { st := .ready, len := 1 }) }

/-- A state with an element word placed where the next move fires it. -/
def State.placeSlot (s : State) (w : Nat) : State :=
  let c := placeCell (opOfBits w)
  let id := s.clock.nextId
  { s with
    clock := { s.clock with nextId := id + 1 }
    tasks := s.tasks ++ [placedTask c id]
    cells := mset s.cells c (placedCell w id)
    agenda := .element c 0 :: s.agenda }

/-- A state with a hearth command placed where the next move executes it, its wait met. -/
def State.placeCommand (s : State) (w : Nat) : State :=
  let r := s.room 0
  let n := natField w 114 8
  let h : Hearth := { r.hearth with st := .wait, pos := 0, prog := [BitVec.ofNat 128 w], exec := none }
  { s with
    rooms := mset s.rooms 0 { r with hearth := h, sems := mput r.sems n (max (r.sem n) (natField w 98 16)) 0 }
    agenda := .hearth 0 :: s.agenda }

end Sys2Proof.Machine
end

