-- ==== Sys2Proof/Machine/Step.lean ====
section
/-! DEFINITION. One step of the machine: the next move, and the instruction, command or event that it carries out. -/

namespace Sys2Proof.Machine

/-- One move. -/
def step (s : State) : Host.Outcome State Fault Refusal :=
  let m := s.nextMove
  match m.2.turn m.1 with
  | .run i s1 => exec i s1
  | .done s1 => .next s1

/-- The state with a word of the opcode table placed where the next step fetches it: an element word in slot 0 of an element
whose trigger is met, a hearth command in the program of room 0. -/
def State.withFetchWord (s : State) (nbits w : Nat) : State :=
  if nbits ≤ 64 then s.placeSlot w else s.placeCommand w

end Sys2Proof.Machine
end

