-- ==== Sys2Proof/Safety.lean ====
section
/-! DEFINITION. The terms that claims are stated in: the invariant of a sound state, when a firing is made and paid for, and
what a firing leaves unchanged. -/

namespace Sys2Proof.Machine

/-! ### A sound state -/

/-- Whether a rail may stand at a voltage and frequency (R33). -/
def pointOk (i volt freq : Nat) : Bool := decide (railFloor i freq ≤ volt) && decide (volt ≤ railTop i)

/-- Whether a rail, its request that has not begun and its step that has begun hold allowed points (R33, R37, R38). -/
def Rail.ok (i : Nat) (r : Rail) : Bool :=
  pointOk i r.volt r.freq && r.pending.all (fun p => pointOk i p.1 p.2) && r.step.all (fun p => pointOk i p.1 p.2)

/-- Whether every rail stands at an allowed point, and the safe point of the SRAM rail is one (R33, R42). -/
def Power.railsOk (p : Power) : Bool :=
  ((upTo 4).all fun i => (mget p.rails i {}).ok i) && pointOk 2 p.safe 0

/-- A sound state: the memories in their canonical form, and no rail below the voltage that its clock needs. -/
def State.Sound (s : State) : Prop := s.mem.wf = true ∧ s.hostMem.wf = true ∧ s.power.railsOk = true

/-! ### A firing that is made and paid for -/

/-- The element that State.cur names makes the firing x of an instruction: its slot is ready (R283). -/
def State.Fires (s : State) (op : Nat) (f : Slot) (x : Fire) : Prop := s.fireAt op f = some x ∧ s.ready x = true

/-- The meter takes the debit of a firing (R135, R146): it is paid before a trap, or its task runs in physical mode, or the
balance covers the cost and the tokens to other cells. -/
def State.Affords (s : State) (x : Fire) (cost : Nat) : Prop :=
  (s.elem x.c x.e).paid = some x.k ∨ (s.entryOf x.t).mmode = true ∨ cost + s.tokenCost x ≤ (s.cell x.c).meter.bal

/-- What the meter of the firing cell holds after a firing of a cost (R135 to R137, R146): it has debited the cost and the tokens to
other cells from BAL and added them to CONS; nothing where the firing was paid before a trap; in physical mode a number of packets
of 64 mu within the balance. -/
def Debits (s t : State) (x : Fire) (cost : Nat) : Prop :=
  let m := (s.cell x.c).meter
  let took (n : Nat) : Prop := (t.cell x.c).meter.bal = m.bal - n ∧ (t.cell x.c).meter.cons = m.cons + n
  if (s.elem x.c x.e).paid = some x.k then took 0
  else if (s.entryOf x.t).mmode = true then ∃ p ≤ m.bal / 64, took (64 * p)
  else took (cost + s.tokenCost x)

/-- The state after the debit of a firing. -/
def State.debited (s : State) (x : Fire) (cost : Nat) : State :=
  if (s.elem x.c x.e).paid = some x.k then s
  else
    match s.pay x.t x.c (cost + s.tokenCost x) with
    | .paid s1 => s1
    | .stalled s1 => s1
    | .stopped s1 => s1

/-! ### What a firing writes, and its frame -/

/-- Whether DST of a firing names a g register for its result (R286). -/
def Fire.names (x : Fire) (d : Nat) : Bool := (needsOf x.op x.f).result && x.f.dst.toNat == d

/-- The predicate byte when PMODE acts: a result in PB is written first (R284, R286). -/
def Fire.pbBefore (x : Fire) (pb : BitVec 8) (r : Word) : BitVec 8 :=
  if (needsOf x.op x.f).result ∧ x.f.dst.toNat = 29 then BitVec.ofNat 8 r.toNat else pb

/-- Whether a destination of a task is the channel at an input of an element, or at an outbound edge port. -/
def Dest.feeds (d : Dest) (t : Task) (c e i : Nat) : Bool := t.cellAt d.x d.y == c && d.e == e && (isEdge c e || d.i == i)

/-- The tokens that a result r of the firing x sends: the result, with its tag, where DST names an output, and the order token where
OTAG does (R286, R291). -/
def State.tokensOf (s : State) (x : Fire) (r : Word) : List (Dest × Token) :=
  let el := s.elem x.c x.e
  (dstOut el x.op x.f).map (fun d => (d, { val := r, tag := tokenTag x.op x.f }))
    ++ (orderOut el x.op x.f).map fun d => (d, { val := 0, tag := 6 })

/-- An input channel that tokens from a cell have entered: in their order at its end, on their way where it is of another cell (R176,
R177). -/
def Input.entered (q : Input) (toks : List (Dest × Token)) (t : Task) (src c e i : Nat) : Input :=
  let new := toks.filterMap fun p => if p.1.feeds t c e i then some p.2 else none
  if src = c then { q with q := q.q ++ new } else { q with transit := q.transit ++ new }

/-- Every channel after a result r of the firing x: those that DEQ names have lost their heads, and the result's tokens have entered
every channel that their output feeds (R176, R177, R284, R286). -/
def Sent (s t : State) (x : Fire) (r : Word) : Prop := ∀ c e i,
  let q := s.inputAt c e i
  let left : Input := if c = x.c ∧ e = x.e ∧ isEdge c e = false ∧ x.f.deq.getLsbD i = true then { q with q := q.q.drop 1 } else q
  t.inputAt c e i = left.entered (s.tokensOf x r) x.t x.c c e i

/-- What the firing element holds after a result r of the firing x: the g registers with their taint, the predicates, the
sticky flags; and what the channels hold (R284, R286, R287). -/
def Wrote (s t : State) (x : Fire) (r : Res) (tnt : Bool) : Prop :=
  (∀ d < 16, (t.elem x.c x.e).greg d = if x.names d then r.r else (s.elem x.c x.e).greg d)
  ∧ (∀ d < 16, (t.elem x.c x.e).taint.getLsbD d = if x.names d then tnt else (s.elem x.c x.e).taint.getLsbD d)
  ∧ (t.elem x.c x.e).pb = predUpdate (x.pbBefore (s.elem x.c x.e).pb r.r) x.f r
  ∧ (t.elem x.c x.e).sticky = (s.elem x.c x.e).sticky ||| r.st
  ∧ Sent s t x r.r

/-- An element without its channels. -/
def Elem.quiet (el : Elem) : Elem := { el with ins := [] }

/-- An element without its channels and the marks of its firings. -/
def Elem.still (el : Elem) : Elem := { el.quiet with last := none, held := none, paid := none, spawnTick := none }

/-- An element without what a result writes. -/
def Elem.fixed (el : Elem) : Elem := { el.still with g := [], taint := 0, pb := 0, sticky := 0 }

/-- A cell without its elements, its meter and its edge ports, and without the marks of the present step. -/
def Cell.engines (cl : Cell) : Cell := { cl with elems := [], meter := {}, edges := [], sentTo := [], armed := [] }

/-- A task without its deadlock count. -/
def Task.calm (t : Task) : Task := { t with dcount := 0 }

/-- Only cells, deadlock counts, top-up requests and the model's counters differ: memories, rooms, operations under way,
accounts and registers are as before. -/
def SameDevice (s t : State) : Prop :=
  { t with clock := s.clock, cells := s.cells, tasks := s.tasks, sched := s.sched } = s
  ∧ t.tasks.map Task.calm = s.tasks.map Task.calm
  ∧ { t.sched with reqs := s.sched.reqs } = s.sched
  ∧ t.clock.tick = s.clock.tick ∧ t.clock.tbase = s.clock.tbase

/-- Every other element keeps all but its channels. -/
def SameElems (s t : State) (x : Fire) : Prop := ∀ c e, ¬ (c = x.c ∧ e = x.e) → (t.elem c e).still = (s.elem c e).still

/-- Every cell keeps its engines, tiles, scratchpad and vestibule. -/
def SameEngines (s t : State) : Prop := ∀ c, (t.cell c).engines = (s.cell c).engines

/-- The frame of a firing that writes registers only. -/
def RegFrame (s t : State) (x : Fire) : Prop :=
  SameDevice s t ∧ SameEngines s t ∧ SameElems s t x ∧ (t.elem x.c x.e).fixed = (s.elem x.c x.e).fixed

/-- An instruction that completes in its step: fired and paid for, it answers a next state with the result `r` and the debit of its
cost, and changes nothing outside RegFrame. -/
def CompletesWith (i : Instr) (op : Nat) (f : Slot) (cost : Nat) (r : Fire → State → Res) : Prop :=
  ∀ s x, s.Fires op f x → s.Affords x cost → ∃ t, exec i s = .next t ∧ Wrote s t x (r x s) x.tnt ∧ RegFrame s t x
    ∧ Debits s t x cost

/-- An instruction that, fired and paid for where `pre` holds, answers a next state of which `post` holds, with the debit of its
cost. -/
def Answers (i : Instr) (op : Nat) (f : Slot) (cost : Nat) (pre : State → Fire → Prop)
    (post : State → State → Fire → Prop) : Prop :=
  ∀ s x, s.Fires op f x → s.Affords x cost → pre s x → ∃ t, exec i s = .next t ∧ post s t x ∧ Debits s t x cost

/-! ### What an issue writes -/

/-- The operation `o` is under way in t: it took the next identifier and place in the order of injection in this tick, what it writes is pending, the channels that DEQ names
lost their heads, and the offset register moved by `step` where I asks for a post-increment (R284, R290). -/
def Issued (s t : State) (x : Fire) (o : Op) (step : Nat) : Prop :=
  t.ops = s.ops ++ [{ o with id := s.clock.nextId, inj := s.clock.nextId, sent := s.clock.tick }]
  ∧ (t.elem x.c x.e).pendG = (s.elem x.c x.e).pendG ||| (destOf x.op x.f).wg
  ∧ (t.elem x.c x.e).pendP = (s.elem x.c x.e).pendP ||| (destOf x.op x.f).p
  ∧ (∀ i < 4, ((t.elem x.c x.e).input i).q =
      ((s.elem x.c x.e).input i).q.drop (if x.f.deq.getLsbD i then 1 else 0))
  ∧ (∀ d, (t.elem x.c x.e).greg d =
      if x.f.imm = true ∧ d = x.f.src1.toNat then (s.elem x.c x.e).greg d + BitVec.ofNat 32 step
      else (s.elem x.c x.e).greg d)
  ∧ (t.elem x.c x.e).pb = (s.elem x.c x.e).pb ∧ (t.elem x.c x.e).sticky = (s.elem x.c x.e).sticky
  ∧ (t.elem x.c x.e).eng = (s.elem x.c x.e).eng

/-- The frame of an issue of a cost: memories, rooms and registers are as before, and so is every other element but its channels;
the meter of the cell has debited the cost. -/
def IssueFrame (s t : State) (x : Fire) (cost : Nat) : Prop :=
  SameDevice s { t with ops := s.ops } ∧ SameElems s t x ∧ Debits s t x cost

/-- A memory instruction, fired and paid for, whose address and whose own check pass: it answers a next state with its access
under way (R360). -/
def IssuesAccess (i : Instr) (op : Nat) (f : Slot) (size step : Nat) (u : Use) (args : Fire → State → List Word)
    (check : Fire → State → Option AddrFault) : Prop :=
  ∀ s x tg, s.Fires op f x → s.address x x.a size size u = .ok tg → check x s = none → s.Affords x (s.memCost x tg).1 →
    ∃ t, exec i s = .next t
      ∧ Issued s t x { opOf x (x.a :: args x s) with spad := tg.spad, ea := tg.ea, len := size,
                                                      short := (s.memCost x tg).2 } step
      ∧ IssueFrame s t x (s.memCost x tg).1 ∧ SameEngines s t

/-! ### Operations of engines that complete in their step -/

/-- What a memory or engine operation that completes in its step writes: its result with its taint, and the status word of ENG
(R362). -/
def WroteEng (s t : State) (x : Fire) (r : Res) (status : Nat) : Prop :=
  Wrote s t x r x.tnt ∧ (t.elem x.c x.e).eng = engWord x.op x.k status

/-- An element without what such an operation writes. -/
def Elem.fixedEng (el : Elem) : Elem := { el.fixed with eng := 0 }

/-- The frame of such an operation, the engines of cells aside. -/
def EngFrame (s t : State) (x : Fire) : Prop :=
  SameDevice s t ∧ SameElems s t x ∧ (t.elem x.c x.e).fixedEng = (s.elem x.c x.e).fixedEng

/-- The engines of one cell are changed by `g`; those of every other cell are as before. -/
def EnginesBy (s t : State) (c : Nat) (g : Cell → Cell) : Prop :=
  ∀ d, (t.cell d).engines = (if d = c then g (s.cell d) else s.cell d).engines

end Sys2Proof.Machine
end

