-- ==== Sys2Proof/Certificates/Slice0/Obligations.lean ====
section
/-! DEFINITION. The statements about the machine, each over every state that meets its conditions. -/

open Sys2Proof Sys2Proof.Machine

/-- Whether an exact value lies outside the 32-bit signed range. -/
def pastInt32 (z : Int) : Bool := decide (z < -2147483648) || decide (2147483647 < z)

/-- R334, R335, R336: the result R, the carry condition C and the overflow condition F of every integer instruction but PLOG,
with its debit; a firing that is ready and paid for writes R to the register that DST names, updates P[PIDX] by PMODE, and
changes no other register, no engine, no memory and no other element but its channels. -/
def Obligations.IntegerCompletes : Prop := ∀ f : Slot,
  CompletesWith (.nop f) 0x00 f 8 (fun _ _ => {})
  ∧ CompletesWith (.mov f) 0x01 f 8 (fun x _ => { r := x.a })
  ∧ CompletesWith (.add f) 0x02 f 8 (fun x _ =>
      { r := x.a + x.b, c := decide (2 ^ 32 ≤ x.a.toNat + x.b.toNat), f := pastInt32 (x.a.toInt + x.b.toInt) })
  ∧ CompletesWith (.addc f) 0x03 f 8 (fun x _ =>
      { r := x.a + x.b + (if x.cin then 1 else 0), c := decide (2 ^ 32 ≤ x.a.toNat + x.b.toNat + x.cin.toNat),
        f := pastInt32 (x.a.toInt + x.b.toInt + x.cin.toNat) })
  ∧ CompletesWith (.sub f) 0x04 f 8 (fun x _ =>
      { r := x.a - x.b, c := decide (x.a.toNat < x.b.toNat), f := pastInt32 (x.a.toInt - x.b.toInt) })
  ∧ CompletesWith (.subb f) 0x05 f 8 (fun x _ =>
      { r := x.a - x.b - (if x.cin then 1 else 0), c := decide (x.a.toNat < x.b.toNat + x.cin.toNat),
        f := pastInt32 (x.a.toInt - x.b.toInt - x.cin.toNat) })
  ∧ CompletesWith (.mul f) 0x06 f 12 (fun x _ =>
      { r := BitVec.ofNat 32 (x.a.toNat * x.b.toNat), f := pastInt32 (x.a.toInt * x.b.toInt) })
  ∧ CompletesWith (.mulh f) 0x07 f 12 (fun x _ => { r := BitVec.ofInt 32 ((x.a.toInt * x.b.toInt) >>> 32) })
  ∧ CompletesWith (.mulhu f) 0x08 f 12 (fun x _ => { r := BitVec.ofNat 32 ((x.a.toNat * x.b.toNat) >>> 32) })
  ∧ CompletesWith (.div f) 0x09 f 40 (fun x _ =>
      if x.b = 0 then { r := BitVec.allOnes 32, f := true }
      else { r := BitVec.ofInt 32 (x.a.toInt.tdiv x.b.toInt), f := pastInt32 (x.a.toInt.tdiv x.b.toInt) })
  ∧ CompletesWith (.divu f) 0x0A f 40 (fun x _ =>
      if x.b = 0 then { r := BitVec.allOnes 32, f := true } else { r := x.a / x.b })
  ∧ CompletesWith (.rem f) 0x0B f 40 (fun x _ =>
      if x.b = 0 then { r := x.a, f := true }
      else { r := BitVec.ofInt 32 (x.a.toInt.tmod x.b.toInt), f := pastInt32 (x.a.toInt.tdiv x.b.toInt) })
  ∧ CompletesWith (.remu f) 0x0C f 40 (fun x _ => if x.b = 0 then { r := x.a, f := true } else { r := x.a % x.b })
  ∧ CompletesWith (.and_ f) 0x0D f 8 (fun x _ => { r := x.a &&& x.b })
  ∧ CompletesWith (.or_ f) 0x0E f 8 (fun x _ => { r := x.a ||| x.b })
  ∧ CompletesWith (.xor_ f) 0x0F f 8 (fun x _ => { r := x.a ^^^ x.b })
  ∧ CompletesWith (.andn f) 0x10 f 8 (fun x _ => { r := x.a &&& ~~~x.b })
  ∧ CompletesWith (.shl f) 0x11 f 8 (fun x _ =>
      { r := x.a <<< (x.b % 32), c := x.b % 32 != 0 && x.a.getLsbD (32 - x.b.toNat % 32) })
  ∧ CompletesWith (.shr f) 0x12 f 8 (fun x _ =>
      { r := x.a >>> (x.b % 32), c := x.b % 32 != 0 && x.a.getLsbD (x.b.toNat % 32 - 1) })
  ∧ CompletesWith (.sra f) 0x13 f 8 (fun x _ =>
      { r := BitVec.ofInt 32 (x.a.toInt >>> (x.b.toNat % 32)), c := x.b % 32 != 0 && x.a.getLsbD (x.b.toNat % 32 - 1) })
  ∧ CompletesWith (.rot f) 0x14 f 8 (fun x _ =>
      { r := (x.a <<< (x.b % 32)) ||| (x.a >>> (32 - x.b % 32)) })
  ∧ CompletesWith (.clz f) 0x15 f 8 (fun x _ => { r := x.a.clz, c := x.a == 0 })
  ∧ CompletesWith (.popc f) 0x16 f 8 (fun x _ =>
      { r := BitVec.ofNat 32 ((List.range 32).countP fun i => x.a.getLsbD i) })
  ∧ CompletesWith (.bfx f) 0x17 f 8 (fun x _ =>
      { r := (x.a >>> (x.b.toNat % 32)) &&& BitVec.ofNat 32 (2 ^ (x.b.toNat / 32 % 32 + 1) - 1) })
  ∧ CompletesWith (.bfi f) 0x18 f 8 (fun x s =>
      let d := (s.elem x.c x.e).greg f.dst.toNat
      let m : Word := BitVec.ofNat 32 (2 ^ (x.b.toNat / 32 % 32 + 1) - 1) <<< (x.b.toNat % 32)
      { r := (d &&& ~~~m) ||| ((x.a <<< (x.b.toNat % 32)) &&& m) })
  ∧ CompletesWith (.min_ f) 0x19 f 8 (fun x _ =>
      { r := if x.a.toInt < x.b.toInt then x.a else x.b, c := decide (x.a.toInt < x.b.toInt) })
  ∧ CompletesWith (.max_ f) 0x1A f 8 (fun x _ =>
      { r := if x.a.toInt < x.b.toInt then x.b else x.a, c := decide (x.a.toInt < x.b.toInt) })
  ∧ CompletesWith (.minu f) 0x1B f 8 (fun x _ => { r := if x.a < x.b then x.a else x.b, c := decide (x.a < x.b) })
  ∧ CompletesWith (.maxu f) 0x1C f 8 (fun x _ => { r := if x.a < x.b then x.b else x.a, c := decide (x.a < x.b) })
  ∧ CompletesWith (.sel f) 0x1D f 8 (fun x _ => { r := if x.cin then x.a else x.b, c := x.cin })
  ∧ CompletesWith (.icmp f) 0x1E f 8 (fun x _ =>
      let t := [x.a == x.b, x.a != x.b, decide (x.a.toInt < x.b.toInt), decide (x.a.toInt ≥ x.b.toInt), decide (x.a < x.b),
        decide (x.a ≥ x.b), decide (x.a.toInt ≤ x.b.toInt), decide (x.a.toInt > x.b.toInt)].getD f.otag.toNat false
      { r := if t then 1 else 0, c := t })

/-- R337: PLOG computes TT[2 × P[SRC1] + P[DST]] from the predicates as they stood and writes it to P[PIDX]; the other seven
predicates and every register are as before. -/
def Obligations.PlogCompletes : Prop := ∀ (f : Slot) (s : State) (x : Fire),
  s.Fires 0x1F f x → s.Affords x 8 → ∃ t, exec (.plog f) s = .next t
    ∧ (∀ i < 8, (t.elem x.c x.e).pb.getLsbD i =
        let pb := (s.elem x.c x.e).pb
        if i = f.pidx.toNat then
          f.src2.getLsbD (2 * (pb.getLsbD (f.src1.toNat % 8)).toNat + (pb.getLsbD (f.dst.toNat % 8)).toNat)
        else pb.getLsbD i)
    ∧ (t.elem x.c x.e).greg = (s.elem x.c x.e).greg ∧ RegFrame s t x

/-- The magnitude m × 2^e of a finite value in units of 2^q, for q at most e. -/
def unitsOf (m : Nat) (e q : Int) : Nat := m * 2 ^ (e - q).toNat

/-- R338, R339, R340, R341: the results of the scalar floating-point instructions in each width, each rounded once from the
exact value; F is invalid or overflow, the sticky flags gather the conditions of R208, C is a comparison's outcome. -/
def Obligations.FloatCompletes : Prop := ∀ (w : FWidth) (f : Slot),
  let n := codeOfWidth w
  let v (a : Word) : FVal := (fmtOfWidth w).decode a.toNat
  CompletesWith (.fadd w f) (0x20 + n) f 8 (fun x _ => fpRes ((fmtOfWidth w).addV (v x.a) (v x.b)))
  ∧ CompletesWith (.fsub w f) (0x24 + n) f 8 (fun x _ => fpRes ((fmtOfWidth w).addV (v x.a) (v x.b).neg))
  ∧ CompletesWith (.fmul w f) (0x28 + n) f 8 (fun x _ =>
      if (v x.a).isNan ∨ (v x.b).isNan then fpRes ((fmtOfWidth w).nanRes false)
      else if (mulV (v x.a) (v x.b)).isNan then fpRes ((fmtOfWidth w).nanRes true)
      else fpRes ((fmtOfWidth w).ofVal (mulV (v x.a) (v x.b))))
  ∧ CompletesWith (.ffma w f) (0x2C + n) f 8 (fun x s =>
      let c := v ((s.elem x.c x.e).greg f.dst.toNat)
      if (v x.a).isNan ∨ (v x.b).isNan then fpRes ((fmtOfWidth w).nanRes false)
      else if (mulV (v x.a) (v x.b)).isNan then fpRes ((fmtOfWidth w).nanRes (!c.isNan))
      else fpRes ((fmtOfWidth w).addV (mulV (v x.a) (v x.b)) c))
  ∧ CompletesWith (.fmin w f) (0x30 + n) f 8 (fun x _ =>
      { r := BitVec.ofNat 32 ((fmtOfWidth w).minMax false x.a.toNat x.b.toNat) })
  ∧ CompletesWith (.fmax w f) (0x34 + n) f 8 (fun x _ =>
      { r := BitVec.ofNat 32 ((fmtOfWidth w).minMax true x.a.toNat x.b.toNat) })
  ∧ CompletesWith (.fcmp w f) (0x38 + n) f 8 (fun x _ =>
      let un := (v x.a).isNan || (v x.b).isNan
      let t := [eqV (v x.a) (v x.b), !eqV (v x.a) (v x.b), ltV (v x.a) (v x.b), !un && !ltV (v x.b) (v x.a), ltV (v x.b) (v x.a),
        !un && !ltV (v x.a) (v x.b), !un, un].getD f.otag.toNat false
      { r := if t then 1 else 0, c := t })
  ∧ CompletesWith (.fcvt w f) (0x3C + n) f 8 (fun x _ => fcvtRes (fmtOfWidth w) f.otag x.a)

/-- Whether m × 2^e is at most m' × 2^e'. -/
def dyLe (m : Nat) (e : Int) (m' : Nat) (e' : Int) : Prop := unitsOf m e (min e e') ≤ unitsOf m' e' (min e e')

/-- R206: a result of the sign `neg` is the rounding, to nearest with ties to even, of the positive magnitude that is at least the
m × 2^e of which `le` holds and at most those of which `ge` holds. It is infinite, with overflow, exactly where the magnitude reaches
the largest finite one and half a unit more; elsewhere it is finite, within half a unit of the magnitude, and even where the magnitude
lies just between two patterns. -/
def Rounded (g : FFmt) (r : FRes) (neg : Bool) (le ge : Nat → Int → Prop) : Prop :=
  (r.ovf = true ↔ le (2 ^ (g.fb + 2) - 1) (g.qmin + 2 ^ g.eb - 4))
  ∧ (r.ovf = true → r.bits = (if neg then g.signBit else 0) + g.infBits)
  ∧ (r.ovf = false → ∃ m e, g.decode r.bits = .fin neg m e ∧ le (2 * m - 1) (e - 1) ∧ ge (2 * m + 1) (e - 1)
      ∧ (ge (2 * m - 1) (e - 1) ∨ le (2 * m + 1) (e - 1) → r.bits % 2 = 0))
  ∧ r.invalid = false ∧ r.dz = false

/-- R206, R211: the exact value m × 2^e of any pattern of a format is rounded to that pattern without overflow; the magnitude that
rounding gives lies within half a unit in the last place of the exact one, the unit being 2^e', the exponent of the result; ties go
to the even pattern, and a magnitude at or above the largest finite one and half a unit becomes infinite; and so are the reciprocal
and the reciprocal square root rounded. -/
def Obligations.RoundingIsNearest : Prop := ∀ w : FWidth,
  (∀ (bits : Nat) (neg : Bool) (m : Nat) (e : Int), bits < 2 * (fmtOfWidth w).signBit → (fmtOfWidth w).decode bits = .fin neg m e →
    ((fmtOfWidth w).round neg m e).bits = bits ∧ ((fmtOfWidth w).round neg m e).ovf = false)
  ∧ (∀ (neg n' : Bool) (m m' : Nat) (e e' : Int), 0 < m →
    (fmtOfWidth w).decode ((fmtOfWidth w).round neg m e).bits = .fin n' m' e' →
    n' = neg ∧ (let q := min e e' - 1
      2 * (unitsOf m e q - unitsOf m' e' q) ≤ unitsOf 1 e' q ∧ 2 * (unitsOf m' e' q - unitsOf m e q) ≤ unitsOf 1 e' q))
  ∧ (∀ (neg : Bool) (m : Nat) (e : Int), 0 < m →
    Rounded (fmtOfWidth w) ((fmtOfWidth w).round neg m e) neg (fun i j => dyLe i j m e) (fun i j => dyLe m e i j))
  ∧ (∀ (a : Nat) (neg : Bool) (m : Nat) (e : Int), (fmtOfWidth w).decode a = .fin neg m e → 0 < m →
    Rounded (fmtOfWidth w) ((fmtOfWidth w).rcp a) neg (fun i j => dyLe (i * m) (j + e) 1 0) (fun i j => dyLe 1 0 (i * m) (j + e))
    ∧ (neg = false → Rounded (fmtOfWidth w) ((fmtOfWidth w).rsq a) false (fun i j => dyLe (i * i * m) (2 * j + e) 1 0)
        (fun i j => dyLe 1 0 (i * i * m) (2 * j + e))))

/-- The place of a pattern that is no NaN in the order of R209, −0 below +0. -/
def orderKey (g : FFmt) (bits : Nat) : Int := if bits < g.signBit then bits else -((bits - g.signBit : Nat) : Int) - 1

/-- R209: the minimum or maximum of two patterns: a NaN yields to the other operand, two give the canonical NaN. -/
def MinMaxBy (g : FFmt) (isMax : Bool) (a b r : Nat) : Prop :=
  let nan (v : Nat) : Prop := (g.decode v).isNan = true
  (nan a → nan b → r = g.nanBits) ∧ (nan a → ¬ nan b → r = b) ∧ (¬ nan a → nan b → r = a)
  ∧ (¬ nan a → ¬ nan b → r = if (orderKey g a ≤ orderKey g b) ↔ (isMax = false) then a else b)

/-- R210: the conversion of a value to an integer of a range: a NaN gives 0 and invalid, a value whose nearest integer, ties to even,
lies outside the range gives the limit that it passes and invalid, and any other its nearest integer. -/
def ToInteger (lo hi : Int) (v : FVal) (r : Res) : Prop :=
  let gives (z : Int) (bad : Bool) : Prop := r = { r := BitVec.ofInt 32 z, f := bad, st := if bad then 1 else 0 }
  match v with
  | .nan => gives 0 true
  | .inf n => gives (if n then lo else hi) true
  | .fin n m e => ∃ k : Nat, dyLe (2 * k - 1) (-1) m e ∧ dyLe m e (2 * k + 1) (-1)
      ∧ (0 < m → dyLe m e (2 * k - 1) (-1) ∨ dyLe (2 * k + 1) (-1) m e → k % 2 = 0)
      ∧ (let z : Int := if n then -(k : Int) else k
        if z < lo then gives lo true else if hi < z then gives hi true else gives z false)

/-- R211: the special cases of the functions, of an operand pattern of a format. -/
def FunctionCases (g : FFmt) (a : Nat) : Prop :=
  let nan : FRes := { bits := g.nanBits }
  let bad : FRes := { bits := g.nanBits, invalid := true }
  let inf (n : Bool) : FRes := { bits := (if n then g.signBit else 0) + g.infBits }
  let zero (n : Bool) : FRes := { bits := if n then g.signBit else 0 }
  match g.decode a with
  | .nan => g.exp2 a = nan ∧ g.log2 a = nan ∧ g.rcp a = nan ∧ g.rsq a = nan
  | .inf n => g.exp2 a = (if n then zero false else inf false) ∧ g.log2 a = (if n then bad else inf false) ∧ g.rcp a = zero n
      ∧ g.rsq a = (if n then bad else zero false)
  | .fin n m e =>
    (m = 0 → g.exp2 a = { bits := g.bias * 2 ^ g.fb } ∧ g.log2 a = { inf true with dz := true }
        ∧ g.rcp a = { inf n with dz := true } ∧ g.rsq a = { inf n with dz := true })
    ∧ (0 < m → n = true → g.log2 a = bad ∧ g.rsq a = bad)
    ∧ (∀ z : Int, (if 0 ≤ e then z = signed n m * 2 ^ e.toNat else z * 2 ^ (-e).toNat = signed n m) →
        Rounded g (g.exp2 a) false (fun i j => dyLe i j 1 z) (fun i j => dyLe 1 z i j))
    ∧ (∀ j : Nat, m = 2 ^ j → n = false → g.log2 a = g.round (decide (e + j < 0)) (e + j).natAbs 0)

/-- R207, R208, R209, R210, R211, R339, R341: a NaN operand gives the canonical NaN and no flag; infinities of opposite sign added, and an infinity
times a zero, give it with invalid; a minimum or maximum, a conversion to an integer, and one between the formats, which is exact
where it widens, follow their rules; and so do the functions in their special cases, VEXP2 of a whole number and VLOG2 of a power of
two. The other values of VEXP2 and VLOG2 are computed to the number of bits of log entry 17. -/
def Obligations.FloatNanAndInfinity : Prop := ∀ (w : FWidth) (a b : Nat),
  let g := fmtOfWidth w
  let nan : FRes := { bits := g.nanBits }
  let bad : FRes := { bits := g.nanBits, invalid := true }
  (((g.decode a).isNan = true ∨ (g.decode b).isNan = true) → g.add a b = nan ∧ g.mul a b = nan)
  ∧ (∀ n, g.decode a = .inf n → g.decode b = .inf (!n) → g.add a b = bad)
  ∧ (∀ n z e, g.decode a = .inf n → g.decode b = .fin z 0 e → g.mul a b = bad ∧ g.mul b a = bad)
  ∧ (a < 2 * g.signBit → b < 2 * g.signBit → ∀ isMax : Bool, MinMaxBy g isMax a b (g.minMax isMax a b))
  ∧ FunctionCases g a
  ∧ (∀ v : Word, ToInteger (-(2 ^ 31)) (2 ^ 31 - 1) (g.decode v.toNat) (fcvtRes g 3 v)
      ∧ ToInteger 0 (2 ^ 32 - 1) (g.decode v.toNat) (fcvtRes g 4 v)
      ∧ fcvtRes g 5 v = fpRes (g.round (decide (v.toInt < 0)) v.toInt.natAbs 0) ∧ fcvtRes g 6 v = fpRes (g.round false v.toNat 0)
      ∧ (∀ (u : FWidth) (d : BitVec 3), d.toNat = [0, 1, 2].getD (codeOfWidth u) 0 →
          let h := fmtOfWidth u
          match g.decode v.toNat with
          | .nan => fcvtRes g d v = { r := BitVec.ofNat 32 h.nanBits }
          | .inf n => fcvtRes g d v = { r := BitVec.ofNat 32 ((if n then h.signBit else 0) + h.infBits) }
          | .fin n m e => fcvtRes g d v = fpRes (h.round n m e)
              ∧ (g.eb ≤ h.eb → g.fb ≤ h.fb → ∃ m' e', h.decode (h.round n m e).bits = .fin n m' e' ∧ dyLe m e m' e' ∧ dyLe m' e' m e)))

/-- The bytes that a SIZE code names: B 1, H 2, W 4, BS 1, HS 2 (R291). -/
def sizeOf291 (code : Nat) : Nat := if code = 0 ∨ code = 4 then 1 else if code = 1 ∨ code = 5 then 2 else 4

/-- R360, R365, R367, R369, R370: a load, a store, a full/empty or counting operation whose address and binding pass is under
way after its firing with its offset and its data operand captured; its destination is pending and nothing else is written. -/
def Obligations.LoadsAndStoresIssue : Prop := ∀ f : Slot,
  let n := sizeOf291 (f.src2.toNat % 8)
  let none' : Fire → State → List Word := fun _ _ => []
  let data : Fire → State → List Word := fun x s => [srcVal (s.cell x.c) (s.elem x.c x.e) f.dst]
  let free : Fire → State → Option AddrFault := fun _ _ => none
  IssuesAccess (.ld f) 0x40 f n n .load none' free
  ∧ IssuesAccess (.ldc f) 0x41 f n n .load none' free
  ∧ IssuesAccess (.ldwf f) 0x42 f 4 4 (.full 0x42) none' free
  ∧ IssuesAccess (.ldtk f) 0x43 f 4 4 (.full 0x43) none' free
  ∧ IssuesAccess (.st f) 0x44 f n n .store data free
  ∧ IssuesAccess (.stfl f) 0x45 f 4 4 (.full 0x45) data free
  ∧ IssuesAccess (.stsf f) 0x46 f 4 4 (.full 0x46) data free
  ∧ IssuesAccess (.feclr f) 0x47 f 4 4 (.full 0x47) none' free
  ∧ IssuesAccess (.feq f) 0x48 f 4 4 (.full 0x48) none' free
  ∧ IssuesAccess (.ctrinit f) 0x49 f 4 4 (.full 0x49) data free
  ∧ IssuesAccess (.arrive f) 0x4A f 4 4 (.full 0x4A) none' free

/-- Whether a handle of an ATOMX names no memory cell of a room that is present (R375). -/
def handleBad (s : State) (h : Word) : Bool :=
  h.toNat / 2 ^ 18 % 4 != 0 || kindOf (handleCell h) != .memory || (s.room (h.toNat / 2 ^ 26)).absent

/-- R373, R374, R375: ATOM, RED and ATOMX whose address and binding pass, and whose handles are sound, are under way after
their firing, with g_d and the registers after it, or the data operand of a RED, captured. -/
def Obligations.AtomicsIssue : Prop := ∀ (k : BitVec 3) (f : Slot),
  let regs : Fire → State → List Word := fun x s =>
    let g (i : Nat) : Word := (s.elem x.c x.e).greg (f.dst.toNat + i)
    [g 0, g 1, g 2, g 3]
  let data : Fire → State → List Word := fun x s => [srcVal (s.cell x.c) (s.elem x.c x.e) f.dst]
  let n := if k = 1 then 16 else 4
  IssuesAccess (.atom k f) (0x60 + k.toNat) f 4 4 .atom regs (fun _ _ => none)
  ∧ IssuesAccess (.red k f) (0x68 + k.toNat) f n n .red data (fun _ _ => none)
  ∧ IssuesAccess (.atomx k f) (0x70 + k.toNat) f 4 4 .atom regs (fun x s =>
      let h := (s.elem x.c x.e).greg (f.dst.toNat + 1)
      let c := (s.elem x.c x.e).greg (f.dst.toNat + 2)
      if handleBad s h then some { code := 0x03, sub := 0xFF, info := h.toNat }
      else if c ≠ 0xFFFFFFFF ∧ handleBad s c = true then some { code := 0x03, sub := 0xFF, info := c.toNat } else none)

/-- R371, R372, R383, R384, R385, R386: a FENCE and an ACQ are under way after their firing; a PREF completes in its step, moves
its offset register by 64, and starts at most a walk of a page; a queue or deque instruction whose descriptor passes the checks of
its firing is under way with its data operand captured. That a PREF that is dropped still moves its offset register, and that its STATUS comes from
the tables as they stand at the firing, are the model's readings (log entries 24 and 85). -/
def Obligations.FencesAndQueuesIssue : Prop := ∀ (f : Slot) (s : State) (x : Fire),
  (s.Fires 0x4B f x → s.Affords x 8 → ∃ t, exec (.fence f) s = .next t
      ∧ Issued s t x (opOf x []) 0 ∧ IssueFrame s t x 8 ∧ SameEngines s t)
  ∧ (∀ tg, s.Fires 0x4C f x → s.address x x.a 4 4 .acq = .ok tg → s.Affords x (s.setRow x.t tg.ea).1 →
      ∃ t, exec (.acq f) s = .next t
        ∧ Issued s t x { opOf x [x.a] with spad := tg.spad, ea := tg.ea, len := 4, short := (s.setRow x.t tg.ea).2 } 0
        ∧ IssueFrame s t x (s.setRow x.t tg.ea).1 ∧ SameEngines s t)
  ∧ (s.Fires 0x5A f x → s.Affords x 8 → ∃ t, exec (.pref f) s = .next t
      ∧ (∀ d, (t.elem x.c x.e).greg d = if f.imm = true ∧ d = f.src1.toNat then (s.elem x.c x.e).greg d + 64
          else (s.elem x.c x.e).greg d)
      ∧ (t.elem x.c x.e).eng =
          engWord 0x5A x.k (match s.prefDropped x with
            | .ok _ => 0
            | .error _ => 6)
      ∧ t.mem = s.mem ∧ t.hostMem = s.hostMem ∧ t.ops = s.ops ∧ SameEngines s t ∧ SameElems s t x ∧ Debits s t x 8)
  ∧ (∀ tg : Target, s.queueTarget x = .ok tg → s.Affords x 12 →
      let data : List Word := [srcVal (s.cell x.c) (s.elem x.c x.e) f.dst]
      let o (args : List Word) : Op := { opOf x (x.a :: args) with spad := tg.spad, ea := tg.ea, len := 16 }
      let ok (i : Instr) (args : List Word) : Prop :=
        ∃ t, exec i s = .next t ∧ Issued s t x (o args) 0 ∧ IssueFrame s t x 12 ∧ SameEngines s t
      (s.Fires 0x55 f x → ok (.qpush f) data) ∧ (s.Fires 0x56 f x → ok (.qpop f) [])
      ∧ (s.Fires 0x57 f x → ok (.dqpush f) data) ∧ (s.Fires 0x58 f x → ok (.dqpop f) [])
      ∧ (s.Fires 0x59 f x → ok (.dqsteal f) []))


/-- R377, R382: TLOOK reads the word number of a key; TINS writes the entry that holds the key, else the lowest of the 1,024 that is
free, else nothing, and every other entry is as before; TINV removes every entry of a key; a miss gives C = 1; TFREE makes a READY slot EMPTY; TSTATQ reads a slot's length and
state. -/
def Obligations.TablesAndSlotsComplete : Prop := ∀ f : Slot,
  (let tbl (s : State) (x : Fire) : AMap TagEnt := (s.cell x.c).spad.table
   let put (m : AMap TagEnt) (cl : Cell) : Cell := { cl with spad := { cl.spad with table := m } }
   Answers (.tlook f) 0x4D f 12 (fun _ _ => True) (fun s t x =>
     let e := (tbl s x).find? fun p => p.2.key == x.a
     WroteEng s t x { r := match e with
         | some p => BitVec.ofNat 32 p.2.word
         | none => 0xFFFFFFFF, c := e.isNone } (if e.isNone then 3 else 0)
       ∧ EngFrame s t x ∧ SameEngines s t)
   ∧ Answers (.tins f) 0x4E f 12 (fun _ x => x.b.toNat ≤ 262143) (fun s t x =>
     let m := tbl s x
     let held := m.find? fun p => p.2.key == x.a
     let wrote (m' : AMap TagEnt) (i : Nat) : Prop :=
       ∀ j, mfind m' j = if j = i then some { key := x.a, word := x.b.toNat } else mfind m j
     ∃ m' done, WroteEng s t x { c := !done } (if done then 0 else 2) ∧ EngFrame s t x ∧ EnginesBy s t x.c (put m')
       ∧ (∀ p, held = some p → done = true ∧ wrote m' p.1)
       ∧ (held = none → ∀ i < 1024, mfind m i = none → (∀ j < i, mfind m j ≠ none) → done = true ∧ wrote m' i)
       ∧ (held = none → (∀ i < 1024, mfind m i ≠ none) → done = false ∧ m' = m))
   ∧ Answers (.tinv f) 0x4F f 12 (fun _ _ => True) (fun s t x =>
     let hit := (tbl s x).any fun p => p.2.key == x.a
     WroteEng s t x { c := !hit } (if hit then 0 else 5) ∧ EngFrame s t x
       ∧ EnginesBy s t x.c (put ((tbl s x).filter fun p => p.2.key != x.a))))
  ∧ (Answers (.tfree f) 0x53 f 8 (fun _ _ => True) (fun s t x =>
     WroteEng s t x {} 0 ∧ EngFrame s t x
       ∧ EnginesBy s t x.c (fun cl => if (cl.tile (f.dst.toNat % 8)).st = .ready then cl.setTile (f.dst.toNat % 8) {} else cl))
   ∧ Answers (.tstatq f) 0x54 f 8 (fun _ x => x.b.toNat ≤ 7) (fun s t x =>
     let k := (s.cell x.c).tile x.b.toNat
     let code := match k.st with
       | .empty => 0
       | .filling => 1
       | .ready => 2
       | .draining => 3
     WroteEng s t x { r := BitVec.ofNat 32 (256 * k.len + code) } 0 ∧ EngFrame s t x ∧ SameEngines s t))

/-- R378 to R381: a tile copy of n blocks whose address and binding pass is under way after its firing: the slots that it fills
are FILLING with LEN n, the slot that it stores is DRAINING, and the meter debits 8 mu a block and 8 mu more for each block of a
fill that is read from the cellar. -/
def Obligations.TileCopiesIssue : Prop := ∀ (f : Slot) (s : State) (x : Fire) (tg : Target),
  let n := ((s.elem x.c x.e).greg (f.src1.toNat + 1)).toNat
  let bl := if tg.spad.isSome then (0, 0) else s.tileBlocks x.t tg.ea n
  let fill : Op := { opOf x [x.a, BitVec.ofNat 32 n] with
                     spad := tg.spad, ea := tg.ea, len := 64 * n, left := List.range n, vdata := bl.1 }
  let m := ((s.cell x.c).tile (f.dst.toNat % 8)).len
  let members := (mget (s.cell x.c).mcast (f.dst.toNat / 8) []).map fun p => x.t.cellAt p.1 p.2
  (1 ≤ n → n ≤ 256 → s.tileAddress x n .load = .ok tg → s.Affords x (8 * n + 8 * bl.2) →
    (s.Fires 0x50 f x → ∃ t, exec (.tload f) s = .next t ∧ Issued s t x fill (64 * n) ∧ IssueFrame s t x (8 * n + 8 * bl.2)
      ∧ EnginesBy s t x.c (fun cl => cl.setTile (f.dst.toNat % 8) { st := .filling, len := n }))
    ∧ (s.Fires 0x52 f x → ∃ t, exec (.tmcast f) s = .next t ∧ Issued s t x fill (64 * n) ∧ IssueFrame s t x (8 * n + 8 * bl.2)
      ∧ ∀ c, (t.cell c).engines = (if members.contains c then
          (s.cell c).setTile (f.dst.toNat % 8) { st := .filling, len := n } else s.cell c).engines))
  ∧ (s.Fires 0x51 f x → s.tileAddress x m .store = .ok tg → s.Affords x (8 * m) →
      ∃ t, exec (.tstore f) s = .next t
        ∧ Issued s t x { opOf x [x.a, BitVec.ofNat 32 m] with
                         spad := tg.spad, ea := tg.ea, len := 64 * m, left := List.range m } (64 * m)
        ∧ IssueFrame s t x (8 * m)
        ∧ EnginesBy s t x.c (fun cl =>
            cl.setTile (f.dst.toNat % 8) { cl.tile (f.dst.toNat % 8) with st := .draining, len := m }))


/-- R343, R344, R351, R355: ARG, COORD, SEMQ and CTRQ read the argument block, the task's coordinates, a semaphore as it stood
at the end of the last tick, a counter set as it stood at the start of the step. -/
def Obligations.SystemQueriesComplete : Prop := ∀ f : Slot,
  Answers (.arg f) 0xF0 f 8 (fun _ x => x.a.toNat + 4 * x.b.toNat ≤ 252 ∧ x.a.toNat % 4 = 0) (fun s t x =>
    Wrote s t x { r := BitVec.ofNat 32 (bytesToNat ((x.t.arg.drop (x.a.toNat + 4 * x.b.toNat)).take 4)) } x.tnt
      ∧ RegFrame s t x)
  ∧ CompletesWith (.coord f) 0xF1 f 8 (fun x s =>
      let l := x.t.launch.getD {}
      let lead := x.t.gang.find? fun c => kindOf c == .compute
      { r := BitVec.ofNat 32 ([l.i, l.j, l.nx, l.ny, x.c % 8 - x.t.x0, x.c / 64 % 8 - x.t.y0, 2 ^ x.t.gw, 2 ^ x.t.gh, x.e,
          kindCode (kindOf x.c), s.devNum, x.t.restarts].getD f.src2.toNat (if lead.getD (x.t.cellAt 0 0) = x.c then 1 else 0)) })
  ∧ CompletesWith (.semq f) 0xF8 f 8 (fun x s =>
      { r := BitVec.ofNat 32 (mget (s.room (roomOf x.c)).semPrev (x.b.toNat % 256) 0) })
  ∧ CompletesWith (.ctrq f) 0xFC f 8 (fun x s =>
      let k := (s.cell x.c).ctrOld (f.src2.toNat % 4)
      { r := if f.src2.toNat / 4 % 4 = 0 then k.value
          else if f.src2.toNat / 4 % 4 = 1 then BitVec.ofNat 32 (linearCount k.n k.ext)
          else BitVec.ofNat 32 (k.started.toNat + 2 * k.isDone.toNat) })

/-- R345, R346, R347: AGEQ and TIMEQ write a register pair with untainted values; METERQ reads the meter as its own debit leaves
it. A TOPUP of k packets, its 8 mu debited, puts its request at the end of the queue of requests, every earlier one kept, and its
meter enters PENDING; one of 0 adds none, and one above 0x03FFFFFF adds none and is denied at once: the queue is then as the debit
alone leaves it. None fires while a request is pending, and none where the balance does not cover it. A grant that would carry BAL or
TOPPED above 2^32 − 1 is a denial that draws nothing, and a grant and a denial are seen from the next step of their cell on. That a TOPUP's request
stands for the automatic one of its own debit is the model's choice (log entry 83). -/
def Obligations.PairsAndMeterComplete : Prop := ∀ f : Slot,
  (let pair (s t : State) (x : Fire) (lo hi : Nat) : Prop :=
     (∀ d < 16, (t.elem x.c x.e).greg d = if d = f.dst.toNat + 1 then BitVec.ofNat 32 hi
         else if d = f.dst.toNat then BitVec.ofNat 32 lo else (s.elem x.c x.e).greg d)
       ∧ (∀ d < 16, (t.elem x.c x.e).taint.getLsbD d =
         (!(decide (d = f.dst.toNat) || decide (d = f.dst.toNat + 1)) && (s.elem x.c x.e).taint.getLsbD d))
       ∧ (t.elem x.c x.e).pb = predUpdate (s.elem x.c x.e).pb f { r := BitVec.ofNat 32 lo } ∧ RegFrame s t x
   Answers (.ageq f) 0xF2 f 8 (fun _ _ => f.dst.toNat < 15) (fun s t x => pair s t x x.t.age (x.t.age / 2 ^ 32))
   ∧ Answers (.timeq f) 0xF3 f 8 (fun _ _ => f.dst.toNat < 15) (fun s t x =>
       if f.src2 = 0 then pair s t x s.domainTime (s.domainTime / 2 ^ 32)
       else pair s t x (s.clock.tbase / 4000000000) (s.clock.tbase / 4 % 1000000000))
   ∧ Answers (.meterq f) 0xF4 f 8 (fun _ _ => True) (fun s t x =>
       let m := (t.cell x.c).meter
       Wrote s t x { r := BitVec.ofNat 32 ([m.bal, m.decl, m.topped, m.cons].getD f.src2.toNat
           (m.pend.toNat + 2 * m.denied.toNat + 4 * (s.entryOf x.t).mmode.toNat + 256 * (m.acnt % 256))) } x.tnt
         ∧ RegFrame s t x))
  ∧ (Answers (.topup f) 0xF5 f 8 (fun _ _ => True) (fun s t x =>
     Wrote s t x {} x.tnt ∧ RegFrame s t x
     ∧ (x.b.toNat = 0 → t.sched.reqs = (s.debited x 8).sched.reqs ∧ (t.cell x.c).meter.denied = (s.cell x.c).meter.denied)
     ∧ (0x03FFFFFF < x.b.toNat → t.sched.reqs = (s.debited x 8).sched.reqs ∧ (t.cell x.c).meter.denied = true)
     ∧ (0 < x.b.toNat → x.b.toNat ≤ 0x03FFFFFF → (t.cell x.c).meter.pend = true ∧ (t.cell x.c).meter.st = .pending
         ∧ t.sched.reqs = s.sched.reqs ++
             [{ since := s.clock.tick, acct := (s.entryOf x.t).acct, cell := x.c, task := x.t.id, packets := x.b.toNat }]))
   ∧ (∀ (s : State) (x : Fire), s.fireAt 0xF5 f = some x → (s.cell x.c).meter.pend = true → exec (.topup f) s = .next s)
   ∧ (∀ (s : State) (x : Fire), s.Fires 0xF5 f x → (s.elem x.c x.e).paid ≠ some x.k → (s.entryOf x.t).mmode = false →
       (s.cell x.c).meter.bal < 8 → (s.cell x.c).meter.st = .paying → exec (.topup f) s = .next (s.meterStop x.t x.c (8 + s.tokenCost x) false)))
  ∧ (∀ (s : State) (n : Nat) (q : TopReq) (rest : List TopReq) (k : Task), takeReq n s.sched.reqs = some (q, rest) → q.dest = none →
      s.task? q.task = some k → (s.cell q.cell).owner = some k.id → (s.cell q.cell).meter.st = .pending →
      let m := (s.cell q.cell).meter
      let past : Prop := 2 ^ 32 - 1 < m.bal + 64 * q.packets ∨ 2 ^ 32 - 1 < m.topped + 64 * q.packets
      ∃ t, exec (.topupSettle n) s = .next t ∧ (past → (t.cell q.cell).meter.denied = true ∧ t.accts = s.accts
          ∧ ∀ e, (t.cell q.cell).newStep e = true)
        ∧ (¬ past → (s.acct q.acct).canDraw (64 * q.packets) = true → ∀ e, (t.cell q.cell).newStep e = true))

/-- R348, R349: a SPAWN whose reserved bits, length, window and binding pass completes its registers and has the read of its
body under way, with what its cancellation at the end of the tick would give back; the places of the tokens that it popped are kept
for them until then. That the body's read is an access of opcode 0xF6 is the model's reading (log entry 29). -/
def Obligations.SpawnIssues : Prop := ∀ (f : Slot) (s : State) (x : Fire) (tg : Target),
  let off := (s.elem x.c x.e).greg (f.src1.toNat + 1)
  let w := x.a.toNat / 2 ^ 16 % 4
  s.Fires 0xF6 f x → s.Affords x 8 → x.a.toNat / 2 ^ 12 % 16 = 0 → x.b.toNat ≤ 240 → s.spawnHeld x.t x.a = false →
    windowAddr x.t x.c w (s.window x w) off 1 = .ok tg → s.bindCheck x.t tg x.b.toNat .load = none →
    ∃ t u, exec (.spawn f) s = .next t
      ∧ Wrote s (t.updElem x.c x.e fun el => el.spawnStands u) x {} x.tnt ∧ RegFrame s { t with ops := s.ops } x ∧ Debits s t x 8
      ∧ t.ops = s.ops ++ [{ opOf x [x.a, off] with id := s.clock.nextId, inj := s.clock.nextId, sent := s.clock.tick, spad := tg.spad,
                                                    ea := tg.ea, len := x.b.toNat, undo := some u }]
      ∧ u.cost = (s.cell x.c).meter.bal - (t.cell x.c).meter.bal

/-- R350, R357, R358, R172: SEMSIG adds its increment to a semaphore of its room at once, and past 0xFFFF the semaphore holds
0xFFFF and a hearth in WAIT or EXEC is TRAPPED with cause 1; DONE stops its element for the rest of the task; TRAP freezes its
element with fault code 0x01, the value of SRC2 as SUB and that of SRC1 as INFO, and the fault is on its way to the hearth. -/
def Obligations.SemsigDoneTrapComplete : Prop := ∀ f : Slot,
  (Answers (.semsig f) 0xF7 f 8 (fun _ _ => True) (fun s t x =>
     let r := roomOf x.c
     let n := x.a.toNat % 256
     let v := (s.room r).sem n + x.b.toNat % 256
     (∀ k, (t.room r).sem k = if k = n then min v 0xFFFF else (s.room r).sem k)
       ∧ (∀ q, q ≠ r → t.room q = s.room q)
       ∧ (t.room r).hearth = (if 0xFFFF < v ∧ ((s.room r).hearth.st = .wait ∨ (s.room r).hearth.st = .exec) then
           { (s.room r).hearth with st := .trapped, cause := 1 } else (s.room r).hearth)
       ∧ Wrote s t x {} x.tnt ∧ RegFrame s { t with rooms := s.rooms } x))
  ∧ (Answers (.done f) 0xFE f 8 (fun _ _ => True) (fun s t x =>
     (t.elem x.c x.e).done = true ∧ (t.elem x.c x.e).greg = (s.elem x.c x.e).greg ∧ t.mem = s.mem ∧ SameEngines s t
       ∧ SameElems s t x)
   ∧ Answers (.trap f) 0xFF f 8 (fun _ _ => True) (fun s t x =>
     let reg : FaultReg := { code := 0x01, slot := x.k, op := 0xFF, node := x.e, cell := x.c, sub := x.b.toNat % 2 ^ 16,
                             info := x.a.toNat }
     (t.elem x.c x.e).frozen = true ∧ (t.elem x.c x.e).fault = reg
       ∧ (t.elem x.c x.e).greg = (s.elem x.c x.e).greg
       ∧ (∃ k, t.task? x.t.id = some k ∧ k.faults = x.t.faults ++ [{ reg := reg, elem := some x.e }])
       ∧ t.mem = s.mem ∧ SameEngines s t ∧ SameElems s t x))

/-- A control token from a source of a cell has been sent to every destination of the source (R179, R356): those of the cell see it
in its next step, and one is more on its way to each of another cell. -/
def ControlSent (s t : State) (x : Fire) (source : Nat) : Prop :=
  let ds := mget (s.cell x.c).ctl source []
  (t.cell x.c).ctlNext = (s.cell x.c).ctlNext ++ (ds.filter fun d => x.t.cellAt d.x d.y == x.c).map CtlDest.key
  ∧ ∀ c, c ≠ x.c → ∀ e k, mget (t.elem c e).ctlIn k 0 =
      mget (s.elem c e).ctlIn k 0 + (ds.filter fun d => x.t.cellAt d.x d.y == c && d.key == (e, k)).length

/-- R352, R353, R354, R356: WSET writes one window; CTRSET loads BASE, returns every count to 0 and starts the set where asked;
CTOK sends a control token to every destination of its output, and one within the cell sets its mapped predicate in the next step;
CTRSTEP of a set that runs makes one advance and gives the value after it, one of a set that has not started starts it first, and
one of a set in DONE makes none and F is 1; a set that enters DONE sends its DONE token, and what reads the set in the step sees it
as it stood. -/
def Obligations.WindowsAndCountersComplete : Prop := ∀ f : Slot,
  (Answers (.wset f) 0xF9 f 8 (fun _ _ => True) (fun s t x =>
     (∀ n, (t.elem x.c x.e).win n = if n = f.src2.toNat % 4 then (s.elem x.c x.e).greg (f.src1.toNat + 1) ++ x.a
         else (s.elem x.c x.e).win n)
       ∧ (t.elem x.c x.e).greg = (s.elem x.c x.e).greg ∧ SameDevice s t ∧ SameEngines s t ∧ SameElems s t x)
   ∧ Answers (.ctrset f) 0xFA f 8 (fun _ _ => True) (fun s t x =>
     let n := f.src2.toNat % 4
     let k := (s.cell x.c).ctr n
     let k' : CtrSet := { k with base := x.a, n := k.ext.map fun _ => 0, isDone := false, started := f.src2.getLsbD 2 }
     Wrote s t x {} x.tnt ∧ SameElems s t x
       ∧ EnginesBy s t x.c (fun cl => { cl with ctrs := mset cl.ctrs n k' })
       ∧ (x.c = x.t.lead → n = 0 → ∃ k, t.task? x.t.id = some k ∧ k.iters = 0))
   ∧ Answers (.ctok f) 0xFD f 8 (fun _ _ => True) (fun s t x =>
     Wrote s t x {} x.tnt ∧ ControlSent s t x (4 * x.e + f.src2.toNat % 4)
       ∧ (∀ e k p, (t.cell x.c).ctlNext = [(e, k)] → k < 8 → mfind (t.elem x.c e).ctlMap k = some p → t.spawning x.c e = false →
           ((t.beginStep x.c).elem x.c e).pb = setPred (t.elem x.c e).pb p true)))
  ∧ (let n := f.src2.toNat % 4
   let stepped (s t : State) (x : Fire) (k : CtrSet) : Prop :=
     Wrote s t x { r := k.value, c := k.isDone } x.tnt ∧ (t.cell x.c).ctr n = k ∧ (∀ j, j ≠ n → (t.cell x.c).ctr j = (s.cell x.c).ctr j)
       ∧ (t.cell x.c).ctrs0 = (s.cell x.c).ctrs0
       ∧ (if k.isDone then ControlSent s t x (0x20 + n) else (t.cell x.c).ctlNext = (s.cell x.c).ctlNext)
   Answers (.ctrstep f) 0xFB f 8 (fun s x => ((s.cell x.c).ctr n).started = true ∧ ((s.cell x.c).ctr n).isDone = true)
     (fun s t x => Wrote s t x { r := ((s.cell x.c).ctr n).value, f := true } x.tnt ∧ RegFrame s t x)
   ∧ Answers (.ctrstep f) 0xFB f 8 (fun s x => ((s.cell x.c).ctr n).started = true ∧ ((s.cell x.c).ctr n).isDone = false)
     (fun s t x => stepped s t x ((s.cell x.c).ctr n).advance)
   ∧ Answers (.ctrstep f) 0xFB f 8 (fun s x => ((s.cell x.c).ctr n).started = false)
     (fun s t x => stepped s t x ((s.cell x.c).ctr n).start.advance))

/-- Lane k of a vector register of a lane type: bits [w·k + w − 1 : w·k] for lanes of w bits (R212). -/
def laneAt (ty : Nat) (v : BitVec 1024) (k : Nat) : Nat := v.toNat / 2 ^ (laneBits ty * k) % 2 ^ laneBits ty

/-- Lane k of a vector operand: a V register, or a g register given to every lane (R391). -/
def vopA (s : State) (x : Fire) (ty : Nat) (code : BitVec 5) (k : Nat) : Nat :=
  if code.toNat < 16 then laneAt ty (mget (s.cell x.c).vec.v code.toNat 0) k
  else ((s.elem x.c x.e).greg (code.toNat - 16)).toNat % 2 ^ laneBits ty

/-- Lane k of the second operand: with I = 1, the immediate as the exact value of its lane format (R391). -/
def vopB (s : State) (x : Fire) (ty : Nat) (k : Nat) : Nat :=
  if x.f.imm then if ty = 3 then x.f.src2.toNat else ((laneFmt ty).round false x.f.src2.toNat 0).bits
  else vopA s x ty x.f.src2 k

/-- Whether a firing writes lane k: with OTAG[0] = 1, M0 selects it (R392). -/
def lanePicked (s : State) (x : Fire) (k : Nat) : Bool :=
  !x.f.otag.getLsbD 0 || (mget (s.cell x.c).vec.m 0 0).getLsbD k

/-- A vector instruction that, fired and paid for, hands its operation to the vector pipe with its destination pending; `post`
holds of the operation (R392). Which words stand for its captured operands is the model's choice (log entry 96). -/
def VecAnswers (i : Instr) (op : Nat) (f : Slot) (cost : Nat) (post : State → Fire → Op → Prop) : Prop :=
  ∀ s x, s.Fires op f x → s.Affords x cost → ∃ t o, exec i s = .next t ∧ Issued s t x o 0 ∧ IssueFrame s t x cost
    ∧ EnginesBy s t x.c (fun cl => { cl with vec := { cl.vec with pendV := cl.vec.pendV ||| (destOf op f).v,
                                                                  pendM := cl.vec.pendM ||| (destOf op f).m } })
    ∧ o = { opOf x (vecArgs s x) with phase := .performed, vres := o.vres, r := o.r, c := o.c, fflag := o.fflag, sticky := o.sticky }
    ∧ post s x o

/-- The operation writes `g k` to every written lane k and keeps every other lane; F and the sticky flags gather the conditions
of the written lanes (R208, R392). -/
def LanesOf (s : State) (x : Fire) (o : Op) (ty : Nat) (picked : Nat → Bool) (g : Nat → FRes) : Prop :=
  let ks := (List.range (if ty = 1 ∨ ty = 2 then 64 else 32)).filter picked
  (∀ k < if ty = 1 ∨ ty = 2 then 64 else 32, laneAt ty o.vres k =
      if picked k then (g k).bits % 2 ^ laneBits ty else laneAt ty (mget (s.cell x.c).vec.v x.f.dst.toNat 0) k)
  ∧ o.r = 0 ∧ o.c = false ∧ o.fflag = ks.any (fun k => (g k).invalid || (g k).ovf)
  ∧ ∀ j < 3, o.sticky.getLsbD j = ks.any (fun k => (g k).sticky.getLsbD j)

/-- An elementwise instruction: `g` of the lane type and of a[k], b[k] and the old d[k] (R394). -/
def EachLane (i : Instr) (op : Nat) (f : Slot) (cost : Nat) (g : Nat → Nat → Nat → Nat → FRes) : Prop :=
  VecAnswers i op f cost fun s x o =>
    let ty := f.otag.toNat / 2
    LanesOf s x o ty (lanePicked s x) fun k =>
      g ty (vopA s x ty f.src1 k) (vopB s x ty k) (laneAt ty (mget (s.cell x.c).vec.v f.dst.toNat 0) k)

/-- A lane result of an integer operation on 32 bits. -/
def wordLane (g : Word → Word → Word) : Nat → Nat → Nat → Nat → FRes :=
  fun _ a b _ => { bits := (g (BitVec.ofNat 32 a) (BitVec.ofNat 32 b)).toNat }

/-- R209, R392, R394: each elementwise vector instruction computes its operation in every written lane. The values of VEXP2 and VLOG2
that no rule of R211 names are computed to the number of bits of log entry 17, and the captured operands are those of log entry 96. -/
def Obligations.VectorLanesComplete : Prop := ∀ f : Slot,
  let fp (g : FFmt → Nat → Nat → Nat → FRes) : Nat → Nat → Nat → Nat → FRes := fun ty a b d => g (laneFmt ty) a b d
  let sign (w : Nat) : Nat := 2 ^ (w - 1)
  EachLane (.vadd f) 0x80 f 96 (fp fun g a b _ => g.add a b)
  ∧ EachLane (.vsub f) 0x81 f 96 (fp fun g a b _ => g.addV (g.decode a) (g.decode b).neg)
  ∧ EachLane (.vmul f) 0x82 f 96 (fp fun g a b _ => g.mul a b)
  ∧ EachLane (.vfma f) 0x83 f 96 (fp fun g a b d => g.fma a b d)
  ∧ EachLane (.vfms f) 0x84 f 96 (fp fun g a b d => g.fms a b d)
  ∧ EachLane (.vmin f) 0x85 f 96 (fun ty a b _ =>
      if ty = 3 then { bits := if natToInt 32 a < natToInt 32 b then a else b } else { bits := (laneFmt ty).minMax false a b })
  ∧ EachLane (.vmax f) 0x86 f 96 (fun ty a b _ =>
      if ty = 3 then { bits := if natToInt 32 a < natToInt 32 b then b else a } else { bits := (laneFmt ty).minMax true a b })
  ∧ EachLane (.vabs f) 0x87 f 96 (fun ty a _ _ =>
      if ty = 3 then { bits := (natToInt 32 a).natAbs }
      else if ((laneFmt ty).decode a).isNan then { bits := (laneFmt ty).nanBits } else { bits := a % sign (laneBits ty) })
  ∧ EachLane (.vneg f) 0x88 f 96 (fun ty a _ _ =>
      if ty = 3 then { bits := (2 ^ 32 - a) % 2 ^ 32 }
      else if ((laneFmt ty).decode a).isNan then { bits := (laneFmt ty).nanBits }
      else { bits := if a < sign (laneBits ty) then a + sign (laneBits ty) else a - sign (laneBits ty) })
  ∧ EachLane (.vand f) 0x8B f 96 (wordLane fun a b => a &&& b)
  ∧ EachLane (.vor f) 0x8C f 96 (wordLane fun a b => a ||| b)
  ∧ EachLane (.vxor f) 0x8D f 96 (wordLane fun a b => a ^^^ b)
  ∧ EachLane (.vshl f) 0x8E f 96 (wordLane fun a b => a <<< (b % 32))
  ∧ EachLane (.vshr f) 0x8F f 96 (wordLane fun a b => a >>> (b % 32))
  ∧ EachLane (.vsra f) 0x90 f 96 (wordLane fun a b => BitVec.ofInt 32 (a.toInt >>> (b.toNat % 32)))
  ∧ EachLane (.viadd f) 0x91 f 96 (wordLane fun a b => a + b)
  ∧ EachLane (.vimul f) 0x92 f 96 (wordLane fun a b => a * b)
  ∧ EachLane (.vrcp f) 0x95 f 192 (fp fun g a _ _ => g.rcp a)
  ∧ EachLane (.vrsq f) 0x96 f 192 (fp fun g a _ _ => g.rsq a)
  ∧ EachLane (.vexp2 f) 0x97 f 192 (fp fun g a _ _ => g.exp2 a)
  ∧ EachLane (.vlog2 f) 0x98 f 192 (fp fun g a _ _ => g.log2 a)

/-- An operation that leaves its V register as `v` lane by lane, without flags. -/
def MovesLanes (o : Op) (ty : Nat) (v : Nat → Nat) : Prop :=
  (∀ k < if ty = 1 ∨ ty = 2 then 64 else 32, laneAt ty o.vres k = v k) ∧ o.r = 0 ∧ o.c = false ∧ o.fflag = false ∧ o.sticky = 0

/-- R391, R394, R395, R396, R398, R399: VCMP, VSEL, VCVT, VSCL, the lane moves and VMOVM; the captured operands are
those of log entry 96. -/
def Obligations.VectorMovesComplete : Prop := ∀ f : Slot,
  let ty := f.otag.toNat / 2
  let n := if ty = 1 ∨ ty = 2 then 64 else 32
  let vd (s : State) (x : Fire) (k : Nat) : Nat := laneAt ty (mget (s.cell x.c).vec.v f.dst.toNat 0) k
  let i0 (s : State) (x : Fire) : Nat :=
    (if f.imm then f.src2.toNat else ((s.elem x.c x.e).greg (f.src2.toNat - 16)).toNat) % n
  VecAnswers (.vcmp f) 0x89 f 96 (fun s x o =>
    let hit (k : Nat) : Bool := lanePicked s x k && (
      let a := vopA s x ty f.src1 k
      let b := vopB s x ty k
      if ty = 3 then
        let p := natToInt 32 a
        let q := natToInt 32 b
        [decide (p = q), decide (p ≠ q), decide (p < q), decide (p ≤ q), decide (q < p), decide (q ≤ p), decide (a < b),
          decide (b ≤ a)].getD (f.dst.toNat / 4) false
      else (laneFmt ty).cmp (f.dst.toNat / 4) a b)
    (∀ k < 1024, o.vres.getLsbD k = (decide (k < n) && hit k)) ∧ o.r = BitVec.ofNat 32 ((List.range n).countP hit)
      ∧ o.c = (List.range n).any hit ∧ o.fflag = false ∧ o.sticky = 0)
  ∧ VecAnswers (.vsel f) 0x8A f 96 (fun s x o =>
      MovesLanes o ty fun k =>
        if (mget (s.cell x.c).vec.m 0 0).getLsbD k then vopA s x ty f.src1 k else vopB s x ty k)
  ∧ VecAnswers (.vcvt f) 0x93 f 64 (fun s x o =>
      let src := f.src2.toNat % 4
      let m := if src = 1 ∨ src = 2 then 64 else 32
      let h := f.src2.toNat / 4 % 2
      let picked (k : Nat) : Bool := lanePicked s x k && (decide (n ≤ m) || decide (k / 32 = h))
      LanesOf s x o ty picked fun k =>
        let a := vopA s x src f.src1 (if m < n then k - 32 * h else if n < m then k + 32 * h else k)
        if src = 3 then if ty = 3 then { bits := a } else (laneFmt ty).round (decide (natToInt 32 a < 0)) (natToInt 32 a).natAbs 0
        else if ty = 3 then
          let z := toIntSat (-2147483648) 2147483647 ((laneFmt src).decode a)
          { bits := (BitVec.ofInt 32 z.1).toNat, invalid := z.2 }
        else if src = ty then { bits := if ((laneFmt ty).decode a).isNan then (laneFmt ty).nanBits else a }
        else (laneFmt ty).ofVal ((laneFmt src).decode a))
  ∧ VecAnswers (.vscl f) 0x94 f 96 (fun s x o =>
      LanesOf s x o ty (lanePicked s x) fun k =>
        (laneFmt ty).scl (vopA s x ty f.src1 k)
          (if f.imm then f.src2.toNat else natToInt (laneBits ty) (vopA s x ty f.src2 k)))
  ∧ VecAnswers (.vperm f) 0x9C f 96 (fun s x o => MovesLanes o ty fun k =>
      if lanePicked s x k then vopA s x ty f.src1 (vopA s x ty f.src2 k % n) else vd s x k)
  ∧ VecAnswers (.vbcast f) 0x9D f 96 (fun s x o => MovesLanes o ty fun k =>
      if lanePicked s x k then vopA s x ty f.src1 (i0 s x) else vd s x k)
  ∧ VecAnswers (.vext f) 0x9E f 96 (fun s x o =>
      o.r = BitVec.ofNat 32 (vopA s x ty f.src1 (i0 s x)) ∧ o.c = false ∧ o.fflag = false ∧ o.sticky = 0)
  ∧ VecAnswers (.vins f) 0x9F f 96 (fun s x o => MovesLanes o ty fun k =>
      if k = i0 s x then ((s.elem x.c x.e).greg (f.src1.toNat - 16)).toNat % 2 ^ laneBits ty else vd s x k)
  ∧ VecAnswers (.vmovm f) 0xA4 f 96 (fun s x o =>
      let m := mget (s.cell x.c).vec.m (f.src2.toNat % 4) 0
      let p := mget (s.cell x.c).vec.m (f.src1.toNat % 4) 0
      let g := (s.elem x.c x.e).greg (f.src1.toNat - 16)
      let sel := f.src2.toNat / 4
      o.r = (if sel = 0 then BitVec.ofNat 32 m.toNat else if sel = 1 then BitVec.ofNat 32 (m.toNat / 2 ^ 32) else 0)
        ∧ (∀ k < 64, 2 ≤ sel → o.vres.getLsbD k =
            if sel = 2 then if k < 32 then g.getLsbD k else m.getLsbD k
            else if sel = 3 then if k < 32 then m.getLsbD k else g.getLsbD (k - 32)
            else if sel = 4 then p.getLsbD k
            else if sel = 5 then !p.getLsbD k && decide (k < n)
            else if sel = 6 then decide (k < n)
            else false)
        ∧ o.c = false ∧ o.fflag = false ∧ o.sticky = 0)

/-- Node j of level k of the pairwise tree of R213: its value where a lane below it is present, and the conditions raised. -/
def treeNode (ty : Nat) (lane : Nat → Option Nat) : Nat → Nat → Option Nat × BitVec 3 × Bool
  | 0, j => (lane j, 0, false)
  | k + 1, j =>
    let a := treeNode ty lane k (2 * j)
    let b := treeNode ty lane k (2 * j + 1)
    match a.1, b.1 with
    | some u, some v =>
      let z : FRes := if ty = 3 then { bits := (u + v) % 2 ^ 32 } else (laneFmt ty).add u v
      (some z.bits, z.sticky ||| a.2.1 ||| b.2.1, z.invalid || z.ovf || a.2.2 || b.2.2)
    | some u, none => (some u, a.2.1 ||| b.2.1, a.2.2 || b.2.2)
    | none, w => (w, a.2.1 ||| b.2.1, a.2.2 || b.2.2)

/-- One step of a prefix sum: a lane that is absent receives the prefix so far unchanged, one that is present is added to it and
the sum rounded (R213). -/
def prefixStep (ty pre : Nat) (lane : Option Nat) : FRes :=
  match lane with
  | none => { bits := pre }
  | some v => if ty = 3 then { bits := (pre + v) % 2 ^ 32 } else (laneFmt ty).add pre v

/-- The inclusive prefix sum at lane k, from a prefix of +0, and the rounded addition that gave it (R213). -/
def prefixAt (ty : Nat) (lane : Nat → Option Nat) : Nat → FRes
  | 0 => prefixStep ty 0 (lane 0)
  | k + 1 => prefixStep ty (prefixAt ty lane k).bits (lane (k + 1))

/-- A lane as an operation produces it: a NaN is the canonical one of its format (R207). -/
def laneResult (ty v : Nat) : Nat :=
  if ty ≠ 3 ∧ ((laneFmt ty).decode v).isNan = true then (laneFmt ty).nanBits else v

/-- R207, R209, R213, R397: VREDS is the root of the fixed pairwise tree over the present lanes, VREDM their minimum or maximum,
VSCAN their prefix sums in increasing lane order from a prefix of +0; with no lane present the scalars are +0, and a NaN is always
the canonical one, also where a single lane is present. That VSCAN adds its first present lane to a prefix of +0 and rounds once is
the model's reading (log entry 62), and the captured operands are those of log entry 96. -/
def Obligations.VectorReductionsComplete : Prop := ∀ f : Slot,
  let ty := f.otag.toNat / 2
  let n := if ty = 1 ∨ ty = 2 then 64 else 32
  let lane (s : State) (x : Fire) (k : Nat) : Option Nat :=
    if k < n ∧ lanePicked s x k = true then some (vopA s x ty f.src1 k) else none
  VecAnswers (.vreds f) 0x99 f 128 (fun s x o =>
    let z := treeNode ty (lane s x) 6 0
    o.r = BitVec.ofNat 32 (laneResult ty (z.1.getD 0)) ∧ o.c = false ∧ o.fflag = z.2.2 ∧ o.sticky = z.2.1)
  ∧ VecAnswers (.vredm f) 0x9A f 128 (fun s x o =>
      o.c = false ∧ o.fflag = false ∧ o.sticky = 0
      ∧ ((∀ k < n, lane s x k = none) → o.r = 0)
      ∧ (ty = 3 → (∃ k < n, lane s x k ≠ none) →
          (∃ k < n, lane s x k = some o.r.toNat)
          ∧ ∀ k < n, ∀ v, lane s x k = some v →
              if f.src2.getLsbD 0 then natToInt 32 v ≤ o.r.toInt else o.r.toInt ≤ natToInt 32 v)
      ∧ (ty ≠ 3 → (∃ k < n, lane s x k ≠ none) →
          let nan (v : Nat) : Bool := ((laneFmt ty).decode v).isNan
          let below (u v : Nat) : Bool := belowV ((laneFmt ty).decode u) ((laneFmt ty).decode v)
          ((∀ k < n, ∀ v, lane s x k = some v → nan v = true) → o.r.toNat = (laneFmt ty).nanBits)
          ∧ ((∃ k < n, ∃ v, lane s x k = some v ∧ nan v = false) →
              (∃ k < n, lane s x k = some o.r.toNat) ∧ nan o.r.toNat = false
              ∧ ∀ k < n, ∀ v, lane s x k = some v → nan v = false →
                (if f.src2.getLsbD 0 then below o.r.toNat v else below v o.r.toNat) = false)))
  ∧ VecAnswers (.vscan f) 0x9B f 128 (fun s x o =>
      LanesOf s x o ty (fun _ => true) (prefixAt ty (lane s x)))

/-- The first and last bytes of the 64-byte halves that hold a written lane, as offset and length (R400). -/
def vecSpan (s : State) (x : Fire) (ty : Nat) : Nat × Nat :=
  let n := if ty = 1 ∨ ty = 2 then 64 else 32
  let lo := (List.range (n / 2)).any fun k => lanePicked s x k
  let hi := (List.range (n / 2)).any fun k => lanePicked s x (n / 2 + k)
  (if lo then 0 else if hi then 64 else 0, if lo && hi then 128 else if lo || hi then 64 else 0)

/-- R400, R401: the vector memory instructions whose address and binding pass are under way after their firing, with the mask
and the register captured, of which the first 32 bits stand in a replay entry (log entry 96); VLD and VST move their offset register by 128 where I asks for it. -/
def Obligations.VectorMemoryIssues : Prop := ∀ (f : Slot) (s : State) (x : Fire),
  let ty := f.otag.toNat / 2
  let off := (s.elem x.c x.e).greg (f.src1.toNat - 16)
  let w := s.window x (f.src2.toNat / 8)
  let mask : BitVec 64 := if f.otag.getLsbD 0 then mget (s.cell x.c).vec.m 0 0 else BitVec.allOnes 64
  let d := mget (s.cell x.c).vec.v f.dst.toNat 0
  let moved (t : State) : Prop := ∀ r, (t.elem x.c x.e).greg r =
    if f.imm = true ∧ r = f.src1.toNat - 16 then (s.elem x.c x.e).greg r + 128 else (s.elem x.c x.e).greg r
  let marks (t : State) (op : Nat) : Prop := EnginesBy s t x.c (fun cl =>
    { cl with vec := { cl.vec with pendV := cl.vec.pendV ||| (destOf op f).v, pendM := cl.vec.pendM ||| (destOf op f).m } })
  let line (op : Nat) (u : Use) (i : Instr) : Prop := ∀ tg : Target,
    let h := vecSpan s x ty
    let part : Target := { tg with ea := if tg.spad.isSome then tg.ea + h.1 else (tg.ea + h.1) % 2 ^ 48 }
    s.Fires op f x → s.Affords x 48 → windowAddr x.t x.c (f.src2.toNat / 8) w off 64 = .ok tg →
      s.bindCheck x.t part h.2 u = none →
      ∃ t, exec i s = .next t ∧ IssueFrame s t x 48 ∧ marks t op ∧ moved t
        ∧ t.ops = s.ops ++ [{ opOf x (off :: if op = 0xA1 then [d.truncate 32] else []) with
            id := s.clock.nextId, inj := s.clock.nextId, sent := s.clock.tick, spad := part.spad, ea := part.ea, len := h.2,
            left := [h.1], mask := mask, vdata := d }]
  let many (op : Nat) (u : Use) (i : Instr) : Prop := ∀ (ts : List (Nat × Target)),
    let offs (k : Nat) : Word := BitVec.ofNat 32 (vopA s x 3 f.src1 k)
    let on := (List.range 32).filter fun k => mask.getLsbD k
    s.Fires op f x → s.Affords x (48 + 8 * on.length) → ts.map (fun p => p.1) = on →
      (∀ p ∈ ts, windowAddr x.t x.c (f.src2.toNat / 8) w (offs p.1) 4 = .ok p.2 ∧ s.bindCheck x.t p.2 4 u = none) →
      ∃ t o, exec i s = .next t ∧ Issued s t x o 0 ∧ IssueFrame s t x (48 + 8 * on.length) ∧ marks t op
        ∧ o.lanes = ts.map (fun p => (p.1, p.2.ea)) ∧ o.mask = mask ∧ o.vdata = d ∧ o.args = offs 0 :: (if op = 0xA3 then [d.truncate 32] else [])
        ∧ o.cell = x.c ∧ o.elem = x.e ∧ o.slot = x.k ∧ o.opc = op ∧ o.f = f ∧ o.task = x.t.id ∧ o.phase = .issued
  line 0xA0 .load (.vld f) ∧ line 0xA1 .store (.vst f) ∧ many 0xA2 .load (.vgath f) ∧ many 0xA3 .store (.vscat f)

/-- R185, R402: VPARK copies the 32 lanes of its register to rows 32 q to 32 q + 31 of a free column of the accumulator array
and enters it in the lowest free entry of the spill map; VUNPARK removes the entry and restores those rows' words. Which words stand for the captured operands of a VPARK, and that it waits for
a drain of its column, are the model's choices (log entries 96 and 86). -/
def Obligations.VectorParkCompletes : Prop := ∀ (f : Slot) (s : State) (x : Fire),
  let a := f.dst.toNat
  let row (m : AMap Word) (q col i : Nat) : Word := mget m (128 * (32 * q + i) + col) 0
  let others (t : State) : Prop := (∀ c, c ≠ x.c → (t.cell c).engines = (s.cell c).engines)
    ∧ Cell.engines { t.cell x.c with vec := (s.cell x.c).vec, mx := (s.cell x.c).mx } = (s.cell x.c).engines
  (∀ n, let col := ((s.elem x.c x.e).greg (f.src1.toNat - 16)).toNat
    let q := f.src2.toNat % 4
    let cl := s.cell x.c
    s.Fires 0xA5 f x → s.Affords x 48 → col ≤ 127 →
      (∀ p ∈ cl.mx.rules, p.2.region.hasColumn col = false) →
      (∀ p ∈ cl.vec.spill, ¬ (p.2.col = col ∧ p.2.quarter = q) ∧ p.2.reg ≠ a) →
      n < 16 → mfind cl.vec.spill n = none → (∀ j < n, mfind cl.vec.spill j ≠ none) → cl.vec.spill.length < 16 →
      ∃ t, exec (.vpark f) s = .next t ∧ Issued s t x { opOf x [BitVec.ofNat 32 col, (mget cl.vec.v a 0).truncate 32] with phase := .performed } 0
        ∧ IssueFrame s t x 48 ∧ mfind (t.cell x.c).vec.spill n = some { reg := a, col := col, quarter := q }
        ∧ (∀ j, j ≠ n → mfind (t.cell x.c).vec.spill j = mfind cl.vec.spill j)
        ∧ (∀ i < 32, row (t.cell x.c).mx.acc q col i = BitVec.ofNat 32 (laneAt 0 (mget cl.vec.v a 0) i))
        ∧ (∀ j, (∀ i < 32, j ≠ 128 * (32 * q + i) + col) → mget (t.cell x.c).mx.acc j 0 = mget cl.mx.acc j 0)
        ∧ { (t.cell x.c).vec with spill := cl.vec.spill } = cl.vec ∧ { (t.cell x.c).mx with acc := cl.mx.acc } = cl.mx
        ∧ others t)
  ∧ (∀ n p, s.Fires 0xA6 f x → s.Affords x 48 →
      ((s.cell x.c).vec.spill.find? fun e => e.2.reg == a) = some (n, p) →
      ∃ t o, exec (.vunpark f) s = .next t ∧ Issued s t x o 0 ∧ IssueFrame s t x 48
        ∧ o = { opOf x [] with phase := .performed, vres := o.vres }
        ∧ (∀ i < 32, laneAt 0 o.vres i = (row (s.cell x.c).mx.acc p.quarter p.col i).toNat)
        ∧ mfind (t.cell x.c).vec.spill n = none
        ∧ (∀ j, j ≠ n → mfind (t.cell x.c).vec.spill j = mfind (s.cell x.c).vec.spill j)
        ∧ { (t.cell x.c).vec with spill := (s.cell x.c).vec.spill, pendV := (s.cell x.c).vec.pendV } = (s.cell x.c).vec
        ∧ (t.cell x.c).vec.pendV = (s.cell x.c).vec.pendV ||| (1#16 <<< a)
        ∧ (t.cell x.c).mx = (s.cell x.c).mx ∧ others t)

/-- An engine instruction that, fired and paid for where `pre` holds, has its operation `o` under way, with `g` done to the
engines of its cell and its V register, if it writes one, pending (R284, R425). -/
def EngIssues (i : Instr) (op : Nat) (f : Slot) (cost : Nat) (pre : State → Fire → Prop) (o : State → Fire → Op)
    (g : State → Fire → Cell → Cell) : Prop :=
  ∀ s x, s.Fires op f x → s.Affords x cost → pre s x → ∃ t, exec i s = .next t ∧ Issued s t x (o s x) 0
    ∧ IssueFrame s t x cost ∧ EnginesBy s t x.c (fun cl =>
        let k := g s x cl
        { k with vec := { k.vec with pendV := k.vec.pendV ||| (destOf op f).v, pendM := k.vec.pendM ||| (destOf op f).m } })

/-- R404, R406, R407, R408, R410, R411, R412, R413: the matrix instructions whose operands are sound. MXCFG sets the two
formats; MXLDB captures the blocks of 16,384 elements and MXSORT its keys; MXRULE arms or disarms a rule and clears its
count of rows when it arms it; MXCLR sets the words of a region to +0 and its cells EMPTY; MXRD takes 32 words of the
accumulators; MXDRN has its slot FILLING. That the source blocks are read and checked at the firing is the model's reading
(log entry 33). -/
def Obligations.MatrixIssues : Prop := ∀ f : Slot,
  let later (_ : State) (x : Fire) : Op := { opOf x [x.a] with phase := .performed }
  let ruled (_ : State) (x : Fire) : Op := { opOf x [x.a, x.b] with phase := .performed }
  EngIssues (.mxcfg f) 0xC0 f 8
    (fun _ x => x.a.toNat < 2 ^ 16 ∧ x.a.toNat % 256 ∈ [0x01, 0x09, 0x0A, 0x10, 0x11] ∧ numericFmt (x.a.toNat / 256) = true)
    later (fun _ x cl => { cl with mx := { cl.mx with afmt := x.a.toNat % 256, bfmt := x.a.toNat / 256 } })
  ∧ (let blocks (s : State) (x : Fire) : List Block :=
        blocksFor (s.cell x.c).mx.bfmt 16384 (((s.cell x.c).tile (f.dst.toNat % 8)).stream
          ++ (if f.dst.getLsbD 3 then ((s.cell x.c).tile (f.dst.toNat % 8 + 1)).stream else []))
    EngIssues (.mxldb f) 0xC1 f 4096
      (fun s x => (∀ b ∈ blocks s x, tagPoison b.tag = false ∧ (numericFmt (tagFmt b.tag) = true ∨ tagFmt b.tag = 0x1F))
        ∧ 16384 ≤ ((blocks s x).flatMap (blockElems (s.cell x.c).mx.bfmt)).length)
      (fun _ x => opOf x [])
      (fun s x cl => { cl with mx := { cl.mx with load := some { op := s.clock.nextId, blocks := blocks s x } } }))
  ∧ (∀ r, EngIssues (.mxrule f) 0xC2 f 8
      (fun _ x => x.a.getLsbD 29 = true ∧ x.a.toNat % 2 ^ 24 = 0 ∧ regionOf x.b = some r)
      ruled (fun _ x cl =>
        let n := x.a.toNat / 2 ^ 30
        let w : MxRule := { hold := x.a.getLsbD 28, rel := x.a.getLsbD 27, aslot := x.a.toNat / 2 ^ 24 % 8, region := r, row := 0 }
        { cl with mx := { cl.mx with rules := mset cl.mx.rules n w, fired := mset cl.mx.fired n 0 } }))
  ∧ EngIssues (.mxrule f) 0xC2 f 8 (fun _ x => x.a.getLsbD 29 = false ∧ x.a.toNat % 2 ^ 29 = 0) ruled
      (fun _ x cl => { cl with mx := { cl.mx with rules := mdel cl.mx.rules (x.a.toNat / 2 ^ 30) } })
  ∧ (∀ (s : State) (x : Fire) (r : Region), s.Fires 0xC3 f x → s.Affords x 8 → regionOf x.a = some r →
      ∃ t, exec (.mxclr f) s = .next t ∧ Issued s t x { opOf x [x.a] with phase := .performed } 0 ∧ IssueFrame s t x 8
        ∧ (∀ row col, col < 128 → mget (t.cell x.c).mx.acc (128 * row + col) 0 =
            if row ∈ r.rows ∧ r.hasColumn col = true then 0 else mget (s.cell x.c).mx.acc (128 * row + col) 0)
        ∧ (∀ row g, g < 8 → (t.cell x.c).mx.cell row g =
            if row ∈ r.rows ∧ g ∈ r.groups then .empty else (s.cell x.c).mx.cell row g)
        ∧ { (t.cell x.c).mx with acc := (s.cell x.c).mx.acc, st := (s.cell x.c).mx.st } = (s.cell x.c).mx
        ∧ Cell.engines { t.cell x.c with mx := (s.cell x.c).mx } = (s.cell x.c).engines
        ∧ ∀ c, c ≠ x.c → (t.cell c).engines = (s.cell c).engines)
  ∧ (∀ (s : State) (x : Fire), s.Fires 0xC4 f x → s.Affords x 32 → x.a.toNat < 512 →
      ∃ t o, exec (.mxrd f) s = .next t ∧ Issued s t x o 0 ∧ IssueFrame s t x 32
        ∧ o = { opOf x [x.a] with phase := .performed, vres := o.vres }
        ∧ (∀ k < 32, laneAt 0 o.vres k =
            (mget (s.cell x.c).mx.acc (128 * (x.a.toNat % 128) + 32 * (x.a.toNat / 128) + k) 0).toNat)
        ∧ EnginesBy s t x.c (fun cl =>
            { cl with vec := { cl.vec with pendV := cl.vec.pendV ||| (1#16 <<< f.dst.toNat) } }))
  ∧ (∀ r, EngIssues (.mxdrn f) 0xC5 f 32
      (fun _ x => regionOf x.a = some r ∧ (r.nrow + 1) * (r.ncg + 1) ≤ 256) (fun _ x => opOf x [x.a])
      (fun s _ cl =>
        let k := cl.setTile (f.dst.toNat % 8) { st := .filling, len := (r.nrow + 1) * (r.ncg + 1) }
        { k with mx := { k.mx with drains := k.mx.drains ++ [{ op := s.clock.nextId, slot := f.dst.toNat % 8, region := r, row := 0 }] } }))
  ∧ (∀ ks, EngIssues (.mxsort f) 0xC6 f 8
      (fun s x => x.a.toNat / 2 ^ 9 % 2 ^ 7 = 0 ∧ x.a.getLsbD 7 = false
        ∧ sortKeys ((s.cell x.c).tile (f.dst.toNat % 8)) (x.a.toNat % 128 + 1) = .ok ks) (fun _ x => opOf x [x.a])
      (fun s x cl =>
        let j : SortJob := { op := s.clock.nextId, ibase := x.a.toNat / 2 ^ 16, desc := x.a.getLsbD 8, keys := ks }
        { cl with mx := { cl.mx with sort := some j } }))

/-- R414, R417, R419, R421: the queries of the matrix engine, the converter and the scan unit and the status query. CVQ with
sel = 1 returns the count of dropped tokens and sets it to 0. That bit 4 of MXQ reads 0 is the model's reading (log entry
33). -/
def Obligations.EngineQueriesComplete : Prop := ∀ f : Slot,
  let b (p : Bool) : Nat := if p then 1 else 0
  Answers (.mxq f) 0xC7 f 8 (fun _ _ => f.src2.toNat ≤ 5) (fun s t x =>
    let m := (s.cell x.c).mx
    let arm (i : Nat) : Nat := b (mfind m.rules i).isSome
    let r := if f.src2 = 0 then arm 0 + 2 * arm 1 + 4 * arm 2 + 8 * arm 3 + 32 * b m.load.isSome + 64 * b m.sort.isSome
      else if f.src2 = 5 then m.afmt + 256 * m.bfmt else mget m.fired (f.src2.toNat - 1) 0
    WroteEng s t x { r := BitVec.ofNat 32 r } 0 ∧ EngFrame s t x ∧ SameEngines s t)
  ∧ Answers (.cvq f) 0xC9 f 8 (fun _ _ => f.src2.toNat ≤ 2) (fun s t x =>
    let v := (s.cell x.c).conv
    WroteEng s t x { r := BitVec.ofNat 32 (if f.src2 = 2 then 2 ^ 31 * b v.job.isSome + v.index else v.dropped) } 0
      ∧ EngFrame s t x
      ∧ EnginesBy s t x.c (fun cl => if f.src2 = 1 then { cl with conv := { cl.conv with dropped := 0 } } else cl))
  ∧ Answers (.zsq f) 0xCB f 8 (fun _ _ => f.src2.toNat ≤ 2) (fun s t x =>
    let k := (s.cell x.c).scan
    WroteEng s t x { r := BitVec.ofNat 32 ([b k.busy, k.read, k.emitted].getD f.src2.toNat 0) } 0 ∧ EngFrame s t x
      ∧ SameEngines s t)
  ∧ Answers (.statq f) 0xCD f 8 (fun _ _ => f.src2.toNat ≤ 3) (fun s t x =>
    let el := s.elem x.c x.e
    let cl := s.cell x.c
    let has (lo hi : Nat) : Bool := s.ops.any fun o => decide (o.cell = x.c ∧ lo ≤ o.opc ∧ o.opc ≤ hi)
    let busy := b (has 0x80 0xBF)
      + 2 * b (cl.mx.load.isSome || cl.mx.sort.isSome || !cl.mx.drains.isEmpty || (s.nextRule x.c).isSome)
      + 4 * b ((List.range 4).any (fun n => (cl.dda.dom n).st == .running) || has 0xD0 0xDC) + 8 * b cl.conv.job.isSome
      + 16 * b cl.scan.busy + 32 * b (has 0x50 0x52)
    let four (g : Nat → Nat) : Nat := g 0 + 8 * g 1 + 64 * g 2 + 512 * g 3
    let r := [el.sticky.toNat, busy, four el.occ, four (s.credits x.t el)].getD f.src2.toNat 0
    WroteEng s t x { r := BitVec.ofNat 32 r } 0 ∧ EngFrame s t x ∧ SameEngines s t)

/-- R199, R415, R416, R418, R420: a CVCFG whose control word, source blocks and destination pass begins its conversion; a
ZSCAN whose address, count and format pass starts the scan unit; a TAGQ whose address forms has its read under way. That the
source blocks are read at the firing, and the number of the scan's own read, are the model's readings (log entry 34). -/
def Obligations.ConverterAndScanStart : Prop := ∀ f : Slot,
  (∀ (s : State) (x : Fire),
    let w := x.a.toNat
    let fmt := w % 256
    let bs := ((s.cell x.c).tile (w / 2 ^ 22 % 8)).stream
    let n := ((bs.flatMap (blockElems fmt)).length + fmtCount fmt - 1) / fmtCount fmt
    let o : Op := { opOf x [x.a, x.b] with left := List.range n }
    let begun (mem : Bool) (cl : Cell) : Cell :=
      let j : ConvJob := { op := s.clock.nextId, blocks := bs, memMode := mem, dst := w / 2 ^ 25 % 8 }
      { cl with conv := { cl.conv with fmt := fmt, scale := natToInt 8 (w / 2 ^ 8 % 256), tg := BitVec.ofNat 3 (w / 2 ^ 19 % 8),
                                       index := 0, job := some j } }
    s.Fires 0xC8 f x → s.Affords x 8 → w < 2 ^ 31 → w / 2 ^ 19 % 8 ≠ 7 → w / 2 ^ 16 % 8 = 0 → w / 2 ^ 8 % 256 ≠ 0x80 →
      numericFmt fmt = true →
      (∀ b ∈ bs, tagPoison b.tag = false ∧ (numericFmt (tagFmt b.tag) = true ∨ tagFmt b.tag = 0x1F)) →
      (x.a.getLsbD 30 = false → n ≤ 256 → ∃ t, exec (.cvcfg f) s = .next t ∧ Issued s t x o 0 ∧ IssueFrame s t x 8
        ∧ EnginesBy s t x.c (fun cl => (begun false cl).setTile (w / 2 ^ 25 % 8) { st := .filling, len := n }))
      ∧ (∀ tg, x.a.getLsbD 30 = true →
          windowAddr x.t x.c (w / 2 ^ 28 % 4) (s.window x (w / 2 ^ 28 % 4)) x.b 64 = .ok tg → tg.spad = none →
          s.bindCheck x.t tg (64 * n) .store = none →
          ∃ t, exec (.cvcfg f) s = .next t ∧ Issued s t x { o with ea := tg.ea, len := 64 * n } 0 ∧ IssueFrame s t x 8
            ∧ EnginesBy s t x.c (begun true)))
  ∧ (∀ tg, Answers (.zscan f) 0xCA f 8
      (fun s x =>
        let g := ((s.elem x.c x.e).greg (f.src1.toNat + 1)).toNat
        windowAddr x.t x.c (f.src2.toNat % 4) (s.window x (f.src2.toNat % 4)) x.a 64 = .ok tg
          ∧ g % 2 ^ 24 ≠ 0 ∧ numericFmt (g / 2 ^ 24) = true)
      (fun s t x =>
        let g := ((s.elem x.c x.e).greg (f.src1.toNat + 1)).toNat
        let k : Scan := { busy := true, spad := tg.spad, pos := tg.ea, fmt := g / 2 ^ 24, n := g % 2 ^ 24 }
        WroteEng s t x {} 0 ∧ EngFrame s t x ∧ EnginesBy s t x.c (fun cl => { cl with scan := k })))
  ∧ (∀ tg, EngIssues (.tagq f) 0xCC f 8
      (fun s x => windowAddr x.t x.c (f.src2.toNat % 4) (s.window x (f.src2.toNat % 4)) x.a 1 = .ok tg)
      (fun _ x => { opOf x [x.a] with spad := tg.spad, ea := tg.ea, len := 1 }) (fun _ _ cl => cl))

/-- R425, R432, R436, R437, R438: DSETY and DSETR write Y and Q of one integrator; DGETY reads Y, DGETN a count that it sets
to 0; DINJ enters the sign of its operand into a port that an integrator reads, with STATUS 0x06 where it is 0; DSTAT reads
a domain controller. That each takes effect at its firing, and the STATUS of a DINJ of 0, are the model's readings (log
entry 35). -/
def Obligations.DdaRegistersComplete : Prop := ∀ f : Slot,
  let any : State → Fire → Prop := fun _ _ => True
  let done (x : Fire) (args : List Word) : Op := { opOf x args with phase := .performed }
  let i (x : Fire) : Nat := x.a.toNat % 256
  EngIssues (.dsety f) 0xD2 f 8 any (fun _ x => done x [x.a, x.b])
    (fun _ x cl => { cl with dda := { cl.dda with y := mput cl.dda.y (i x) x.b 0 } })
  ∧ EngIssues (.dsetr f) 0xD3 f 8 any (fun _ x => done x [x.a, x.b])
    (fun _ x cl => { cl with dda := { cl.dda with q := mput cl.dda.q (i x) x.b 0 } })
  ∧ EngIssues (.dgety f) 0xD9 f 8 (fun _ _ => f.imm = false)
    (fun s x => { done x [x.a] with r := mget (s.cell x.c).dda.y (i x) 0 }) (fun _ _ cl => cl)
  ∧ (∀ s x, s.Fires 0xD9 f x → s.Affords x 8 → f.imm = true →
      ∃ t o, exec (.dgety f) s = .next t ∧ Issued s t x o 0 ∧ IssueFrame s t x 8 ∧ o = { done x [x.a] with vres := o.vres }
        ∧ (∀ k < 32, laneAt 0 o.vres k = if k = f.src2.toNat then (mget (s.cell x.c).dda.y (i x) 0).toNat
            else laneAt 0 (mget (s.cell x.c).vec.v f.dst.toNat 0) k)
        ∧ EnginesBy s t x.c (fun cl =>
            { cl with vec := { cl.vec with pendV := cl.vec.pendV ||| (1#16 <<< f.dst.toNat) } }))
  ∧ EngIssues (.dgetn f) 0xDA f 8 any (fun s x => { done x [x.a] with r := mget (s.cell x.c).dda.cnt (i x) 0 })
    (fun _ x cl => { cl with dda := { cl.dda with cnt := mdel cl.dda.cnt (i x) } })
  ∧ EngIssues (.dinj f) 0xDB f 8 any
    (fun _ x => { done x [x.a, x.b] with c := x.b == 0, status := if x.b = 0 then 0x06 else 0 })
    (fun _ x cl =>
      let p := x.a.toNat % 16
      let read := (List.range 256).any fun k => (patchSources (cl.dda.entry k)).contains (256 + p)
      let v : Int := if x.b.toInt < 0 then -1 else 1
      if x.b = 0 ∨ read = false then cl else { cl with dda := { cl.dda with ports := mset cl.dda.ports p v } })
  ∧ EngIssues (.dstat f) 0xDC f 8 (fun _ _ => f.src2.toNat ≤ 15)
    (fun s x =>
      let d := (s.cell x.c).dda
      let n := f.src2.toNat % 4
      let k := d.dom n
      let st := match k.st with
        | .idle => 0
        | .running => 1
        | .stopped => 2
        | .done => 3
        | .fault => 4
      let mode := match k.mode with
        | .none => 0
        | .free => 1
        | .counted => 2
        | .token => 3
      let quiet := if d.quiet n then 1 else 0
      let word := st + 16 * mode + 256 * k.div + 2 ^ 16 * quiet + 2 ^ 23 * d.active n
      { done x [] with r := BitVec.ofNat 32 ([word, k.count, k.n, k.faultI + 256 * k.faultKind].getD (f.src2.toNat / 4) 0) })
    (fun _ _ cl => cl)

/-- R427, R428, R433, R435, R437: a DPATCH that is not refused replaces one field of a patch entry, and the latch of a port that no
integrator reads is then empty; a sound DDOM configures an
idle domain and empties every latch that feeds its integrators, those of the ports too; DRUN starts a configured domain, goes on with a
stopped one, and faults BOUNDS where an idle one has the mode none; DSTOP stops one that runs; where a domain is in
no such state, ENG takes STATUS 0x06. That each takes effect at its firing, and that a field f = 5 empties latches, are the
model's readings (log entry 35). -/
def Obligations.DdaDomainsComplete : Prop := ∀ f : Slot,
  let done (x : Fire) (args : List Word) (idle : Bool) : Op :=
    { opOf x args with phase := .performed, c := idle, status := if idle then 0x06 else 0 }
  let pair (s : State) (x : Fire) : List Word := [x.a, (s.elem x.c x.e).greg (f.src1.toNat + 1)]
  let dom (s : State) (x : Fire) : Dom := (s.cell x.c).dda.dom (f.src2.toNat % 4)
  let put (n : Nat) (g : Dom → Dom) (cl : Cell) : Cell :=
    { cl with dda := { cl.dda with doms := mset cl.dda.doms n (g (cl.dda.dom n)) } }
  (∀ s x,
    let d := (s.cell x.c).dda
    let v := ((s.elem x.c x.e).greg (f.src1.toNat + 1)).toNat
    let i := x.a.toNat
    let fld := if f.src2.toNat < 4 then (58 + 13 * f.src2.toNat, 13) else if f.src2 = 4 then (110, 9) else (119, 2)
    s.Fires 0xD0 f x → s.Affords x 8 → i < 256 → v < 2 ^ fld.2 → f.src2.toNat ≤ 5 →
      patchRefused d x.a (BitVec.ofNat 32 v) f.src2.toNat (patchPut (d.entry i) fld.1 fld.2 v) = false →
      ∃ t, exec (.dpatch f) s = .next t ∧ Issued s t x (done x (pair s x) false) 0 ∧ IssueFrame s t x 8
        ∧ (∀ k, k ≠ i → (t.cell x.c).dda.entry k = d.entry k)
        ∧ (∀ b < 128, ((t.cell x.c).dda.entry i).getLsbD b =
            if fld.1 ≤ b ∧ b < fld.1 + fld.2 then v.testBit (b - fld.1) else (d.entry i).getLsbD b)
        ∧ (t.cell x.c).dda.y = d.y ∧ (t.cell x.c).dda.q = d.q ∧ (t.cell x.c).dda.cnt = d.cnt ∧ (t.cell x.c).dda.doms = d.doms
        ∧ (patchDom ((t.cell x.c).dda.entry i) ≠ patchDom (d.entry i) → mget (t.cell x.c).dda.emit i 0 = 0)
        ∧ (∀ p < 16, (∀ k < 256, 256 + p ∉ patchSources ((t.cell x.c).dda.entry k)) → mfind (t.cell x.c).dda.ports p = none)
        ∧ Cell.engines { t.cell x.c with dda := d } = (s.cell x.c).engines
        ∧ ∀ c, c ≠ x.c → (t.cell c).engines = (s.cell c).engines)
  ∧ (∀ s x,
      let w := x.a.toNat
      let n := ((s.elem x.c x.e).greg (f.src1.toNat + 1)).toNat
      let mode := w / 4 % 4
      let k := w % 4
      let d := (s.cell x.c).dda
      s.Fires 0xD4 f x → s.Affords x 8 → w < 2 ^ 14 → x.a.getLsbD 8 = false → (mode = 2 → n ≠ 0) →
        (mode ≠ 3 → w / 2 ^ 9 = 0) → (mode ≠ 2 → w / 16 % 16 = 0 ∧ n = 0) →
        ∃ t, exec (.ddom f) s = .next t ∧ Issued s t x (done x (pair s x) false) 0 ∧ IssueFrame s t x 8
          ∧ (t.cell x.c).dda.dom k = { mode := [DomMode.none, .free, .counted, .token].getD mode .none, div := w / 16 % 16,
                                       tel := w / 2 ^ 11, tch := w / 2 ^ 9 % 4, n := n, faultI := (d.dom k).faultI,
                                       faultKind := (d.dom k).faultKind }
          ∧ (∀ j, j ≠ k → (t.cell x.c).dda.dom j = d.dom j)
          ∧ (∀ j, d.domOf j = k → mget (t.cell x.c).dda.emit j 0 = 0)
          ∧ (∀ j, d.domOf j ≠ k → mget (t.cell x.c).dda.emit j 0 = mget d.emit j 0)
          ∧ (∀ j, mfind (t.cell x.c).dda.latch j = if j % 4 = k then none else mfind d.latch j)
          ∧ (∀ p < 16, let feeds : Prop := ∃ i < 256, d.domOf i = k ∧ 256 + p ∈ patchSources (d.entry i)
              (feeds → mfind (t.cell x.c).dda.ports p = none) ∧ (¬ feeds → mfind (t.cell x.c).dda.ports p = mfind d.ports p))
          ∧ (t.cell x.c).dda.patch = d.patch ∧ (t.cell x.c).dda.y = d.y ∧ (t.cell x.c).dda.q = d.q
          ∧ (t.cell x.c).dda.cnt = d.cnt
          ∧ Cell.engines { t.cell x.c with dda := d } = (s.cell x.c).engines
          ∧ ∀ c, c ≠ x.c → (t.cell c).engines = (s.cell c).engines)
  ∧ EngIssues (.drun f) 0xD5 f 8 (fun s x => (dom s x).st = .idle ∧ (dom s x).mode ≠ .none) (fun _ x => done x [] false)
    (fun s _ => put (f.src2.toNat % 4) fun o => { o with st := .running, count := 0, next := s.clock.tick + 1, gated := false })
  ∧ Answers (.drun f) 0xD5 f 8 (fun s x => (dom s x).st = .idle ∧ (dom s x).mode = .none) (fun s t x =>
    let reg : FaultReg := { code := 0x02, slot := x.k, op := 0xD5, node := x.e, cell := x.c, sub := 0xFF, info := f.src2.toNat % 4 }
    (t.elem x.c x.e).frozen = true ∧ (t.elem x.c x.e).fault = reg ∧ (t.elem x.c x.e).greg = (s.elem x.c x.e).greg
      ∧ (∃ k, t.task? x.t.id = some k ∧ k.faults = x.t.faults ++ [{ reg := reg, elem := some x.e }])
      ∧ t.ops = s.ops ∧ t.mem = s.mem ∧ SameEngines s t ∧ SameElems s t x)
  ∧ EngIssues (.drun f) 0xD5 f 8 (fun s x => (dom s x).st = .stopped) (fun _ x => done x [] false)
    (fun _ _ => put (f.src2.toNat % 4) fun o => { o with st := .running, gated := false })
  ∧ EngIssues (.drun f) 0xD5 f 8 (fun s x => (dom s x).st = .running ∨ (dom s x).st = .done ∨ (dom s x).st = .fault)
    (fun _ x => done x [] true) (fun _ _ cl => cl)
  ∧ EngIssues (.dstop f) 0xD6 f 8 (fun s x => (dom s x).st = .running) (fun _ x => done x [] false)
    (fun _ _ => put (f.src2.toNat % 4) fun o => { o with st := .stopped })
  ∧ EngIssues (.dstop f) 0xD6 f 8 (fun s x => (dom s x).st ≠ .running) (fun _ x => done x [] true) (fun _ _ cl => cl)

/-- R429, R430, R431: DPLOAD, DSAVE and DREST are under way after their firing, from a tile slot long enough or a scratchpad
area that is bound; the slot of a DSAVE is FILLING with 32 blocks. -/
def Obligations.DdaTransfersIssue : Prop := ∀ f : Slot,
  let slot (s : State) (x : Fire) : Tile := (s.cell x.c).tile (f.dst.toNat % 8)
  let area (s : State) (x : Fire) (n : Nat) (u : Use) (tg : Target) : Prop :=
    f.dst.getLsbD 3 = false ∧ windowAddr x.t x.c (f.src2.toNat % 4) (s.window x (f.src2.toNat % 4)) x.a 64 = .ok tg
      ∧ tg.spad.isSome = true ∧ tg.ea + n ≤ 2 ^ 20 ∧ s.bindCheck x.t tg n u = none
  let o (x : Fire) (tg : Target) (n : Nat) : Op := { opOf x [x.a] with spad := tg.spad, ea := tg.ea, len := n }
  let same : State → Fire → Cell → Cell := fun _ _ cl => cl
  EngIssues (.dpload f) 0xD1 f 512 (fun s x => f.dst.getLsbD 3 = true ∧ 64 ≤ (slot s x).len) (fun _ x => opOf x []) same
  ∧ (∀ tg, EngIssues (.dpload f) 0xD1 f 512 (fun s x => area s x 4096 .load tg) (fun _ x => o x tg 4096) same)
  ∧ EngIssues (.dsave f) 0xD7 f 256 (fun _ _ => f.dst.getLsbD 3 = true) (fun _ x => opOf x [])
    (fun _ _ cl => cl.setTile (f.dst.toNat % 8) { st := .filling, len := 32 })
  ∧ (∀ tg, EngIssues (.dsave f) 0xD7 f 256 (fun s x => area s x 2048 .store tg) (fun _ x => o x tg 2048) same)
  ∧ EngIssues (.drest f) 0xD8 f 256 (fun s x => f.dst.getLsbD 3 = true ∧ 32 ≤ (slot s x).len) (fun _ x => opOf x []) same
  ∧ (∀ tg, EngIssues (.drest f) 0xD8 f 256 (fun s x => area s x 2048 .load tg) (fun _ x => o x tg 2048) same)

/-- R228: one step of an integrator. With t the exact sum of Y and the shifted increments of its DY sources, Y becomes t held in
the 32-bit range, with fault kind 1, INTEGRAND_OVERFLOW, where t lies outside; the residue takes DX × 2 Y, of the new Y; an increment of
+1 or −1 leaves when the residue reaches ±2^30, which takes 2^31 from the residue; a residue still outside is fault kind 2,
INCREMENT_OVERRUN, and Q is the residue held in the 32-bit range; while |Y| < 1 and Q starts within [-1/2, 1/2), the residue before its
correction stays within (-3/2, 3/2) and Q returns to [-1/2, 1/2) without a fault. In a step of a domain every integrator of it does so with the
increments that its sources emitted at their previous step, those of another domain through their latches, the constants and the
latched ports; its emission is what its consumers see in the next step, and the count of DGETN gains it; every other integrator keeps
what it holds. A fault takes the domain to FAULT. -/
def Obligations.IntegratorStep : Prop :=
  (∀ (y q dx : Int) (dys : List (Int × Nat)),
    let t := y + (dys.map fun p => p.1 * 2 ^ (30 - p.2)).sum
    let r := integrate y q dys dx
    let u := q + 2 * dx * r.1
    let u' := u - r.2.2.1 * 2 ^ 31
    (-2147483648 ≤ t → t ≤ 2147483647 → r.1 = t) ∧ (t < -2147483648 → r.1 = -2147483648) ∧ (2147483647 < t → r.1 = 2147483647)
    ∧ (r.2.2.1 = 1 ↔ 2 ^ 30 ≤ u) ∧ (r.2.2.1 = -1 ↔ u < -(2 ^ 30)) ∧ (r.2.2.1 = 0 ↔ -(2 ^ 30) ≤ u ∧ u < 2 ^ 30)
    ∧ (-(2 ^ 31) ≤ u' → u' < 2 ^ 31 → r.2.1 = u') ∧ (u' < -(2 ^ 31) → r.2.1 = -(2 ^ 31)) ∧ (2 ^ 31 ≤ u' → r.2.1 = 2 ^ 31 - 1)
    ∧ (1 ∈ r.2.2.2 ↔ t < -2147483648 ∨ 2147483647 < t) ∧ (2 ∈ r.2.2.2 ↔ u' < -(2 ^ 30) ∨ 2 ^ 30 ≤ u')
    ∧ (-(2 ^ 30) < r.1 → r.1 < 2 ^ 30 → -(2 ^ 30) ≤ q → q < 2 ^ 30 → dx ∈ [-1, 0, 1] →
        -(3 * 2 ^ 30) < u ∧ u < 3 * 2 ^ 30 ∧ -(2 ^ 30) ≤ r.2.1 ∧ r.2.1 < 2 ^ 30 ∧ 2 ∉ r.2.2.2))
  ∧ (∀ (d : Dda) (n i : Nat), i < 256 →
    let from_ (c : Nat) : Int :=
      if c = 272 then 1 else if c = 273 then -1
      else if 256 ≤ c ∧ c < 272 then mget d.ports (c - 256) 0
      else if c < 256 then (if d.domOf c = n then mget d.emit c 0 else mget d.latch (4 * c + n) 0)
      else 0
    let dy (j : Nat) : Int × Nat := (from_ (patchDy (d.entry i) j), patchSh (d.entry i) j)
    let r := integrate (mget d.y i 0).toInt (mget d.q i 0).toInt [dy 0, dy 1, dy 2, dy 3] (from_ (patchDx (d.entry i)))
    let d' := (d.step n).1
    if d.domOf i = n then
      mget d'.y i 0 = BitVec.ofInt 32 r.1 ∧ mget d'.q i 0 = BitVec.ofInt 32 r.2.1 ∧ mget d'.emit i 0 = r.2.2.1
        ∧ mget d'.cnt i 0 = mget d.cnt i 0 + BitVec.ofInt 32 r.2.2.1 ∧ ∀ f ∈ r.2.2.2, (i, f) ∈ (d.step n).2
    else mget d'.y i 0 = mget d.y i 0 ∧ mget d'.q i 0 = mget d.q i 0 ∧ mget d'.emit i 0 = mget d.emit i 0
        ∧ mget d'.cnt i 0 = mget d.cnt i 0)
  ∧ (∀ (n i : Nat), (stepFault n (i, 1)).code = 0x11 ∧ (stepFault n (i, 2)).code = 0x12)
  ∧ (∀ (s : State) (k : Task) (c n : Nat), ((s.cell c).dda.step n).2 ≠ [] → ((((s.domStep k c n).cell c).dda).dom n).st = .fault)

/-- The hearth of room r is in EXEC at the turn of its command, which has not begun (R300). -/
def HearthRuns (s : State) (r : Nat) : Prop :=
  s.cur.subject = r ∧ (s.room r).hearth.st = .exec ∧ (s.room r).hearth.exec = none

/-- The housekeeping account of room r is debited mu; every other account is as before (R139). -/
def HearthPays (s t : State) (r mu : Nat) : Prop := ∀ n, t.acct n = if n = (s.room r).hkAcct then
  { s.acct n with balance := (s.acct n).balance - mu, consumed := min ((s.acct n).consumed + mu) (2 ^ 64 - 1) } else s.acct n

/-- A command of room r completes with the effect `g` on its room: its signal is made, and the hearth stands at `pos` in WAIT, or
ENDED past its last command; where the signal passes 0xFFFF it is TRAPPED with cause 1 (R171, R172, R300). A command whose signal is on
a semaphore that the hearth has tested in the tick has only its end left, which comes in the next tick: the model's reading (log entry
21). -/
def HearthDone (s t : State) (r : Nat) (c : HCmd) (pos : Nat) (g : Room → Room) : Prop :=
  let k := g (s.room r)
  let n0 := c.ssem.toNat
  (∀ q, q ≠ r → t.room q = s.room q)
  ∧ (if c.sen = true ∧ n0 ∈ k.tested then
      t.room r = { k with hearth := { k.hearth with exec := some { ending := some (c, pos) } } }
    else
      (∀ n, (t.room r).sem n = if c.sen = true ∧ n = n0 then min (k.sem n + c.sinc.toNat) 0xFFFF else k.sem n)
      ∧ (t.room r).hearth =
          (if c.sen = true ∧ 0xFFFF < k.sem n0 + c.sinc.toNat then { k.hearth with st := .trapped, cause := 1, exec := none }
           else { k.hearth with pos := pos, st := if pos < k.hearth.prog.length then .wait else .ended, exec := none })
      ∧ { t.room r with hearth := k.hearth, sems := k.sems, semInc := k.semInc } = k)

/-- The command of room r is in execution from this tick on, and nothing else of the room has changed (R300). -/
def HearthBegun (s t : State) (r : Nat) (i : Instr) (task : Nat) : Prop :=
  let h := (s.room r).hearth
  (t.room r).hearth = { h with exec := some { instr := i, doneUnits := 0, since := s.clock.tick, task := task } }
  ∧ { t.room r with hearth := h } = s.room r ∧ (∀ q, q ≠ r → t.room q = s.room q) ∧ HearthPays s t r 8

/-- The homes of some physical pieces take a message of the place `key`: each has a route and lies in no array in retention, and none
has taken one of a later place in this tick (R20, R45, R240). -/
def HomesTake (s : State) (pieces : List (Nat × Nat)) (key : Nat) : Prop :=
  (∀ p ∈ pieces, s.routed p.1 = true ∧ s.retainedIn p.1 p.2 = []) ∧ s.tooLate (s.memArrivals pieces key) = false

/-- The reads and writes of a hearth, each at an address, an offset and a length, reach their homes now: no array there is in retention,
no later place has been served, no access that waits there since earlier can be served, and no earlier message is on their ways (R9,
R20, R45, R189, R240). -/
def HearthSends (s : State) (r : Nat) (reads writes : List (HAddr × Nat × Nat)) : Prop :=
  let pieces (l : List (HAddr × Nat × Nat)) : List (Nat × Nat) := l.flatMap fun x => x.1.pieces x.2.1 x.2.2
  (∀ x ∈ reads ++ writes, s.hearthAsleep x.1 x.2.1 x.2.2 = [] ∧ s.tooLate (x.1.served r x.2.1 x.2.2) = false
    ∧ s.hearthBehind r x.1 x.2.1 x.2.2 = false)
  ∧ s.pathBusy [] s.clock.nextId (s.legsTo (wingOfRoom r) 0 (pieces reads) ++ s.legsTo (wingOfRoom r) 1 (pieces writes)) = false
  ∧ HomesTake s (pieces reads ++ pieces writes) (roomKey r)

/-- Only rooms and accounts differ. -/
def HearthFrame (s t : State) : Prop := { t with rooms := s.rooms, accts := s.accts } = s

/-- R171, R172, R446, R451, R455, R456, R457, R459, R460: the hearth commands that complete in their step, with a debit of 8
mu: HNOP, HSET, TAGCTL, REPEAT, SKIPIF, SEMSET, WATCH and HEND. That WATCH checks its address also where it disarms, that the
increments of a tick are added to SEMSET at once, and that a command whose signal is on a semaphore tested in the tick ends in the next
one, are the model's readings (log entries 44, 45 and 21). -/
def Obligations.HearthCommandsComplete : Prop := ∀ (c : HCmd) (s : State) (r : Nat), HearthRuns s r →
  let h := (s.room r).hearth
  let v := c.imm.toNat
  let ends (i : Instr) (pos : Nat) (g : Room → Room) : Prop :=
    ∃ t, exec i s = .next t ∧ HearthDone s t r c pos g ∧ HearthPays s t r 8 ∧ HearthFrame s t
  ends (.hnop c) (h.pos + 1) id
  ∧ ends (.hset c) (h.pos + 1) (fun k => { k with hearth := { k.hearth with h := mput k.hearth.h c.ha.toNat c.imm 0 } })
  ∧ (∃ t, exec (.tagctl c) s = .next t ∧ HearthDone s t r c (h.pos + 1) id ∧ HearthPays s t r 8
      ∧ { t with rooms := s.rooms, accts := s.accts, rtags := s.rtags } = s
      ∧ (∀ n, n ≠ v % 4096 → t.rtag n = s.rtag n)
      ∧ (t.rtag (v % 4096)).en = (if v / 2 ^ 12 % 4 = 1 then true else if v / 2 ^ 12 % 4 = 2 then false else (s.rtag (v % 4096)).en)
      ∧ (t.rtag (v % 4096)).pend = (if v / 2 ^ 14 % 4 = 2 then false else (s.rtag (v % 4096)).pend)
      ∧ (t.rtag (v % 4096)).cur = (s.rtag (v % 4096)).cur)
  ∧ (let n := mget h.reps h.pos 1
    ((v = 0 ∨ n < v) → ends (.repeat_ c) (h.pos - c.ha.toNat) (fun k =>
        if v = 0 then k else { k with hearth := { k.hearth with reps := mset k.hearth.reps h.pos (n + 1) } }))
    ∧ (v ≠ 0 → v ≤ n → ends (.repeat_ c) (h.pos + 1) (fun k =>
        { k with hearth := { k.hearth with reps := mdel k.hearth.reps h.pos } })))
  ∧ (let sem := (s.room r).sem (v % 256)
    let yes := [decide (v / 2 ^ 16 % 2 ^ 16 ≤ sem), decide (sem < v / 2 ^ 16 % 2 ^ 16), (s.rtag (v % 4096)).pend,
      !(s.rtag (v % 4096)).en, mget h.h (v % 16) 0 == 0].getD c.ha.toNat false
    (c.ha.toNat ≤ 4 → ends (.skipif c) (if yes then h.pos + 1 + c.hb.toNat else h.pos + 1) (fun k =>
        if c.ha.toNat < 2 then { k with tested := if k.tested.contains (v % 256) then k.tested else k.tested ++ [v % 256] } else k)))
  ∧ (let inc := mget (s.room r).semInc c.ha.toNat 0
    v % 2 ^ 16 + inc ≤ 0xFFFF → ends (.semset c) (h.pos + 1) (fun k => { k with sems := mput k.sems c.ha.toNat (v % 2 ^ 16 + inc) 0 }))
  ∧ (∀ pa, s.hearthAddr r (mget h.h c.hb.toNat 0) 1 1 = some (.phys pa) →
      ends (.watch c) (h.pos + 1) (fun k =>
        let w : Watch := { en := c.imm.getLsbD 63, rd := c.imm.getLsbD 62, wr := c.imm.getLsbD 61, len := v % 64, addr := pa }
        { k with watch := mset k.watch c.ha.toNat w }))
  ∧ (∃ t, exec (.hend c) s = .next t ∧ (t.room r).hearth = { h with st := .ended }
      ∧ { t.room r with hearth := h } = s.room r ∧ (∀ q, q ≠ r → t.room q = s.room q) ∧ HearthPays s t r 8 ∧ HearthFrame s t)

/-- R447, R449, R453, R458: CFGLOAD, HCOPY, CTXSAVE and TOPACCT whose operands are sound are in execution after their step, with
a debit of 8 mu; a TOPACCT has put its request at the end of the queue of requests, under a new number by which its settlement finds
it (log entry 94). -/
def Obligations.HearthTransfersBegin : Prop := ∀ (c : HCmd) (s : State) (r : Nat), HearthRuns s r →
  let h := (s.room r).hearth
  let n := c.imm.toNat
  (∀ g im, regionWord (mget h.h c.ha.toNat 0) = some g → mfind (s.room r).store n = some im →
      ((s.ctn im.1).images.getD im.2 {}).fits g.1 g.2.1 g.2.2.1 g.2.2.2 = true →
      ∃ t, exec (.cfgload c) s = .next t ∧ HearthBegun s t r (.cfgload c) 0 ∧ HearthFrame s t)
  ∧ (∀ d a, s.hearthAddr r (mget h.h c.ha.toNat 0) (64 * n) 64 = some d →
      s.hearthAddr r (mget h.h c.hb.toNat 0) (64 * n) 64 = some a →
      (∀ m off, d = .spad m off → ∀ w ∈ (s.cell m).spad.words, off / 4 ≤ w.1 → w.1 < off / 4 + 16 * n → w.2.counting = false) →
      ∃ t, exec (.hcopy c) s = .next t ∧ HearthBegun s t r (.hcopy c) 0 ∧ HearthFrame s t)
  ∧ (∀ g k, regionWord (mget h.h c.ha.toNat 0) = some g → s.gangAt r g = some k → k.gate = .quiesce →
      k.contextBytes ≤ s.poolFree →
      ∃ t, exec (.ctxsave c) s = .next t ∧ HearthBegun s t r (.ctxsave c) k.id ∧ HearthFrame s t)
  ∧ ((mget h.h c.ha.toNat 0).toNat < 2 ^ 48 →
      ∃ t, exec (.topacct c) s = .next t ∧ HearthBegun s t r (.topacct c) s.clock.nextId
        ∧ t.sched.reqs = s.sched.reqs ++
            [{ since := s.clock.tick, acct := n / 2 ^ 16 % 2 ^ 16, dest := some (n % 2 ^ 16), room := r, ha := c.ha.toNat,
               task := s.clock.nextId }]
        ∧ { t with rooms := s.rooms, accts := s.accts, sched := s.sched, clock := { t.clock with nextId := s.clock.nextId } } = s)

/-- R201, R448, R450, R452, R453: a CFGSWITCH and a QUIESCE of a running gang gate its sources and are in execution; a
QUIESCE that releases ends the gating; a GANGRUN queues a task pinned to its region; a CTXLOAD stages the preempted task of
an age. What a CFGSWITCH and a QUIESCE do to a gang that is gated already, and the conditions on the room of a restored task, are the
model's readings (log entries 84 and 42), and so is the end of a command whose signal is on a semaphore tested in the tick (log entry
21). -/
def Obligations.HearthGangCommandsComplete : Prop := ∀ (c : HCmd) (s : State) (r : Nat), HearthRuns s r →
  let h := (s.room r).hearth
  let v := c.imm.toNat
  ∀ g, regionWord (mget h.h c.ha.toNat 0) = some g →
  (∀ k, s.gangAt r g = some k → (∀ d ∈ k.gang, (s.cell d).standby ≠ none) →
      ∃ t, exec (.cfgswitch c) s = .next t ∧ HearthBegun s t r (.cfgswitch c) k.id
        ∧ (k.gate = .none ∨ k.gate = .quiesce → ∃ u, t.task? k.id = some u ∧ u.gate = .switch)
        ∧ t.mem = s.mem ∧ t.hostMem = s.hostMem ∧ (k.gate ≠ .quiesce → t.ops = s.ops))
  ∧ (∀ k, s.gangAt r g = some k → c.imm.getLsbD 32 = false →
      ∃ t, exec (.quiesce c) s = .next t ∧ HearthBegun s t r (.quiesce c) k.id
        ∧ (k.gate = .none → ∃ u, t.task? k.id = some u ∧ u.gate = .quiesce)
        ∧ t.mem = s.mem ∧ t.hostMem = s.hostMem ∧ t.ops = s.ops)
  ∧ (∀ k, s.gangAt r g = some k → k.gate = .quiesce → c.imm.getLsbD 32 = true →
      natField c.imm.toNat 0 32 = 0 →
      ∃ t, exec (.quiesce c) s = .next t ∧ HearthDone s t r c (h.pos + 1) id ∧ HearthPays s t r 8
        ∧ (∃ u, t.task? k.id = some u ∧ u.gate = .none) ∧ t.mem = s.mem ∧ t.hostMem = s.hostMem)
  ∧ (∀ body : Option HAddr, s.gangrunArgs r c = .ok (g, body) → 1024 < s.qfree → s.gangrunPid r ∉ s.sched.cancels →
      (∀ a, body = some a → HearthSends s r [(a, 0, v / 4096 % 256)] [] ∧ s.hearthPoison a (v / 4096 % 256) = false) →
      ∃ t k, exec (.gangrun c) s = .next t ∧ HearthDone s t r c (h.pos + 1) id ∧ HearthPays s t r 8
        ∧ t.tasks = s.tasks ++ [k] ∧ k.tag = v % 4096 ∧ k.pin = some (r, g.2.2.1, g.2.2.2) ∧ k.st = .queued
        ∧ k.arg = (body.map fun a => s.hearthBytes a (v / 4096 % 256)).getD []
        ∧ k.pid = BitVec.ofNat 64 (0xFFFF000000000000 + r * 65536 + h.pos) ∧ t.mem = s.mem ∧ t.cells = s.cells)
  ∧ (∀ k, s.tasks.find? (fun u => u.st == .preempted && !u.saving && u.age == (mget h.h c.hb.toNat 0).toNat) = some k →
      s.shape k = (g.1, g.2.1) → s.roomMay k r = true → s.positionOk k r g.2.2.1 g.2.2.2 = true →
      s.sched.hold = false →
      ∃ t u, exec (.ctxload c) s = .next t ∧ HearthDone s t r c (h.pos + 1) id ∧ t.task? k.id = some u ∧ u.st = .staged
        ∧ u.room = r ∧ u.x0 = g.2.2.1 ∧ u.y0 = g.2.2.2 ∧ t.mem = s.mem ∧ t.ops = s.ops)

/-- R259, R262, R454: a TRAPRET whose frame address is sound, with RESUME as its action: the faulting element takes the
predicates, the sticky flags, the taint and the registers of the frame at that address, the gang runs on, and the command completes,
in the next tick where its signal is on a semaphore tested in this one: the model's reading (log entry 21). -/
def Obligations.TrapretResumes : Prop := ∀ (c : HCmd) (s : State) (r b : Nat) (k : Task) (p : PendFault) (e : Nat),
  let a := (mget (s.room r).hearth.h c.ha.toNat 0).toNat
  let fr := s.physBytes a 1024
  let field (off n : Nat) : Nat := bytesToNat ((fr.drop off).take n)
  HearthRuns s r → s.trapArea r = some b → s.devNum * 2 ^ 44 + b ≤ a → a < s.devNum * 2 ^ 44 + b + 65536 →
  (a - (s.devNum * 2 ^ 44 + b)) % 1024 = 0 →
  s.tasks.find? (fun t => t.frozen && t.frame && t.room == r && t.age == bytesToNat ((fr.drop 16).take 8)) = some k →
  k.faults.head? = some p → p.elem = some e → HearthSends s r [(.phys a, 0, 1024)] [] → s.hearthPoison (.phys a) 1024 = false →
  (if c.imm.toNat % 4 = 0 then (fr.getD 34 0).toNat else c.imm.toNat % 4) = 1 →
    ∃ t u, exec (.trapret c) s = .next t ∧ HearthDone s t r c ((s.room r).hearth.pos + 1) id ∧ HearthPays s t r 8
      ∧ t.task? k.id = some u ∧ u.frozen = false ∧ u.frame = false ∧ u.faults = []
      ∧ (∀ d < 16, (t.elem p.reg.cell e).greg d = BitVec.ofNat 32 (field (56 + 4 * d) 4))
      ∧ (t.elem p.reg.cell e).pb = BitVec.ofNat 8 (field 48 1) ∧ (t.elem p.reg.cell e).sticky = BitVec.ofNat 3 (field 49 1)
      ∧ (t.elem p.reg.cell e).taint = BitVec.ofNat 16 (field 50 2)
      ∧ (∀ d ∈ k.gang, (t.cell d).nodeFault = [] ∧ ∀ q ∈ (t.cell d).elems, q.2.frozen = false)
      ∧ t.mem = s.mem ∧ (s.logs.wlog.en = false → t.hostMem = s.hostMem)

/-- R442, R444: a command whose region word breaks its layout is refused with reason 0x02: ROOM_HERR counts it and takes the
reason, the command and its position, and the command completes with its signal and its debit, doing nothing else. The debit
of a refused command, and the end in the next tick of one whose signal is on a semaphore tested in this one, are the model's readings
(log entries 44 and 21). -/
def Obligations.HearthRefusesRegion : Prop := ∀ (c : HCmd) (s : State) (r : Nat), HearthRuns s r →
  regionWord (mget (s.room r).hearth.h c.ha.toNat 0) = none →
  let refused (i : Instr) (cmd : Nat) : Prop :=
    ∃ t, exec i s = .next t ∧ HearthPays s t r 8 ∧ HearthFrame s t
      ∧ HearthDone s t r c ((s.room r).hearth.pos + 1)
          (fun k => { k with herr := { count := min (k.herr.count + 1) 0xFFFF, a := 2, b := cmd, c := k.hearth.pos } })
  refused (.cfgload c) 0x02 ∧ refused (.cfgswitch c) 0x03 ∧ refused (.gangrun c) 0x05 ∧ refused (.quiesce c) 0x07
  ∧ refused (.ctxsave c) 0x08 ∧ refused (.ctxload c) 0x09

/-- A performed operation completes (R243, R284, R362, R392): it is under way no more, its scalar, vector or mask destination holds
its result, with its taint, and is pending no more, the predicates, sticky flags and ENG are updated, and its tokens, the result with its tag and the order token, enter
every channel that their outputs feed, in the places kept for them (R176, R177, R286). The step of its cell ends with it. Nothing else
differs: no meter, no scratchpad, tile, engine or vestibule of any cell but the vector destination, and of a DRUN's domain the tick of
its next step (R434). -/
def Retires (i : Instr) (s : State) (o : Op) : Prop :=
  let d := destOf o.opc o.f
  let el := s.elem o.cell o.elem
  let atom := decide (0x60 ≤ o.opc ∧ o.opc < 0x68)
  let dst := o.f.dst.toNat
  let k := s.task o.task
  let toks : List (Dest × Token) := (dstOut el o.opc o.f).map (fun a => (a, { val := o.r, tag := tokenTag o.opc o.f }))
    ++ (orderOut el o.opc o.f).map fun a => (a, { val := 0, tag := 6 })
  ∃ t, exec i s = .next t
    ∧ t.ops = s.ops.filter (fun p => p.id != o.id)
    ∧ { t with cells := s.cells, ops := s.ops } = s
    ∧ (∀ k < 16, (t.elem o.cell o.elem).greg k = if k = dst ∧ (atom = true ∨ d.result = true) then o.r else el.greg k)
    ∧ (∀ k < 16, (t.elem o.cell o.elem).taint.getLsbD k =
        if k = dst ∧ (atom = true ∨ d.result = true) then o.tnt else el.taint.getLsbD k)
    ∧ (t.elem o.cell o.elem).pb = predUpdate
        (if atom = false ∧ d.result = true ∧ dst = 29 then BitVec.ofNat 8 o.r.toNat else el.pb) o.f { r := o.r, c := o.c, f := o.fflag }
    ∧ (t.elem o.cell o.elem).sticky = el.sticky ||| o.sticky
    ∧ (t.elem o.cell o.elem).pendG = el.pendG &&& ~~~d.wg ∧ (t.elem o.cell o.elem).pendP = el.pendP &&& ~~~d.p
    ∧ (t.elem o.cell o.elem).eng = o.engv.getD (engWord o.opc o.slot o.status)
    ∧ (∀ k, mget (t.cell o.cell).vec.v k 0 =
        if d.v ≠ 0 ∧ k = dst then o.vres else mget (s.cell o.cell).vec.v k 0)
    ∧ (∀ k, mget (t.cell o.cell).vec.m k 0 =
        if d.v = 0 ∧ d.m ≠ 0 ∧ k = (if o.opc = 0x89 then dst % 4 else o.f.src2.toNat % 4) then BitVec.ofNat 64 o.vres.toNat
        else mget (s.cell o.cell).vec.m k 0)
    ∧ (t.cell o.cell).vec.pendV = (s.cell o.cell).vec.pendV &&& ~~~d.v
    ∧ (∀ c e, ¬ (c = o.cell ∧ e = o.elem) → (t.elem c e).still = (s.elem c e).still)
    ∧ { (t.elem o.cell o.elem).fixedEng with pendG := 0, pendP := 0 } = { el.fixedEng with pendG := 0, pendP := 0 }
    ∧ (∀ c, c ≠ o.cell → (t.cell c).engines = (s.cell c).engines)
    ∧ { (t.cell o.cell).engines with vec := {}, dda := {}, turned := none }
        = { (s.cell o.cell).engines with vec := {}, dda := {}, turned := none }
    ∧ (t.cell o.cell).turned = none
    ∧ (∀ c e i, let q := s.inputAt c e i
        t.inputAt c e i = Input.entered { q with reserved := q.reserved - (toks.filter fun p => p.1.feeds k c e i).length }
          toks k o.cell c e i)
    ∧ { (t.cell o.cell).dda with doms := (s.cell o.cell).dda.doms } = (s.cell o.cell).dda
    ∧ (∀ n, { (t.cell o.cell).dda.dom n with next := 0 } = { (s.cell o.cell).dda.dom n with next := 0 })
    ∧ (o.opc ≠ 0xD5 → (t.cell o.cell).dda = (s.cell o.cell).dda)
    ∧ (∀ c, (t.cell c).meter = (s.cell c).meter ∧ ∀ p, { (t.cell c).edge p with inq := {} } = { (s.cell c).edge p with inq := {} })

/-- R9, R17, R254, R362, R392, R410, R425: MEM_OP_COMPLETE, ENGINE_WRITEBACK and MATRIX_OP_COMPLETE complete a performed operation of
their class that awaits no reply of another device, overtakes none and is of no node whose fault has been taken; the vector operations
of one element complete in the order of their issue. -/
def Obligations.OperationsWriteBack : Prop := ∀ (s : State) (o : Op), s.op? o.id = some o → o.phase = .performed →
  o.awaits = false → s.replyBehind o = false → s.nodeTrapped o = false →
  ((0x40 ≤ o.opc ∧ o.opc < 0x78) ∨ o.opc = 0xCC → Retires (.memOpComplete o.id) s o)
  ∧ (0x80 ≤ o.opc → o.opc < 0xC0 →
      (∀ p ∈ s.ops.takeWhile (fun p => p.id != o.id), p.cell = o.cell → p.elem = o.elem → p.opc < 0x80 ∨ 0xC0 ≤ p.opc) →
      Retires (.engineWriteback o.id) s o)
  ∧ (0xD0 ≤ o.opc → o.opc ≤ 0xDC → Retires (.engineWriteback o.id) s o)
  ∧ (o.opc ∈ [0xC0, 0xC2, 0xC3, 0xC4] → Retires (.matrixOpComplete o.id) s o)

/-- The operation stands at its scratchpad word with nothing before it: its task is there, it is not withdrawn, nothing in its
element or at its port stands before it, the array is awake, no later requester of the tick has been served, and no earlier waiter
can be (R189, R240, R241, R266). -/
def AtSpad (s : State) (o : Op) (m : Nat) (k : Task) : Prop :=
  s.op? o.id = some o ∧ o.spad = some m ∧ o.combo = none ∧ o.orphan = none ∧ s.task? o.task = some k
  ∧ s.mayGo o = true ∧ s.retained (.spad m) = false ∧ (o.phase = .issued → s.tooLate (s.arrivals k o) = false)
  ∧ (s.arrive (s.arrivals k o)).servedFirst o = false ∧ ∀ l, o.limit = some l → s.clock.tick ≤ l

/-- R160, R187, R364, R365, R367: at its scratchpad a load binds its value, sign-extended for BS and HS, and an LDWF binds the
value of a full word, at its first attempt or at its retry; an STFL of an unguarded task writes an EMPTY word and sets it FULL;
the drain of a commit writes the written bytes of a vestibule line at their home. -/
def Obligations.AccessesAtHome : Prop := ∀ s : State,
  (∀ (o : Op) (m : Nat) (k : Task), AtSpad s o m k → s.poisonIn k o.cell { spad := some m, ea := o.ea } o.len = none →
    let n := bytesToNat ((s.cell m).spad.viewBytes o.ea o.len (some k.id))
    let bound (v : Word) (i : Instr) : Prop := ∃ t, exec i s = .next t
      ∧ t.op? o.id = some { o with phase := .performed, r := v, c := false, status := 0, engv := none, vres := 0,
                                   fflag := false, limit := none, retry := false, asleep := false, awaits := false,
                                   inj := s.clock.nextId, sent := s.clock.tick }
      ∧ { t with ops := s.ops, served := s.served, clock := { t.clock with nextId := s.clock.nextId } } = s
    (o.opc = 0x40 → o.phase = .issued → bound
      (if o.f.src2.toNat % 8 = 4 then BitVec.ofInt 32 (natToInt 8 n)
        else if o.f.src2.toNat % 8 = 5 then BitVec.ofInt 32 (natToInt 16 n) else BitVec.ofNat 32 n) (.homeAccess (.op o.id)))
    ∧ (o.opc = 0x42 → o.len = 4 → wordFull ((s.cell m).spad.viewSt (o.ea / 4) (some k.id))
          ((s.cell m).spad.viewWord (o.ea / 4) (some k.id)) = true →
        (o.phase = .issued → bound ((s.cell m).spad.viewWord (o.ea / 4) (some k.id)) (.homeAccess (.op o.id)))
        ∧ (o.phase = .waiting → bound ((s.cell m).spad.viewWord (o.ea / 4) (some k.id)) (.waitRetry o.id))))
  ∧ (∀ (o : Op) (m : Nat) (k : Task), AtSpad s o m k → o.opc = 0x45 → o.phase = .issued → s.isGuarded k = false →
      (s.cell m).spad.hidden (o.ea / 4) (some k.id) = false → (s.cell m).spad.wst (o.ea / 4) = {} →
      ∃ t, exec (.homeAccess (.op o.id)) s = .next t
        ∧ (t.cell m).spad.word (o.ea / 4) = o.args.getD 1 0 ∧ (t.cell m).spad.wst (o.ea / 4) = { full := true }
        ∧ (∀ w, w ≠ o.ea / 4 → (t.cell m).spad.word w = (s.cell m).spad.word w ∧ (t.cell m).spad.wst w = (s.cell m).spad.wst w)
        ∧ (∀ c, c ≠ m → t.cell c = s.cell c) ∧ t.mem = s.mem ∧ t.hostMem = s.hostMem
        ∧ (∃ p, t.op? o.id = some p ∧ p.phase = .performed))
  ∧ (∀ (c pa : Nat) (mask : BitVec 64) (data : BitVec 512) (tag : Option (BitVec 16)) (rest : List VEntry) (k : Task),
      s.owner? c = some k → k.st = .committing → (s.cell c).vest = .line pa mask data tag :: rest →
      s.level pa ∈ [.landing, .cellar, .attic] → pa % 64 = 0 → s.logs.wlog.en = false →
      s.pathBusy [] s.clock.nextId (s.entryLegs c (.line pa mask data tag)) = false →
      HomesTake s [(pa, 64)] (homeKey c 0xFF) →
      ∃ t, exec (.homeAccess (.drain c [])) s = .next t
        ∧ (t.cell c).vest = rest
        ∧ (∀ a, t.physByte a = if pa ≤ a ∧ a < pa + 64 ∧ mask.getLsbD (a - pa) = true then
            BitVec.ofNat 8 (data.toNat / 2 ^ (8 * (a - pa))) else s.physByte a)
        ∧ (∀ g, tag = some g → t.physTag pa = g) ∧ (tag = none → t.tags = s.tags)
        ∧ t.tasks = s.tasks ∧ t.rooms = s.rooms ∧ t.ops = s.ops ∧ ∀ d, d ≠ c → t.cell d = s.cell d)

/-- The atomic results of a list of parts in router order: each part's old value, and the value after the last (R253). -/
def splitOld (op : Nat) (old : Word) : List (Nat × Nat) → List (Nat × Word)
  | [] => []
  | p :: ps => (p.1, old) :: splitOld op (atomApply op old (BitVec.ofNat 32 p.2) 0).1 ps

/-- A fill, or the arrival after it, can be made at word w of cell m: the array is awake, one that has just arrived overtakes no earlier
message and no later requester of the tick has been served, no mark holds it back, and no access that waits there since earlier can be
served (R9, R45, R158, R189). -/
def FillStands (s : State) (k : Fill) (m w : Nat) : Prop :=
  let as : List Served := [{ home := spadHome m, lo := 4 * w, len := 4, key := k.key }]
  s.retained (.spad m) = false ∧ (k.since = none → s.pathBusy [k.id] k.inj k.legs = false ∧ s.tooLate as = false)
  ∧ (s.cell m).spad.tentBy w = none
  ∧ (s.arrive as).waitsBefore m
      { since := k.since.getD (s.clock.tick + 1), key := k.key, num := k.id, ranges := [(4 * w, 4)] } = false

/-- R252, R253, R376: two like requests to one word combine, atomic or reductions, the earlier to arrive before the later, each of
them single or itself combined, where no earlier message is before them on their ways (R9); a combined reply gives every part the value that its turn in
router order would have found: an ATOM takes it as its result, an ATOMX completes with R = 0 and sends it on as a fill, and what is left
of an operation of a vanished task is gone, after its fill if it was an ATOMX; the fill of an ATOMX writes its target word FULL, and its arrival counts up, and one that meets a
tentative mark waits. -/
def Obligations.AtomicsInFlight : Prop := ∀ s : State,
  (∀ (p q : Request) (a b : Combinable), s.request p = some a → s.request q = some b → p.name ≠ q.name → a.pa = b.pa →
    a.opc = b.opc → a.red = b.red → arrivesBefore a.last b.head = true →
    s.partsBehind a b (combosNamed p ++ combosNamed q) = false →
    ∃ t, exec (.routerCombine p q) s = .next t
      ∧ t.combos = (s.combos.filter fun j => !(p.name == .combo j.id || q.name == .combo j.id))
          ++ [{ id := s.clock.nextId, pa := a.pa, opc := a.opc, red := a.red, parts := a.parts ++ b.parts,
                val := if a.red then (combineRed (BitVec.ofNat 3 a.opc) a.val b.val).1 else 0, head := a.head, last := b.last }]
      ∧ (a.red = false → t.cells = s.cells ∧ ∀ o ∈ s.ops, ∃ r ∈ t.ops,
          r = if o.id ∈ (a.parts ++ b.parts).map (·.1) then { o with combo := some s.clock.nextId } else o)
      ∧ (a.red = true → t.ops = s.ops) ∧ t.mem = s.mem ∧ t.tasks = s.tasks ∧ t.rooms = s.rooms)
  ∧ (∀ (k : Combo) (v : Nat), s.combos.find? (fun j => j.id == k.id) = some k → k.old = some v →
      (∀ p ∈ k.parts, ∃ o, s.op? p.1 = some o) → (k.parts.map (·.1)).Nodup →
      ∃ t, exec (.replySplit k.id) s = .next t
        ∧ (∀ q ∈ splitOld k.opc (BitVec.ofNat 32 v) k.parts, ∀ o, s.op? q.1 = some o →
            (o.orphan.isSome = true → t.op? q.1 = none)
            ∧ (o.orphan = none → ∃ p, t.op? q.1 = some p ∧ p.phase = .performed ∧ p.r = if o.opc < 0x70 then q.2 else 0)
            ∧ (0x70 ≤ o.opc → ∃ f ∈ t.fills, f.handle = o.args.getD 2 0 ∧ f.chandle = o.args.getD 3 0 ∧ f.val = q.2
                ∧ f.filled = false ∧ f.since = none))
        ∧ t.combos = s.combos.filter (fun j => j.id != k.id) ∧ t.mem = s.mem ∧ t.cells = s.cells)
  ∧ (∀ k : Fill, s.fills.find? (fun j => j.id == k.id) = some k →
      let m := handleCell k.handle
      let w := handleWord k.handle
      let p := (s.cell m).spad
      let cm := handleCell k.chandle
      let cw := handleWord k.chandle
      let cp := (s.cell cm).spad
      (k.filled = false → FillStands s k m w → (p.wst w).counting = false →
        ∃ t, exec (.atomxFill k.id) s = .next t ∧ (t.cell m).spad.word w = k.val ∧ (t.cell m).spad.wst w = { full := true }
          ∧ (∀ u, u ≠ w → (t.cell m).spad.word u = p.word u ∧ (t.cell m).spad.wst u = p.wst u)
          ∧ (∀ c, c ≠ m → t.cell c = s.cell c) ∧ t.mem = s.mem
          ∧ t.fills = (if k.chandle = 0xFFFFFFFF then s.fills.filter (fun j => j.id != k.id)
              else s.fills.map fun j => if j.id = k.id then
                { j with filled := true, src := some (wingOfCell m), inj := s.clock.nextId, since := none } else j))
      ∧ (k.filled = false → s.retained (.spad m) = false →
        (k.since = none → s.pathBusy [k.id] k.inj k.legs = false
          ∧ s.tooLate [{ home := spadHome m, lo := 4 * w, len := 4, key := k.key }] = false) → p.tentBy w ≠ none →
        ∃ t, exec (.atomxFill k.id) s = .next t ∧ t.cells = s.cells ∧ t.mem = s.mem
          ∧ t.fills = s.fills.map fun j => if j.id = k.id then { j with since := some (k.since.getD s.clock.tick) } else j)
      ∧ (k.filled = true → FillStands s k cm cw → (cp.wst cw).counting = true →
        ∃ t, exec (.atomxFill k.id) s = .next t
          ∧ (t.cell cm).spad.word cw = (if cp.word cw = 0xFFFFFFFF then cp.word cw else cp.word cw + 1)
          ∧ (t.cell cm).spad.wst cw = cp.wst cw ∧ (∀ c, c ≠ cm → t.cell c = s.cell c) ∧ t.mem = s.mem
          ∧ t.fills = s.fills.filter (fun j => j.id != k.id))
      ∧ (k.filled = true → FillStands s k cm cw → (cp.wst cw).counting = false →
        ∃ t, exec (.atomxFill k.id) s = .next t ∧ t.cells = s.cells ∧ t.mem = s.mem
          ∧ (t.room (k.chandle.toNat / 2 ^ 26)).axlost =
              { (s.room (k.chandle.toNat / 2 ^ 26)).axlost with
                count := min ((s.room (k.chandle.toNat / 2 ^ 26)).axlost.count + 1) 0xFFFF, a := k.chandle.toNat, b := 1 }))

/-- The meter of cell c takes a debit of task k under a key: no element's firing and no other requester of an engine waits for a grant
(R135, R146). -/
def MeterPays (s : State) (k : Task) (c key cost : Nat) : Prop :=
  k.frozen = false ∧ (∀ p ∈ (s.cell c).elems, p.2.held = none) ∧ (∀ h, (s.cell c).meter.heldBy = some h → h = key)
  ∧ (s.cell c).meter.takes = true ∧ ((s.entryOf k).mmode = true ∨ cost ≤ (s.cell c).meter.bal)

/-- The meter of cell c has debited `cost` from BAL and added it to CONS; in physical mode a number of packets of 64 mu within the
balance (R135 to R137). -/
def MeterPaid (s t : State) (k : Task) (c cost : Nat) : Prop :=
  let m := (s.cell c).meter
  let took (n : Nat) : Prop := (t.cell c).meter.bal = m.bal - n ∧ (t.cell c).meter.cons = m.cons + n
  if (s.entryOf k).mmode = true then ∃ p ≤ m.bal / 64, took (64 * p) else took cost

/-- R177, R179, R180, R320: a token on its way enters its channel behind those that wait; a control token sets its mapped
predicate, at an element that fires no SPAWN in the tick, or starts a counter set that does not run; a performed access of an inbound edge port sends its element on. How
an edge port goes on is the model's reading where R320 leaves it open (log entry 36). -/
def Obligations.TokensArrive : Prop := ∀ (s : State) (c e i : Nat),
  (∀ k ks, isEdge c e = false → ((s.elem c e).input i).transit = k :: ks →
    ∃ t, exec (.channelTokenArrive c e i) s = .next t
      ∧ (t.elem c e).input i = { (s.elem c e).input i with q := ((s.elem c e).input i).q ++ [k], transit := ks }
      ∧ (∀ j, j ≠ i → (t.elem c e).input j = (s.elem c e).input j) ∧ (t.elem c e).quiet = (s.elem c e).quiet
      ∧ (∀ d f, ¬ (d = c ∧ f = e) → t.elem d f = s.elem d f) ∧ { t with cells := s.cells } = s)
  ∧ (∀ k ks, isEdge c e = true → ((s.cell c).edge (e - 4)).inq.transit = k :: ks →
    ∃ t, exec (.channelTokenArrive c e i) s = .next t
      ∧ ((t.cell c).edge (e - 4)).inq =
          { ((s.cell c).edge (e - 4)).inq with q := ((s.cell c).edge (e - 4)).inq.q ++ [k], transit := ks }
      ∧ (t.cell c).elems = (s.cell c).elems ∧ { t with cells := s.cells } = s)
  ∧ (∀ p, i < 8 → s.spawning c e = false → mget (s.elem c e).ctlIn i 0 ≠ 0 → mfind (s.elem c e).ctlMap i = some p →
    ∃ t, exec (.controlTokenArrive c e i) s = .next t
      ∧ (∀ b < 8, (t.elem c e).pb.getLsbD b = ((s.elem c e).pb.getLsbD b || decide (b = p)))
      ∧ mget (t.elem c e).ctlIn i 0 = mget (s.elem c e).ctlIn i 0 - 1
      ∧ (t.elem c e).greg = (s.elem c e).greg ∧ (t.elem c e).ins = (s.elem c e).ins
      ∧ (∀ d f, ¬ (d = c ∧ f = e) → t.elem d f = s.elem d f) ∧ { t with cells := s.cells } = s)
  ∧ (8 ≤ i → mget (s.elem c e).ctlIn i 0 ≠ 0 →
    let k := (s.cell c).ctr (i - 8)
    ∃ t, exec (.controlTokenArrive c e i) s = .next t
      ∧ (t.cell c).ctr (i - 8) = (if k.started = true ∧ k.isDone = false then k
          else { k with n := k.ext.map fun _ => 0, started := true, isDone := false })
      ∧ (∀ j, j ≠ i - 8 → (t.cell c).ctr j = (s.cell c).ctr j) ∧ { t with cells := s.cells } = s)
  ∧ (∀ (k : Task) (g : Edge) (n : Nat) (o : Op) (d : Dest) (p : Nat), s.engineTask c 8 = some k →
    mfind (s.cell c).edges p = some g → g.op = some n → s.op? n = some o → o.phase = .performed → g.out = false →
    (s.cell c).port (4 + p) = [d] → k.cellAt d.x d.y = c → isEdge c d.e = false →
    ∃ t, exec (.edgePortAdvance c p) s = .next t
      ∧ ((t.elem c d.e).input d.i).q = ((s.elem c d.e).input d.i).q ++ [{ val := o.r, tag := 0 }]
      ∧ ((t.elem c d.e).input d.i).reserved = ((s.elem c d.e).input d.i).reserved - 1
      ∧ (∀ q ∈ t.ops, q.id ≠ n) ∧ ((t.cell c).edge p).op = none ∧ t.mem = s.mem ∧ t.rooms = s.rooms)

/-- R137, R197, R228, R434, R440: a step of a free domain that runs, is not gated and raises no fault: every integrator of the domain
takes its step from the increments as they stood, every other one keeps its Y, Q and counts, the step count rises by one, and the
meter of the cell debits 1 mu for each group of up to four active integrators. -/
def Obligations.DomainSteps : Prop := ∀ (s : State) (c n : Nat) (k : Task),
  let d := (s.cell c).dda
  s.newFiringTask c 11 = some k → n < 4 → (d.dom n).st = .running → (d.dom n).mode = .free → k.gate = .none →
  MeterPays s k c (16 + n) ((d.active n + 3) / 4) → (d.step n).2 = [] →
    ∃ t, exec (.ddaDomainStep c n) s = .next t
      ∧ (∀ i < 256,
          let d' := (t.cell c).dda
          let r := integrate (mget d.y i 0).toInt (mget d.q i 0).toInt
            ((List.range 4).map fun j => (d.increment n (patchDy (d.entry i) j), patchSh (d.entry i) j))
            (d.increment n (patchDx (d.entry i)))
          if d.domOf i = n then
            mget d'.y i 0 = BitVec.ofInt 32 r.1 ∧ mget d'.q i 0 = BitVec.ofInt 32 r.2.1 ∧ mget d'.emit i 0 = r.2.2.1
              ∧ mget d'.cnt i 0 = mget d.cnt i 0 + BitVec.ofInt 32 r.2.2.1
          else mget d'.y i 0 = mget d.y i 0 ∧ mget d'.q i 0 = mget d.q i 0 ∧ mget d'.emit i 0 = mget d.emit i 0
            ∧ mget d'.cnt i 0 = mget d.cnt i 0)
      ∧ ((t.cell c).dda.dom n).count = ((d.dom n).count + 1) % 2 ^ 32 ∧ ((t.cell c).dda.dom n).st = .running
      ∧ (t.cell c).dda.patch = d.patch ∧ (∀ j, j ≠ n → (t.cell c).dda.dom j = d.dom j)
      ∧ Cell.engines { t.cell c with dda := d } = (s.cell c).engines
      ∧ (∀ e, e ≠ c → (t.cell e).engines = (s.cell e).engines) ∧ SameDevice s t
      ∧ MeterPaid s t k c ((d.active n + 3) / 4)

/-- R137, R192, R226, R227, R406, R409, R412: a row of a rule fires: each word of the row's columns gains the eight group terms of
its dot product, its cells become ACCUM and every other cell keeps its state, the last row disarms the rule, which with HOLD leaves every cell of its
region HELD, and what it leaves is seen from the next step of the cell on; a load that completes installs the aligned
weights of every group of 16; a drain copies one row to its slot, clears it, and makes the slot READY after the last. A row debits 64
mu for each 8 bits of the activation, a drained row after the first 32 mu. That a rule and a drain complete with their last row is the model's reading (log entry 33). -/
def Obligations.MatrixEngineSteps : Prop := ∀ (s : State) (k : Task),
  let c := s.cur.subject
  let cl := s.cell c
  let m := cl.mx
  (∀ (n : Nat) (r : MxRule) (els : List (Nat × Nat × Int)), s.newFiringTask c 10 = some k → s.nextRule c = some (n, r) →
    rowElems m.afmt (cl.tile r.aslot) r.row = .ok els → r.region.cg0 + r.region.ncg ≤ 7 → MeterPays s k c 10 (64 * actWidth m.afmt) →
    let gs := (List.range 8).map fun j => actGroup m.afmt ((els.drop (16 * j)).take 16)
    ∃ t, exec .rowFire s = .next t
      ∧ (∀ row col, col < 128 → mget (t.cell c).mx.acc (128 * row + col) 0 =
          if row = r.region.row0 + r.row ∧ r.region.hasColumn col = true then
            (if groupBad (els.map elemVal) then BitVec.ofNat 32 FFmt.fp32.nanBits
             else m.column m.afmt gs col (mget m.acc (128 * row + col) 0))
          else mget m.acc (128 * row + col) 0)
      ∧ mget (t.cell c).mx.fired n 0 = mget m.fired n 0 + 1
      ∧ (r.row ≠ r.region.nrow → mfind (t.cell c).mx.rules n = some { r with row := r.row + 1 } ∧ (t.cell c).tiles = cl.tiles)
      ∧ (r.row = r.region.nrow → mfind (t.cell c).mx.rules n = none
          ∧ (r.rel = true → (t.cell c).tile r.aslot = {}) ∧ (r.rel = false → (t.cell c).tiles = cl.tiles))
      ∧ (∀ row g, g < 8 → (t.cell c).mx.cell row g =
          if r.row = r.region.nrow ∧ r.hold = true ∧ row ∈ r.region.rows ∧ g ∈ r.region.groups then .held
          else if row = r.region.row0 + r.row ∧ g ∈ r.region.groups then .accum else m.cell row g)
      ∧ (∀ e, (t.cell c).newStep e = true)
      ∧ MeterPaid s t k c (64 * actWidth m.afmt)
      ∧ (t.cell c).vec = cl.vec ∧ t.mem = s.mem ∧ t.ops = s.ops ∧ t.rooms = s.rooms)
  ∧ (∀ (l : MxLoad) (o : Op), m.load = some l → s.op? l.op = some o → o.replay = false →
    let els := l.blocks.flatMap (blockElems m.bfmt)
    16384 ≤ els.length →
    ∃ t, exec .mxldbComplete s = .next t ∧ (t.cell c).mx.load = none ∧ (∀ p ∈ t.ops, p.id ≠ l.op)
      ∧ (∀ i < 1024,
          let g := (els.drop (16 * i)).take 16
          let vs := g.map fun x => (x.1, elemVal x)
          (∀ j < 16, mget (t.cell c).mx.mb (16 * i + j) 0 = (alignB vs).1.getD j 0)
          ∧ mget (t.cell c).mx.exps i 0 = (alignB vs).2 + ((g.head?.map fun x => x.2.2).getD 0)
          ∧ mget (t.cell c).mx.bad i false = groupBad (vs.map (·.2)))
      ∧ (t.cell c).mx.acc = m.acc ∧ (t.cell c).mx.st = m.st ∧ (t.cell c).mx.rules = m.rules ∧ t.mem = s.mem)
  ∧ (∀ (d : Drain) (o : Op), s.engineTask c 10 = some k → m.drains.head? = some d → s.op? d.op = some o → o.replay = false →
    (d.row = 0 ∨ (s.droopHold c = false ∧ MeterPays s k c (4096 + d.op) 32)) → d.region.cg0 + d.region.ncg ≤ 7 →
    let row := d.region.row0 + d.row
    ∃ t, exec .drainRow s = .next t
      ∧ (∀ j ≤ d.region.ncg, mget ((t.cell c).tile d.slot).blocks (d.row * (d.region.ncg + 1) + j) {} =
          m.drainBlock row (d.region.cg0 + j))
      ∧ (∀ r col, col < 128 → mget (t.cell c).mx.acc (128 * r + col) 0 =
          if r = row ∧ d.region.hasColumn col = true then 0 else mget m.acc (128 * r + col) 0)
      ∧ (∀ g ∈ d.region.groups, (t.cell c).mx.cell row g = .empty)
      ∧ (d.row = d.region.nrow → ((t.cell c).tile d.slot).st = .ready ∧ (t.cell c).mx.drains = m.drains.tail ∧ ∀ p ∈ t.ops, p.id ≠ d.op)
      ∧ (d.row ≠ d.region.nrow → ((t.cell c).tile d.slot).st = (cl.tile d.slot).st
          ∧ (t.cell c).mx.drains = { d with row := d.row + 1 } :: m.drains.tail ∧ t.ops = s.ops)
      ∧ (d.row ≠ 0 → MeterPaid s t k c 32) ∧ (∀ e, (t.cell c).newStep e = true)
      ∧ t.mem = s.mem ∧ t.rooms = s.rooms)

/-- R193, R199, R413, R418: a sort takes one key a step for 64 mu, then sends one pair of key and index a step; a scan begins the
read of its present block, and after its last element sends its count with tag 5. That the scan unit reads one block at a time, by an
access of its own under the number 0x100, is the model's reading (log entry 34). -/
def Obligations.SortAndScanStep : Prop := ∀ (s : State) (k : Task),
  let c := s.cur.subject
  let cl := s.cell c
  let inq (t : State) (d : Dest) : List Token := ((t.elem c d.e).input d.i).q
  let here (d : Dest) : Prop := k.cellAt d.x d.y = c ∧ isEdge c d.e = false
  (∀ j, s.engineTask c 10 = some k → cl.mx.sort = some j →
    (j.entered < j.keys.length → s.droopHold c = false → (∀ o, s.op? j.op = some o → o.replay = false) → MeterPays s k c (4096 + j.op) 64 →
      ∃ t, exec .sortKeyEnter s = .next t
        ∧ (t.cell c).mx = { cl.mx with sort := some { j with entered := j.entered + 1 } } ∧ SameDevice s t
        ∧ MeterPaid s t k c 64)
    ∧ (∀ o d1 d2 q, s.op? j.op = some o → o.replay = false → j.keys.length ≤ j.entered → cl.port 1 = [d1] → cl.port 2 = [d2] →
        here d1 → here d2 → (d1.e, d1.i) ≠ (d2.e, d2.i) → s.space k [d1] = true → s.space k [d2] = true → MeterPays s k c (4096 + j.op) 0 →
        j.order[j.emitted]? = some q →
        ∃ t, exec .sortEmit s = .next t
          ∧ inq t d1 = inq s d1 ++ [{ val := BitVec.ofNat 32 q.2, tag := 0 }]
          ∧ inq t d2 = inq s d2 ++ [{ val := BitVec.ofNat 32 ((j.ibase + q.1) % 2 ^ 16), tag := 0 }]
          ∧ (t.cell c).mx = { cl.mx with sort := some { j with emitted := j.emitted + 1 } } ∧ SameDevice s t)
    ∧ (∀ o d1 d2, s.op? j.op = some o → o.opc = 0xC6 → o.replay = false → j.keys.length ≤ j.entered → cl.port 1 = [d1] → cl.port 2 = [d2] →
        here d1 → here d2 → (d1.e, d1.i) ≠ (d2.e, d2.i) → s.space k [d1] = true → s.space k [d2] = true → MeterPays s k c (4096 + j.op) 0 →
        j.order[j.emitted]? = none →
        ∃ t, exec .sortEmit s = .next t
          ∧ inq t d1 = inq s d1 ++ [{ val := BitVec.ofNat 32 j.keys.length, tag := 5 }]
          ∧ inq t d2 = inq s d2 ++ [{ val := BitVec.ofNat 32 j.keys.length, tag := 5 }]
          ∧ (t.cell c).mx.sort = none ∧ (∀ p ∈ t.ops, p.id ≠ j.op) ∧ t.mem = s.mem))
  ∧ (s.engineTask c 13 = some k → cl.scan.busy = true → k.gate = .none → cl.scan.op = none →
      (∀ m, cl.scan.spad = some m → cl.scan.pos < 2 ^ 20) → cl.scan.read < cl.scan.n →
      s.bindCheck k { spad := cl.scan.spad, ea := cl.scan.pos } 64 .load = none →
      ∃ t, exec .scanToken s = .next t
        ∧ t.ops = s.ops ++ [{ id := s.clock.nextId, inj := s.clock.nextId, sent := s.clock.tick, cell := c, elem := scanElem, opc := 0x100, task := k.id, spad := cl.scan.spad,
                              ea := cl.scan.pos, len := 64 }]
        ∧ (t.cell c).scan = { cl.scan with op := some s.clock.nextId } ∧ t.mem = s.mem)
  ∧ (∀ d, s.engineTask c 13 = some k → cl.scan.busy = true → k.gate = .none → cl.scan.op = none → cl.scan.n ≤ cl.scan.read →
      cl.port 3 = [d] → here d → s.space k [d] = true → MeterPays s k c 13 0 →
      ∃ t, exec .scanToken s = .next t
        ∧ inq t d = inq s d ++ [{ val := BitVec.ofNat 32 cl.scan.emitted, tag := 5 }]
        ∧ (t.cell c).scan.busy = false ∧ t.mem = s.mem ∧ t.ops = s.ops)

/-- R198, R208, R379, R380, R416: a conversion without overflow tokens to send writes its next block to its slot, and completes
with the number of elements that saturated; a block of a copy from a scratchpad stands in its slot, which is READY after the
last; a block of a TSTORE of an unguarded task stands in its scratchpad, the first one where no word of the range is tentative. A slot
made READY, by a conversion or a copy, is so from the next step of its cell on. Which elements count as saturated, which tentative and
counting words hold back the first and the later blocks of a TSTORE, and what the sticky flags of a conversion gather are the model's
readings (log entries 34, 29 and 92). -/
def Obligations.BlocksMove : Prop := ∀ (s : State) (o : Op) (k : Task),
  let c := s.cur.subject
  let v := (s.cell c).conv
  let slot := o.f.dst.toNat % 8
  let turn (m i : Nat) : Prop := s.tooLate (s.arrivals k (o.oneBlock i)) = false
    ∧ (s.arrive (s.arrivals k (o.oneBlock i))).servedFirst (o.oneBlock i) = false ∧ s.retained (.spad m) = false
  s.op? o.id = some o → s.task? o.task = some k → o.replay = false →
  (∀ j, v.job = some j → j.op = o.id → k.halted = false → (s.cell c).halted = false → o.phase = .issued → j.tokens = [] → j.memMode = false → o.cell = c →
    (j.next < o.left.length →
      ∃ t, exec .convertBlock s = .next t
        ∧ mget ((t.cell c).tile j.dst).blocks j.next {} = (v.block j j.next).1
        ∧ (∀ n, n ≠ j.next → mget ((t.cell c).tile j.dst).blocks n {} = mget ((s.cell c).tile j.dst).blocks n {})
        ∧ ((t.cell c).tile j.dst).st = (if j.next + 1 = o.left.length then .ready else ((s.cell c).tile j.dst).st) ∧ (∀ e, (t.cell c).newStep e = true)
        ∧ (∃ j', (t.cell c).conv.job = some j' ∧ j'.next = j.next + 1 ∧ j'.saturated = j.saturated + (v.block j j.next).2.2.1
            ∧ j'.sticky = j.sticky ||| (v.block j j.next).2.2.2)
        ∧ { t with cells := s.cells } = s)
    ∧ (o.left.length ≤ j.next → mget (s.cell c).ctl 0x28 [] = [] → o.opc = 0xC8 →
      ∃ t, exec .convertComplete s = .next t ∧ (t.cell c).conv.job = none ∧ (∀ p ∈ t.ops, p.id ≠ o.id)
        ∧ (∀ d < 16, (t.elem c o.elem).greg d =
            if d = o.f.dst.toNat then BitVec.ofNat 32 j.saturated else (s.elem c o.elem).greg d)
        ∧ t.mem = s.mem))
  ∧ (∀ m i, o.opc = 0x50 → o.spad = some m → o.phase = .issued → i ∈ o.left → s.mayGo o = true → turn m i →
      ∃ t, exec (.tileBlockArrive o.id i) s = .next t
        ∧ mget ((t.cell o.cell).tile slot).blocks i {} = (s.cell m).spad.viewBlock ((o.ea + 64 * i) / 64) (some k.id)
        ∧ (∀ n, n ≠ i → mget ((t.cell o.cell).tile slot).blocks n {} = mget ((s.cell o.cell).tile slot).blocks n {})
        ∧ (∃ p, t.op? o.id = some p ∧ p.left = o.left.filter (fun n => n != i)
            ∧ (p.left = [] → p.phase = .performed ∧ ((t.cell o.cell).tile slot).st = .ready ∧ ∀ e, (t.cell o.cell).newStep e = true)
            ∧ (p.left ≠ [] → p.phase = .issued ∧ ((t.cell o.cell).tile slot).st = ((s.cell o.cell).tile slot).st))
        ∧ { t with cells := s.cells, ops := s.ops, served := s.served, clock := { t.clock with nextId := s.clock.nextId } } = s)
  ∧ (∀ m i, o.opc = 0x51 → o.spad = some m → o.phase = .issued → i ∈ o.left → s.mayGo o = true → turn m i →
      s.isGuarded k = false → o.ea % 64 = 0 →
      (∀ n ∈ o.left, (s.cell m).spad.countingIn ((o.ea + 64 * n) / 4) 16 (some k.id) = none
        ∧ (n = i ∨ o.left.length = o.len / 64 → (s.cell m).spad.hiddenIn ((o.ea + 64 * n) / 4) 16 (some k.id) = false)) →
      let b := mget ((s.cell o.cell).tile slot).blocks i {}
      ∃ t, exec (.tileBlockPerformed o.id i) s = .next t
        ∧ (∀ a, (t.cell m).spad.bytes.read a = if o.ea + 64 * i ≤ a ∧ a < o.ea + 64 * i + 64 then
            BitVec.ofNat 8 (b.data.toNat / 2 ^ (8 * (a - (o.ea + 64 * i)))) else (s.cell m).spad.bytes.read a)
        ∧ mget (t.cell m).spad.tags ((o.ea + 64 * i) / 64) 0 = b.tag ∧ (t.cell m).spad.words = (s.cell m).spad.words
        ∧ (∃ p, t.op? o.id = some p ∧ p.left = o.left.filter (fun n => n != i)
            ∧ (p.left = [] → p.phase = .performed ∧ ((t.cell o.cell).tile slot).st = .ready ∧ ∀ e, (t.cell o.cell).newStep e = true))
        ∧ t.mem = s.mem ∧ t.hostMem = s.hostMem)

/-- Task k has vanished with a cause (R101, R162): memory and its tags are as before, its cells are free, and it is queued again
under a new number with its age and one more restart, or it is gone. -/
def Vanished (s t : State) (k : Task) (c : Cause) : Prop :=
  t.mem = s.mem ∧ t.tags = s.tags ∧ (∀ d, (s.cell d).owner = some k.id → (t.cell d).owner = none)
  ∧ (if s.mayRestart k c then ∃ n, s.clock.nextId ≤ n ∧ k.restarted n c ∈ t.tasks else ∀ u ∈ t.tasks, u.id ≠ k.id)

/-- R134, R135, R143, R144, R146, R347, R458: a top-up request is granted where its account can draw it and BAL and TOPPED stay
below 2^32, and denied elsewhere; a
denied meter that is STALLED stops its task with SHORT; a move between accounts takes at most the balance and writes what it moved
back to the command that asked for it, if the hearth still executes it (log entry 94); a physical-mode
meter below a packet stalls while a request is pending and stops its task otherwise, once no SPAWN of its cell in the tick can be
taken back (log entry 95); a brownout of a cell
whose balance covers a waiting firing vanishes the task and asks for a self-test. The division of physical mode into moves is the model's (log entry 32). -/
def Obligations.MetersSettle : Prop := ∀ (s : State) (k : Task),
  (∀ (n : Nat) (q : TopReq) (rest : List TopReq), takeReq n s.sched.reqs = some (q, rest) → q.dest = none →
    s.task? q.task = some k → (s.cell q.cell).owner = some k.id →
    let m := (s.cell q.cell).meter
    let a := s.acct q.acct
    let fits : Prop := a.canDraw (64 * q.packets) = true ∧ m.bal + 64 * q.packets < 2 ^ 32 ∧ m.topped + 64 * q.packets < 2 ^ 32
    (fits → m.st = .pending → ∃ t, exec (.topupSettle n) s = .next t
      ∧ t.acct q.acct = { a with balance := a.balance - 64 * q.packets, out := a.out + 64 * q.packets }
      ∧ (∀ j, j ≠ q.acct → t.acct j = s.acct j)
      ∧ (t.cell q.cell).meter = { m with bal := m.bal + 64 * q.packets, topped := m.topped + 64 * q.packets, pend := false, st := .paying }
      ∧ (∀ c, c ≠ q.cell → t.cell c = s.cell c) ∧ t.sched.reqs = rest ∧ t.mem = s.mem ∧ t.tasks = s.tasks)
    ∧ (¬ fits → m.st = .pending → ∃ t, exec (.topupSettle n) s = .next t
      ∧ (t.cell q.cell).meter = { m with denied := true, pend := false, st := .paying }
      ∧ (∀ c, c ≠ q.cell → t.cell c = s.cell c) ∧ t.sched.reqs = rest ∧ t.accts = s.accts ∧ t.mem = s.mem ∧ t.tasks = s.tasks)
    ∧ (¬ fits → m.st = .stalled → k.st = .running → k.trapOf = none →
      ∃ t, exec (.topupSettle n) s = .next t ∧ Vanished s t k .short))
  ∧ (∀ (q : TopReq) (d : Nat) (rest : List TopReq), takeReq q.acct s.sched.reqs = some (q, rest) → q.dest = some d → d ≠ q.acct →
      (takeReq d s.sched.reqs).map (·.1) = some q →
      let n := min (mget (s.room q.room).hearth.h q.ha 0).toNat (s.acct q.acct).balance
      ∃ t, exec (.topupSettle q.acct) s = .next t ∧ (t.acct q.acct).balance = (s.acct q.acct).balance - n
        ∧ (t.acct d).balance = min ((s.acct d).balance + n) (2 ^ 48 - 1)
        ∧ mget (t.room q.room).hearth.h q.ha 0 = (if (s.room q.room).hearth.exec.any (fun x => x.moves q.task)
            then BitVec.ofNat 64 n else mget (s.room q.room).hearth.h q.ha 0) ∧ t.sched.reqs = rest ∧ t.cells = s.cells ∧ t.mem = s.mem)
  ∧ (s.owner? s.cur.subject = some k → k.st = .running →
      let c := s.cur.subject
      let m := (s.cell c).meter
      ((s.entryOf k).mmode = true → k.frozen = false → m.bal < 64 → (s.cell c).spawning s.clock.tick = false →
        (m.st = .pending → ∃ t, exec .physicalStop s = .next t ∧ (t.cell c).meter = { m with st := .stalled }
          ∧ { t with cells := s.cells } = s)
        ∧ (m.st = .paying → k.trapOf = none → ∃ t, exec .physicalStop s = .next t ∧ Vanished s t k .short))
      ∧ ((s.entryOf k).mmode = false → s.coveredFiring c = true → k.trapOf = none →
        ∃ t, exec .brownout s = .next t ∧ Vanished s t k .fault
          ∧ (s.lodge.st ≠ 6 → t.lodge.errLog = s.lodge.errLog ++ [(c, 2)])
          ∧ t.lodge.pendingTests = s.lodge.pendingTests ++ [c]))

/-- R96, R124, R153, R160, R200, R268, R269: the commit point of a task whose vestibules are drained drops its marks, books
its meters and frees its cells; a task past the age horizon ends; a quiescent gang is pre-empted with its operations
withdrawn; its saved context frees its cells for 8 mu a block; a long wait outside the gang gates the task for parking. The
order of the effects at a commit point and the context's charge are the model's readings (log entries 26 and 42). -/
def Obligations.TasksEnd : Prop := ∀ (s : State) (k : Task),
  (s.task? s.cur.subject = some k →
    (k.st = .committing → (∀ c ∈ k.gang, (s.cell c).vest = []) → k.trapOf = none →
      let ms := k.gang.map fun c => (s.cell c).meter
      let bal := (ms.map Meter.bal).sum
      let drawn := (ms.map fun m => m.decl + m.topped).sum
      ∃ t, exec .commitPoint s = .next t ∧ t.mem = s.mem ∧ t.tags = s.tags ∧ (∀ u ∈ t.tasks, u.id ≠ k.id)
        ∧ (∀ d, (s.cell d).owner = some k.id → (t.cell d).owner = none)
        ∧ (∀ d w, (t.cell d).spad.tentBy w ≠ some k.id ∧ (t.cell d).spad.word w = (s.cell d).spad.word w)
        ∧ t.acct (s.entryOf k).acct = (s.acct (s.entryOf k).acct).settle bal drawn)
    ∧ (s.pastHorizon k.age = true → k.trapOf = none →
      (k.st = .queued → ∃ t, exec .ageHorizon s = .next t ∧ t.mem = s.mem ∧ ∀ u ∈ t.tasks, u.id ≠ k.id)
      ∧ (k.st = .running → ∃ t, exec .ageHorizon s = .next t ∧ t.mem = s.mem ∧ (∀ u ∈ t.tasks, u.id ≠ k.id)
          ∧ ∀ d, (s.cell d).owner = some k.id → (t.cell d).owner = none))
    ∧ (k.st = .running → k.frozen = false → k.halted = false → k.gate = .preempt → k.faults = [] → s.gangQuiet k = true →
      ∃ t u, exec .preemptQuiescent s = .next t ∧ t.task? k.id = some u ∧ u.st = .preempted ∧ u.saving = true ∧ u.gate = .none
        ∧ (∀ o ∈ t.ops, o.task = k.id → o.replay = true) ∧ t.mem = s.mem)
    ∧ (k.st = .preempted → k.saving = true → (∀ q ∈ s.sched.reqs, q.task ≠ k.id) →
      ∃ t u x, exec .contextSaveComplete s = .next t ∧ t.task? k.id = some u ∧ u.saving = false ∧ u.ctx = some x
        ∧ x.cells = k.gang.map (fun c => (k.posOf c, s.cell c)) ∧ x.ops = s.ops.filter (fun o => o.task == k.id)
        ∧ (∀ o ∈ t.ops, o.task ≠ k.id) ∧ (∀ d, (s.cell d).owner = some k.id → (t.cell d).owner = none)
        ∧ HearthPays s t k.room (8 * (k.contextBytes / 64)) ∧ t.mem = s.mem))
  ∧ (∀ (o : Op) (m w : Nat), s.op? o.id = some o → s.task? o.task = some k → o.spad = some m →
      o.waits = true → s.waitWord o m = some w → k.holds m = false → k.st = .running → k.frozen = false → s.paused k = false →
      k.gate = .none → (s.room k.room).parkThresh ≠ 0 → o.since + (s.room k.room).parkThresh < s.clock.tick →
      (s.room k.room).waitTab.length < 64 → k.contextBytes ≤ s.poolFree →
      ∃ t u, exec (.park o.id) s = .next t ∧ t.task? k.id = some u ∧ u.gate = .park ∧ u.parkWord = some (m, w)
        ∧ ((o.opc = 0x42 ∨ o.opc = 0x43) → w = o.ea / 4)
        ∧ (t.room k.room).waitTab = (s.room k.room).waitTab ++ [.park k.id m w] ∧ t.mem = s.mem ∧ t.ops = s.ops)

/-- The report that XLAT_PFLOG takes of the access f, the first held for a page (R267): a record of 32 bytes where no report of the
page stands for the address space, and nothing where one does or the log is off. -/
def PageReported (s t : State) (asid page : Nat) (f : Op) : Prop :=
  let l := s.logs.pf
  let rec32 := natToBytes 8 (f.vaIn page) ++ natToBytes 1 asid ++ natToBytes 1 (if writesMem f.opc = true then 1 else 0)
    ++ natToBytes 1 (cellX f.cell) ++ natToBytes 1 (cellY f.cell) ++ natToBytes 4 0 ++ natToBytes 8 (s.task f.task).age ++ natToBytes 8 0
  if s.pageReported asid page = false ∧ l.en = true ∧ l.sz ≤ 10 then
    t.hostMem = s.hostMem.writeBytes (l.base + 32 * (l.prod % (64 * 2 ^ l.sz))) rec32
      ∧ t.logs.pf = { l with prod := (l.prod + 1) % 2 ^ 32 }
  else t.hostMem = s.hostMem ∧ t.logs.pf = l

/-- R14, R20, R122, R123, R166, R167, R224, R233, R266, R267: a walk that finds a page enters it in the room's translations and
lets the held accesses go on, but a write to a page that may not be written stays held; one that finds none keeps them held; of what
stays held the first is recorded in XLAT_PFLOG, unless the page's report is out; a walk that reads a poisoned table faults them; ten
milliseconds of hold, or without a route, vanish the task; a request for a set that no one holds is granted, one for a set that a
younger task holds wounds that task, and one for a set that an older task holds waits in the wait table; a wait whose limit has passed
freezes its element with fault code 0x0E, and a parked task whose limit has passed waits for staging as if it had been woken. That
the element which fired a waiting operation is its NODE, when a route exists, and that a poisoned table faults POISON, are the
model's readings (log entries 25, 30 and 66). -/
def Obligations.WaitsResolve : Prop := ∀ s : State,
  (∀ (id : Nat) (u : Task), s.op? id = none → s.task? u.id = some u →
      s.tasks.find? (fun v => v.st == .parked
        && v.ctx.any fun x => x.ops.any fun q => q.id == id && q.limit.any fun l => decide (l < s.clock.tick)) = some u →
      ∃ t v, exec (.waitLimitExpire id) s = .next t ∧ t.task? u.id = some v ∧ v = { u with wake := true, run := .woken }
        ∧ (u.saving = false → v.waiting = true) ∧ (∀ r c w, WaitEnt.park u.id c w ∉ (t.room r).waitTab)
        ∧ t.cells = s.cells ∧ t.ops = s.ops ∧ t.mem = s.mem)
  ∧ ∀ (o : Op) (k : Task), s.op? o.id = some o → s.task? o.task = some k →
  (∀ (r asid page : Nat), page % 65536 = 0 → page < 2 ^ 48 → (asid, page) ∈ (s.room r).walks → s.walkAsleep asid page = [] →
      o.phase = .held → o.heldPage = page → k.room = r → s.asidOf k = asid →
      (∀ p, s.walkPoison asid page = none → s.walk asid page = some p →
        let stays := writesMem o.opc && !p.wr
        ∃ t q, exec (.walkComplete r asid page) s = .next t ∧ t.op? o.id = some q
          ∧ { asid := asid, va := p.base, size := p.size, pa := p.pa, wr := p.wr } ∈ (t.room r).tlb
          ∧ (stays = false → q.phase = .issued ∧ q.heldAt = none ∧ q.retry = true)
          ∧ (stays = true → q.phase = .held ∧ q.wrHeld = true ∧ q.reported = true
              ∧ ∀ f, s.ops.find? (fun u => s.heldFor r asid page u && writesMem u.opc) = some f → PageReported s t asid page f)
          ∧ t.mem = s.mem ∧ t.cells = s.cells)
      ∧ (s.walkPoison asid page = none → s.walk asid page = none → ∃ t q, exec (.walkComplete r asid page) s = .next t
        ∧ t.op? o.id = some q ∧ q.phase = .held ∧ q.reported = true
        ∧ (∀ f, s.ops.find? (s.heldFor r asid page) = some f → PageReported s t asid page f)
        ∧ (t.room r).tlb = (s.room r).tlb ∧ t.mem = s.mem ∧ t.cells = s.cells)
      ∧ (∀ a, s.walkPoison asid page = some a → k.frozen = false → o.opc < 0x100 →
        ∃ t q, exec (.walkComplete r asid page) s = .next t
          ∧ t.op? o.id = some q ∧ q.replay = true ∧ (t.elem o.cell o.elem).frozen = true))
  ∧ (o.task = s.cur.subject → o.phase = .held → (∃ q, o.heldAt = some q ∧ q + 40000000 ≤ s.clock.tbase) → k.st = .running →
      k.trapOf = none → ∃ t, exec .pageTimeout s = .next t ∧ Vanished s t k .page)
  ∧ (o.phase ≠ .performed → (∃ q, o.noRoute = some q ∧ q + 40000000 ≤ s.clock.tbase) → k.st = .running → k.trapOf = none →
      (∃ r ∈ s.physPieces k o.ranges, s.routed r.1 = false) → ∃ t, exec (.linkTimeout o.id) s = .next t ∧ Vanished s t k .link)
  ∧ (∀ n, o.phase = .waitSet → s.atLock o = false → o.replay = false → s.nextSet k o.ranges = some n →
      s.pathBusy [o.id] (if o.since = 0 then o.inj else s.clock.nextId) (s.setLegs k o) = false → s.tooLate [s.lockArrival k n] = false → (∀ a, s.lockPa k n = some a → s.retainedIn a 64 = []) →
      let granted (t : State) : Prop := (∃ q, t.op? o.id = some q ∧ q.phase = .issued)
        ∧ (∃ u, t.task? k.id = some u ∧ n ∈ u.sets) ∧ (∃ l ∈ t.locks, l.ctn = n.1 ∧ l.set = n.2 ∧ l.holder = some k.id)
        ∧ t.mem = s.mem ∧ t.cells = s.cells
      ((∀ l ∈ s.locks, ¬ (l.ctn = n.1 ∧ l.set = n.2)) →
        (o.since = 0 → ∃ t, exec (.setRequestArrive o.id) s = .next t ∧ granted t)
        ∧ (o.since ≠ 0 → o.since + 1024 ≤ s.clock.tick + 1 → ∃ t, exec (.setRetry o.id) s = .next t ∧ granted t))
      ∧ (∀ (l : Lock) (h : Task), s.locks.find? (fun x => x.ctn == n.1 && x.set == n.2) = some l → l.holder = some h.id →
        s.task? h.id = some h → o.since = 0 →
        (ageOlder k.age h.age = true → h.st = .running → h.trapOf = none →
          ∃ t, exec (.setRequestArrive o.id) s = .next t ∧ Vanished s t h .wound)
        ∧ (ageOlder k.age h.age = false → (s.room k.room).waitTab.length < 64 →
          ∃ t, exec (.setRequestArrive o.id) s = .next t
            ∧ (t.room k.room).waitTab = (s.room k.room).waitTab ++ [.set o.id]
            ∧ (∃ x ∈ t.locks, x.ctn = n.1 ∧ x.set = n.2 ∧ o.id ∈ x.waiters) ∧ t.mem = s.mem ∧ t.cells = s.cells)))
  ∧ (∀ l, o.phase = .waiting → o.limit = some l → l < s.clock.tick → o.replay = false → s.paused k = false → k.frozen = false →
      o.opc < 0x100 →
      ∃ t, exec (.waitLimitExpire o.id) s = .next t ∧ (t.elem o.cell o.elem).frozen = true
        ∧ (t.elem o.cell o.elem).fault.code = 0x0E ∧ (t.elem o.cell o.elem).fault.sub = o.opc
        ∧ (t.elem o.cell o.elem).fault.slot = o.slot ∧ (∃ q, t.op? o.id = some q ∧ q.replay = true)
        ∧ (t.elem o.cell o.elem).greg = (s.elem o.cell o.elem).greg ∧ t.mem = s.mem)

/-- What the entry into a trap of task k writes (R254, R257, R258, R259, R261): the task is frozen with its frame, the frame's
first 16 bytes are the fault register, and the packet of 17 bytes for the trap tag (frame address, age, code) is queued for the
handler; device memory outside the room's trap area at `b` is as before. -/
def TrapTaken (s t : State) (k : Task) (b tag : Nat) (reg : FaultReg) (nfault : Nat) : Prop :=
  let off := 1024 * (8 * k.y0 + k.x0)
  (∃ u, t.task? k.id = some u ∧ u.frozen = true ∧ u.frame = true ∧ u.nfault = min 255 nfault ∧ u.faults.map PendFault.reg = [reg])
  ∧ t.physBytes (s.devNum * 2 ^ 44 + b + off) 16 = reg.bytes
  ∧ (∃ u ∈ t.tasks, u.tag = tag ∧ u.trapOf = some (k.id, k.age) ∧ u.st = .queued
      ∧ u.arg = natToBytes 8 (((s.room k.room).trapVa.toNat % 2 ^ 48 + off) % 2 ^ 64) ++ natToBytes 8 k.age
          ++ natToBytes 1 reg.code)
  ∧ (∀ a, a < s.devNum * 2 ^ 44 + b ∨ s.devNum * 2 ^ 44 + b + 69632 ≤ a → s.level a ≠ .host → t.physByte a = s.physByte a)

/-- A trap of task k can be taken by its handler: the arrays of its frame, and of its map where one is written, are awake and have
served no later requester of the tick, and the pool has an entry above its reserve (R45, R106, R240, R257, R258). -/
def TrapReady (s : State) (k : Task) (b tag : Nat) (withMap : Bool) : Prop :=
  s.trapArea k.room = some b ∧ k.x0 < 8 ∧ k.y0 < 8 ∧ (s.handlerOf k).trap = some tag ∧ s.tagLoaded tag = true
  ∧ (s.rtag tag).cur.launch = false ∧ 1024 < s.qfree ∧ s.frameSleeps k withMap = []
  ∧ s.tooLate (s.memArrivals (s.trapPieces k withMap) (roomKey k.room)) = false

/-- R254, R257, R258, R259, R264, R265: the first fault of a gang that reaches its hearth, and a deadlock count that reaches
its limit, take the trap of the task; the other faults are counted. The order of faults that arrive together between moves
is the model's reading (log entry 25). -/
def Obligations.TrapsAreTaken : Prop := ∀ (s : State) (k : Task) (b tag : Nat),
  s.task? s.cur.subject = some k → k.frozen = false →
  (∀ p, TrapReady s k b tag false → firstFault k.faults = some p → ∃ t, exec .faultReachHearth s = .next t
    ∧ TrapTaken s t k b tag p.reg (k.nfault + (k.faults.length - 1)))
  ∧ (TrapReady s k b tag true → k.st = .running → s.paused k = false → (s.room k.room).dlock ≠ 0 → (s.room k.room).dlock ≤ k.dcount →
    let reg : FaultReg := { code := 0x0F, node := 15, cell := k.cellAt 0 0, sub := 4 * k.gw + k.gh, info := 65536 }
    ∃ t, exec .deadlockExpire s = .next t ∧ TrapTaken s t k b tag reg (k.nfault + (k.faults.erase { reg := reg }).length))

/-- R171, R204, R265, R449, R452, R461: a hearth takes one block of an HCOPY to its destination with its tag for 8 mu, and
16 mu from the cellar; a switch whose limit has passed, or is the present tick with the gang not quiescent, traps the hearth with cause 2 and its task with code 0x10; a QUIESCE
whose limit has passed ends the gating and is refused with reason 4; CONT takes a TRAPPED hearth past its command; a command that
has only its signal left ends with it (log entry 21). What a passed limit does to a gang and its accesses is the model's reading where R452 leaves it open (log entry 44). -/
def Obligations.HearthEventsComplete : Prop := ∀ (s : State) (r : Nat),
  let h := (s.room r).hearth
  (∀ (c : HCmd) (x : HExec) (q p : Nat), s.cur.subject = r → h.st = .exec → h.exec = some x → x.instr = .hcopy c → x.ending = none →
      let n := c.imm.toNat
      let i := x.doneUnits
      s.hearthAddr r (mget h.h c.ha.toNat 0) (64 * n) 64 = some (.phys q) →
      s.hearthAddr r (mget h.h c.hb.toNat 0) (64 * n) 64 = some (.phys p) → i < n →
      s.level (q + 64 * i) ∈ [.landing, .cellar, .attic] → s.level (p + 64 * i) ∈ [.landing, .cellar, .attic] →
      HearthSends s r [(.phys p, 64 * i, 64)] [(.phys q, 64 * i, 64)] → q % 64 = 0 → p % 64 = 0 → s.logs.wlog.en = false →
      ∃ t, exec .hearthCmdComplete s = .next t
        ∧ (∀ a, t.physByte a = if q + 64 * i ≤ a ∧ a < q + 64 * i + 64 then s.physByte (p + 64 * i + (a - (q + 64 * i)))
            else s.physByte a)
        ∧ t.physTag (q + 64 * i) = s.physTag (p + 64 * i)
        ∧ HearthPays s t r (if s.level (p + 64 * i) = .cellar then 16 else 8) ∧ t.cells = s.cells ∧ t.tasks = s.tasks
        ∧ (i + 1 < n → (t.room r).hearth = { h with exec := some { x with doneUnits := i + 1, heldBy := none, waitFrom := none } })
        ∧ (n = i + 1 → HearthDone s t r c (h.pos + 1) id))
  ∧ (∀ (c : HCmd) (x : HExec) (pos : Nat), s.cur.subject = r → h.st = .exec → h.exec = some x → x.ending = some (c, pos) →
      ∃ t, exec .hearthCmdComplete s = .next t ∧ HearthDone s t r c pos id ∧ HearthFrame s t ∧ t.accts = s.accts)
  ∧ (∀ (c : HCmd) (x : HExec) (k : Task) (b tag : Nat), s.cur.subject = r → h.st = .exec → h.exec = some x → x.instr = .cfgswitch c →
      s.task? x.task = some k → k.st = .running → s.paused k = false → k.frozen = false → x.since + c.imm.toNat ≤ s.clock.tick →
      (k.gate = .switch → x.since + c.imm.toNat = s.clock.tick → s.switchQuiet k = false) → TrapReady s k b tag true →
      let reg : FaultReg := { code := 0x10, node := 15, cell := k.cellAt 0 0, info := 65536 }
      ∃ t, exec .switchStuck s = .next t ∧ (t.room r).hearth = { h with st := .trapped, cause := 2, exec := none }
        ∧ TrapTaken s t k b tag reg (k.nfault + (k.faults.erase { reg := reg }).length))
  ∧ (∀ (c : HCmd) (x : HExec) (k : Task), s.cur.subject = r → h.st = .exec → h.exec = some x → x.instr = .quiesce c →
      c.imm.toNat % 2 ^ 32 ≠ 0 → x.since + c.imm.toNat % 2 ^ 32 ≤ s.clock.tick → s.task? x.task = some k → s.paused k = false →
      k.st = .running → (k.gate = .quiesce → k.frozen = false → k.faults = [] → s.gangQuiet k = false) →
      ∃ t, exec .quiesceLimitExpire s = .next t
        ∧ (∃ u, t.task? k.id = some u ∧ u.gate = if k.gate = .quiesce then .none else k.gate) ∧ t.mem = s.mem
        ∧ HearthDone s t r c (h.pos + 1)
            (fun m => { m with herr := { count := min (m.herr.count + 1) 0xFFFF, a := 4, b := 7, c := m.hearth.pos } }))
  ∧ (∀ v : BitVec 64, h.st = .trapped → v.getLsbD 63 = true → ∃ t, exec (.hearthCont r v) s = .next t
      ∧ (t.room r).hearth = { h with pos := h.pos + 1, st := if h.pos + 1 < h.prog.length then .wait else .ended, exec := none,
                                     cause := 0 }
      ∧ (∀ q, q ≠ r → t.room q = s.room q) ∧ { t with rooms := s.rooms } = s)

/-- Reads that reach homes leave only the slices' idle time, the watchpoints' log and their places in the tick behind (R44, R240,
R279). -/
def ReadsOnly (s t : State) : Prop :=
  { t with tasks := s.tasks, hostMem := s.hostMem, served := s.served, power := { t.power with sliceUse := s.power.sliceUse },
           logs := { t.logs with wlog := s.logs.wlog } } = s

/-- R45, R92, R98, R109, R113, R114, R139, R141, R170, R271, R488: a launch at the head of its queue is expanded by one task; the
argument block of an expanded task is copied into it; a dispatcher stages the task it chose, drawing its declaration and
taking a shadow slot in every cell; a standby plane is filled at the room's expense; the loads of a staged task complete; a
runnable task whose cells are free enters running with its image, its meters and its entry debits, or with its saved
context, and its SPAWNs that were held back may fire (R118). A read that comes after a later requester of the tick is of the next
one: the places in a tick are log entry 2's. A prefetch of any length stands in its slots once every page of it is found, and the blocks from the cellar are counted for
the entry debit. The turn of the wings within a tick, and what a prefetch checks, are the model's readings (log entries 40 and 41). -/
def Obligations.StagingProceeds : Prop := ∀ (s : State) (k : Task),
  (∀ l, s.launches.find? (fun m => m.id == l.id) = some l → s.queueHead l.tag = some (.launch l) → (s.rtag l.tag).en = true →
      s.sched.hold = false → l.halted = false → 1024 < s.qfree → s.withheld { tag := l.tag, gen := l.gen } = false →
      (∃ w < 4, (s.placeIn { tag := l.tag, gen := l.gen } w).isSome = true) →
      ∃ t u, exec (.launchExpand l.id) s = .next t ∧ t.tasks = s.tasks ++ [u] ∧ u.tag = l.tag ∧ u.pid = l.pid ∧ u.st = .queued
        ∧ u.launch = some { launch := l.id, i := l.next % l.nx, j := l.next / l.nx, nx := l.nx, ny := l.ny }
        ∧ u.argWait = some s.clock.tbase
        ∧ t.launches = s.launches.map (fun m => if m.id = l.id then { m with next := m.next + 1 } else m)
        ∧ t.mem = s.mem ∧ t.cells = s.cells)
  ∧ (∀ ref l, s.task? s.cur.subject = some k → k.launch = some ref → k.argWait ≠ none → k.st = .queued →
      s.launches.find? (fun m => m.id == ref.launch) = some l →
      let rg := l.argRange ref
      let pas := s.blocksAt (s.asidOf k) [rg]
      (∀ p ∈ pagesIn [rg], p ∉ k.argReported) → s.walksAsleep (s.asidOf k) (pagesIn [rg]) = [] →
      s.bindCheck k { ea := rg.1 } rg.2 .load = none → s.absentPages (s.asidOf k) [rg] = [] → s.blocksAsleep pas = [] →
      (∀ pa ∈ pas, s.routed pa = true ∧ tagPoison (s.physTag pa) = false) →
      s.tooLate (s.memArrivals (pas.map fun pa => (pa, 64)) argKey) = false →
      ∃ t u, exec .argReadComplete s = .next t ∧ t.task? k.id = some u ∧ u.arg = pas.flatMap (fun pa => s.physBytes pa 64)
        ∧ u.argWait = none ∧ (∀ n, n ≠ k.id → t.task? n = s.task? n) ∧ ReadsOnly s t)
  ∧ (∀ tag r x y, s.cur.subject < 4 → s.sched.hold = false →
      (∀ v < 4, s.cur.subject ≤ v → mfind s.sched.lastStage v ≠ some s.clock.tick) → s.touchAllWm = s →
      s.sched.chosenAt = some s.clock.tick → mfind s.sched.chosen s.cur.subject = some tag →
      let s0 := s.settleFor tag
      s0.eligible s.cur.subject tag = some (k, r, x, y) → (s0.placed k r x y).gang.Nodup →
      ∃ t u, exec .dispatchStage s = .next t ∧ t.task? k.id = some u ∧ u.st = .staged ∧ u.room = r ∧ u.x0 = x ∧ u.y0 = y
        ∧ u.gw = (s.entryOf k).gw ∧ u.gh = (s.entryOf k).gh
        ∧ (let a := s0.acct (s0.entryOf k).acct
          t.acct (s0.entryOf k).acct = { a with balance := a.balance - s0.drawOf k, out := a.out + s0.drawOf k })
        ∧ (∀ c ∈ u.gang, (t.cell c).shadow = (s0.cell c).shadow ++ [k.id])
        ∧ mfind t.sched.lastStage s.cur.subject = some s.clock.tick ∧ t.mem = s0.mem ∧ t.ops = s0.ops)
  ∧ (let c := s.cur.subject
    ((s.cell c).shadow.head?.bind s.task?) = some k → (s.cell c).standby ≠ some (s.wantImg k c) →
      s.resident k.room (s.wantImg k c).ctn (s.wantImg k c).img = true →
      ∃ t, exec .standbyFillComplete s = .next t ∧ (t.cell c).standby = some (s.wantImg k c)
        ∧ Cell.engines { t.cell c with standby := (s.cell c).standby } = (s.cell c).engines
        ∧ (∀ d, d ≠ c → t.cell d = s.cell d) ∧ HearthPays s t k.room (8 * (s.imgCell (s.wantImg k c)).blocks)
        ∧ { t with cells := s.cells, accts := s.accts } = s)
  ∧ (s.task? s.cur.subject = some k → k.st = .staged →
    (k.runnable = false → s.planesHeld k = true → k.ctx = none →
      (let ps := (s.handlerOf k).prefetch
        let rs := ps.map fun p => p.range k
        let pas := s.blocksAt (s.asidOf k) rs
        let at_ (p : Prefetch) : Nat := p.y * k.width + p.x
        (∀ q ∈ pagesIn rs, q ∉ k.argReported) → s.walksAsleep (s.asidOf k) (pagesIn rs) = [] →
        s.absentPages (s.asidOf k) rs = [] → s.blocksAsleep pas = [] → (∀ pa ∈ pas, s.routed pa = true) →
        s.prefetchBehind k ps = false → s.tooLate (s.prefetchArrivals k ps) = false →
        ∃ t u, exec .prefetchComplete s = .next t ∧ t.task? k.id = some u ∧ u.runnable = true
          ∧ ((ps.map fun p => 2 * at_ p + p.slot).Nodup →
              ∀ p ∈ ps, mfind u.prefetched (2 * at_ p + p.slot) = some (s.prefetchTile k p))
          ∧ (∀ n, mget u.pfCellar n 0 = ((ps.filter fun p => at_ p == n).map (s.cellarBlocks k)).sum)
          ∧ ReadsOnly s t)
      ∧ ((s.handlerOf k).prefetch = [] → ∃ t u, exec .prefetchComplete s = .next t ∧ t.task? k.id = some u ∧ u.runnable = true
          ∧ { t with tasks := s.tasks } = s))
    ∧ (k.runnable = true → s.planesHeld k = true →
        (∀ c ∈ k.gang, (s.cell c).owner = none ∧ (s.cell c).shadow.head? = some k.id) →
        (k.ctx = none → k.gang.Nodup →
          ((s.entryOf k).mmode = true ∨ ∀ c ∈ k.gang, k.entryCost (k.posOf c) ≤ mget k.decl (k.posOf c) 0) →
          ∃ t u, exec .taskEnterRunning s = .next t ∧ t.task? k.id = some u
            ∧ u.st = .running ∧ t.mem = s.mem ∧ t.ops = s.ops
            ∧ ∀ c ∈ k.gang, (t.cell c).owner = some k.id
              ∧ (t.cell c).elems = (s.imgCell (s.wantImg k c)).elems.map (fun p => (p.1, p.2.enter))
              ∧ (t.cell c).vest = [] ∧ (t.cell c).active = (s.cell c).standby ∧ (t.cell c).spad.bytes = (s.cell c).spad.bytes
              ∧ (t.cell c).meter.bal = mget k.decl (k.posOf c) 0 - (if (s.entryOf k).mmode then 0 else k.entryCost (k.posOf c)))
        ∧ (∀ x, k.ctx = some x → (∀ a ∈ k.spads, s.retained a = false) → ∃ t u, exec .taskEnterRunning s = .next t ∧ t.task? k.id = some u
            ∧ u.st = .running ∧ u.ctx = none ∧ t.mem = s.mem
            ∧ ∀ c ∈ k.gang, (t.cell c).owner = some k.id ∧ (t.cell c).elems = (mget x.cells (k.posOf c) {}).elems.map (fun p => (p.1, { p.2 with barred := 0 }))
              ∧ (t.cell c).vec = (mget x.cells (k.posOf c) {}).vec ∧ (t.cell c).vest = (mget x.cells (k.posOf c) {}).vest)))

/-! ### Ways in and out of the device -/

/-- A packet that is not rejected has joined its tag's queue as one task (R56, R57, R99): a task packet of a tag without LAUNCH. -/
def PacketJoins (s t : State) (p : Packet) : Prop :=
  ∃ k, t.tasks = s.tasks ++ [k] ∧ k.tag = p.tag ∧ k.pid = p.pid ∧ k.arg = p.body ∧ k.st = .queued ∧ k.run = .fresh ∧ k.restarts = 0

/-- A record of ring 16 or of a completion ring stands in host memory and PROD has advanced (R59). -/
def Recorded (s t : State) (n : Nat) (bytes : List Byte) : Prop :=
  let r := s.ring n
  t.hostMem.readBytes (r.base + 256 * (r.prod % ringSize r.sz)) 256 = bytes
  ∧ t.ring n = { r with prod := (r.prod + 1) % ringSize r.sz, irqDue := true }

/-- What a matched frame of a port becomes (R71, R72): no stream, too long, no slot, or a slot written and its packet queued. -/
def FrameLands (s t : State) (f : EthFrame) (rule : Nat) : Prop :=
  let e := s.ethPort f.port
  let n := e.ruleStream rule
  let x := s.stream n
  (x.slotSize = none → t = s.updPort f.port fun k => { k with noMatch := min (k.noMatch + 1) (2 ^ 32 - 1) })
  ∧ ∀ size, x.slotSize = some size →
    (t.stream n).nextSeq = (x.nextSeq + 1) % 2 ^ 32
    ∧ (size - 32 < f.bytes.length → (t.stream n).dropLen = min (x.dropLen + 1) (2 ^ 32 - 1) ∧ t.mem = s.mem ∧ t.tasks = s.tasks
        ∧ (t.stream n).nextSlot = x.nextSlot)
    ∧ (f.bytes.length ≤ size - 32 → x.nextSlot ∈ x.taken → (t.stream n).dropFull = min (x.dropFull + 1) (2 ^ 32 - 1)
        ∧ t.mem = s.mem ∧ t.tasks = s.tasks ∧ (t.stream n).nextSlot = x.nextSlot)
    ∧ (f.bytes.length ≤ size - 32 → x.nextSlot ∉ x.taken → x.nextSlot < 4096 → s.eth.waiting = [] → 1024 < s.qfree →
        let tag := natField (mget e.ruleB rule 0).toNat 20 12
        s.tagLoaded tag = true → (s.rtag tag).cur.launch = false →
        let a := s.devNum * 2 ^ 44 + 0x80000000000 + natField x.cfg.toNat 32 29 / 4096 * 4096 + x.nextSlot * size
        let stamp := natToBytes 8 (stampNat f.stamp)
        t.physBytes a (32 + f.bytes.length) = stamp ++ natToBytes 4 x.nextSeq ++ natToBytes 2 f.bytes.length ++ natToBytes 1 f.port
          ++ natToBytes 1 rule ++ natToBytes 16 0 ++ f.bytes
        ∧ (∀ b, b < a ∨ a + 32 + f.bytes.length ≤ b → t.mem.read b = s.mem.read b)
        ∧ (t.stream n).nextSlot = (x.nextSlot + 1) % (natField x.cfg.toNat 16 12 + 1) ∧ x.nextSlot ∈ (t.stream n).taken
        ∧ (let body := natToBytes 2 n ++ natToBytes 2 x.nextSlot ++ natToBytes 4 x.nextSeq ++ stamp ++ natToBytes 2 f.bytes.length
          PacketJoins s t { tag := tag, pid := BitVec.ofNat 64 (stampNat f.stamp), body := body }))

/-- The home of the slot that a matched frame would take takes its write now (R45, R240). -/
def SlotTakes (s : State) (f : EthFrame) (i : Nat) : Prop := ∀ a, s.landing f i = some a →
  s.retainedIn a.1 a.2 = [] ∧ s.tooLate (s.memArrivals [a] (doorKey f.port)) = false

/-- R54, R55, R56, R63, R67: a host write fills an empty slot or guard; a write to a slot whose guard is full, to a full guard, or to a
part of a guard is discarded and counted; the engine of
an enabled ring takes the slot whose guard is full; a cancel removes a queued task with a record, and one that finds nothing
gives a record; an interrupt follows PROD at most once a microsecond. How discards are counted, and that dispatchers' turns
come before a cancel, are the model's readings (log entries 46 and 47); so are the LEN field of a record (log entry 20), the target of
a short cancel (log entry 71) and the order of the rejection statuses (log entry 90). -/
def Obligations.IntakeCompletes : Prop := ∀ (s : State),
  (∀ (n k j : Nat) (bytes : List Byte), n < 8 → k < 1024 → bytes ≠ [] →
    let r := s.intakeRing n
    (j + bytes.length ≤ 256 →
      (mfind r.guards k = none → ∃ t, exec (.hostIntakeWrite (0x80000 * n + 256 * k + j) bytes) s = .next t
        ∧ t.intakeRing n = { r with slots := r.slots.writeBytes (256 * k + j) bytes }
        ∧ (∀ m, m ≠ n → t.intakeRing m = s.intakeRing m) ∧ { t with intake := s.intake } = s)
      ∧ (mfind r.guards k ≠ none → ∃ t, exec (.hostIntakeWrite (0x80000 * n + 256 * k + j) bytes) s = .next t
        ∧ t.intakeRing n = { r with discards := min (r.discards + 1) (2 ^ 32 - 1) }
        ∧ (∀ m, m ≠ n → t.intakeRing m = s.intakeRing m) ∧ { t with intake := s.intake } = s))
    ∧ (bytes.length = 4 → mfind r.guards k = none →
        ∃ t, exec (.hostIntakeWrite (0x80000 * n + 0x40000 + 4 * k) bytes) s = .next t
        ∧ mfind (t.intakeRing n).guards k = some (bytesToNat bytes) ∧ (t.intakeRing n).slots = r.slots
        ∧ (t.intakeRing n).discards = r.discards ∧ { t with intake := s.intake } = s)
    ∧ (j + bytes.length ≤ 4 → bytes.length ≠ 4 ∨ mfind r.guards k ≠ none →
        ∃ t, exec (.hostIntakeWrite (0x80000 * n + 0x40000 + 4 * k + j) bytes) s = .next t
        ∧ t.intakeRing n = { r with discards := min (r.discards + 1) (2 ^ 32 - 1) }
        ∧ (∀ m, m ≠ n → t.intakeRing m = s.intakeRing m) ∧ { t with intake := s.intake } = s))
  ∧ (∀ n g, mfind (s.intakeRing n).guards (s.intakeRing n).next = some g → (s.intakeRing n).en = true →
      let p := packetOf ((s.intakeRing n).slots.readBytes (256 * (s.intakeRing n).next) 256)
      let taken (t : State) : Prop := mfind (t.intakeRing n).guards (s.intakeRing n).next = none
        ∧ (t.intakeRing n).next = ((s.intakeRing n).next + 1) % 1024 ∧ (t.intakeRing n).slots = (s.intakeRing n).slots
      (∀ st, s.rejectStatus p g = some st → (p.dev = s.devNum ∨ g ≠ 16 + p.len ∨ 256 < g) → s.ringBusy 16 = false →
        ∃ t, exec (.intakeTakeSlot n) s = .next t ∧ taken t ∧ Recorded s t 16 (recordBytes s.devNum p.tag st p.pid (fullBody []))
          ∧ t.tasks = s.tasks)
      ∧ (p.dev = s.devNum → s.rejectStatus p g = none → p.kind = 0 → 1024 < s.qfree → (s.rtag p.tag).cur.launch = false →
        ∃ t, exec (.intakeTakeSlot n) s = .next t ∧ taken t ∧ PacketJoins s t p ∧ t.mem = s.mem ∧ t.hostMem = s.hostMem))
  ∧ (∀ p : Packet, p.kind = 1 → s.rejectStatus p (16 + p.len) = none → s.dispatchTick = s → s.ringBusy 16 = false →
      (∀ l ∈ s.launches, ¬ (l.tag = p.tag ∧ l.pid = cancelTarget p)) →
      ((∀ k ∈ s.tasks, ¬ (k.tag = p.tag ∧ k.pid = cancelTarget p)) → ∃ t, exec (.cancel p) s = .next t
        ∧ Recorded s t 16 (recordBytes s.devNum p.tag 0x08 (cancelTarget p) (fullBody [])) ∧ t.tasks = s.tasks ∧ t.mem = s.mem)
      ∧ (∀ k : Task, s.tasks.filter (fun k => k.tag == p.tag && k.pid == cancelTarget p) = [k] → s.task? k.id = some k →
          k.st = .queued → k.launch = none → ∃ t, exec (.cancel p) s = .next t
        ∧ Recorded s t 16 (recordBytes s.devNum p.tag 0x02 k.pid (fullBody (reportBody k.age 0 0 0 0 k.restarts 0)))
        ∧ (∀ u ∈ t.tasks, u.id ≠ k.id) ∧ t.mem = s.mem))
  ∧ (∀ n, (s.ring n).irqDue = true → (∀ q, (s.ring n).irqLast = some q → q + 4000 ≤ s.clock.tbase) →
      ∃ t, exec (.ringInterrupt n) s = .next t
        ∧ t.ring n = { s.ring n with irqDue := false, irqLast := some s.clock.tbase, irqSent := (s.ring n).irqSent + 1 }
        ∧ (∀ m, m ≠ n → t.ring m = s.ring m) ∧ { t with rings := s.rings } = s)

/-- Only the watermark states and the dispatchers' choice of the tick, which they may undo, differ (R117, R130). -/
def OnlyWatermarks (s t : State) : Prop :=
  { t with rtags := s.rtags, sched := { t.sched with chosenAt := s.sched.chosenAt } } = s

/-- R30, R32, R59, R62, R64, R65, R66, R69, R72, R73, R75, R81: HOST_RINGn takes the host's fields and a record that waited
is written; an entry write gives the tag the stage as its new generation, is refused with BADVAL or BUSY without it, and a
read gives it back, and a write made while the lodge restarts waits; a frame is counted, held or landed, and a held one is landed
after the merge delay, once its home takes the write. A write in the tick of a TAGCTL of the tag is not in these clauses (R451). The order of BADVAL and BUSY, of the two checks of a frame, the times at which a port can give a stamp, and
the stage that a waiting write keeps are the model's (log entries 46, 48, 63 and 72); so is that a frame waits behind held frames also
with one port, and lands by its rule's words as they stand at its release (log entry 73). -/
def Obligations.FrontDoorCompletes : Prop := ∀ (s : State),
  (∀ (n : Nat) (v : BitVec 64), n ≤ 16 → (∀ l ∈ s.launches, l.ended < l.nx * l.ny) →
    let r := s.ring n
    let r0 : HostRing := { r with base := natField v.toNat 12 52 * 4096, sz := natField v.toNat 8 4, en := v.getLsbD 0 }
    (s.notices = [] → (∃ t, exec (.hostRingWrite n 0 v) s = .next t ∧ t.ring n = r0 ∧ (∀ m, m ≠ n → t.ring m = s.ring m)
        ∧ OnlyWatermarks { s with rings := t.rings } t)
      ∧ (∃ t, exec (.hostRingWrite n 1 v) s = .next t
        ∧ t.ring n = { r with vec := natField v.toNat 48 16, cons := natField v.toNat 16 16 } ∧ (∀ m, m ≠ n → t.ring m = s.ring m)
        ∧ OnlyWatermarks { s with rings := t.rings } t))
    ∧ (∀ x, s.notices = [x] → x.ring = n → r0.full = false → x.bytes.length = 256 → ∃ t, exec (.hostRingWrite n 0 v) s = .next t
        ∧ t.notices = [] ∧ t.hostMem.readBytes (r0.base + 256 * (r0.prod % ringSize r0.sz)) 256 = x.bytes
        ∧ t.ring n = { r0 with prod := (r0.prod + 1) % ringSize r0.sz, irqDue := true }))
  ∧ (∀ v : BitVec 64,
    let tag := natField v.toNat 0 12
    let w (i : Nat) : Nat := s.stageWord i
    let done (st : Nat) : State := { s with sched := { s.sched with rtTag := tag, rtStatus := st } }
    (natField v.toNat 62 2 = 1 → s.lodge.st ≠ 6 →
      (s.stageBad = false → s.oldBusy tag = false → (∀ q ∈ (s.rtag tag).ctl, q.tick ≠ s.clock.tick) → ∃ t, exec (.rtWrite v) s = .next t
        ∧ (t.rtag tag).words = [w 0 - 2 ^ 62 * natField (w 0) 62 1 + (if (s.rtag tag).pend then 2 ^ 62 else 0), w 1, w 2, w 3]
        ∧ (t.rtag tag).gen = (s.rtag tag).gen + 1
        ∧ ((s.rtag tag).written = true → (t.rtag tag).old = some (s.rtag tag).cur)
        ∧ (∀ m, m ≠ tag → t.rtag m = s.rtag m) ∧ OnlyWatermarks (done 0x00) t)
      ∧ (s.stageBad = true → exec (.rtWrite v) s = .next (done 0x02))
      ∧ (s.stageBad = false → s.oldBusy tag = true → exec (.rtWrite v) s = .next (done 0x01)))
    ∧ (natField v.toNat 62 2 = 1 → s.lodge.st = 6 → exec (.rtWrite v) s = .next { s with
        lodge := { s.lodge with heldWrites := s.lodge.heldWrites ++ [{ cmd := v, stage := s.sched.rtStage }] }
        sched := { s.sched with rtTag := tag } })
    ∧ (natField v.toNat 62 2 = 2 → ∃ t, exec (.rtRead v) s = .next t ∧ (List.range 4).map t.stageWord = (s.rtag tag).words.map (· % 2 ^ 64)
        ∧ { t with sched := { t.sched with rtStage := s.sched.rtStage } } = done 0x00))
  ∧ (∀ f : EthFrame, f.port < 4 →
    let counts (g : EthPort → EthPort) : Prop := exec (.ethFrameReceive f) s = .next (s.updPort f.port g)
    let top := 2 ^ 32 - 1
    (f.fcsOk = false → counts fun k => { k with fcs := min (k.fcs + 1) top })
    ∧ (f.fcsOk = true → 9212 < f.bytes.length → counts fun k => { k with oversize := min (k.oversize + 1) top })
    ∧ (f.fcsOk = true → f.bytes.length ≤ 9212 → isPause f.bytes = true → counts fun k => { k with pause := min (k.pause + 1) top })
    ∧ (f.fcsOk = true → f.bytes.length ≤ 9212 → isPause f.bytes = false → s.stampOk f = true →
      let s1 := s.updPort f.port fun k => { k with lastStamp := some f.stamp }
      ((s1.ethPort f.port).rule (parseFrame f.bytes) = none →
        exec (.ethFrameReceive f) s = .next (s1.updPort f.port fun k => { k with noMatch := min (k.noMatch + 1) top }))
      ∧ (∀ i, (s1.ethPort f.port).rule (parseFrame f.bytes) = some i →
        let n := (s1.ethPort f.port).ruleStream i
        ((s1.stream n).slotSize = none ∨ ((s1.portsOf n).length ≤ 1 ∧ (s1.stream n).held = [] ∧ SlotTakes s1 f i) →
          ∃ t, exec (.ethFrameReceive f) s = .next t ∧ FrameLands s1 t f i)
        ∧ (1 < (s1.portsOf n).length ∨ (s1.stream n).held ≠ [] → (s1.stream n).slotSize ≠ none →
          exec (.ethFrameReceive f) s = .next (s1.updStream n fun x => { x with held := x.held ++ [(f, i)] })))))
  ∧ (∀ (n : Nat) (f : EthFrame) (i : Nat), firstHeld (s.stream n).held = some (f, i) → f.stamp + s.mergeDelay n < s.clock.tbase →
      SlotTakes s f i →
      ∃ t, exec (.ethFrameRelease n) s = .next t
        ∧ FrameLands (s.updStream n fun x => { x with held := x.held.erase (f, i) }) t f i)
  ∧ (∀ p : PtpReport, s.lodge.ptp.getLsbD 0 = true → p.port = natField s.lodge.ptp.toNat 2 2 → 1 ≤ p.state → p.state ≤ 4 →
      (p.step ≤ 1 ∨ p.step = 15) → exec (.ptpMessage p) s = .next { s with lodge := { s.lodge with ptpst := p } })

/-! ### Control registers -/

/-- The bits that a write keeps in the registers that hold nothing else (R27, R44, R47, R64, R69, R70, R79, R150, R234, R258, R264,
R279): the others are reserved and read as zero. -/
def keptBits (off : Nat) : Option (BitVec 64) :=
  if off ∈ [0x10, 0x18, 0x20, 0x28, 0x30, 0x202008, 0x202010] then some 0xFFFFFFFFFFFFFFFF
  else if off = 0x202000 then some 0xFFEFFFFFFFFF0000
  else if off = 0x202018 then some 0xFFFFFFFFFFFF0000
  else if off = 0x100050 then some 0xFFFFFFFF
  else if off ∈ [0x600000, 0x600010, 0x600020, 0x600030] then some 0xFFFFFFFFFFFFFF01
  else if regIndex off 0x610000 256 8 ≠ none then some 0x1FFFFFFFFF00001
  else if regIndex off 0x621000 64 8 ≠ none then some 0xE0000FFFFFFFFFFF
  else if regIndex off 0xA00000 1024 8 ≠ none then some 0x1FFFF000FFFF0001
  else if 0x900000 ≤ off ∧ off < 0x910000 ∧ (off - 0x900000) % 0x4000 < 0x1000 then
    (if off % 16 = 0 then some 0xFFFFFFFFFFFF0000 else if off % 16 = 8 then some 0xFFF003FF else none)
  else if 0x700000 ≤ off ∧ off < 0x704000 then
    match (off - 0x700000) % 0x100 with
    | 0x08 => some 0xFFFFFFE0001
    | 0x10 => some 0xFFFFFFFFFFFF
    | 0x20 => some 0xFFFFFFFF
    | 0x28 => some 0xFFFF
    | _ => none
  else none

/-- R26, R27, R47, R48, R58, R74, R111, R142, R219, R223, R376, R442: a register reads back the bits that a write keeps, and
no other register changes; a read of a word of counters clears them; window 2 reads and writes memory and keeps block tags, once its
homes take the access. What a read of a window leaves in rd, and which writes have no row of their own, are the model's readings (log
entries 4 and 49), and so is that the low 12 bits of a stream's BASE read back as zero (log entry 48). -/
def Obligations.RegistersComplete : Prop := ∀ (s : State),
  (∀ (off : Nat) (v m : BitVec 64), keptBits off = some m → ∃ t, exec (.registerWrite off v) s = .next t
      ∧ t.regWord off = (v &&& m).toNat ∧ (∀ o, o ≠ off → t.regWord o = s.regWord o) ∧ t.mem = s.mem ∧ t.tasks = s.tasks)
  ∧ (∀ v : BitVec 64,
      (∃ t, exec (.registerWrite 0x08 v) s = .next t ∧ t.regWord 0x08 = 0 ∧ ∀ o, o ≠ 0x08 → t.regWord o = s.regWord o)
      ∧ (∃ t, exec (.registerWrite 0x100040 v) s = .next t ∧ t.regWord 0x100040 = max 16 (v.toNat % 65536))
      ∧ exec (.registerWrite 0x203000 v) s
          = .next { s with sched := { s.sched with checker := v.getLsbD 1, hold := v.getLsbD 0 } }
      ∧ (∀ n < 8, exec (.registerWrite (0x200000 + 8 * n) v) s = .next (s.updIntake n fun r => { r with en := v.getLsbD 0 }))
      ∧ (∀ a < 65536, exec (.registerWrite (0x300000 + 32 * a + 16) v) s
          = .next (s.updAcct a fun x => { x with ceil := v.toNat / 2 ^ 32 }))
      ∧ (∀ r < 64, exec (.registerWrite (0x700000 + 256 * r + 0x18) v) s
          = .next (s.updRoom r fun x => { x with parkThresh := v.toNat % 2 ^ 32 })))
  ∧ (let reads (off val : Nat) (t : State) : Prop :=
      exec (.counterReadClear off) s = .next { t with rd := BitVec.ofNat 64 val, rdBytes := natToBytes 8 val }
    (∀ o ∈ [0x00, 0x40, 0x48, 0x100050, 0x203000, 0x203008, 0x600040, 0x610000], reads o (s.regWord o) s)
    ∧ (∀ n < 8, let r := s.intakeRing n
        reads (0x200000 + 8 * n) (r.discards * 2 ^ 32 + r.next * 2 ^ 16 + (if r.en then 1 else 0))
          (s.updIntake n fun k => { k with discards := 0 }))
    ∧ (∀ a < 65536, reads (0x300000 + 32 * a) (s.acct a).balance s
        ∧ reads (0x300000 + 32 * a + 8) (s.acct a).consumed (s.updAcct a fun k => { k with consumed := 0 })
        ∧ reads (0x300000 + 32 * a + 16) ((s.acct a).ceil * 2 ^ 32 + ((s.acct a).out + 63) / 64) s)
    ∧ (∀ r < 64, let k := s.room r
        reads (0x700000 + 256 * r + 0x30) (k.herr.count * 2 ^ 48 + k.herr.a * 2 ^ 32 + k.herr.b * 2 ^ 16 + k.herr.c)
          (s.updRoom r fun x => { x with herr := { x.herr with count := 0 } })
        ∧ reads (0x700000 + 256 * r + 0x38) (k.axlost.count * 2 ^ 48 + k.axlost.b * 2 ^ 32 + k.axlost.a)
          (s.updRoom r fun x => { x with axlost := { x.axlost with count := 0 } }))
    ∧ (∀ p < 4, let e := s.ethPort p
        reads (0x901000 + 0x4000 * p) (e.fcs * 2 ^ 32 + e.oversize) (s.updPort p fun k => { k with fcs := 0, oversize := 0 })
        ∧ reads (0x901008 + 0x4000 * p) (e.pause * 2 ^ 32 + e.noMatch) (s.updPort p fun k => { k with pause := 0, noMatch := 0 }))
    ∧ (∀ n < 1024, let x := s.stream n
        reads (0xA10000 + 16 * n) (x.nextSeq * 2 ^ 32 + x.nextSlot) s
        ∧ reads (0xA10008 + 16 * n) (x.dropFull * 2 ^ 32 + x.dropLen) (s.updStream n fun k => { k with dropFull := 0, dropLen := 0 })))
  ∧ (∀ (addr : Nat) (bytes : List Byte), bytes ≠ [] →
      let pa := s.devNum * 2 ^ 44 + addr
      let free : Prop := s.retainedIn pa bytes.length = [] ∧ s.tooLate (s.memArrivals [(pa, bytes.length)] hostKey) = false
      (s.windowOk addr bytes.length true = true → free → ∃ t, exec (.hostMemoryWindow true addr bytes) s = .next t
        ∧ (∀ a, t.mem.read a = if pa ≤ a ∧ a < pa + bytes.length then bytes.getD (a - pa) 0 else s.mem.read a)
        ∧ t.tags = s.tags ∧ t.tasks = s.tasks)
      ∧ (s.windowOk addr bytes.length true = false → exec (.hostMemoryWindow true addr bytes) s = .next s)
      ∧ (s.windowOk addr bytes.length false = true → free → s.inPools addr bytes.length = false →
        (∀ i < bytes.length, tagPoison (s.physTag (pa + i)) = false) →
        ∃ t, exec (.hostMemoryWindow false addr bytes) s = .next t ∧ t.rdBytes = s.physBytes pa bytes.length
        ∧ t.rd = BitVec.ofNat 64 (bytesToNat (t.rdBytes.take 8)) ∧ t.mem = s.mem ∧ t.tags = s.tags))

/-- R47, R75, R77, R78, R79, R80, R95, R142: the writes of the registers that do something besides holding their bits.
Digests and signatures are free (log entry 16), and the length of the signature and a record's LEN field are the model's readings (log
entries 59 and 20). -/
def Obligations.LodgeRegistersComplete : Prop := ∀ (s : State) (v : BitVec 64),
  (∀ a < 65536,
      let old := (s.acct a).balance
      let n := v.toNat % 2 ^ 48
      let new := if n < 2 ^ 47 then min (old + n) (2 ^ 48 - 1) else min (old - (2 ^ 48 - n)) (2 ^ 48 - 1)
      ∃ t, exec (.acctBalanceWrite a v) s = .next t ∧ t.acct a = { s.acct a with balance := new }
      ∧ (∀ b, b ≠ a → t.acct b = s.acct b) ∧ { t with accts := s.accts } = s)
  ∧ exec (.ecclimWrite v) s = .next { s with power := { s.power with eccLim := v.toNat % 2 ^ 32, locked := false } }
  ∧ (s.sched.hold = true → s.tasks = [] → (∀ l ∈ s.launches, l.nx * l.ny ≤ l.next) → exec (.lodgeEpochWrite v) s
      = .next { s with lodge := { s.lodge with epochSec := v.toNat / 2 ^ 32, epochNs := v.toNat % 2 ^ 30 } })
  ∧ (s.sched.hold = false ∨ s.tasks ≠ [] → exec (.lodgeEpochWrite v) s = .next s)
  ∧ (natField v.toNat 4 2 = 3 → exec (.lodgePtpWrite v) s = .next s)
  ∧ (natField v.toNat 4 2 ≠ 3 → ∃ t, exec (.lodgePtpWrite v) s = .next t ∧ t.lodge.ptp = v &&& 0xFF3D
      ∧ (v.getLsbD 0 = false → t.lodge.ptpst.state = 0)
      ∧ (v.getLsbD 0 = true → (s.lodge.ptp.getLsbD 0 = false ∨ natField v.toNat 2 4 ≠ natField s.lodge.ptp.toNat 2 4) →
          t.lodge.ptpst = { port := natField v.toNat 2 2, step := 15, state := 1 })
      ∧ (v.getLsbD 0 = true → s.lodge.ptp.getLsbD 0 = true → natField v.toNat 2 4 = natField s.lodge.ptp.toNat 2 4 →
          t.lodge.ptpst = s.lodge.ptpst)
      ∧ { t with lodge := { t.lodge with ptp := s.lodge.ptp, ptpst := s.lodge.ptpst } } = s)
  ∧ (∀ c < 3, let ver := v.toNat % 2 ^ 32
      (v.getLsbD 63 = true → mget s.lodge.rb c 0 < ver → ver ≤ s.verifiedVersion c → ∃ t, exec (.rollbackAdvance c v) s = .next t
        ∧ mget t.lodge.rb c 0 = ver ∧ (∀ d, d ≠ c → mget t.lodge.rb d 0 = mget s.lodge.rb d 0)
        ∧ { t with lodge := { t.lodge with rb := s.lodge.rb } } = s)
      ∧ (v.getLsbD 63 = false ∨ ver ≤ mget s.lodge.rb c 0 ∨ s.verifiedVersion c < ver → exec (.rollbackAdvance c v) s = .next s))
  ∧ (s.lodge.attGo = false → v.getLsbD 63 = true →
      let addr := s.lodge.attAddr.toNat
      let b := s.attReport
      let r := s.ring 16
      let slot := r.base + 256 * (r.prod % ringSize r.sz)
      (s.lodge.st ≠ 6 → addr % 64 = 0 → s.ringBusy 16 = false → (slot + 256 ≤ addr ∨ addr + b.length ≤ slot) →
        ∃ t, exec (.attestationRequest v) s = .next t ∧ t.hostMem.readBytes addr b.length = b
          ∧ b.take 4 = natToBytes 4 0x54414A4C ∧ (b.drop 40).take 8 = natToBytes 8 (mget s.lodge.attNonce 0 0).toNat
          ∧ (b.drop 240).take 8 = natToBytes 8 (s.lodgeWord 0)
          ∧ Recorded s t 16 (recordBytes s.devNum 0 0x00 (mget s.lodge.attNonce 0 0) (fullBody (natToBytes 4 b.length)))
          ∧ t.lodge.attGo = false ∧ t.lodge.attStatus = 0 ∧ t.lodge.attLen = b.length % 2 ^ 16 ∧ t.mem = s.mem ∧ t.tasks = s.tasks)
      ∧ (s.lodge.st ≠ 6 → addr % 64 ≠ 0 → exec (.attestationRequest v) s = .next { s with lodge := { s.lodge with attStatus := 0x02 } })
      ∧ (s.lodge.st = 6 → exec (.attestationRequest v) s
          = .next { s with lodge := { s.lodge with attGo := true, attStatus := 0x01 } }))

/-- R77, R303, R328, R329, R331: a load that passes its steps adds the container, gives its handlers consecutive indices and
writes them into the descriptor; one that is refused leaves everything but its register and its status, whose code is that
of the first failure, and, where a page of DATA is not present, the idle time of the slices that the walk has read; an unload frees a container that no tag names, and writes no memory; a write without GO keeps its fields, and
one with GO while a load waits is answered BUSY. Digests and signatures are free (log entry 16); the numbers given, the INDEX of a
refusal, a load that waits and the answer to an identifier that no container has are the model's readings (log entries 58 and 88). -/
def Obligations.ContainersComplete : Prop := ∀ (s : State) (v : BitVec 64),
  let i : Instr := if v.getLsbD 62 = true then .cfgUnload v else .cfgLoad v
  (v.getLsbD 63 = false → s.loading = false → ∃ t, exec i s = .next t
      ∧ t.regWord 0x600048 = (if v.getLsbD 62 = true then 2 ^ 62 else 0) + v.toNat % 2 ^ 56
      ∧ { t with logs := { t.logs with cfgLoad := s.logs.cfgLoad } } = s)
  ∧ (v.getLsbD 63 = true → s.loading = true →
      exec i s = .next { s with logs := { s.logs with cfgLoadSt := ({ status := 0x09 : Refused }).word } })
  ∧ (v.getLsbD 63 = true → s.loading = false →
  let asid := natField v.toNat 48 8
  let desc := natField v.toNat 0 48
  let ended (t : State) (st : BitVec 64) : Prop := t.logs.cfgLoad.getLsbD 63 = false ∧ t.logs.cfgLoadSt = st
  let refuses (i : Instr) (r : Refused) : Prop := ∃ t, exec i s = .next t ∧ ended t r.word ∧ { t with logs := s.logs } = s
  (v.getLsbD 62 = false →
    let b := s.hostMem.readBytes (s.hostMem.readLE desc 8) (s.hostMem.readLE (desc + 8) 8)
    (∀ r, s.checked desc = .error r → refuses (.cfgLoad v) r)
    ∧ (∀ x, s.checked desc = .ok x → s.loadWaits asid desc = none → s.dataMapped asid x.k.data = false →
        ∃ t, exec (.cfgLoad v) s = .next t ∧ ended t ({ status := 0x0A, index := 8 } : Refused).word
          ∧ { t with logs := s.logs, served := s.served, power := { t.power with sliceUse := s.power.sliceUse } } = s)
    ∧ (slice (secBytes b 11) 8 32 ≠ Config.shake256 (b.take (secAt b 11).1) → refuses (.cfgLoad v) { status := 0x02, index := 11 })
    ∧ (s.signedOk b = .ok () → ∀ r, contentsOf b = .error r → refuses (.cfgLoad v) r)
    ∧ (∀ s1, s.loadWaits asid desc = some s1 → ∃ t, exec (.cfgLoad v) s = .next t ∧ t.logs.cfgLoad.getLsbD 63 = true
        ∧ t.ctns = s.ctns ∧ t.handlers = s.handlers ∧ t.rooms = s.rooms ∧ t.mem = s.mem ∧ t.hostMem = s.hostMem)
    ∧ (∀ s1, s.loadWaits asid desc = none → s.loadWith asid desc = .ok s1 → ∃ t k, exec (.cfgLoad v) s = .next t ∧ ended t 0 ∧ k ∈ t.ctns ∧ k.asid = asid
        ∧ (∀ c ∈ s.ctns, c ∈ t.ctns) ∧ k.version = bodyField b 16 4
        ∧ (∀ i < k.handlerCount, ∃ h, mfind t.handlers (k.firstHandler + i) = some h ∧ h.ctn = k.id)
        ∧ (∀ i < k.handlerCount, mfind s.handlers (k.firstHandler + i) = none)
        ∧ t.hostMem.readLE (desc + 34) 2 = k.id % 65536 ∧ t.hostMem.readLE (desc + 36) 2 = k.firstHandler % 65536
        ∧ t.hostMem.readLE (desc + 38) 2 = k.handlerCount % 65536 ∧ t.tasks = s.tasks ∧ t.cells = s.cells))
  ∧ (v.getLsbD 62 = true → s.ctn? (s.hostMem.readLE (desc + 34) 2) = none → refuses (.cfgUnload v) { status := 0x09 })
  ∧ (v.getLsbD 62 = true → ∀ k, s.ctn? (s.hostMem.readLE (desc + 34) 2) = some k →
    (s.handlersNamed k = true → refuses (.cfgUnload v) { status := 0x09 })
    ∧ (s.handlersNamed k = false → ∃ t, exec (.cfgUnload v) s = .next t ∧ ended t 0 ∧ (∀ c ∈ t.ctns, c.id ≠ k.id)
        ∧ (∀ h ∈ t.handlers, h.2.ctn ≠ k.id) ∧ (∀ r, ∀ p ∈ (t.room r).store, p.2.1 ≠ k.id)
        ∧ (∀ r, if (s.room r).hearth.owner = some k.id then (t.room r).hearth.st = .idle ∧ (t.room r).hearth.prog = []
            else (t.room r).hearth = (s.room r).hearth)
        ∧ t.mem = s.mem ∧ t.hostMem = s.hostMem ∧ t.tags = s.tags)))

/-! ### Power, errors and the links -/

/-- The lowest voltage of a rail at a frequency, and the highest (R33). -/
def floor33 (i f : Nat) : Nat := if i = 0 ∨ i = 1 then 850 else if i = 2 then 600 else 450 + (f + 3) / 4
def top33 (i : Nat) : Nat := if i = 0 ∨ i = 1 then 1000 else if i = 2 then 800 else 850

/-- R35, R36, R37, R38, R40, R41, R42, R44, R45, R46, R49: rail requests are denied or pending; the fabric rail raises its
voltage before its frequency and lowers it after; the figures of a window, the droop hold, the caps, the safe point,
retention and the restart of the firmware follow their rules. The order of FLOOR and CEILING, the two moves of a rail's
step, the status while an overridden request waits, the condition on the safe point and the restart by a second move are the
model's readings (log entries 51, 52, 54 and 76). -/
def Obligations.PowerCompletes : Prop := ∀ (s : State),
  (∀ (i : Nat) (v : BitVec 64), i < 4 →
    let volt := v.toNat % 65536
    let freq := if i = 3 then v.toNat / 65536 % 65536 else 0
    let asks (f : Rail → Rail) : Prop := exec (.railRequest i v) s = .next { s with power := s.power.updRail i f }
    let low := volt < floor33 i freq ∨ (i = 2 ∧ s.power.locked = true ∧ volt < 750)
    let high := top33 i < volt ∨ (i = 3 ∧ (freq < 800 ∨ 1600 < freq))
    (low → asks fun r => { r with status := 0x02 })
    ∧ (¬ low → high → asks fun r => { r with status := 0x03 })
    ∧ (¬ low → ¬ high → asks fun r => { r with status := if r.pending = none then 0x01 else 0x04, pending := some (volt, freq) }))
  ∧ (∀ (i v f : Nat), i < 4 → let r := s.rail i
    ((r.step = none → r.pending = some (v, f) → s.power.fwHung = false → ∃ t, exec (.railStepComplete i) s = .next t
        ∧ t.rail i = { r with volt := if f < r.freq then r.volt else if r.freq < f then v else r.volt,
                              freq := if f < r.freq then f else r.freq, pending := none, step := some (v, f),
                              status := if r.status = 0x04 then 0x01 else r.status }
        ∧ (∀ j, j ≠ i → t.rail j = s.rail j))
      ∧ (r.step = none → r.pending ≠ none → s.power.fwHung = true → exec (.railStepComplete i) s = .next s)
      ∧ (r.step = some (v, f) → ∃ t, exec (.railStepComplete i) s = .next t ∧ (t.rail i).volt = v ∧ (t.rail i).freq = f
        ∧ (t.rail i).step = none ∧ (t.rail i).pending = r.pending
        ∧ (t.rail i).status = (if r.status = 0x01 ∧ r.pending = none then 0x00 else r.status)
        ∧ (∀ j, j ≠ i → t.rail j = s.rail j))))
  ∧ (let w := s.cur.subject
    (w < 4 → exec .droopDetect s
      = .next { s with power := { s.power with droopUntil := mset s.power.droopUntil w (s.clock.tick + s.power.droopTicks) } })
    ∧ (∀ u, mfind s.power.droopUntil w = some u → u ≤ s.clock.tick → ∃ t, exec .droopHoldExpire s = .next t
        ∧ mfind t.power.droopUntil w = none ∧ { t with power := { t.power with droopUntil := s.power.droopUntil } } = s))
  ∧ (∀ (w : Nat) (on : Bool), w < 4 → exec (.currentLimit w on) s
      = .next { s with power := { s.power with capped := mset s.power.capped w on } })
  ∧ (∀ w a b c d : Nat, w < 4 → let p := s.power
      (mget p.stallAt w 0 + 40000 ≤ s.clock.tbase → ∃ t, exec (.pwrStallWindow w a b c d) s = .next t
        ∧ t.regWord (0x100020 + 8 * w) = min a 0xFFFF * 2 ^ 48 + min b 0xFFFF * 2 ^ 32 + min c 0xFFFF * 2 ^ 16
            + min (max d (mget p.fabTicks w 0)) 0xFFFF
        ∧ mget t.power.stallAt w 0 = s.clock.tbase ∧ mget t.power.fabTicks w 0 = 0
        ∧ { t with power := { t.power with stall := p.stall, stallAt := p.stallAt, fabTicks := p.fabTicks } } = s)
      ∧ (s.clock.tbase < mget p.stallAt w 0 + 40000 → exec (.pwrStallWindow w a b c d) s = .next s))
  ∧ (∀ (r : Nat) (v : BitVec 16), s.clock.tbase < (s.room r).tempAt + 40000 → exec (.roomTempSample r v) s = .next s)
  ∧ (∀ (r : Nat) (v : BitVec 16), r < 64 → (s.room r).tempAt + 40000 ≤ s.clock.tbase →
      ∃ t, exec (.roomTempSample r v) s = .next t ∧ (t.room r).temp = v ∧ (t.room r).tempAt = s.clock.tbase
      ∧ (460 ≤ v.toInt → (t.room r).capHalved = true) ∧ (v.toInt < 440 → (t.room r).capHalved = false)
      ∧ (440 ≤ v.toInt → v.toInt < 460 → (t.room r).capHalved = (s.room r).capHalved)
      ∧ (∀ q, q ≠ r → t.room q = s.room q) ∧ { t with rooms := s.rooms } = s)
  ∧ (∀ n : Nat, s.clock.tbase < s.power.eccAt + 40000 → exec (.sramEccWindow n) s = .next s)
  ∧ (∀ n : Nat, s.power.eccAt + 40000 ≤ s.clock.tbase → ∃ t, exec (.sramEccWindow n) s = .next t
      ∧ t.power.errs = min n 0xFFFF ∧ t.power.eccAt = s.clock.tbase
      ∧ (n ≤ s.power.eccLim → t.power.safe = (if s.power.steady = true then min s.power.safe (s.rail 2).volt else s.power.safe)
          ∧ t.power.rails = s.power.rails)
      ∧ (s.power.eccLim < n → t.power.safe = s.power.safe ∧ (t.rail 2).volt = max s.power.safe (s.rail 2).volt)
      ∧ { t with power := s.power } = s)
  ∧ (∀ a : RetArray, (s.arrayIdle a = true → s.power.retained.contains a = false → exec (.retentionEnter a) s
        = .next { s with power := { s.power with retained := s.power.retained ++ [a] } })
      ∧ (s.arrayIdle a = false → exec (.retentionEnter a) s = .next s)
      ∧ (a ∈ s.power.exiting → ∃ t, exec (.retentionExit a) s = .next t ∧ a ∉ t.power.retained ∧ a ∉ t.power.exiting
        ∧ (∀ b, b ≠ a → (b ∈ t.power.retained ↔ b ∈ s.power.retained) ∧ (b ∈ t.power.exiting ↔ b ∈ s.power.exiting))
        ∧ { t with power := { t.power with retained := s.power.retained, exiting := s.power.exiting } } = s))
  ∧ (s.power.checkIn + 4000000 ≤ s.clock.tbase → exec .pwrWatchdog s
      = .next { s with power := { s.power with fwHung := true, checkIn := s.clock.tbase } })
  ∧ (s.clock.tbase < s.power.checkIn + 4000000 → exec .pwrWatchdog s = .next s)
  ∧ (∀ (image : List Byte) (ver : Nat), ∃ t, exec (.powerFirmwareUpdate image ver) s = .next t
      ∧ mget t.lodge.images (2 + (1 - s.power.fwImg)) [] = image ∧ mget t.lodge.versions (2 + (1 - s.power.fwImg)) 0 = ver
      ∧ t.power.fwImg = (if s.imageOk 1 image ver = true then 1 - s.power.fwImg else s.power.fwImg)
      ∧ t.power.fwHung = (s.imageOk 1 image ver || s.power.fwHung) ∧ t.power.rails = s.power.rails ∧ t.mem = s.mem ∧ t.tasks = s.tasks)
  ∧ (∀ (image : List Byte) (ver : Nat), (s.lodge.st = 5 → ∃ t, exec (.lodgeUpdate image ver) s = .next t
        ∧ mget t.lodge.images (1 - s.lodge.img) [] = image ∧ t.lodge.st = (if s.imageOk 0 image ver = true then 6 else 5)
        ∧ t.lodge.img = (if s.imageOk 0 image ver = true then 1 - s.lodge.img else s.lodge.img) ∧ { t with lodge := s.lodge } = s)
      ∧ (s.lodge.st = 6 → s.lodge.attGo = false → s.lodge.heldWrites = [] → exec (.lodgeUpdate image ver) s
          = .next { s with lodge := { s.lodge with st := 5, errLog := s.lodge.errLog ++ s.lodge.errBuf, errBuf := [] } }))

/-- R43, R102, R272, R273: an uncorrectable error vanishes the task of its cell and brings a self-test of an array's cell; a
lasting one at a home poisons the block and retires its page; below 750 mV the SRAM rail goes back to its safe point and is
locked where an access of a cell's SRAM-rail arrays, of a scratchpad or of the landing meets the error; a self-test that fails disables the room. The sites of an error and the page that is retired are the model's
readings (log entries 50 and 53), and so is that the detection of an error says whether an access of a cell's SRAM-rail arrays met it. -/
def Obligations.ErrorsComplete : Prop := ∀ (s : State) (k : Task) (c : Nat), s.owner? c = some k → k.st = .running → k.trapOf = none →
  (∀ sram lasting : Bool,
      ((sram = true → 750 ≤ (s.rail 2).volt) → ∃ t, exec (.ueDetect (.cell c sram lasting)) s = .next t ∧ Vanished s t k .ue
        ∧ c ∈ t.lodge.pendingTests ∧ (s.lodge.st ≠ 6 → t.lodge.errLog = s.lodge.errLog ++ [(c, 2)]))
      ∧ (sram = true → (s.rail 2).volt < 750 →
          exec (.ueDetect (.cell c sram lasting)) s = exec (.ueUndervolt (.cell c sram lasting)) s))
  ∧ (∀ (m blk : Nat) (lasting : Bool),
      (750 ≤ (s.rail 2).volt → ∃ t, exec (.ueDetect (.spad c m blk lasting)) s = .next t ∧ m ∈ t.lodge.pendingTests
        ∧ t.mem = s.mem ∧ ∀ d, (s.cell d).owner = some k.id → (t.cell d).owner = none)
      ∧ ((s.rail 2).volt < 750 → exec (.ueDetect (.spad c m blk lasting)) s = exec (.ueUndervolt (.spad c m blk lasting)) s
        ∧ ∃ t, exec (.ueUndervolt (.spad c m blk lasting)) s = .next t ∧ (t.rail 2).volt = s.power.safe ∧ t.power.locked = true
        ∧ t.mem = s.mem ∧ ∀ d, (s.cell d).owner = some k.id → (t.cell d).owner = none))
  ∧ (∀ pa lasting, s.level pa = .landing → (s.rail 2).volt < 750 →
      exec (.ueDetect (.home c pa lasting)) s = exec (.ueUndervolt (.home c pa lasting)) s)
  ∧ (∀ pa, s.readersOf pa = [] → (s.level pa = .landing → 750 ≤ (s.rail 2).volt) →
      (∃ t, exec (.ueDetect (.home c pa false)) s = .next t ∧ Vanished s t k .ue)
      ∧ (s.level pa ≠ .host → ∃ t, exec (.ueDetect (.home c pa true)) s = .next t ∧ t.mem = s.mem
          ∧ tagPoison (t.physTag pa) = true ∧ tagFmt (t.physTag pa) = tagFmt (s.physTag pa)
          ∧ (∀ b, b / 64 ≠ pa / 64 → t.physTag b = s.physTag b)
          ∧ pa / 65536 * 65536 ∈ t.lodge.retired ∧ ∀ d, (s.cell d).owner = some k.id → (t.cell d).owner = none))
  ∧ (∀ lasting : Bool,
      ((s.rail 2).volt < 750 → ∃ t, exec (.ueUndervolt (.cell c true lasting)) s = .next t ∧ Vanished s t k .ueUndervolt
        ∧ (t.rail 2).volt = s.power.safe ∧ t.power.locked = true
        ∧ (∀ p, (s.rail 2).pending = some p → p.1 < 750 → (t.rail 2).pending = none ∧ (t.rail 2).status = 0x02)
        ∧ (lasting = true → c ∈ t.lodge.pendingTests) ∧ (lasting = false → t.lodge.pendingTests = s.lodge.pendingTests))
      ∧ (750 ≤ (s.rail 2).volt → exec (.ueUndervolt (.cell c true lasting)) s = .next s)
      ∧ exec (.ueUndervolt (.cell c false lasting)) s = .next s)
  ∧ (∀ d, d ∈ s.lodge.pendingTests →
      (∃ t, exec (.lodgeSelfTest d true) s = .next t ∧ d ∉ t.lodge.pendingTests
        ∧ { t with lodge := { t.lodge with pendingTests := s.lodge.pendingTests } } = s)
      ∧ (∃ t, exec (.lodgeSelfTest d false) s = .next t ∧ d ∉ t.lodge.pendingTests ∧ (t.room (roomOf d)).absent = true ∧ t.mem = s.mem
        ∧ (k.room = roomOf d → ∀ x, (s.cell x).owner = some k.id → (t.cell x).owner = none)))

/-- What stands after the device has lost its state (R48, R76, R80): no task, no container, no account, its memory zero; memory of
the host and of other devices, rollback counters and images are as before. -/
def StateLost (s t : State) : Prop :=
  t.tasks = [] ∧ t.launches = [] ∧ t.ops = [] ∧ t.cells = [] ∧ t.accts = [] ∧ t.handlers = [] ∧ t.ctns = [] ∧ t.rtags = [] ∧ t.rings = []
  ∧ t.locks = [] ∧ (∀ r, (t.room r).hearth.st = .idle) ∧ (∀ a, t.mem.read a = if devOf a = s.devNum then 0 else s.mem.read a)
  ∧ t.hostMem = s.hostMem ∧ t.lodge.rb = s.lodge.rb ∧ t.lodge.images = s.lodge.images ∧ t.devNum = s.devNum

/-- R48, R76, R23, R102, R103: reset and the lodge's watchdog boot the lodge with nothing left and the cause recorded; the
lodge goes on through its states until its ports are trained; a thermal cut and a converter fault leave it off, with the cause;
a recovery trains ports again, which keep their RETRIES (R24), and retires pages, and the rooms of each wing that are absent have its highest numbers. Which
rooms fail, and when the lodge goes on, are free (log entries 3 and 79), and that the cause of a loss of supply survives RESET
is the model's reading (log entry 55). -/
def Obligations.ResetsComplete : Prop := ∀ (s : State),
  (∀ c : BitVec 8, c = 0x00 ∨ c = 0x03 → ∃ t, exec (.reset c) s = .next t ∧ StateLost s t ∧ t.lodge.st = 1 ∧ t.power.off = false
      ∧ t.lodge.cause = (if s.power.off = true then s.lodge.cause else c.toNat))
  ∧ (1 ≤ s.lodge.st → s.lodge.st ≤ 4 →
      let n := s.free.1.toNat % 4
      let t := s.lodgeTick
      t.lodge.st = (if n = 1 then s.lodge.st + 1 else if n = 2 then 7 else s.lodge.st)
      ∧ (n = 1 → s.lodge.st = 3 → ∀ p < 96, (t.ewjPort p).st = 1)
      ∧ (n = 1 → s.lodge.st = 4 → t.lodge.nxw ∈ [8, 16, 32] ∧ ∀ p < 96, (s.ewjPort p).st = 1 → (t.ewjPort p).st ∈ [0, 2, 3])
      ∧ (∀ p, (t.ewjPort p).retries = (s.ewjPort p).retries))
  ∧ (∃ t, exec .lodgeWatchdog s = .next t ∧ StateLost s t ∧ t.lodge.st = 1 ∧ t.lodge.cause = 0x04)
  ∧ (∀ r < 64, ∃ t, exec (.thermalCut r) s = .next t ∧ StateLost s t ∧ t.power.off = true ∧ t.lodge.cause = 0x01
      ∧ t.lodge.causeWing = wingOfRoom r ∧ t.lodge.causeRoom = 4 * (r / 8 % 4) + r % 4
      ∧ t.lodge.cuts = min (s.lodge.cuts + 1) 0xFFFF)
  ∧ (∃ t, exec .converterFault s = .next t ∧ StateLost s t ∧ t.power.off = true ∧ t.lodge.cause = 0x02)
  ∧ (∀ m : Recovery, ∃ t, exec (.domainRecovery m) s = .next t
      ∧ t.mem = s.mem ∧ t.tags = s.tags ∧ (∀ p ∈ m.ports, p < 96 → (t.ewjPort p).st = 1)
      ∧ (∀ p, (t.ewjPort p).retries = (s.ewjPort p).retries) ∧ (∀ pa ∈ m.pages, pa / 65536 * 65536 ∈ t.lodge.retired)
      ∧ (risingFrom 0 s.rooms = true →
        ∀ q r, q < r → r < 64 → wingOfRoom q = wingOfRoom r → (t.room q).absent = true → (t.room r).absent = true))

/-- R17, R18, R20, R21, R22, R235, R267, R275, R276: flits and ports follow their errors; a message is delivered once, and
after those of its stream that wait; an invalidation drops the translations it covers and is done once no access uses one of
them and of those before it; a wake walks the page again for the accesses it held; a halt freezes the gang until GO, at launch scope
also every running task of its launch, of which no more is staged, and at device scope every running task. What a duplicate is, what
leaves the device, that scope 3 halts the cell and pauses nothing else, a second invalidation while BUSY is 1, and a write with both
HALT and GO are the model's readings (log entries 56, 57, 87 and 78). -/
def Obligations.LinksComplete : Prop := ∀ (s : State),
  (∀ p lane : Nat, p < 96 → lane < 2 →
    let e := s.ewjPort p
    let becomes (crc resent : Bool) (f : EwjPort → EwjPort) : Prop :=
      exec (.ewjFlitReceive p lane crc resent) s = .next { s with ewj := mset s.ewj p (f e) }
    (exec (.ewjPortFail p) s = .next { s with ewj := mset s.ewj p { e with st := 4, lanes := 0 } })
    ∧ (e.st = 2 ∨ e.st = 3 → e.lanes.getLsbD lane = true →
      (exec (.ewjFlitReceive p lane false false) s = .next s)
      ∧ becomes true true (fun k => { k with retries := min (k.retries + 1) 0xFFFF })
      ∧ (e.lanes.getLsbD (1 - lane) = true → becomes false true fun k => { k with st := 3, lanes := if lane = 0 then 2 else 1 })
      ∧ (e.lanes.getLsbD (1 - lane) = false → becomes false true fun k => { k with st := 4, lanes := 0 })))
  ∧ (∀ m : EwjMsg, m.port < 96 → (s.ewjPort m.port).live = true →
    (s.delivered m = true → exec (.ewjMessageReceive m) s = .next s)
    ∧ (s.delivered m = false → ewjPayload m.body ≤ 256 → ∀ k : EwjMsg, s.ewjWait = [k] → s.ewjStream k = s.ewjStream m →
      (s.deliver k).2 = false → ∃ t, exec (.ewjMessageReceive m) s = .next t ∧ t.ewjWait = [k, m] ∧ t.mem = s.mem)
    ∧ (s.delivered m = false → 256 < ewjPayload m.body → exec (.ewjMessageReceive m) s = .next s)
    ∧ (s.delivered m = false → s.power.retained = [] → s.ewjWait = [] →
      (∀ pa bytes, m.body = .store pa bytes → bytes ≠ [] → bytes.length ≤ 256 → s.remoteMay pa = true → s.level pa = .host →
        s.level (pa + bytes.length - 1) = .host → s.logs.wlog.en = false → s.tooLate (s.memArrivals [(pa, bytes.length)] (ewjKey m.port)) = false →
        ∃ t, exec (.ewjMessageReceive m) s = .next t ∧ t.delivered m = true
        ∧ t.hostMem.read (hostAddr (localOf (pa + bytes.length - 1))) = bytes.getLastD 0 ∧ t.tasks = s.tasks)
      ∧ (∀ pa bytes, m.body = .store pa bytes → bytes ≠ [] → bytes.length ≤ 256 → s.remoteMay pa = true → s.level pa ≠ .host →
        s.level (pa + bytes.length - 1) = s.level pa → s.tooLate (s.memArrivals [(pa, bytes.length)] (ewjKey m.port)) = false →
        ∃ t, exec (.ewjMessageReceive m) s = .next t ∧ t.delivered m = true
        ∧ (∀ a, t.mem.read a = if pa ≤ a ∧ a < pa + bytes.length then bytes.getD (a - pa) 0 else s.mem.read a)
        ∧ t.tags = s.tags ∧ t.tasks = s.tasks)
      ∧ (∀ pa len, m.body = .load pa len → len ≤ 256 → s.tooLate (s.memArrivals [(pa, len)] (ewjKey m.port)) = false → ∃ t, exec (.ewjMessageReceive m) s = .next t ∧ t.delivered m = true ∧ t.mem = s.mem)
      ∧ (∀ p, m.body = .packet p → p.len ≤ 240 → p.dev = s.devNum → p.kind = 0 → s.rejectStatus p (16 + p.len) = none → p.body.length ≤ p.len →
        1024 < s.qfree → (s.rtag p.tag).cur.launch = false → ∃ t, exec (.ewjMessageReceive m) s = .next t ∧ t.delivered m = true
        ∧ PacketJoins s t p ∧ t.mem = s.mem)))
  ∧ (∀ v : BitVec 64, ∃ t, exec (.xlatInv v) s = .next t ∧ t.mem = s.mem ∧ t.tasks = s.tasks
      ∧ (s.combos = [] → (∀ o ∈ s.ops, o.orphan = none) →
          t.regWord 0x600058 = (if s.invBusy = true then 2 ^ 63 else 0) + v.toNat / 2 ^ 62 % 2 * 2 ^ 62 + v.toNat / 2 ^ 16 % 2 ^ 40 * 2 ^ 16)
      ∧ ∀ r, (t.room r).tlb = (s.room r).tlb.filter fun x => !(x.asid == natField v.toNat 48 8
          && (v.getLsbD 62 || natField v.toNat 16 32 * 65536 / x.size == x.va / x.size)))
  ∧ (∀ (v : BitVec 64) (o : Op),
      let asid := natField v.toNat 48 8
      let page := natField v.toNat 16 32 * 65536
      let r := (s.task o.task).room
      o ∈ s.ops → o.phase = .held → o.heldPage = page → s.asidOf (s.task o.task) = asid → (s.room r).walks.length < 256 →
      ∃ t, exec (.xlatWake v) s = .next t ∧ (asid, page) ∈ (t.room r).walks ∧ { o with reported := false } ∈ t.ops
        ∧ t.mem = s.mem ∧ t.cells = s.cells)
  ∧ (∀ (v : BitVec 64) (k : Task), v.getLsbD 63 = true → s.owner? (cellAt (natField v.toNat 6 6) (natField v.toNat 0 6)) = some k →
      k.st = .running → s.tasks.filter (fun u => u.id == k.id) = [k] → natField v.toNat 60 2 = 0 →
      ∃ t, exec (.dbgHalt v) s = .next t ∧ t.task? k.id = some { k with halted := true } ∧ t.logs.haltSt = 2
        ∧ (∀ n, n ≠ k.id → t.task? n = s.task? n) ∧ { t with tasks := s.tasks, logs := s.logs } = s)
  ∧ (∀ (v : BitVec 64) (k : Task), v.getLsbD 63 = true → natField v.toNat 60 2 = 1 →
      s.owner? (cellAt (natField v.toNat 6 6) (natField v.toNat 0 6)) = some k →
      let mine (u : Task) : Prop := u.id = k.id ∨ ∃ a b, k.launch = some a ∧ u.launch = some b ∧ a.launch = b.launch
      ∃ t, exec (.dbgHalt v) s = .next t ∧ t.logs.haltSt = 2 ∧ t.tasks.length = s.tasks.length
        ∧ (∀ (i : Nat) (u : Task), s.tasks[i]? = some u → (u.st = .running → mine u → t.tasks[i]? = some { u with halted := true })
            ∧ (u.st ≠ .running ∨ ¬ mine u → t.tasks[i]? = some u))
        ∧ (∀ a, k.launch = some a → (∀ l ∈ t.launches, l.id = a.launch → l.halted = true)
            ∧ ∀ (u : Task) (b : LaunchRef), u.launch = some b → b.launch = a.launch → (∃ l ∈ s.launches, l.id = a.launch) →
                t.taskMay u = false)
        ∧ (k.launch = none → t.launches = s.launches)
        ∧ { t with tasks := s.tasks, launches := s.launches, logs := s.logs } = s)
  ∧ (∀ v : BitVec 64, v.getLsbD 63 = true → natField v.toNat 60 2 = 2 → ∃ t, exec (.dbgHalt v) s = .next t ∧ t.sched.hold = true
      ∧ (∀ k ∈ t.tasks, k.st = .running → k.halted = true) ∧ t.mem = s.mem)
  ∧ (∀ v : BitVec 64, v.getLsbD 63 = true → natField v.toNat 60 2 = 3 → let c := cellAt (natField v.toNat 6 6) (natField v.toNat 0 6)
      ∃ t, exec (.dbgHalt v) s = .next t ∧ (t.cell c).halted = true ∧ (∀ d, d ≠ c → t.cell d = s.cell d) ∧ t.tasks = s.tasks)
  ∧ (∀ v : BitVec 64, v.getLsbD 63 = true → v.getLsbD 62 = true → exec (.dbgGo v) s = .next s)
  ∧ (∀ v : BitVec 64, v.getLsbD 63 = false → v.getLsbD 62 = true → ∃ t, exec (.dbgGo v) s = .next t ∧ t.logs.haltSt = 0
      ∧ (∀ k ∈ t.tasks, k.halted = false) ∧ (∀ c, (t.cell c).halted = false) ∧ (∀ c e, (t.elem c e).halted = false) ∧ t.mem = s.mem)

/-! ### The whole machine -/

/-- R281, R288, R298: words written out from the encodings of the manual's own examples are the instructions that they stand for;
a word whose V is 0, an opcode that is reserved, a reserved width and an unassigned command are none. -/
def Obligations.DecodeWords : Prop :=
  let addc : Slot := { need := 1, ten := true, tag := 1, deq := 1, pidx := 2, pmode := 6, dst := 5, src1 := 5, src2 := 16 }
  let ld : Slot := { pmask := 1, pval := 1, pmode := 3, dst := 4, otag := 6, src1 := 2, src2 := 10, imm := true }
  let atomx : Slot := { pmask := 1, pval := 1, pmode := 2, dst := 4, src1 := 9, src2 := 18 }
  let vfma : Slot := { pmask := 2, pval := 2, pidx := 1, pmode := 2, dst := 3, otag := 3, src1 := 1, src2 := 18 }
  let load : HCmd := { wsem := 4, wthr := 1, wcon := true, ssem := 5, sinc := 1, sen := true, ha := 2, imm := 3 }
  decodeTableWord 64 0x00001240C56282C1 = some (.addc addc)
  ∧ decodeTableWord 64 0x010100100032612B = some (.ld ld)
  ∧ decodeTableWord 64 0x0101001C002204C9 = some (.atomx 0 atomx)
  ∧ decodeTableWord 64 0x02020020C0A1B0C9 = some (.vfma vfma)
  ∧ decodeTableWord 128 0x081000060A0302000000000000000003 = some (.cfgload load)
  ∧ decodeTableWord 64 0x00001240C56282C0 = none 
  ∧ decodeTableWord 64 (0x5B * 2 ^ 30 + 1) = none ∧ decodeTableWord 64 (0x23 * 2 ^ 30 + 1) = none ∧ decodeTableWord 128 (17 * 2 ^ 122) = none

/-- R281, R298: every instruction that has an encoding is read back from its bytes, with each operand at each of its values, and
bytes that decode are the encoding of what they decode to: no two words are one instruction, and no bit is dropped. -/
def Obligations.DecodeEncode : Prop :=
  (∀ i : Instr, encodable i = true → decode (encode i) = .ok i)
  ∧ (∀ (b : List Byte) (i : Instr), decode b = .ok i → encode i = b ∧ encodable i = true)

/-- R128, R171, R281, R298, R300: a step runs the instruction decoded at the place of its move. An element fires, in the step of its
cell, the first slot in its order that is ready and whose engine accepts it, and its turn is noted; a hearth in WAIT whose semaphore
has reached its threshold runs the command at POS, having consumed the threshold where the command says so; that the semaphore counts
as tested for the rest of the tick is the model's reading (log entry 21); an event runs with its subject; a command that is placed runs in the next step, and
so does an element word that is ready where it is placed: after reset, the plain word of every element opcode. That one step is one
move, and how a placed word comes to run, are the model's (log entries 1 and 2). -/
def Obligations.StepRunsDecoded : Prop := ∀ (s : State) (i : Instr),
  (∀ m rest, s.agenda = m :: rest → s.power.off = false →
    let s0 := { s with agenda := rest }
    (∀ c e k, m = .element c e → c < 4096 → e < elemCount c →
        let s1 := s0.beginTurn c e
        s1.chooseSlot c e = some k → decode (natToBytes 8 (s1.slotWord c e k)) = .ok i →
        step s = exec i ((s1.noteTurn c e (s1.slotEngine c e k)).atSite c e k))
    ∧ (∀ r w, m = .hearth r → r < 64 → (s.room r).hearth.st = .wait → (s.room r).hearth.prog[(s.room r).hearth.pos]? = some w →
        decode (natToBytes 16 w.toNat) = .ok i →
        let h := (s.room r).hearth
        let sem := natField w.toNat 114 8
        let n := natField w.toNat 98 16
        let h1 : Hearth := { h with st := .exec, exec := none }
        let went (k : Room) : Room :=
          { (if n = 0 then k else k.test sem) with sems := if w.getLsbD 97 then mput k.sems sem (k.sem sem - n) 0 else k.sems, hearth := h1 }
        let s1 := { s0 with cur := { s0.cur with subject := r } }
        (n ≤ (s.room r).sem sem → step s = exec i (s1.updRoom r went)) ∧ ((s.room r).sem sem < n → step s = .next s0))
    ∧ (∀ subject, m = .event subject i → encodable i = false →
        step s = exec i { s0 with cur := { s0.cur with subject := subject } }))
  ∧ (∀ w, w < 2 ^ 128 → decode (natToBytes 16 w) = .ok i → s.power.off = false →
      ∃ s1, step (s.withFetchWord 128 w) = exec i s1 ∧ s1.mem = s.mem ∧ s1.cells = s.cells ∧ s1.tasks = s.tasks
        ∧ s1.cur.subject = 0 ∧ (s1.room 0).hearth.st = .exec ∧ (s1.room 0).hearth.h = (s.room 0).hearth.h)
  ∧ (∀ w, w < 2 ^ 64 → decode (natToBytes 8 w) = .ok i → s.power.off = false →
      let c := placeCell (opOfBits w)
      (({ s.withFetchWord 64 w with agenda := s.agenda }).beginTurn c 0).chooseSlot c 0 = some 0 →
      ∃ s1, step (s.withFetchWord 64 w) = exec i s1 ∧ s1.mem = s.mem ∧ s1.rooms = s.rooms ∧ s1.ops = s.ops
        ∧ (∀ d, d ≠ c → s1.cell d = s.cell d) ∧ s1.cur.cell = c ∧ s1.cur.elem = 0 ∧ s1.cur.slot = 0)
  ∧ (∀ op < 256, decode (natToBytes 8 (op * 2 ^ 30 + 1)) = .ok i →
      ∃ s1, step (State.reset.withFetchWord 64 (op * 2 ^ 30 + 1)) = exec i s1
        ∧ s1.cur.cell = placeCell op ∧ s1.cur.elem = 0 ∧ s1.cur.slot = 0)

/-- R36, R42, R47, R48, R64, R75, R111, R126, R171, R220, R264: after reset nothing runs, no tag is enabled, memory reads as zero, every
hearth is IDLE, and the registers for which the manual gives a value hold it; that state is sound. The rail points in force with
STATUS 0 are the model's choice (log entry 75), and so is LODGE_PTP as a whole register 0, of which the manual gives EN alone (log entry 13). -/
def Obligations.ResetState : Prop :=
  let s := State.reset
  s.tasks = [] ∧ s.ops = [] ∧ (∀ c, (s.cell c).owner = none) ∧ (∀ r, (s.room r).hearth.st = .idle) ∧ (∀ n, (s.rtag n).en = false)
  ∧ (∀ a, s.mem.read a = 0)
  ∧ s.regWord 0x100000 = 900 ∧ s.regWord 0x100008 = 900 ∧ s.regWord 0x100010 = 750 ∧ s.regWord 0x100018 = 1250 * 2 ^ 16 + 800
  ∧ s.regWord 0x100040 = 256 ∧ s.regWord 0x100048 = 16 ∧ s.regWord 0x100050 = 65536 ∧ s.regWord 0x100058 = 750
  ∧ s.regWord 0x48 = 0 ∧ (∀ r < 64, s.regWord (0x700000 + 256 * r + 0x18) = 16384)
  ∧ (∀ r < 64, s.regWord (0x700000 + 256 * r + 0x20) = 65536) ∧ (∀ n, (s.rtag n).cur.restart = 16) ∧ s.Sound

/-- R33, R37, R38, R42, R43, R49, R220: from every sound state every step leads to a sound state: the memories keep their canonical
form, and no rail stands, or is on its way, below the voltage that its clock needs or above the top of its range; no step faults
or refuses. -/
def Obligations.StepKeepsSound : Prop := ∀ s : State, s.Sound → ∃ t, step s = .next t ∧ t.Sound
end

