-- ==== Sys2Proof/Laws/Map.lean ====
section
/-! SUPPORT. Sparse data and bytes of a memory: what is read after a write, and the canonical form that every memory
operation keeps. -/

namespace Sys2Proof.Machine

/-! ### Sparse data -/

variable {α : Type}

@[simp] theorem mget_nil (k : Nat) (d : α) : mget [] k d = d := rfl

theorem mfind_mset (m : AMap α) (k j : Nat) (v : α) :
    mfind (mset m k v) j = if j = k then some v else mfind m j := by
  induction m with
  | nil => by_cases h : k = j <;> simp [mset, mfind, h, eq_comm]
  | cons p t ih =>
    obtain ⟨i, u⟩ := p
    by_cases h1 : i = k
    · subst h1
      by_cases h2 : i = j
      · simp [mset, mfind, h2]
      · have h3 : ¬ j = i := fun h => h2 h.symm
        simp [mset, mfind, h2, h3]
    · by_cases h2 : k < i
      · simp only [mset, h1, h2, if_false, if_true, mfind]
        by_cases h3 : k = j
        · simp [h3]
        · have h4 : ¬ j = k := fun h => h3 h.symm
          simp [h3, h4]
      · simp only [mset, h1, h2, if_false, mfind, ih]
        by_cases h3 : i = j
        · subst h3; simp [h1]
        · simp [h3]

theorem mget_mset (m : AMap α) (k j : Nat) (v d : α) :
    mget (mset m k v) j d = if j = k then v else mget m j d := by
  unfold mget
  rw [mfind_mset]
  by_cases h : j = k <;> simp [h]

@[simp] theorem mget_mset_self (m : AMap α) (k : Nat) (v d : α) : mget (mset m k v) k d = v := by simp [mget_mset]

@[simp] theorem mget_mset_ne (m : AMap α) {k j : Nat} (v d : α) (h : j ≠ k) : mget (mset m k v) j d = mget m j d := by
  simp [mget_mset, h]

theorem mfind_mdel (m : AMap α) (k j : Nat) : mfind (mdel m k) j = if j = k then none else mfind m j := by
  unfold mdel
  induction m with
  | nil => simp [mfind]
  | cons p t ih =>
    obtain ⟨i, u⟩ := p
    by_cases h1 : i = k
    · subst h1
      by_cases h2 : j = i
      · subst h2; simpa using ih
      · simpa [mfind, h2, eq_comm] using ih
    · by_cases h2 : i = j
      · subst h2; simp [mfind, h1]
      · simpa [mfind, h1, h2] using ih

theorem mget_mput [DecidableEq α] (m : AMap α) (k j : Nat) (v d : α) :
    mget (mput m k v d) j d = if j = k then v else mget m j d := by
  unfold mput
  split
  next h =>
    unfold mget
    rw [mfind_mdel]
    by_cases hj : j = k <;> simp [hj, h]
  next => exact mget_mset m k j v d

@[simp] theorem mget_mput_self [DecidableEq α] (m : AMap α) (k : Nat) (v d : α) : mget (mput m k v d) k d = v := by
  simp [mget_mput]

@[simp] theorem mget_mput_ne [DecidableEq α] (m : AMap α) {k j : Nat} (v d : α) (h : j ≠ k) :
    mget (mput m k v d) j d = mget m j d := by simp [mget_mput, h]

/-! ### Rising keys -/

theorem risingFrom_mono (m : AMap α) {a b : Nat} (h : a ≤ b) (hr : risingFrom b m = true) : risingFrom a m = true := by
  cases m with
  | nil => rfl
  | cons p t =>
    obtain ⟨k, v⟩ := p
    simp only [risingFrom, Bool.and_eq_true, decide_eq_true_eq] at hr ⊢
    exact ⟨by omega, hr.2⟩

theorem risingFrom_mset (m : AMap α) (k lo : Nat) (v : α) (h : risingFrom lo m = true) (hk : lo ≤ k) :
    risingFrom lo (mset m k v) = true := by
  induction m generalizing lo with
  | nil => simp [mset, risingFrom, hk]
  | cons p t ih =>
    obtain ⟨i, u⟩ := p
    simp only [risingFrom, Bool.and_eq_true, decide_eq_true_eq] at h
    by_cases h1 : i = k
    · subst h1; simp [mset, risingFrom, h.1, h.2]
    · by_cases h2 : k < i
      · simp only [mset, h1, h2, if_false, if_true, risingFrom, Bool.and_eq_true, decide_eq_true_eq]
        exact ⟨hk, h2, h.2⟩
      · simp only [mset, h1, h2, if_false, risingFrom, Bool.and_eq_true, decide_eq_true_eq]
        exact ⟨h.1, ih (i + 1) h.2 (by omega)⟩

theorem risingFrom_filter (m : AMap α) (p : Nat × α → Bool) (lo : Nat) (h : risingFrom lo m = true) :
    risingFrom lo (m.filter p) = true := by
  induction m generalizing lo with
  | nil => rfl
  | cons q t ih =>
    obtain ⟨i, u⟩ := q
    simp only [risingFrom, Bool.and_eq_true, decide_eq_true_eq] at h
    by_cases hq : p (i, u) = true
    · simp only [List.filter_cons_of_pos hq, risingFrom, Bool.and_eq_true, decide_eq_true_eq]
      exact ⟨h.1, ih _ h.2⟩
    · rw [List.filter_cons_of_neg hq]
      exact risingFrom_mono _ (by omega) (ih _ h.2)

theorem mem_mset {m : AMap α} {k : Nat} {v : α} {q : Nat × α} (h : q ∈ mset m k v) : q = (k, v) ∨ q ∈ m := by
  induction m with
  | nil => simpa [mset] using h
  | cons p t ih =>
    obtain ⟨i, u⟩ := p
    by_cases h1 : i = k
    · subst h1
      simp only [mset, if_true, List.mem_cons] at h ⊢
      tauto
    · by_cases h2 : k < i
      · simpa [mset, h1, h2] using h
      · simp only [mset, h1, h2, if_false, List.mem_cons] at h ⊢
        rcases h with h | h
        · exact .inr (.inl h)
        · exact (ih h).imp_right .inr

/-! ### Bytes of a memory -/

theorem Mem.wf_iff (m : Mem) : m.wf = true ↔ risingFrom 0 m = true ∧ ∀ c ∈ m, c.2 ≠ 0 := by
  simp [Mem.wf]

@[simp] theorem Mem.wf_nil : Mem.wf [] = true := rfl

/-- A write of a byte is read back, and no other byte changes. -/
theorem Mem.read_write (m : Mem) (a b : Nat) (v : Byte) :
    (m.write a v).read b = if b = a then v else m.read b := by
  simpa [Mem.write, Mem.read, mput] using mget_mput m a b v 0

/-- A write of a byte keeps the canonical form. -/
theorem Mem.write_wf (m : Mem) (a : Nat) (v : Byte) (h : m.wf = true) : (m.write a v).wf = true := by
  rw [Mem.wf_iff] at h ⊢
  unfold Mem.write
  split
  next => exact ⟨risingFrom_filter _ _ _ h.1, fun c hc => h.2 c (List.mem_of_mem_filter hc)⟩
  next hv =>
    refine ⟨risingFrom_mset _ _ _ _ h.1 (Nat.zero_le a), fun c hc => ?_⟩
    rcases mem_mset hc with rfl | hc
    · exact hv
    · exact h.2 c hc

/-- A write of bytes keeps the canonical form. -/
theorem Mem.writeBytes_wf (bs : List Byte) (m : Mem) (a : Nat) (h : m.wf = true) : (m.writeBytes a bs).wf = true := by
  induction bs generalizing m a with
  | nil => exact h
  | cons b bs ih => exact ih _ _ (m.write_wf a b h)

/-- A write of a number keeps the canonical form. -/
theorem Mem.writeLE_wf (m : Mem) (a n v : Nat) (h : m.wf = true) : (m.writeLE a n v).wf = true :=
  Mem.writeBytes_wf _ _ _ h

/-- Keeping some addresses of a memory keeps the canonical form. -/
theorem Mem.filter_wf (m : Mem) (p : Host.Cell → Bool) (h : m.wf = true) : Mem.wf (m.filter p) = true := by
  rw [Mem.wf_iff] at h ⊢
  exact ⟨risingFrom_filter _ _ _ h.1, fun c hc => h.2 c (List.mem_of_mem_filter hc)⟩

/-- Bytes written are read back, and no byte outside them changes. -/
theorem Mem.read_writeBytes (bs : List Byte) (m : Mem) (a b : Nat) :
    (m.writeBytes a bs).read b = if a ≤ b ∧ b < a + bs.length then bs.getD (b - a) 0 else m.read b := by
  induction bs generalizing m a with
  | nil => simp only [Mem.writeBytes, List.length_nil]; split <;> [omega; rfl]
  | cons v bs ih =>
    rw [Mem.writeBytes, ih, Mem.read_write]
    by_cases h : b = a
    · subst h; simp
    · by_cases h2 : a + 1 ≤ b ∧ b < a + 1 + bs.length
      · have h3 : b - a = (b - (a + 1)) + 1 := by omega
        have h4 : a ≤ b ∧ b < a + (v :: bs).length := by simp only [List.length_cons]; omega
        rw [if_pos h2, if_pos h4, h3, List.getD_cons_succ]
      · have h4 : ¬ (a ≤ b ∧ b < a + (v :: bs).length) := by simp only [List.length_cons]; omega
        rw [if_neg h2, if_neg h4, if_neg h]

/-- Two memories in canonical form that read alike are equal. -/
theorem Mem.ext_read (m n : Mem) (hm : m.wf = true) (hn : n.wf = true) (h : ∀ a, m.read a = n.read a) : m = n := by
  rw [Mem.wf_iff] at hm hn
  have lo : ∀ (l : Mem) (b a : Nat), risingFrom b l = true → a < b → mget l a 0 = 0 := by
    intro l
    induction l with
    | nil => intros; rfl
    | cons p t ih =>
      obtain ⟨k, v⟩ := p
      intro b a hr hab
      simp only [risingFrom, Bool.and_eq_true, decide_eq_true_eq] at hr
      have hk : k ≠ a := by omega
      have := ih (k + 1) a hr.2 (by omega)
      simpa [mget, mfind, hk] using this
  have key : ∀ (m n : Mem) (b : Nat), risingFrom b m = true → risingFrom b n = true → (∀ c ∈ m, c.2 ≠ 0) →
      (∀ c ∈ n, c.2 ≠ 0) → (∀ a, mget m a 0 = mget n a 0) → m = n := by
    intro m
    induction m with
    | nil =>
      intro n b _ hn _ hzn he
      cases n with
      | nil => rfl
      | cons p t =>
        have := he p.1
        simp only [mget, mfind, if_true] at this
        exact absurd this.symm (hzn p (List.mem_cons_self ..))
    | cons p t ih =>
      obtain ⟨k, v⟩ := p
      intro n b hm hn hzm hzn he
      have hv : v ≠ 0 := hzm (k, v) (List.mem_cons_self ..)
      cases n with
      | nil =>
        have := he k
        simp only [mget, mfind, if_true] at this
        exact absurd this hv
      | cons q u =>
        obtain ⟨j, w⟩ := q
        have hw : w ≠ 0 := hzn (j, w) (List.mem_cons_self ..)
        simp only [risingFrom, Bool.and_eq_true, decide_eq_true_eq] at hm hn
        have hkj : k = j := by
          rcases Nat.lt_trichotomy k j with hlt | heq | hgt
          · have h1 := he k
            have h2 := lo ((j, w) :: u) j k (by simp [risingFrom, hn.2]) hlt
            rw [h2] at h1
            simp only [mget, mfind, if_true] at h1
            exact absurd h1 hv
          · exact heq
          · have h1 := he j
            have h2 := lo ((k, v) :: t) k j (by simp [risingFrom, hm.2]) hgt
            rw [h2] at h1
            simp only [mget, mfind, if_true] at h1
            exact absurd h1.symm hw
        subst hkj
        have hvw : v = w := by simpa [mget, mfind] using he k
        subst hvw
        have hrest : t = u := by
          refine ih u (k + 1) hm.2 hn.2 (fun c hc => hzm c (List.mem_cons_of_mem _ hc))
            (fun c hc => hzn c (List.mem_cons_of_mem _ hc)) fun a => ?_
          by_cases ha : k = a
          · subst ha
            rw [lo t (k + 1) k hm.2 (by omega), lo u (k + 1) k hn.2 (by omega)]
          · simpa [mget, mfind, ha] using he a
        rw [hrest]
  exact key m n 0 hm.1 hn.1 hm.2 hn.2 h

end Sys2Proof.Machine
end

