-- ==== Sys2Proof/Laws/State.lean ====
section
/-! SUPPORT. The named updates of the state, field by field: what each leaves unchanged, and what is read back at the
place it changes. -/

namespace Sys2Proof.Machine

variable (s : State)

/-! ### setCell -/

@[simp] theorem State.setCell_clock (c : Nat) (v : Cell) : (s.setCell c v).clock = s.clock := rfl
@[simp] theorem State.setCell_agenda (c : Nat) (v : Cell) : (s.setCell c v).agenda = s.agenda := rfl
@[simp] theorem State.setCell_cur (c : Nat) (v : Cell) : (s.setCell c v).cur = s.cur := rfl
@[simp] theorem State.setCell_devNum (c : Nat) (v : Cell) : (s.setCell c v).devNum = s.devNum := rfl
@[simp] theorem State.setCell_mem (c : Nat) (v : Cell) : (s.setCell c v).mem = s.mem := rfl
@[simp] theorem State.setCell_tags (c : Nat) (v : Cell) : (s.setCell c v).tags = s.tags := rfl
@[simp] theorem State.setCell_hostMem (c : Nat) (v : Cell) : (s.setCell c v).hostMem = s.hostMem := rfl
@[simp] theorem State.setCell_rooms (c : Nat) (v : Cell) : (s.setCell c v).rooms = s.rooms := rfl
@[simp] theorem State.setCell_ops (c : Nat) (v : Cell) : (s.setCell c v).ops = s.ops := rfl
@[simp] theorem State.setCell_combos (c : Nat) (v : Cell) : (s.setCell c v).combos = s.combos := rfl
@[simp] theorem State.setCell_fills (c : Nat) (v : Cell) : (s.setCell c v).fills = s.fills := rfl
@[simp] theorem State.setCell_tasks (c : Nat) (v : Cell) : (s.setCell c v).tasks = s.tasks := rfl
@[simp] theorem State.setCell_launches (c : Nat) (v : Cell) : (s.setCell c v).launches = s.launches := rfl
@[simp] theorem State.setCell_rtags (c : Nat) (v : Cell) : (s.setCell c v).rtags = s.rtags := rfl
@[simp] theorem State.setCell_accts (c : Nat) (v : Cell) : (s.setCell c v).accts = s.accts := rfl
@[simp] theorem State.setCell_locks (c : Nat) (v : Cell) : (s.setCell c v).locks = s.locks := rfl
@[simp] theorem State.setCell_ctns (c : Nat) (v : Cell) : (s.setCell c v).ctns = s.ctns := rfl
@[simp] theorem State.setCell_handlers (c : Nat) (v : Cell) : (s.setCell c v).handlers = s.handlers := rfl
@[simp] theorem State.setCell_intake (c : Nat) (v : Cell) : (s.setCell c v).intake = s.intake := rfl
@[simp] theorem State.setCell_rings (c : Nat) (v : Cell) : (s.setCell c v).rings = s.rings := rfl
@[simp] theorem State.setCell_notices (c : Nat) (v : Cell) : (s.setCell c v).notices = s.notices := rfl
@[simp] theorem State.setCell_eth (c : Nat) (v : Cell) : (s.setCell c v).eth = s.eth := rfl
@[simp] theorem State.setCell_ewj (c : Nat) (v : Cell) : (s.setCell c v).ewj = s.ewj := rfl
@[simp] theorem State.setCell_ewjSeq (c : Nat) (v : Cell) : (s.setCell c v).ewjSeq = s.ewjSeq := rfl
@[simp] theorem State.setCell_ewjWait (c : Nat) (v : Cell) : (s.setCell c v).ewjWait = s.ewjWait := rfl
@[simp] theorem State.setCell_served (c : Nat) (v : Cell) : (s.setCell c v).served = s.served := rfl
@[simp] theorem State.setCell_lodge (c : Nat) (v : Cell) : (s.setCell c v).lodge = s.lodge := rfl
@[simp] theorem State.setCell_power (c : Nat) (v : Cell) : (s.setCell c v).power = s.power := rfl
@[simp] theorem State.setCell_logs (c : Nat) (v : Cell) : (s.setCell c v).logs = s.logs := rfl
@[simp] theorem State.setCell_sched (c : Nat) (v : Cell) : (s.setCell c v).sched = s.sched := rfl
@[simp] theorem State.setCell_rd (c : Nat) (v : Cell) : (s.setCell c v).rd = s.rd := rfl
@[simp] theorem State.setCell_rdBytes (c : Nat) (v : Cell) : (s.setCell c v).rdBytes = s.rdBytes := rfl

/-! ### updCell -/

@[simp] theorem State.updCell_clock (c : Nat) (f : Cell → Cell) : (s.updCell c f).clock = s.clock := rfl
@[simp] theorem State.updCell_agenda (c : Nat) (f : Cell → Cell) : (s.updCell c f).agenda = s.agenda := rfl
@[simp] theorem State.updCell_cur (c : Nat) (f : Cell → Cell) : (s.updCell c f).cur = s.cur := rfl
@[simp] theorem State.updCell_devNum (c : Nat) (f : Cell → Cell) : (s.updCell c f).devNum = s.devNum := rfl
@[simp] theorem State.updCell_mem (c : Nat) (f : Cell → Cell) : (s.updCell c f).mem = s.mem := rfl
@[simp] theorem State.updCell_tags (c : Nat) (f : Cell → Cell) : (s.updCell c f).tags = s.tags := rfl
@[simp] theorem State.updCell_hostMem (c : Nat) (f : Cell → Cell) : (s.updCell c f).hostMem = s.hostMem := rfl
@[simp] theorem State.updCell_rooms (c : Nat) (f : Cell → Cell) : (s.updCell c f).rooms = s.rooms := rfl
@[simp] theorem State.updCell_ops (c : Nat) (f : Cell → Cell) : (s.updCell c f).ops = s.ops := rfl
@[simp] theorem State.updCell_combos (c : Nat) (f : Cell → Cell) : (s.updCell c f).combos = s.combos := rfl
@[simp] theorem State.updCell_fills (c : Nat) (f : Cell → Cell) : (s.updCell c f).fills = s.fills := rfl
@[simp] theorem State.updCell_tasks (c : Nat) (f : Cell → Cell) : (s.updCell c f).tasks = s.tasks := rfl
@[simp] theorem State.updCell_launches (c : Nat) (f : Cell → Cell) : (s.updCell c f).launches = s.launches := rfl
@[simp] theorem State.updCell_rtags (c : Nat) (f : Cell → Cell) : (s.updCell c f).rtags = s.rtags := rfl
@[simp] theorem State.updCell_accts (c : Nat) (f : Cell → Cell) : (s.updCell c f).accts = s.accts := rfl
@[simp] theorem State.updCell_locks (c : Nat) (f : Cell → Cell) : (s.updCell c f).locks = s.locks := rfl
@[simp] theorem State.updCell_ctns (c : Nat) (f : Cell → Cell) : (s.updCell c f).ctns = s.ctns := rfl
@[simp] theorem State.updCell_handlers (c : Nat) (f : Cell → Cell) : (s.updCell c f).handlers = s.handlers := rfl
@[simp] theorem State.updCell_intake (c : Nat) (f : Cell → Cell) : (s.updCell c f).intake = s.intake := rfl
@[simp] theorem State.updCell_rings (c : Nat) (f : Cell → Cell) : (s.updCell c f).rings = s.rings := rfl
@[simp] theorem State.updCell_notices (c : Nat) (f : Cell → Cell) : (s.updCell c f).notices = s.notices := rfl
@[simp] theorem State.updCell_eth (c : Nat) (f : Cell → Cell) : (s.updCell c f).eth = s.eth := rfl
@[simp] theorem State.updCell_ewj (c : Nat) (f : Cell → Cell) : (s.updCell c f).ewj = s.ewj := rfl
@[simp] theorem State.updCell_ewjSeq (c : Nat) (f : Cell → Cell) : (s.updCell c f).ewjSeq = s.ewjSeq := rfl
@[simp] theorem State.updCell_ewjWait (c : Nat) (f : Cell → Cell) : (s.updCell c f).ewjWait = s.ewjWait := rfl
@[simp] theorem State.updCell_served (c : Nat) (f : Cell → Cell) : (s.updCell c f).served = s.served := rfl
@[simp] theorem State.updCell_lodge (c : Nat) (f : Cell → Cell) : (s.updCell c f).lodge = s.lodge := rfl
@[simp] theorem State.updCell_power (c : Nat) (f : Cell → Cell) : (s.updCell c f).power = s.power := rfl
@[simp] theorem State.updCell_logs (c : Nat) (f : Cell → Cell) : (s.updCell c f).logs = s.logs := rfl
@[simp] theorem State.updCell_sched (c : Nat) (f : Cell → Cell) : (s.updCell c f).sched = s.sched := rfl
@[simp] theorem State.updCell_rd (c : Nat) (f : Cell → Cell) : (s.updCell c f).rd = s.rd := rfl
@[simp] theorem State.updCell_rdBytes (c : Nat) (f : Cell → Cell) : (s.updCell c f).rdBytes = s.rdBytes := rfl

/-! ### updElem -/

@[simp] theorem State.updElem_clock (c e : Nat) (f : Elem → Elem) : (s.updElem c e f).clock = s.clock := rfl
@[simp] theorem State.updElem_agenda (c e : Nat) (f : Elem → Elem) : (s.updElem c e f).agenda = s.agenda := rfl
@[simp] theorem State.updElem_cur (c e : Nat) (f : Elem → Elem) : (s.updElem c e f).cur = s.cur := rfl
@[simp] theorem State.updElem_devNum (c e : Nat) (f : Elem → Elem) : (s.updElem c e f).devNum = s.devNum := rfl
@[simp] theorem State.updElem_mem (c e : Nat) (f : Elem → Elem) : (s.updElem c e f).mem = s.mem := rfl
@[simp] theorem State.updElem_tags (c e : Nat) (f : Elem → Elem) : (s.updElem c e f).tags = s.tags := rfl
@[simp] theorem State.updElem_hostMem (c e : Nat) (f : Elem → Elem) : (s.updElem c e f).hostMem = s.hostMem := rfl
@[simp] theorem State.updElem_rooms (c e : Nat) (f : Elem → Elem) : (s.updElem c e f).rooms = s.rooms := rfl
@[simp] theorem State.updElem_ops (c e : Nat) (f : Elem → Elem) : (s.updElem c e f).ops = s.ops := rfl
@[simp] theorem State.updElem_combos (c e : Nat) (f : Elem → Elem) : (s.updElem c e f).combos = s.combos := rfl
@[simp] theorem State.updElem_fills (c e : Nat) (f : Elem → Elem) : (s.updElem c e f).fills = s.fills := rfl
@[simp] theorem State.updElem_tasks (c e : Nat) (f : Elem → Elem) : (s.updElem c e f).tasks = s.tasks := rfl
@[simp] theorem State.updElem_launches (c e : Nat) (f : Elem → Elem) : (s.updElem c e f).launches = s.launches := rfl
@[simp] theorem State.updElem_rtags (c e : Nat) (f : Elem → Elem) : (s.updElem c e f).rtags = s.rtags := rfl
@[simp] theorem State.updElem_accts (c e : Nat) (f : Elem → Elem) : (s.updElem c e f).accts = s.accts := rfl
@[simp] theorem State.updElem_locks (c e : Nat) (f : Elem → Elem) : (s.updElem c e f).locks = s.locks := rfl
@[simp] theorem State.updElem_ctns (c e : Nat) (f : Elem → Elem) : (s.updElem c e f).ctns = s.ctns := rfl
@[simp] theorem State.updElem_handlers (c e : Nat) (f : Elem → Elem) : (s.updElem c e f).handlers = s.handlers := rfl
@[simp] theorem State.updElem_intake (c e : Nat) (f : Elem → Elem) : (s.updElem c e f).intake = s.intake := rfl
@[simp] theorem State.updElem_rings (c e : Nat) (f : Elem → Elem) : (s.updElem c e f).rings = s.rings := rfl
@[simp] theorem State.updElem_notices (c e : Nat) (f : Elem → Elem) : (s.updElem c e f).notices = s.notices := rfl
@[simp] theorem State.updElem_eth (c e : Nat) (f : Elem → Elem) : (s.updElem c e f).eth = s.eth := rfl
@[simp] theorem State.updElem_ewj (c e : Nat) (f : Elem → Elem) : (s.updElem c e f).ewj = s.ewj := rfl
@[simp] theorem State.updElem_ewjSeq (c e : Nat) (f : Elem → Elem) : (s.updElem c e f).ewjSeq = s.ewjSeq := rfl
@[simp] theorem State.updElem_ewjWait (c e : Nat) (f : Elem → Elem) : (s.updElem c e f).ewjWait = s.ewjWait := rfl
@[simp] theorem State.updElem_served (c e : Nat) (f : Elem → Elem) : (s.updElem c e f).served = s.served := rfl
@[simp] theorem State.updElem_lodge (c e : Nat) (f : Elem → Elem) : (s.updElem c e f).lodge = s.lodge := rfl
@[simp] theorem State.updElem_power (c e : Nat) (f : Elem → Elem) : (s.updElem c e f).power = s.power := rfl
@[simp] theorem State.updElem_logs (c e : Nat) (f : Elem → Elem) : (s.updElem c e f).logs = s.logs := rfl
@[simp] theorem State.updElem_sched (c e : Nat) (f : Elem → Elem) : (s.updElem c e f).sched = s.sched := rfl
@[simp] theorem State.updElem_rd (c e : Nat) (f : Elem → Elem) : (s.updElem c e f).rd = s.rd := rfl
@[simp] theorem State.updElem_rdBytes (c e : Nat) (f : Elem → Elem) : (s.updElem c e f).rdBytes = s.rdBytes := rfl

/-! ### updRoom -/

@[simp] theorem State.updRoom_clock (r : Nat) (f : Room → Room) : (s.updRoom r f).clock = s.clock := rfl
@[simp] theorem State.updRoom_agenda (r : Nat) (f : Room → Room) : (s.updRoom r f).agenda = s.agenda := rfl
@[simp] theorem State.updRoom_cur (r : Nat) (f : Room → Room) : (s.updRoom r f).cur = s.cur := rfl
@[simp] theorem State.updRoom_devNum (r : Nat) (f : Room → Room) : (s.updRoom r f).devNum = s.devNum := rfl
@[simp] theorem State.updRoom_mem (r : Nat) (f : Room → Room) : (s.updRoom r f).mem = s.mem := rfl
@[simp] theorem State.updRoom_tags (r : Nat) (f : Room → Room) : (s.updRoom r f).tags = s.tags := rfl
@[simp] theorem State.updRoom_hostMem (r : Nat) (f : Room → Room) : (s.updRoom r f).hostMem = s.hostMem := rfl
@[simp] theorem State.updRoom_cells (r : Nat) (f : Room → Room) : (s.updRoom r f).cells = s.cells := rfl
@[simp] theorem State.updRoom_ops (r : Nat) (f : Room → Room) : (s.updRoom r f).ops = s.ops := rfl
@[simp] theorem State.updRoom_combos (r : Nat) (f : Room → Room) : (s.updRoom r f).combos = s.combos := rfl
@[simp] theorem State.updRoom_fills (r : Nat) (f : Room → Room) : (s.updRoom r f).fills = s.fills := rfl
@[simp] theorem State.updRoom_tasks (r : Nat) (f : Room → Room) : (s.updRoom r f).tasks = s.tasks := rfl
@[simp] theorem State.updRoom_launches (r : Nat) (f : Room → Room) : (s.updRoom r f).launches = s.launches := rfl
@[simp] theorem State.updRoom_rtags (r : Nat) (f : Room → Room) : (s.updRoom r f).rtags = s.rtags := rfl
@[simp] theorem State.updRoom_accts (r : Nat) (f : Room → Room) : (s.updRoom r f).accts = s.accts := rfl
@[simp] theorem State.updRoom_locks (r : Nat) (f : Room → Room) : (s.updRoom r f).locks = s.locks := rfl
@[simp] theorem State.updRoom_ctns (r : Nat) (f : Room → Room) : (s.updRoom r f).ctns = s.ctns := rfl
@[simp] theorem State.updRoom_handlers (r : Nat) (f : Room → Room) : (s.updRoom r f).handlers = s.handlers := rfl
@[simp] theorem State.updRoom_intake (r : Nat) (f : Room → Room) : (s.updRoom r f).intake = s.intake := rfl
@[simp] theorem State.updRoom_rings (r : Nat) (f : Room → Room) : (s.updRoom r f).rings = s.rings := rfl
@[simp] theorem State.updRoom_notices (r : Nat) (f : Room → Room) : (s.updRoom r f).notices = s.notices := rfl
@[simp] theorem State.updRoom_eth (r : Nat) (f : Room → Room) : (s.updRoom r f).eth = s.eth := rfl
@[simp] theorem State.updRoom_ewj (r : Nat) (f : Room → Room) : (s.updRoom r f).ewj = s.ewj := rfl
@[simp] theorem State.updRoom_ewjSeq (r : Nat) (f : Room → Room) : (s.updRoom r f).ewjSeq = s.ewjSeq := rfl
@[simp] theorem State.updRoom_ewjWait (r : Nat) (f : Room → Room) : (s.updRoom r f).ewjWait = s.ewjWait := rfl
@[simp] theorem State.updRoom_served (r : Nat) (f : Room → Room) : (s.updRoom r f).served = s.served := rfl
@[simp] theorem State.updRoom_lodge (r : Nat) (f : Room → Room) : (s.updRoom r f).lodge = s.lodge := rfl
@[simp] theorem State.updRoom_power (r : Nat) (f : Room → Room) : (s.updRoom r f).power = s.power := rfl
@[simp] theorem State.updRoom_logs (r : Nat) (f : Room → Room) : (s.updRoom r f).logs = s.logs := rfl
@[simp] theorem State.updRoom_sched (r : Nat) (f : Room → Room) : (s.updRoom r f).sched = s.sched := rfl
@[simp] theorem State.updRoom_rd (r : Nat) (f : Room → Room) : (s.updRoom r f).rd = s.rd := rfl
@[simp] theorem State.updRoom_rdBytes (r : Nat) (f : Room → Room) : (s.updRoom r f).rdBytes = s.rdBytes := rfl

/-! ### updTask -/

@[simp] theorem State.updTask_clock (i : Nat) (f : Task → Task) : (s.updTask i f).clock = s.clock := rfl
@[simp] theorem State.updTask_agenda (i : Nat) (f : Task → Task) : (s.updTask i f).agenda = s.agenda := rfl
@[simp] theorem State.updTask_cur (i : Nat) (f : Task → Task) : (s.updTask i f).cur = s.cur := rfl
@[simp] theorem State.updTask_devNum (i : Nat) (f : Task → Task) : (s.updTask i f).devNum = s.devNum := rfl
@[simp] theorem State.updTask_mem (i : Nat) (f : Task → Task) : (s.updTask i f).mem = s.mem := rfl
@[simp] theorem State.updTask_tags (i : Nat) (f : Task → Task) : (s.updTask i f).tags = s.tags := rfl
@[simp] theorem State.updTask_hostMem (i : Nat) (f : Task → Task) : (s.updTask i f).hostMem = s.hostMem := rfl
@[simp] theorem State.updTask_cells (i : Nat) (f : Task → Task) : (s.updTask i f).cells = s.cells := rfl
@[simp] theorem State.updTask_rooms (i : Nat) (f : Task → Task) : (s.updTask i f).rooms = s.rooms := rfl
@[simp] theorem State.updTask_ops (i : Nat) (f : Task → Task) : (s.updTask i f).ops = s.ops := rfl
@[simp] theorem State.updTask_combos (i : Nat) (f : Task → Task) : (s.updTask i f).combos = s.combos := rfl
@[simp] theorem State.updTask_fills (i : Nat) (f : Task → Task) : (s.updTask i f).fills = s.fills := rfl
@[simp] theorem State.updTask_launches (i : Nat) (f : Task → Task) : (s.updTask i f).launches = s.launches := rfl
@[simp] theorem State.updTask_rtags (i : Nat) (f : Task → Task) : (s.updTask i f).rtags = s.rtags := rfl
@[simp] theorem State.updTask_accts (i : Nat) (f : Task → Task) : (s.updTask i f).accts = s.accts := rfl
@[simp] theorem State.updTask_locks (i : Nat) (f : Task → Task) : (s.updTask i f).locks = s.locks := rfl
@[simp] theorem State.updTask_ctns (i : Nat) (f : Task → Task) : (s.updTask i f).ctns = s.ctns := rfl
@[simp] theorem State.updTask_handlers (i : Nat) (f : Task → Task) : (s.updTask i f).handlers = s.handlers := rfl
@[simp] theorem State.updTask_intake (i : Nat) (f : Task → Task) : (s.updTask i f).intake = s.intake := rfl
@[simp] theorem State.updTask_rings (i : Nat) (f : Task → Task) : (s.updTask i f).rings = s.rings := rfl
@[simp] theorem State.updTask_notices (i : Nat) (f : Task → Task) : (s.updTask i f).notices = s.notices := rfl
@[simp] theorem State.updTask_eth (i : Nat) (f : Task → Task) : (s.updTask i f).eth = s.eth := rfl
@[simp] theorem State.updTask_ewj (i : Nat) (f : Task → Task) : (s.updTask i f).ewj = s.ewj := rfl
@[simp] theorem State.updTask_ewjSeq (i : Nat) (f : Task → Task) : (s.updTask i f).ewjSeq = s.ewjSeq := rfl
@[simp] theorem State.updTask_ewjWait (i : Nat) (f : Task → Task) : (s.updTask i f).ewjWait = s.ewjWait := rfl
@[simp] theorem State.updTask_served (i : Nat) (f : Task → Task) : (s.updTask i f).served = s.served := rfl
@[simp] theorem State.updTask_lodge (i : Nat) (f : Task → Task) : (s.updTask i f).lodge = s.lodge := rfl
@[simp] theorem State.updTask_power (i : Nat) (f : Task → Task) : (s.updTask i f).power = s.power := rfl
@[simp] theorem State.updTask_logs (i : Nat) (f : Task → Task) : (s.updTask i f).logs = s.logs := rfl
@[simp] theorem State.updTask_sched (i : Nat) (f : Task → Task) : (s.updTask i f).sched = s.sched := rfl
@[simp] theorem State.updTask_rd (i : Nat) (f : Task → Task) : (s.updTask i f).rd = s.rd := rfl
@[simp] theorem State.updTask_rdBytes (i : Nat) (f : Task → Task) : (s.updTask i f).rdBytes = s.rdBytes := rfl

/-! ### delTask -/

@[simp] theorem State.delTask_clock (i : Nat) : (s.delTask i).clock = s.clock := rfl
@[simp] theorem State.delTask_agenda (i : Nat) : (s.delTask i).agenda = s.agenda := rfl
@[simp] theorem State.delTask_cur (i : Nat) : (s.delTask i).cur = s.cur := rfl
@[simp] theorem State.delTask_devNum (i : Nat) : (s.delTask i).devNum = s.devNum := rfl
@[simp] theorem State.delTask_mem (i : Nat) : (s.delTask i).mem = s.mem := rfl
@[simp] theorem State.delTask_tags (i : Nat) : (s.delTask i).tags = s.tags := rfl
@[simp] theorem State.delTask_hostMem (i : Nat) : (s.delTask i).hostMem = s.hostMem := rfl
@[simp] theorem State.delTask_cells (i : Nat) : (s.delTask i).cells = s.cells := rfl
@[simp] theorem State.delTask_rooms (i : Nat) : (s.delTask i).rooms = s.rooms := rfl
@[simp] theorem State.delTask_ops (i : Nat) : (s.delTask i).ops = s.ops := rfl
@[simp] theorem State.delTask_combos (i : Nat) : (s.delTask i).combos = s.combos := rfl
@[simp] theorem State.delTask_fills (i : Nat) : (s.delTask i).fills = s.fills := rfl
@[simp] theorem State.delTask_launches (i : Nat) : (s.delTask i).launches = s.launches := rfl
@[simp] theorem State.delTask_rtags (i : Nat) : (s.delTask i).rtags = s.rtags := rfl
@[simp] theorem State.delTask_accts (i : Nat) : (s.delTask i).accts = s.accts := rfl
@[simp] theorem State.delTask_locks (i : Nat) : (s.delTask i).locks = s.locks := rfl
@[simp] theorem State.delTask_ctns (i : Nat) : (s.delTask i).ctns = s.ctns := rfl
@[simp] theorem State.delTask_handlers (i : Nat) : (s.delTask i).handlers = s.handlers := rfl
@[simp] theorem State.delTask_intake (i : Nat) : (s.delTask i).intake = s.intake := rfl
@[simp] theorem State.delTask_rings (i : Nat) : (s.delTask i).rings = s.rings := rfl
@[simp] theorem State.delTask_notices (i : Nat) : (s.delTask i).notices = s.notices := rfl
@[simp] theorem State.delTask_eth (i : Nat) : (s.delTask i).eth = s.eth := rfl
@[simp] theorem State.delTask_ewj (i : Nat) : (s.delTask i).ewj = s.ewj := rfl
@[simp] theorem State.delTask_ewjSeq (i : Nat) : (s.delTask i).ewjSeq = s.ewjSeq := rfl
@[simp] theorem State.delTask_ewjWait (i : Nat) : (s.delTask i).ewjWait = s.ewjWait := rfl
@[simp] theorem State.delTask_served (i : Nat) : (s.delTask i).served = s.served := rfl
@[simp] theorem State.delTask_lodge (i : Nat) : (s.delTask i).lodge = s.lodge := rfl
@[simp] theorem State.delTask_power (i : Nat) : (s.delTask i).power = s.power := rfl
@[simp] theorem State.delTask_logs (i : Nat) : (s.delTask i).logs = s.logs := rfl
@[simp] theorem State.delTask_sched (i : Nat) : (s.delTask i).sched = s.sched := rfl
@[simp] theorem State.delTask_rd (i : Nat) : (s.delTask i).rd = s.rd := rfl
@[simp] theorem State.delTask_rdBytes (i : Nat) : (s.delTask i).rdBytes = s.rdBytes := rfl

/-! ### updOp -/

@[simp] theorem State.updOp_clock (i : Nat) (f : Op → Op) : (s.updOp i f).clock = s.clock := rfl
@[simp] theorem State.updOp_agenda (i : Nat) (f : Op → Op) : (s.updOp i f).agenda = s.agenda := rfl
@[simp] theorem State.updOp_cur (i : Nat) (f : Op → Op) : (s.updOp i f).cur = s.cur := rfl
@[simp] theorem State.updOp_devNum (i : Nat) (f : Op → Op) : (s.updOp i f).devNum = s.devNum := rfl
@[simp] theorem State.updOp_mem (i : Nat) (f : Op → Op) : (s.updOp i f).mem = s.mem := rfl
@[simp] theorem State.updOp_tags (i : Nat) (f : Op → Op) : (s.updOp i f).tags = s.tags := rfl
@[simp] theorem State.updOp_hostMem (i : Nat) (f : Op → Op) : (s.updOp i f).hostMem = s.hostMem := rfl
@[simp] theorem State.updOp_cells (i : Nat) (f : Op → Op) : (s.updOp i f).cells = s.cells := rfl
@[simp] theorem State.updOp_rooms (i : Nat) (f : Op → Op) : (s.updOp i f).rooms = s.rooms := rfl
@[simp] theorem State.updOp_combos (i : Nat) (f : Op → Op) : (s.updOp i f).combos = s.combos := rfl
@[simp] theorem State.updOp_fills (i : Nat) (f : Op → Op) : (s.updOp i f).fills = s.fills := rfl
@[simp] theorem State.updOp_tasks (i : Nat) (f : Op → Op) : (s.updOp i f).tasks = s.tasks := rfl
@[simp] theorem State.updOp_launches (i : Nat) (f : Op → Op) : (s.updOp i f).launches = s.launches := rfl
@[simp] theorem State.updOp_rtags (i : Nat) (f : Op → Op) : (s.updOp i f).rtags = s.rtags := rfl
@[simp] theorem State.updOp_accts (i : Nat) (f : Op → Op) : (s.updOp i f).accts = s.accts := rfl
@[simp] theorem State.updOp_locks (i : Nat) (f : Op → Op) : (s.updOp i f).locks = s.locks := rfl
@[simp] theorem State.updOp_ctns (i : Nat) (f : Op → Op) : (s.updOp i f).ctns = s.ctns := rfl
@[simp] theorem State.updOp_handlers (i : Nat) (f : Op → Op) : (s.updOp i f).handlers = s.handlers := rfl
@[simp] theorem State.updOp_intake (i : Nat) (f : Op → Op) : (s.updOp i f).intake = s.intake := rfl
@[simp] theorem State.updOp_rings (i : Nat) (f : Op → Op) : (s.updOp i f).rings = s.rings := rfl
@[simp] theorem State.updOp_notices (i : Nat) (f : Op → Op) : (s.updOp i f).notices = s.notices := rfl
@[simp] theorem State.updOp_eth (i : Nat) (f : Op → Op) : (s.updOp i f).eth = s.eth := rfl
@[simp] theorem State.updOp_ewj (i : Nat) (f : Op → Op) : (s.updOp i f).ewj = s.ewj := rfl
@[simp] theorem State.updOp_ewjSeq (i : Nat) (f : Op → Op) : (s.updOp i f).ewjSeq = s.ewjSeq := rfl
@[simp] theorem State.updOp_ewjWait (i : Nat) (f : Op → Op) : (s.updOp i f).ewjWait = s.ewjWait := rfl
@[simp] theorem State.updOp_served (i : Nat) (f : Op → Op) : (s.updOp i f).served = s.served := rfl
@[simp] theorem State.updOp_lodge (i : Nat) (f : Op → Op) : (s.updOp i f).lodge = s.lodge := rfl
@[simp] theorem State.updOp_power (i : Nat) (f : Op → Op) : (s.updOp i f).power = s.power := rfl
@[simp] theorem State.updOp_logs (i : Nat) (f : Op → Op) : (s.updOp i f).logs = s.logs := rfl
@[simp] theorem State.updOp_sched (i : Nat) (f : Op → Op) : (s.updOp i f).sched = s.sched := rfl
@[simp] theorem State.updOp_rd (i : Nat) (f : Op → Op) : (s.updOp i f).rd = s.rd := rfl
@[simp] theorem State.updOp_rdBytes (i : Nat) (f : Op → Op) : (s.updOp i f).rdBytes = s.rdBytes := rfl

/-! ### delOp -/

@[simp] theorem State.delOp_clock (i : Nat) : (s.delOp i).clock = s.clock := rfl
@[simp] theorem State.delOp_agenda (i : Nat) : (s.delOp i).agenda = s.agenda := rfl
@[simp] theorem State.delOp_cur (i : Nat) : (s.delOp i).cur = s.cur := rfl
@[simp] theorem State.delOp_devNum (i : Nat) : (s.delOp i).devNum = s.devNum := rfl
@[simp] theorem State.delOp_mem (i : Nat) : (s.delOp i).mem = s.mem := rfl
@[simp] theorem State.delOp_tags (i : Nat) : (s.delOp i).tags = s.tags := rfl
@[simp] theorem State.delOp_hostMem (i : Nat) : (s.delOp i).hostMem = s.hostMem := rfl
@[simp] theorem State.delOp_cells (i : Nat) : (s.delOp i).cells = s.cells := rfl
@[simp] theorem State.delOp_rooms (i : Nat) : (s.delOp i).rooms = s.rooms := rfl
@[simp] theorem State.delOp_combos (i : Nat) : (s.delOp i).combos = s.combos := rfl
@[simp] theorem State.delOp_fills (i : Nat) : (s.delOp i).fills = s.fills := rfl
@[simp] theorem State.delOp_tasks (i : Nat) : (s.delOp i).tasks = s.tasks := rfl
@[simp] theorem State.delOp_launches (i : Nat) : (s.delOp i).launches = s.launches := rfl
@[simp] theorem State.delOp_rtags (i : Nat) : (s.delOp i).rtags = s.rtags := rfl
@[simp] theorem State.delOp_accts (i : Nat) : (s.delOp i).accts = s.accts := rfl
@[simp] theorem State.delOp_locks (i : Nat) : (s.delOp i).locks = s.locks := rfl
@[simp] theorem State.delOp_ctns (i : Nat) : (s.delOp i).ctns = s.ctns := rfl
@[simp] theorem State.delOp_handlers (i : Nat) : (s.delOp i).handlers = s.handlers := rfl
@[simp] theorem State.delOp_intake (i : Nat) : (s.delOp i).intake = s.intake := rfl
@[simp] theorem State.delOp_rings (i : Nat) : (s.delOp i).rings = s.rings := rfl
@[simp] theorem State.delOp_notices (i : Nat) : (s.delOp i).notices = s.notices := rfl
@[simp] theorem State.delOp_eth (i : Nat) : (s.delOp i).eth = s.eth := rfl
@[simp] theorem State.delOp_ewj (i : Nat) : (s.delOp i).ewj = s.ewj := rfl
@[simp] theorem State.delOp_ewjSeq (i : Nat) : (s.delOp i).ewjSeq = s.ewjSeq := rfl
@[simp] theorem State.delOp_ewjWait (i : Nat) : (s.delOp i).ewjWait = s.ewjWait := rfl
@[simp] theorem State.delOp_served (i : Nat) : (s.delOp i).served = s.served := rfl
@[simp] theorem State.delOp_lodge (i : Nat) : (s.delOp i).lodge = s.lodge := rfl
@[simp] theorem State.delOp_power (i : Nat) : (s.delOp i).power = s.power := rfl
@[simp] theorem State.delOp_logs (i : Nat) : (s.delOp i).logs = s.logs := rfl
@[simp] theorem State.delOp_sched (i : Nat) : (s.delOp i).sched = s.sched := rfl
@[simp] theorem State.delOp_rd (i : Nat) : (s.delOp i).rd = s.rd := rfl
@[simp] theorem State.delOp_rdBytes (i : Nat) : (s.delOp i).rdBytes = s.rdBytes := rfl

/-! ### updRtag -/

@[simp] theorem State.updRtag_clock (i : Nat) (f : RouteTag → RouteTag) : (s.updRtag i f).clock = s.clock := rfl
@[simp] theorem State.updRtag_agenda (i : Nat) (f : RouteTag → RouteTag) : (s.updRtag i f).agenda = s.agenda := rfl
@[simp] theorem State.updRtag_cur (i : Nat) (f : RouteTag → RouteTag) : (s.updRtag i f).cur = s.cur := rfl
@[simp] theorem State.updRtag_devNum (i : Nat) (f : RouteTag → RouteTag) : (s.updRtag i f).devNum = s.devNum := rfl
@[simp] theorem State.updRtag_mem (i : Nat) (f : RouteTag → RouteTag) : (s.updRtag i f).mem = s.mem := rfl
@[simp] theorem State.updRtag_tags (i : Nat) (f : RouteTag → RouteTag) : (s.updRtag i f).tags = s.tags := rfl
@[simp] theorem State.updRtag_hostMem (i : Nat) (f : RouteTag → RouteTag) : (s.updRtag i f).hostMem = s.hostMem := rfl
@[simp] theorem State.updRtag_cells (i : Nat) (f : RouteTag → RouteTag) : (s.updRtag i f).cells = s.cells := rfl
@[simp] theorem State.updRtag_rooms (i : Nat) (f : RouteTag → RouteTag) : (s.updRtag i f).rooms = s.rooms := rfl
@[simp] theorem State.updRtag_ops (i : Nat) (f : RouteTag → RouteTag) : (s.updRtag i f).ops = s.ops := rfl
@[simp] theorem State.updRtag_combos (i : Nat) (f : RouteTag → RouteTag) : (s.updRtag i f).combos = s.combos := rfl
@[simp] theorem State.updRtag_fills (i : Nat) (f : RouteTag → RouteTag) : (s.updRtag i f).fills = s.fills := rfl
@[simp] theorem State.updRtag_tasks (i : Nat) (f : RouteTag → RouteTag) : (s.updRtag i f).tasks = s.tasks := rfl
@[simp] theorem State.updRtag_launches (i : Nat) (f : RouteTag → RouteTag) : (s.updRtag i f).launches = s.launches := rfl
@[simp] theorem State.updRtag_accts (i : Nat) (f : RouteTag → RouteTag) : (s.updRtag i f).accts = s.accts := rfl
@[simp] theorem State.updRtag_locks (i : Nat) (f : RouteTag → RouteTag) : (s.updRtag i f).locks = s.locks := rfl
@[simp] theorem State.updRtag_ctns (i : Nat) (f : RouteTag → RouteTag) : (s.updRtag i f).ctns = s.ctns := rfl
@[simp] theorem State.updRtag_handlers (i : Nat) (f : RouteTag → RouteTag) : (s.updRtag i f).handlers = s.handlers := rfl
@[simp] theorem State.updRtag_intake (i : Nat) (f : RouteTag → RouteTag) : (s.updRtag i f).intake = s.intake := rfl
@[simp] theorem State.updRtag_rings (i : Nat) (f : RouteTag → RouteTag) : (s.updRtag i f).rings = s.rings := rfl
@[simp] theorem State.updRtag_notices (i : Nat) (f : RouteTag → RouteTag) : (s.updRtag i f).notices = s.notices := rfl
@[simp] theorem State.updRtag_eth (i : Nat) (f : RouteTag → RouteTag) : (s.updRtag i f).eth = s.eth := rfl
@[simp] theorem State.updRtag_ewj (i : Nat) (f : RouteTag → RouteTag) : (s.updRtag i f).ewj = s.ewj := rfl
@[simp] theorem State.updRtag_ewjSeq (i : Nat) (f : RouteTag → RouteTag) : (s.updRtag i f).ewjSeq = s.ewjSeq := rfl
@[simp] theorem State.updRtag_ewjWait (i : Nat) (f : RouteTag → RouteTag) : (s.updRtag i f).ewjWait = s.ewjWait := rfl
@[simp] theorem State.updRtag_served (i : Nat) (f : RouteTag → RouteTag) : (s.updRtag i f).served = s.served := rfl
@[simp] theorem State.updRtag_lodge (i : Nat) (f : RouteTag → RouteTag) : (s.updRtag i f).lodge = s.lodge := rfl
@[simp] theorem State.updRtag_power (i : Nat) (f : RouteTag → RouteTag) : (s.updRtag i f).power = s.power := rfl
@[simp] theorem State.updRtag_logs (i : Nat) (f : RouteTag → RouteTag) : (s.updRtag i f).logs = s.logs := rfl
@[simp] theorem State.updRtag_sched (i : Nat) (f : RouteTag → RouteTag) : (s.updRtag i f).sched = s.sched := rfl
@[simp] theorem State.updRtag_rd (i : Nat) (f : RouteTag → RouteTag) : (s.updRtag i f).rd = s.rd := rfl
@[simp] theorem State.updRtag_rdBytes (i : Nat) (f : RouteTag → RouteTag) : (s.updRtag i f).rdBytes = s.rdBytes := rfl

/-! ### updAcct -/

@[simp] theorem State.updAcct_clock (i : Nat) (f : Acct → Acct) : (s.updAcct i f).clock = s.clock := rfl
@[simp] theorem State.updAcct_agenda (i : Nat) (f : Acct → Acct) : (s.updAcct i f).agenda = s.agenda := rfl
@[simp] theorem State.updAcct_cur (i : Nat) (f : Acct → Acct) : (s.updAcct i f).cur = s.cur := rfl
@[simp] theorem State.updAcct_devNum (i : Nat) (f : Acct → Acct) : (s.updAcct i f).devNum = s.devNum := rfl
@[simp] theorem State.updAcct_mem (i : Nat) (f : Acct → Acct) : (s.updAcct i f).mem = s.mem := rfl
@[simp] theorem State.updAcct_tags (i : Nat) (f : Acct → Acct) : (s.updAcct i f).tags = s.tags := rfl
@[simp] theorem State.updAcct_hostMem (i : Nat) (f : Acct → Acct) : (s.updAcct i f).hostMem = s.hostMem := rfl
@[simp] theorem State.updAcct_cells (i : Nat) (f : Acct → Acct) : (s.updAcct i f).cells = s.cells := rfl
@[simp] theorem State.updAcct_rooms (i : Nat) (f : Acct → Acct) : (s.updAcct i f).rooms = s.rooms := rfl
@[simp] theorem State.updAcct_ops (i : Nat) (f : Acct → Acct) : (s.updAcct i f).ops = s.ops := rfl
@[simp] theorem State.updAcct_combos (i : Nat) (f : Acct → Acct) : (s.updAcct i f).combos = s.combos := rfl
@[simp] theorem State.updAcct_fills (i : Nat) (f : Acct → Acct) : (s.updAcct i f).fills = s.fills := rfl
@[simp] theorem State.updAcct_tasks (i : Nat) (f : Acct → Acct) : (s.updAcct i f).tasks = s.tasks := rfl
@[simp] theorem State.updAcct_launches (i : Nat) (f : Acct → Acct) : (s.updAcct i f).launches = s.launches := rfl
@[simp] theorem State.updAcct_rtags (i : Nat) (f : Acct → Acct) : (s.updAcct i f).rtags = s.rtags := rfl
@[simp] theorem State.updAcct_locks (i : Nat) (f : Acct → Acct) : (s.updAcct i f).locks = s.locks := rfl
@[simp] theorem State.updAcct_ctns (i : Nat) (f : Acct → Acct) : (s.updAcct i f).ctns = s.ctns := rfl
@[simp] theorem State.updAcct_handlers (i : Nat) (f : Acct → Acct) : (s.updAcct i f).handlers = s.handlers := rfl
@[simp] theorem State.updAcct_intake (i : Nat) (f : Acct → Acct) : (s.updAcct i f).intake = s.intake := rfl
@[simp] theorem State.updAcct_rings (i : Nat) (f : Acct → Acct) : (s.updAcct i f).rings = s.rings := rfl
@[simp] theorem State.updAcct_notices (i : Nat) (f : Acct → Acct) : (s.updAcct i f).notices = s.notices := rfl
@[simp] theorem State.updAcct_eth (i : Nat) (f : Acct → Acct) : (s.updAcct i f).eth = s.eth := rfl
@[simp] theorem State.updAcct_ewj (i : Nat) (f : Acct → Acct) : (s.updAcct i f).ewj = s.ewj := rfl
@[simp] theorem State.updAcct_ewjSeq (i : Nat) (f : Acct → Acct) : (s.updAcct i f).ewjSeq = s.ewjSeq := rfl
@[simp] theorem State.updAcct_ewjWait (i : Nat) (f : Acct → Acct) : (s.updAcct i f).ewjWait = s.ewjWait := rfl
@[simp] theorem State.updAcct_served (i : Nat) (f : Acct → Acct) : (s.updAcct i f).served = s.served := rfl
@[simp] theorem State.updAcct_lodge (i : Nat) (f : Acct → Acct) : (s.updAcct i f).lodge = s.lodge := rfl
@[simp] theorem State.updAcct_power (i : Nat) (f : Acct → Acct) : (s.updAcct i f).power = s.power := rfl
@[simp] theorem State.updAcct_logs (i : Nat) (f : Acct → Acct) : (s.updAcct i f).logs = s.logs := rfl
@[simp] theorem State.updAcct_sched (i : Nat) (f : Acct → Acct) : (s.updAcct i f).sched = s.sched := rfl
@[simp] theorem State.updAcct_rd (i : Nat) (f : Acct → Acct) : (s.updAcct i f).rd = s.rd := rfl
@[simp] theorem State.updAcct_rdBytes (i : Nat) (f : Acct → Acct) : (s.updAcct i f).rdBytes = s.rdBytes := rfl

/-! ### fresh -/

@[simp] theorem State.fresh_agenda : (s.fresh).2.agenda = s.agenda := rfl
@[simp] theorem State.fresh_cur : (s.fresh).2.cur = s.cur := rfl
@[simp] theorem State.fresh_devNum : (s.fresh).2.devNum = s.devNum := rfl
@[simp] theorem State.fresh_mem : (s.fresh).2.mem = s.mem := rfl
@[simp] theorem State.fresh_tags : (s.fresh).2.tags = s.tags := rfl
@[simp] theorem State.fresh_hostMem : (s.fresh).2.hostMem = s.hostMem := rfl
@[simp] theorem State.fresh_cells : (s.fresh).2.cells = s.cells := rfl
@[simp] theorem State.fresh_rooms : (s.fresh).2.rooms = s.rooms := rfl
@[simp] theorem State.fresh_ops : (s.fresh).2.ops = s.ops := rfl
@[simp] theorem State.fresh_combos : (s.fresh).2.combos = s.combos := rfl
@[simp] theorem State.fresh_fills : (s.fresh).2.fills = s.fills := rfl
@[simp] theorem State.fresh_tasks : (s.fresh).2.tasks = s.tasks := rfl
@[simp] theorem State.fresh_launches : (s.fresh).2.launches = s.launches := rfl
@[simp] theorem State.fresh_rtags : (s.fresh).2.rtags = s.rtags := rfl
@[simp] theorem State.fresh_accts : (s.fresh).2.accts = s.accts := rfl
@[simp] theorem State.fresh_locks : (s.fresh).2.locks = s.locks := rfl
@[simp] theorem State.fresh_ctns : (s.fresh).2.ctns = s.ctns := rfl
@[simp] theorem State.fresh_handlers : (s.fresh).2.handlers = s.handlers := rfl
@[simp] theorem State.fresh_intake : (s.fresh).2.intake = s.intake := rfl
@[simp] theorem State.fresh_rings : (s.fresh).2.rings = s.rings := rfl
@[simp] theorem State.fresh_notices : (s.fresh).2.notices = s.notices := rfl
@[simp] theorem State.fresh_eth : (s.fresh).2.eth = s.eth := rfl
@[simp] theorem State.fresh_ewj : (s.fresh).2.ewj = s.ewj := rfl
@[simp] theorem State.fresh_ewjSeq : (s.fresh).2.ewjSeq = s.ewjSeq := rfl
@[simp] theorem State.fresh_ewjWait : (s.fresh).2.ewjWait = s.ewjWait := rfl
@[simp] theorem State.fresh_served : (s.fresh).2.served = s.served := rfl
@[simp] theorem State.fresh_lodge : (s.fresh).2.lodge = s.lodge := rfl
@[simp] theorem State.fresh_power : (s.fresh).2.power = s.power := rfl
@[simp] theorem State.fresh_logs : (s.fresh).2.logs = s.logs := rfl
@[simp] theorem State.fresh_sched : (s.fresh).2.sched = s.sched := rfl
@[simp] theorem State.fresh_rd : (s.fresh).2.rd = s.rd := rfl
@[simp] theorem State.fresh_rdBytes : (s.fresh).2.rdBytes = s.rdBytes := rfl

/-! ### free -/

@[simp] theorem State.free_agenda : (s.free).2.agenda = s.agenda := rfl
@[simp] theorem State.free_cur : (s.free).2.cur = s.cur := rfl
@[simp] theorem State.free_devNum : (s.free).2.devNum = s.devNum := rfl
@[simp] theorem State.free_mem : (s.free).2.mem = s.mem := rfl
@[simp] theorem State.free_tags : (s.free).2.tags = s.tags := rfl
@[simp] theorem State.free_hostMem : (s.free).2.hostMem = s.hostMem := rfl
@[simp] theorem State.free_cells : (s.free).2.cells = s.cells := rfl
@[simp] theorem State.free_rooms : (s.free).2.rooms = s.rooms := rfl
@[simp] theorem State.free_ops : (s.free).2.ops = s.ops := rfl
@[simp] theorem State.free_combos : (s.free).2.combos = s.combos := rfl
@[simp] theorem State.free_fills : (s.free).2.fills = s.fills := rfl
@[simp] theorem State.free_tasks : (s.free).2.tasks = s.tasks := rfl
@[simp] theorem State.free_launches : (s.free).2.launches = s.launches := rfl
@[simp] theorem State.free_rtags : (s.free).2.rtags = s.rtags := rfl
@[simp] theorem State.free_accts : (s.free).2.accts = s.accts := rfl
@[simp] theorem State.free_locks : (s.free).2.locks = s.locks := rfl
@[simp] theorem State.free_ctns : (s.free).2.ctns = s.ctns := rfl
@[simp] theorem State.free_handlers : (s.free).2.handlers = s.handlers := rfl
@[simp] theorem State.free_intake : (s.free).2.intake = s.intake := rfl
@[simp] theorem State.free_rings : (s.free).2.rings = s.rings := rfl
@[simp] theorem State.free_notices : (s.free).2.notices = s.notices := rfl
@[simp] theorem State.free_eth : (s.free).2.eth = s.eth := rfl
@[simp] theorem State.free_ewj : (s.free).2.ewj = s.ewj := rfl
@[simp] theorem State.free_ewjSeq : (s.free).2.ewjSeq = s.ewjSeq := rfl
@[simp] theorem State.free_ewjWait : (s.free).2.ewjWait = s.ewjWait := rfl
@[simp] theorem State.free_served : (s.free).2.served = s.served := rfl
@[simp] theorem State.free_lodge : (s.free).2.lodge = s.lodge := rfl
@[simp] theorem State.free_power : (s.free).2.power = s.power := rfl
@[simp] theorem State.free_logs : (s.free).2.logs = s.logs := rfl
@[simp] theorem State.free_sched : (s.free).2.sched = s.sched := rfl
@[simp] theorem State.free_rd : (s.free).2.rd = s.rd := rfl
@[simp] theorem State.free_rdBytes : (s.free).2.rdBytes = s.rdBytes := rfl

/-! ### What is read back -/

/-- A cell after a write of a cell. -/
@[simp] theorem State.cell_setCell (c d : Nat) (v : Cell) : (s.setCell c v).cell d = if d = c then v else s.cell d :=
  mget_mset _ _ _ _ _

/-- A cell after a change of a cell. -/
@[simp] theorem State.cell_updCell (c d : Nat) (f : Cell → Cell) :
    (s.updCell c f).cell d = if d = c then f (s.cell c) else s.cell d := mget_mset _ _ _ _ _

/-- A cell after a change of an element. -/
theorem State.cell_updElem (c e d : Nat) (f : Elem → Elem) :
    (s.updElem c e f).cell d =
      if d = c then { s.cell c with elems := mset (s.cell c).elems e (f ((s.cell c).elem e)) } else s.cell d :=
  mget_mset _ _ _ _ _

/-- An element after a change of an element. -/
@[simp] theorem State.elem_updElem (c e d k : Nat) (f : Elem → Elem) :
    (s.updElem c e f).elem d k = if d = c ∧ k = e then f (s.elem c e) else s.elem d k := by
  unfold State.elem
  rw [State.cell_updElem]
  by_cases hd : d = c
  · subst hd
    simp only [if_true, true_and, Cell.elem, mget_mset]
  · simp [hd]

/-- A room after a change of a room. -/
@[simp] theorem State.room_updRoom (r q : Nat) (f : Room → Room) :
    (s.updRoom r f).room q = if q = r then f (s.room r) else s.room q := mget_mset _ _ _ _ _

/-- A route tag after a change of a route tag. -/
@[simp] theorem State.rtag_updRtag (i j : Nat) (f : RouteTag → RouteTag) :
    (s.updRtag i f).rtag j = if j = i then f (s.rtag i) else s.rtag j := mget_mset _ _ _ _ _

/-- An account after a change of an account. -/
@[simp] theorem State.acct_updAcct (i j : Nat) (f : Acct → Acct) :
    (s.updAcct i f).acct j = if j = i then f (s.acct i) else s.acct j := mget_mset _ _ _ _ _

/-- A change that keeps identifiers finds the same task, changed. -/
theorem State.task?_updTask (i j : Nat) (f : Task → Task) (hf : ∀ t, (f t).id = t.id) :
    (s.updTask i f).task? j = if j = i then (s.task? j).map f else s.task? j := by
  unfold State.updTask State.task?
  generalize s.tasks = l
  induction l with
  | nil => simp
  | cons t l ih =>
    by_cases h1 : t.id = i
    · by_cases h2 : t.id = j
      · have h3 : j = i := by omega
        simp [h1, hf, h3]
      · have h3 : ¬ i = j := by omega
        simpa [h1, hf, h3, List.find?_cons] using ih
    · by_cases h2 : t.id = j
      · have h3 : ¬ j = i := by omega
        simp [h2, h3]
      · simpa [h1, h2, List.find?_cons] using ih

/-- A change that each step of a fold keeps is kept by the fold. -/
theorem foldState_keeps {α : Type} (P : State → Prop) (f : α → State → State) (h : ∀ a s, P s → P (f a s))
    (l : List α) (s : State) (hs : P s) : P (foldState l s f) := by
  unfold foldState
  induction l generalizing s with
  | nil => exact hs
  | cons a l ih => exact ih _ (h a s hs)

/-- A part of the state that each step of a fold leaves unchanged is unchanged by the fold. -/
theorem foldState_frame {α β : Type} (g : State → β) (f : α → State → State) (h : ∀ a s, g (f a s) = g s)
    (l : List α) (s : State) : g (foldState l s f) = g s :=
  foldState_keeps (fun t => g t = g s) f (fun a t ht => (h a t).trans ht) l s rfl

end Sys2Proof.Machine
end

