-- ==== Sys2Proof/Laws/Fire.lean ====
section
/-! SUPPORT. What the shared operations of a firing do: the debit, the mark of a firing, tokens on their routes, the
result within the step. -/

namespace Sys2Proof.Machine

/-! ### Small facts -/

@[simp] theorem Cell.elem_mset (el : Elem) (m : AMap Elem) (cl : Cell) (e k : Nat) :
    ({ cl with elems := mset m e el } : Cell).elem k = if k = e then el else mget m k {} := mget_mset _ _ _ _ _

theorem State.elem_def (s : State) (c e : Nat) : s.elem c e = (s.cell c).elem e := rfl

/-- An element after a change of a cell that keeps its elements. -/
theorem State.elem_updCell_keeps (s : State) (c d k : Nat) (f : Cell → Cell) (h : (f (s.cell c)).elems = (s.cell c).elems) :
    (s.updCell c f).elem d k = s.elem d k := by
  simp only [State.elem, State.cell_updCell, Cell.elem]
  split
  next hd => rw [h, hd]
  next => rfl

@[simp] theorem State.elem_updMeter (s : State) (c d k : Nat) (f : Meter → Meter) :
    (s.updMeter c f).elem d k = s.elem d k := State.elem_updCell_keeps _ _ _ _ _ rfl

@[simp] theorem State.cell_updMeter (s : State) (c d : Nat) (f : Meter → Meter) :
    (s.updMeter c f).cell d = if d = c then { s.cell c with meter := f (s.cell c).meter } else s.cell d :=
  State.cell_updCell _ _ _ _

/-- What two elements that differ in their channels only have in common. -/
theorem Elem.quiet_facts {a b : Elem} (h : a.quiet = b.quiet) :
    a.g = b.g ∧ a.taint = b.taint ∧ a.pb = b.pb ∧ a.sticky = b.sticky ∧ a.eng = b.eng ∧ a.w = b.w ∧ a.done = b.done
      ∧ a.still = b.still := by
  have h1 := congrArg Elem.g h
  have h2 := congrArg Elem.taint h
  have h3 := congrArg Elem.pb h
  have h4 := congrArg Elem.sticky h
  have h5 := congrArg Elem.eng h
  have h6 := congrArg Elem.w h
  have h7 := congrArg Elem.done h
  have h8 := congrArg (fun el : Elem => { el with last := none, held := none, paid := none, spawnTick := none }) h
  exact ⟨h1, h2, h3, h4, h5, h6, h7, h8⟩

/-! ### Keeping frames -/

theorem SameDevice.refl (s : State) : SameDevice s s := ⟨rfl, rfl, rfl, rfl, rfl⟩

theorem SameDevice.trans {s t u : State} (h1 : SameDevice s t) (h2 : SameDevice t u) : SameDevice s u := by
  obtain ⟨a1, b1, c1, d1, e1⟩ := h1
  obtain ⟨a2, b2, c2, d2, e2⟩ := h2
  refine ⟨?_, b2.trans b1, ?_, d2.trans d1, e2.trans e1⟩
  · rw [← a2] at a1
    cases u; cases s; simp_all
  · rw [← c2] at c1
    exact c1

theorem SameEngines.refl (s : State) : SameEngines s s := fun _ => rfl

theorem SameEngines.trans {s t u : State} (h1 : SameEngines s t) (h2 : SameEngines t u) : SameEngines s u :=
  fun c => (h2 c).trans (h1 c)

/-- A change of a meter changes nothing else. -/
theorem State.updMeter_same (s : State) (c : Nat) (f : Meter → Meter) :
    SameDevice s (s.updMeter c f) ∧ SameEngines s (s.updMeter c f) := by
  refine ⟨⟨rfl, rfl, rfl, rfl, rfl⟩, fun d => ?_⟩
  rw [State.cell_updMeter]
  split
  next h => subst h; rfl
  next => rfl

/-- What a debit does not change. -/
def DebitFrame (s t : State) : Prop := SameDevice s t ∧ SameEngines s t ∧ ∀ c e, t.elem c e = s.elem c e

theorem DebitFrame.refl (s : State) : DebitFrame s s := ⟨SameDevice.refl s, SameEngines.refl s, fun _ _ => rfl⟩

theorem DebitFrame.trans {s t u : State} (h1 : DebitFrame s t) (h2 : DebitFrame t u) : DebitFrame s u :=
  ⟨h1.1.trans h2.1, h1.2.1.trans h2.2.1, fun c e => (h2.2.2 c e).trans (h1.2.2 c e)⟩

theorem State.updMeter_debitFrame (s : State) (c : Nat) (f : Meter → Meter) : DebitFrame s (s.updMeter c f) :=
  ⟨(s.updMeter_same c f).1, (s.updMeter_same c f).2, fun _ _ => State.elem_updMeter _ _ _ _ _⟩

theorem State.requestTopup_debitFrame (s : State) (t : Task) (c n : Nat) : DebitFrame s (s.requestTopup t c n) :=
  (s.updMeter_debitFrame c fun m => { m with pend := true, st := if m.st = .stalled then .stalled else .pending }).trans
    ⟨⟨rfl, rfl, rfl, rfl, rfl⟩, SameEngines.refl _, fun _ _ => rfl⟩

theorem State.autoTopup_debitFrame (s : State) (t : Task) (c : Nat) : DebitFrame s (s.autoTopup t c) := by
  unfold State.autoTopup
  split
  · exact DebitFrame.refl s
  · split
    · exact s.updMeter_debitFrame c _
    · exact (s.updMeter_debitFrame c _).trans (State.requestTopup_debitFrame _ t c _)

theorem State.pumped_debitFrame (s : State) (c : Nat) : DebitFrame s (s.pumped c) :=
  DebitFrame.trans (t := s.free.2) ⟨⟨rfl, rfl, rfl, rfl, rfl⟩, SameEngines.refl _, fun _ _ => rfl⟩
    (State.updMeter_debitFrame _ c _)

/-! ### The debit -/

/-- A ready firing belongs to a task that is not frozen, in a cell whose meter takes debits. -/
theorem State.ready_takes {s : State} {x : Fire} (h : s.ready x = true) :
    x.t.frozen = false ∧ (s.cell x.c).meter.takes = true ∧ x.t.st = .running := by
  simp only [State.ready, State.readyBut, Bool.and_eq_true, Bool.not_eq_true', beq_iff_eq] at h
  tauto

/-- A debit that is covered is taken. -/
theorem State.pay_covered (s : State) (t : Task) (c cost : Nat) (hf : t.frozen = false)
    (ht : (s.cell c).meter.takes = true) (h : (s.entryOf t).mmode = true ∨ cost ≤ (s.cell c).meter.bal) :
    ∃ s1, s.pay t c cost = .paid s1 ∧ DebitFrame s s1 := by
  unfold State.pay
  simp only [hf, Bool.false_eq_true, if_false]
  have hs : (s.cell c).meter.st = .paying ∨ (s.cell c).meter.st = .pending := by
    simpa [Meter.takes] using ht
  by_cases hm : (s.entryOf t).mmode = true
  · simp only [hm, hs, if_true]
    exact ⟨_, rfl, (s.pumped_debitFrame c).trans (State.autoTopup_debitFrame _ t c)⟩
  · have hb : cost ≤ (s.cell c).meter.bal := by tauto
    simp only [hm, hs, hb, if_true]
    exact ⟨_, rfl, (s.updMeter_debitFrame c _).trans (State.autoTopup_debitFrame _ t c)⟩

/-- A firing that is ready and paid for goes on from the debited state. -/
theorem State.offer_affords {s : State} {x : Fire} {cost : Nat} (hr : s.ready x = true) (ha : s.Affords x cost)
    (body : State → State) :
    s.offer x cost body = body ((s.debited x cost).fired x) ∧ DebitFrame s (s.debited x cost) := by
  unfold State.offer State.debited
  by_cases hp : (s.elem x.c x.e).paid = some x.k
  · simp only [hp, if_true]
    exact ⟨trivial, DebitFrame.refl s⟩
  · have hk := State.ready_takes hr
    have hc : (s.entryOf x.t).mmode = true ∨ cost + s.tokenCost x ≤ (s.cell x.c).meter.bal := by
      unfold State.Affords at ha; tauto
    obtain ⟨s1, h1, h2⟩ := s.pay_covered x.t x.c _ hk.1 hk.2.1 hc
    simp only [hp, if_false, h1]
    exact ⟨trivial, h2⟩

/-- The automatic trigger changes neither BAL nor CONS (R145). -/
theorem State.autoTopup_figures (s : State) (t : Task) (c : Nat) :
    ((s.autoTopup t c).cell c).meter.bal = (s.cell c).meter.bal ∧ ((s.autoTopup t c).cell c).meter.cons = (s.cell c).meter.cons := by
  unfold State.autoTopup State.autoRequest State.requestTopup
  have h : ∀ u : State, ∀ q : Sched, ({ u with sched := q } : State).cell c = u.cell c := fun _ _ => rfl
  split
  · exact ⟨rfl, rfl⟩
  · split <;> constructor <;> simp [h]

/-- The mark of a firing leaves every meter alone. -/
theorem State.fired_meter (s : State) (x : Fire) (c : Nat) : ((s.fired x).cell c).meter = (s.cell c).meter := by
  show ((s.updElem x.c x.e fun el =>
    { el with last := some x.k, held := none, paid := if el.paid = some x.k then none else el.paid }).cell c).meter = _
  rw [State.cell_updElem]
  split
  next h => subst h; rfl
  next => rfl

/-- What a firing that is ready and paid for debits (R146). -/
theorem State.debited_debits {s : State} {x : Fire} {cost : Nat} (hr : s.ready x = true) (ha : s.Affords x cost) :
    Debits s ((s.debited x cost).fired x) x cost := by
  unfold Debits
  dsimp only
  rw [State.fired_meter]
  unfold State.debited
  by_cases hp : (s.elem x.c x.e).paid = some x.k
  · simp [hp]
  · have hk := State.ready_takes hr
    have hs : (s.cell x.c).meter.st = .paying ∨ (s.cell x.c).meter.st = .pending := by
      simpa [Meter.takes] using hk.2.1
    simp only [hp, if_false]
    unfold State.pay
    simp only [hk.1, Bool.false_eq_true, if_false]
    by_cases hm : (s.entryOf x.t).mmode = true
    · simp only [hm, hs, if_true]
      refine ⟨s.free.1.toNat % ((s.cell x.c).meter.bal / 64 + 1), Nat.le_of_lt_succ (Nat.mod_lt _ (Nat.succ_pos _)), ?_⟩
      have h := (s.pumped x.c).autoTopup_figures x.t x.c
      have hc : (s.free.2).cell x.c = s.cell x.c := rfl
      rw [h.1, h.2]
      unfold State.pumped
      simp [Meter.debit, hc]
    · have hb : cost + s.tokenCost x ≤ (s.cell x.c).meter.bal := by
        unfold State.Affords at ha; tauto
      simp only [hm, hs, hb, if_true, Bool.false_eq_true, if_false]
      have h := (s.updMeter x.c fun m => m.debit (cost + s.tokenCost x)).autoTopup_figures x.t x.c
      rw [h.1, h.2]
      simp [Meter.debit]

/-- A debit is seen after steps that leave the meter of the cell alone. -/
theorem Debits.keeps {s u t : State} {x : Fire} {cost : Nat} (h : Debits s u x cost)
    (hm : (t.cell x.c).meter = (u.cell x.c).meter) : Debits s t x cost := by
  unfold Debits at h ⊢
  rwa [hm]

/-- An instruction over `fire` and `offer`: what it comes to where it fires and is paid for. -/
theorem State.fire_fires {s : State} {op : Nat} {f : Slot} {x : Fire} (h : s.Fires op f x)
    (body : Fire → State → State) : s.fire op f body = body x s := by
  unfold State.fire
  rw [h.1]
  simp [h.2]

/-- What the site of a firing says of it. -/
theorem State.Fires.site {s : State} {op : Nat} {f : Slot} {x : Fire} (h : s.Fires op f x) :
    x.op = op ∧ x.f = f ∧ x.c = s.cur.cell ∧ x.e = s.cur.elem ∧ x.k = s.cur.slot ∧ s.owner? x.c = some x.t
      ∧ x.a = srcVal (s.cell x.c) (s.elem x.c x.e) f.src1 ∧ x.b = src2Val (s.cell x.c) (s.elem x.c x.e) f
      ∧ x.cin = (s.elem x.c x.e).pb.getLsbD f.pidx.toNat ∧ x.tnt = tainted (s.elem x.c x.e) (needsOf op f) := by
  have h1 := h.1
  unfold State.fireAt at h1
  split at h1
  · cases h1
  next t ht =>
    simp only [Option.some.injEq] at h1
    subst h1
    exact ⟨rfl, rfl, rfl, rfl, rfl, ht, rfl, rfl, rfl, rfl⟩

/-! ### The mark of a firing -/

theorem State.fired_elem (s : State) (x : Fire) (c e : Nat) :
    (s.fired x).elem c e = if c = x.c ∧ e = x.e then
      (fun el : Elem => { el with last := some x.k, held := none, paid := if el.paid = some x.k then none else el.paid })
        (s.elem x.c x.e)
      else s.elem c e :=
  State.elem_updElem s x.c x.e c e fun el =>
    { el with last := some x.k, held := none, paid := if el.paid = some x.k then none else el.paid }

theorem State.fired_same (s : State) (x : Fire) : SameDevice s (s.fired x) ∧ SameEngines s (s.fired x) := by
  refine ⟨⟨rfl, ?_, rfl, rfl, rfl⟩, fun c => ?_⟩
  · simp only [State.fired, State.updTask, State.updElem_tasks, List.map_map]
    refine List.map_congr_left fun k _ => ?_
    simp only [Function.comp]
    split <;> rfl
  · show ((s.updElem x.c x.e fun el =>
      { el with last := some x.k, held := none, paid := if el.paid = some x.k then none else el.paid }).cell c).engines = _
    rw [State.cell_updElem]
    split
    next h => subst h; rfl
    next => rfl

/-! ### Tokens -/

/-- What sending or keeping space changes: channels and edge queues only. -/
def ChannelFrame (s t : State) : Prop :=
  { t with cells := s.cells } = s ∧ SameEngines s t ∧ (∀ c, (t.cell c).meter = (s.cell c).meter)
    ∧ ∀ c e, (t.elem c e).quiet = (s.elem c e).quiet

theorem ChannelFrame.refl (s : State) : ChannelFrame s s := ⟨rfl, SameEngines.refl s, fun _ => rfl, fun _ _ => rfl⟩

theorem ChannelFrame.trans {s t u : State} (h1 : ChannelFrame s t) (h2 : ChannelFrame t u) : ChannelFrame s u := by
  refine ⟨?_, h1.2.1.trans h2.2.1, fun c => (h2.2.2.1 c).trans (h1.2.2.1 c), fun c e => (h2.2.2.2 c e).trans (h1.2.2.2 c e)⟩
  have a1 := h1.1
  have a2 := h2.1
  rw [← a2] at a1
  exact a1

theorem State.updInputAt_channel (s : State) (c e i : Nat) (f : Input → Input) : ChannelFrame s (s.updInputAt c e i f) := by
  unfold State.updInputAt
  split
  · refine ⟨rfl, fun d => ?_, fun d => ?_, fun d k => ?_⟩
    · rw [State.cell_updCell]; split
      next h => subst h; rfl
      next => rfl
    · rw [State.cell_updCell]; split
      next h => subst h; rfl
      next => rfl
    · rw [State.elem_updCell_keeps]; rfl
  · refine ⟨rfl, fun d => ?_, fun d => ?_, fun d k => ?_⟩
    · rw [State.cell_updElem]; split
      next h => subst h; rfl
      next => rfl
    · rw [State.cell_updElem]; split
      next h => subst h; rfl
      next => rfl
    · rw [State.elem_updElem]; split
      next h => rw [h.1, h.2]; rfl
      next => rfl

theorem foldState_channel {α : Type} (f : α → State → State) (h : ∀ a s, ChannelFrame s (f a s)) (l : List α)
    (s : State) : ChannelFrame s (foldState l s f) :=
  foldState_keeps (fun t => ChannelFrame s t) f (fun a t ht => ht.trans (h a t)) l s (ChannelFrame.refl s)

theorem State.noteSent_channel (s : State) (c e : Nat) : ChannelFrame s (s.noteSent c e) := by
  unfold State.noteSent
  split
  · exact ChannelFrame.refl s
  · refine ⟨rfl, fun d => ?_, fun d => ?_, fun d k => ?_⟩
    · rw [State.cell_updCell]; split
      next h => subst h; rfl
      next => rfl
    · rw [State.cell_updCell]; split
      next h => subst h; rfl
      next => rfl
    · rw [State.elem_updCell_keeps]; rfl

theorem State.send_channel (s : State) (t : Task) (c : Nat) (ds : List Dest) (k : Token) :
    ChannelFrame s (s.send t c ds k) := by
  refine foldState_channel _ (fun d st => ?_) _ _
  dsimp only
  split
  · exact (State.updInputAt_channel _ _ _ _ _).trans (State.noteSent_channel _ _ _)
  · exact State.updInputAt_channel _ _ _ _ _

theorem State.reserve_channel (s : State) (t : Task) (ds : List Dest) : ChannelFrame s (s.reserve t ds) :=
  foldState_channel _ (fun _ _ => State.updInputAt_channel _ _ _ _ _) _ _

theorem State.unreserve_channel (s : State) (t : Task) (ds : List Dest) : ChannelFrame s (s.unreserve t ds) :=
  foldState_channel _ (fun _ _ => State.updInputAt_channel _ _ _ _ _) _ _

theorem State.sendResult_channel (s : State) (x : Fire) (r : Word) : ChannelFrame s (s.sendResult x r) :=
  (State.send_channel _ _ _ _ _).trans (State.send_channel _ _ _ _ _)

theorem ChannelFrame.sameDevice {s t : State} (h : ChannelFrame s t) : SameDevice s t := by
  have e := h.1
  have hc : t.clock = s.clock := by rw [← e]
  have ht : t.tasks = s.tasks := by rw [← e]
  have hs : t.sched = s.sched := by rw [← e]
  refine ⟨?_, by rw [ht], by rw [hs], by rw [hc], by rw [hc]⟩
  rw [← hc, ← ht, ← hs]
  exact e

/-- An element whose channels alone changed. -/
theorem ChannelFrame.elem {s t : State} (h : ChannelFrame s t) (c e : Nat) :
    (t.elem c e).greg = (s.elem c e).greg ∧ (t.elem c e).taint = (s.elem c e).taint ∧ (t.elem c e).pb = (s.elem c e).pb
      ∧ (t.elem c e).sticky = (s.elem c e).sticky ∧ (t.elem c e).eng = (s.elem c e).eng
      ∧ (t.elem c e).w = (s.elem c e).w ∧ (t.elem c e).done = (s.elem c e).done
      ∧ (t.elem c e).still = (s.elem c e).still := by
  have q := Elem.quiet_facts (h.2.2.2 c e)
  refine ⟨?_, q.2⟩
  funext i
  simp [Elem.greg, q.1]

/-! ### What the channels hold (R176, R177) -/

@[simp] theorem Elem.input_updInput (el : Elem) (i j : Nat) (f : Input → Input) :
    (el.updInput i f).input j = if j = i then f (el.input i) else el.input j := mget_mset _ _ _ _ _

/-- A channel after a change of a cell that keeps its elements and its edge ports. -/
theorem State.inputAt_updCell_keeps (s : State) (d : Nat) (f : Cell → Cell) (h : (f (s.cell d)).elems = (s.cell d).elems)
    (h' : (f (s.cell d)).edges = (s.cell d).edges) (c e i : Nat) : (s.updCell d f).inputAt c e i = s.inputAt c e i := by
  unfold State.inputAt
  rw [State.elem_updCell_keeps s d c e f h, State.cell_updCell]
  split
  · split
    next hd => subst hd; simp only [Cell.edge, h']
    next => rfl
  · rfl

/-- A channel after a change of an element. -/
theorem State.inputAt_updElem (s : State) (d k : Nat) (f : Elem → Elem) (c e i : Nat) :
    (s.updElem d k f).inputAt c e i =
      if c = d ∧ e = k ∧ isEdge c e = false then (f (s.elem d k)).input i else s.inputAt c e i := by
  unfold State.inputAt
  cases hE : isEdge c e
  · rw [State.elem_updElem]
    by_cases h : c = d ∧ e = k
    · simp [h.1, h.2]
    · have h2 : ¬ (c = d ∧ e = k ∧ true = true) := fun q => h ⟨q.1, q.2.1⟩
      simp [h]
  · rw [State.cell_updElem]
    by_cases h : c = d
    · subst h; simp [Cell.edge]
    · simp [h]

/-- A channel after a change of one. -/
theorem State.inputAt_updInputAt (s : State) (d k j : Nat) (f : Input → Input) (c e i : Nat) :
    (s.updInputAt d k j f).inputAt c e i =
      if d = c ∧ k = e ∧ (isEdge c e = true ∨ j = i) then f (s.inputAt c e i) else s.inputAt c e i := by
  unfold State.updInputAt
  cases hE : isEdge d k
  · simp only [Bool.false_eq_true, if_false]
    rw [State.inputAt_updElem]
    by_cases h : d = c ∧ k = e
    · obtain ⟨rfl, rfl⟩ := h
      simp only [hE, and_self, if_true, State.inputAt, Bool.false_eq_true, if_false, false_or, true_and]
      rw [Elem.input_updInput]
      by_cases hj : j = i
      · simp [hj]
      · simp [hj, Ne.symm hj]
    · have h1 : ¬ (c = d ∧ e = k ∧ isEdge c e = false) := fun q => h ⟨q.1.symm, q.2.1.symm⟩
      have h2 : ¬ (d = c ∧ k = e ∧ (isEdge c e = true ∨ j = i)) := fun q => h ⟨q.1, q.2.1⟩
      rw [if_neg h1, if_neg h2]
  · simp only [if_true]
    unfold State.inputAt
    cases hF : isEdge c e
    · have h2 : ¬ (d = c ∧ k = e ∧ (false = true ∨ j = i)) := fun q => by rw [q.1, q.2.1, hF] at hE; exact Bool.noConfusion hE
      rw [if_neg h2, State.elem_updCell_keeps _ _ _ _ _ rfl]
      rfl
    · simp only [if_true, true_or, and_true]
      rw [State.cell_updCell]
      by_cases h : c = d
      · subst h
        simp only [if_true, Cell.edge, mget_mset, true_and]
        have he : 4 ≤ e := by
          unfold isEdge at hF; simp only [Bool.and_eq_true, decide_eq_true_eq] at hF; exact hF.2
        have hk : 4 ≤ k := by
          unfold isEdge at hE; simp only [Bool.and_eq_true, decide_eq_true_eq] at hE; exact hE.2
        by_cases h3 : k = e
        · subst h3; simp
        · have : e - 4 ≠ k - 4 := by omega
          simp [h3, this]
      · have h2 : ¬ (d = c ∧ k = e) := fun q => h q.1.symm
        rw [if_neg h, if_neg h2]

@[simp] theorem State.inputAt_noteSent (s : State) (d k c e i : Nat) : (s.noteSent d k).inputAt c e i = s.inputAt c e i := by
  unfold State.noteSent
  split
  · rfl
  · exact State.inputAt_updCell_keeps s d _ rfl rfl c e i

/-- Tokens that enter a channel one list after another. -/
theorem Input.entered_append (q : Input) (a b : List (Dest × Token)) (t : Task) (src c e i : Nat) :
    (q.entered a t src c e i).entered b t src c e i = q.entered (a ++ b) t src c e i := by
  unfold Input.entered
  simp only [List.filterMap_append]
  split <;> simp

/-- A token sent enters each channel that its destinations name (R176, R177). -/
theorem State.inputAt_send (t : Task) (src : Nat) (tok : Token) (c e i : Nat) : ∀ (ds : List Dest) (s : State),
    (s.send t src ds tok).inputAt c e i = (s.inputAt c e i).entered (ds.map fun d => (d, tok)) t src c e i
  | [], s => by simp [State.send, foldState, Input.entered]
  | d :: ds, s => by
    have ih := State.inputAt_send t src tok c e i ds
    unfold State.send foldState at ih ⊢
    rw [List.foldl_cons, ih, List.map_cons, show (d, tok) :: ds.map (fun d => (d, tok)) = [(d, tok)] ++ ds.map (fun d => (d, tok)) from rfl,
      ← Input.entered_append]
    congr 1
    have hf : ∀ b : Bool, (d.feeds t c e i = b) ↔ (decide (t.cellAt d.x d.y = c ∧ d.e = e ∧ (isEdge c e = true ∨ d.i = i)) = b) := by
      intro b
      unfold Dest.feeds
      cases isEdge c e <;> cases b <;> simp [and_assoc]
    unfold Input.entered
    by_cases h : t.cellAt d.x d.y = c ∧ d.e = e ∧ (isEdge c e = true ∨ d.i = i)
    · have h1 : d.feeds t c e i = true := (hf true).2 (by simpa using h)
      simp only [List.filterMap_cons, h1, if_true, List.filterMap_nil]
      by_cases hc : t.cellAt d.x d.y = src
      · have hsc : src = c := hc.symm.trans h.1
        simp only [hc, hsc, if_true, State.inputAt_noteSent]
        rw [State.inputAt_updInputAt, if_pos]
        exact ⟨rfl, h.2.1, h.2.2⟩
      · have hsc : src ≠ c := fun q => hc (h.1.trans q.symm)
        simp only [hc, hsc, if_false]
        rw [State.inputAt_updInputAt, if_pos h]
    · have h1 : d.feeds t c e i = false := (hf false).2 (by simpa using h)
      simp only [List.filterMap_cons, h1, Bool.false_eq_true, if_false, List.filterMap_nil, List.append_nil]
      have hq : (if src = c then s.inputAt c e i else s.inputAt c e i) = s.inputAt c e i := by split <;> rfl
      by_cases hc : t.cellAt d.x d.y = src
      · simp only [hc, if_true, State.inputAt_noteSent]
        rw [State.inputAt_updInputAt, if_neg (by rw [← hc]; exact h)]
        exact hq.symm
      · simp only [hc, if_false]
        rw [State.inputAt_updInputAt, if_neg h]
        exact hq.symm

/-- The tokens of a result enter the channels that its outputs feed. -/
theorem State.inputAt_sendResult (s : State) (x : Fire) (r : Word) (c e i : Nat) :
    (s.sendResult x r).inputAt c e i = (s.inputAt c e i).entered (s.tokensOf x r) x.t x.c c e i := by
  unfold State.sendResult State.tokensOf
  rw [State.inputAt_send, State.inputAt_send, Input.entered_append]

/-! ### The result of a firing -/

theorem Elem.pop_quiet (el : Elem) (i : Nat) : (el.pop i).quiet = el.quiet := rfl

theorem Elem.popAll_quiet (el : Elem) (deq : BitVec 4) : (el.popAll deq).quiet = el.quiet := by
  unfold Elem.popAll
  generalize upTo 4 = l
  induction l generalizing el with
  | nil => rfl
  | cons i l ih =>
    rw [List.foldl_cons, ih]
    split <;> rfl

theorem Elem.popAll_facts (el : Elem) (deq : BitVec 4) :
    (el.popAll deq).g = el.g ∧ (el.popAll deq).taint = el.taint ∧ (el.popAll deq).pb = el.pb
      ∧ (el.popAll deq).sticky = el.sticky ∧ (el.popAll deq).eng = el.eng ∧ (el.popAll deq).w = el.w
      ∧ (el.popAll deq).done = el.done ∧ (el.popAll deq).still = el.still := Elem.quiet_facts (el.popAll_quiet deq)

@[simp] theorem Elem.greg_setG (el : Elem) (i j : Nat) (v : Word) (t : Bool) :
    (el.setG i v t).greg j = if j = i then v else el.greg j := by
  simp [Elem.setG, Elem.greg, mget_mput]

/-- A taint bit after a write of a g register. -/
theorem Elem.taint_setG (el : Elem) (i j : Nat) (v : Word) (t : Bool) (hi : i < 16) (hj : j < 16) :
    (el.setG i v t).taint.getLsbD j = if j = i then t else el.taint.getLsbD j := by
  unfold Elem.setG
  by_cases h : j = i
  · subst h
    cases t <;> simp [hj]
  · have h1 : ¬ (j - i = 0 ∧ i ≤ j) := by omega
    by_cases hij : j < i
    · cases t <;> simp [h, hij, hj]
    · have : j - i ≠ 0 := by omega
      cases t <;> simp [h, hij, hj, this]

/-- The element after a result's write (R284 step 3). -/
theorem Elem.writeDst_facts (el : Elem) (x : Fire) (r : Word) (tnt : Bool) :
    (∀ d < 16, (el.writeDst x.op x.f r tnt).greg d = if x.names d then r else el.greg d)
      ∧ (∀ d < 16, (el.writeDst x.op x.f r tnt).taint.getLsbD d = if x.names d then tnt else el.taint.getLsbD d)
      ∧ (el.writeDst x.op x.f r tnt).pb = x.pbBefore el.pb r
      ∧ (el.writeDst x.op x.f r tnt).sticky = el.sticky
      ∧ (el.writeDst x.op x.f r tnt).fixed = el.fixed := by
  unfold Elem.writeDst Fire.names Fire.pbBefore
  by_cases hr : (needsOf x.op x.f).result = true
  · by_cases h1 : x.f.dst.toNat < 16
    · have h2 : ¬ x.f.dst.toNat = 29 := by omega
      refine ⟨fun d hd => ?_, fun d hd => ?_, ?_, ?_, ?_⟩
      · by_cases h5 : x.f.dst.toNat = d
        · simp [hr, h5, hd]
        · simp [hr, h1, h5, Ne.symm h5]
      · by_cases h5 : x.f.dst.toNat = d
        · have h6 := el.taint_setG d d r tnt hd hd
          rw [if_pos rfl] at h6
          simpa [hr, h5, hd] using h6
        · simp [hr, h1, h5, Ne.symm h5, Elem.taint_setG _ _ _ _ _ h1 hd]
      · simp [hr, h1, h2, Elem.setG]
      · simp [hr, h1, Elem.setG]
      · simp [hr, h1, Elem.setG, Elem.fixed, Elem.still, Elem.quiet]
    · by_cases h2 : x.f.dst.toNat = 29
      · refine ⟨fun d hd => ?_, fun d hd => ?_, ?_, ?_, ?_⟩
        · have h3 : ¬ 29 = d := by omega
          simp [hr, h2, h3, Elem.greg]
        · have h3 : ¬ 29 = d := by omega
          simp [hr, h2, h3]
        · simp [hr, h2]
        · simp [hr, h2]
        · simp [hr, h2, Elem.fixed, Elem.still, Elem.quiet]
      · refine ⟨fun d hd => ?_, fun d hd => ?_, ?_, ?_, ?_⟩
        · have h3 : ¬ x.f.dst.toNat = d := by omega
          simp [h1, h2, h3]
        · have h3 : ¬ x.f.dst.toNat = d := by omega
          simp [h1, h2, h3]
        · simp [h1, h2]
        · simp [h1, h2]
        · simp [h1, h2]
  · simp [hr]

/-- The element after R284 steps 3 to 6. -/
theorem Elem.complete_facts (el : Elem) (x : Fire) (r : Res) (tnt : Bool) :
    (∀ d < 16, (el.complete x.op x.f r tnt).greg d = if x.names d then r.r else el.greg d)
      ∧ (∀ d < 16, (el.complete x.op x.f r tnt).taint.getLsbD d = if x.names d then tnt else el.taint.getLsbD d)
      ∧ (el.complete x.op x.f r tnt).pb = predUpdate (x.pbBefore el.pb r.r) x.f r
      ∧ (el.complete x.op x.f r tnt).sticky = el.sticky ||| r.st
      ∧ (el.complete x.op x.f r tnt).fixed = el.fixed := by
  unfold Elem.complete
  obtain ⟨h1, h2, h3, h4, h5⟩ := el.writeDst_facts x r.r tnt
  generalize el.writeDst x.op x.f r.r tnt = w at h1 h2 h3 h4 h5
  obtain ⟨hg, ht, hp, hs, -, -, -, hq⟩ := Elem.popAll_facts
    { w with pb := predUpdate w.pb x.f r, sticky := w.sticky ||| r.st } x.f.deq
  refine ⟨fun d hd => ?_, fun d hd => ?_, ?_, ?_, ?_⟩
  · rw [← h1 d hd]
    simp only [Elem.greg, hg]
  · rw [← h2 d hd, ht]
  · rw [hp, ← h3]
  · rw [hs, ← h4]
  · have h6 := congrArg (fun e : Elem => { e with g := [], taint := 0, pb := 0, sticky := 0 }) hq
    exact h6.trans h5

/-- The channels of an element after DEQ. -/
theorem Elem.popAll_inputs (el : Elem) (deq : BitVec 4) (i : Nat) :
    (el.popAll deq).input i = if deq.getLsbD i = true then { el.input i with q := (el.input i).q.drop 1 } else el.input i := by
  have step : ∀ (l : List Nat) (e : Elem), l.Nodup →
      (l.foldl (fun a j => if deq.getLsbD j then a.pop j else a) e).input i =
        if i ∈ l ∧ deq.getLsbD i = true then { e.input i with q := (e.input i).q.drop 1 } else e.input i := by
    intro l
    induction l with
    | nil => intro e _; simp
    | cons j l ih =>
      intro e hn
      rw [List.nodup_cons] at hn
      rw [List.foldl_cons, ih _ hn.2]
      by_cases hij : i = j
      · subst hij
        have h0 : ¬ (i ∈ l ∧ deq.getLsbD i = true) := fun q => hn.1 q.1
        rw [if_neg h0]
        by_cases hd : deq.getLsbD i = true
        · simp [hd, Elem.pop]
        · simp [hd]
      · have hp : (if deq.getLsbD j = true then e.pop j else e).input i = e.input i := by
          split
          · simp [Elem.pop, hij]
          · rfl
        simp only [List.mem_cons, hij, false_or, hp]
  unfold Elem.popAll
  rw [step (upTo 4) el (by decide)]
  by_cases hd : deq.getLsbD i = true
  · have h4 : i < 4 := by
      by_contra h
      rw [BitVec.getLsbD_of_ge _ _ (by omega)] at hd
      exact Bool.noConfusion hd
    have : i ∈ upTo 4 := by simpa [upTo] using h4
    simp [this, hd]
  · simp [hd]

/-- The channels of an element after R284 steps 3 to 6, and where its outputs go. -/
theorem Elem.complete_inputs (el : Elem) (op : Nat) (f : Slot) (r : Res) (tnt : Bool) (i : Nat) :
    (el.complete op f r tnt).input i
        = (if f.deq.getLsbD i = true then { el.input i with q := (el.input i).q.drop 1 } else el.input i)
      ∧ (el.complete op f r tnt).outs = el.outs := by
  unfold Elem.complete
  have hw : (el.writeDst op f r.r tnt).ins = el.ins ∧ (el.writeDst op f r.r tnt).outs = el.outs := by
    unfold Elem.writeDst
    split
    · exact ⟨rfl, rfl⟩
    · split
      · exact ⟨rfl, rfl⟩
      · split <;> exact ⟨rfl, rfl⟩
  generalize el.writeDst op f r.r tnt = w at hw
  constructor
  · rw [Elem.popAll_inputs]
    simp only [Elem.input, hw.1]
  · have h := congrArg Elem.outs (Elem.popAll_quiet { w with pb := predUpdate w.pb f r, sticky := w.sticky ||| r.st } f.deq)
    exact Eq.trans h hw.2

/-- The tokens of a result depend on the outputs of the firing element alone. -/
theorem State.tokensOf_outs {s u : State} {x : Fire} (h : (u.elem x.c x.e).outs = (s.elem x.c x.e).outs) (r : Word) :
    u.tokensOf x r = s.tokensOf x r := by
  simp only [State.tokensOf, dstOut, orderOut, Elem.out, h]

/-- A firing that completes in its step moves the tokens of its channels and of its result. -/
theorem State.finish_sent (s : State) (x : Fire) (r : Res) (tnt : Bool) : Sent s (s.finish x r tnt) x r.r := by
  intro c e i
  have hc := fun i => (s.elem x.c x.e).complete_inputs x.op x.f r tnt i
  unfold State.finish
  rw [State.inputAt_sendResult, State.inputAt_updElem, State.tokensOf_outs (s := s)]
  · congr 1
    by_cases h : c = x.c ∧ e = x.e ∧ isEdge c e = false
    · obtain ⟨rfl, rfl, hE⟩ := h
      simp only [hE, and_self, if_true, true_and]
      rw [(hc i).1]
      simp [State.inputAt, hE]
    · have h2 : ¬ (c = x.c ∧ e = x.e ∧ isEdge c e = false ∧ x.f.deq.getLsbD i = true) := fun q => h ⟨q.1, q.2.1, q.2.2.1⟩
      rw [if_neg h, if_neg h2]
  · rw [State.elem_updElem]
    simp [(hc 0).2]

/-- A firing that completes in its step writes its result and nothing else. -/
theorem State.finish_spec (s : State) (x : Fire) (r : Res) (tnt : Bool) :
    Wrote s (s.finish x r tnt) x r tnt ∧ RegFrame s (s.finish x r tnt) x := by
  unfold State.finish
  have hc := State.sendResult_channel (s.updElem x.c x.e fun el => el.complete x.op x.f r tnt) x r.r
  obtain ⟨hg, ht, hp, hs, -, -, -, hq⟩ := hc.elem x.c x.e
  have he : (s.updElem x.c x.e fun el => el.complete x.op x.f r tnt).elem x.c x.e = (s.elem x.c x.e).complete x.op x.f r tnt := by
    rw [State.elem_updElem]; simp
  have hf := (s.elem x.c x.e).complete_facts x r tnt
  rw [he] at hg ht hp hs hq
  have hu : SameDevice s (s.updElem x.c x.e fun el => el.complete x.op x.f r tnt) := ⟨rfl, rfl, rfl, rfl, rfl⟩
  have hv : SameEngines s (s.updElem x.c x.e fun el => el.complete x.op x.f r tnt) := fun c => by
    rw [State.cell_updElem]
    split
    next h => subst h; rfl
    next => rfl
  refine ⟨⟨fun d hd => ?_, fun d hd => ?_, ?_, ?_, s.finish_sent x r tnt⟩, hu.trans hc.sameDevice, hv.trans hc.2.1, fun c e hce => ?_, ?_⟩
  · rw [hg]; exact hf.1 d hd
  · rw [ht]; exact hf.2.1 d hd
  · rw [hp]; exact hf.2.2.1
  · rw [hs]; exact hf.2.2.2.1
  · rw [(hc.elem c e).2.2.2.2.2.2.2, State.elem_updElem, if_neg hce]
  · have h1 := congrArg (fun e : Elem => { e with g := [], taint := 0, pb := 0, sticky := 0 }) hq
    exact h1.trans hf.2.2.2.2

/-- The result of a firing leaves every meter alone. -/
theorem State.finish_meter (s : State) (x : Fire) (r : Res) (tnt : Bool) (c : Nat) :
    ((s.finish x r tnt).cell c).meter = (s.cell c).meter := by
  unfold State.finish
  rw [(State.sendResult_channel (s.updElem x.c x.e fun el => el.complete x.op x.f r tnt) x r.r).2.2.1, State.cell_updElem]
  split
  next h => subst h; rfl
  next => rfl

/-! ### From the firing to its end -/

@[simp] theorem State.inputAt_updMeter (s : State) (d : Nat) (f : Meter → Meter) (c e i : Nat) :
    (s.updMeter d f).inputAt c e i = s.inputAt c e i := State.inputAt_updCell_keeps s d _ rfl rfl c e i

theorem State.inputAt_autoTopup (s : State) (t : Task) (d c e i : Nat) : (s.autoTopup t d).inputAt c e i = s.inputAt c e i := by
  unfold State.autoTopup
  split
  · rfl
  · split
    · exact State.inputAt_updMeter _ _ _ _ _ _
    · show ((s.updMeter d fun m => { m with acnt := m.acnt + 1 }).updMeter d fun m =>
        { m with pend := true, st := if m.st = .stalled then .stalled else .pending }).inputAt c e i = _
      rw [State.inputAt_updMeter, State.inputAt_updMeter]

/-- The debit of a firing and its mark leave every channel as it is. -/
theorem State.debited_inputs {s : State} {x : Fire} {cost : Nat} (hr : s.ready x = true) (ha : s.Affords x cost) (c e i : Nat) :
    ((s.debited x cost).fired x).inputAt c e i = s.inputAt c e i := by
  have hf : ∀ u : State, (u.fired x).inputAt c e i = u.inputAt c e i := by
    intro u
    show (u.updElem x.c x.e fun el =>
      { el with last := some x.k, held := none, paid := if el.paid = some x.k then none else el.paid }).inputAt c e i = _
    rw [State.inputAt_updElem]
    split
    next h => obtain ⟨rfl, rfl, hE⟩ := h; simp [State.inputAt, hE, Elem.input]
    next => rfl
  rw [hf]
  unfold State.debited
  by_cases hp : (s.elem x.c x.e).paid = some x.k
  · simp only [hp, if_true]
  · have hk := State.ready_takes hr
    have hs : (s.cell x.c).meter.st = .paying ∨ (s.cell x.c).meter.st = .pending := by
      simpa [Meter.takes] using hk.2.1
    simp only [hp, if_false]
    unfold State.pay
    simp only [hk.1, Bool.false_eq_true, if_false]
    by_cases hm : (s.entryOf x.t).mmode = true
    · simp only [hm, hs, if_true]
      rw [State.inputAt_autoTopup]
      exact (State.inputAt_updMeter s.free.2 x.c _ c e i).trans rfl
    · have hb : cost + s.tokenCost x ≤ (s.cell x.c).meter.bal := by
        unfold State.Affords at ha; tauto
      simp only [hm, hs, hb, if_true]
      exact (State.inputAt_autoTopup _ _ _ _ _ _).trans (State.inputAt_updMeter _ _ _ _ _ _)

/-- What stands between a firing and its completion leaves registers as they are. -/
theorem State.debited_fired {s : State} {x : Fire} {cost : Nat} (hd : DebitFrame s (s.debited x cost)) :
    SameDevice s ((s.debited x cost).fired x) ∧ SameEngines s ((s.debited x cost).fired x)
      ∧ (∀ c e, (((s.debited x cost).fired x).elem c e).still = (s.elem c e).still)
      ∧ (((s.debited x cost).fired x).elem x.c x.e).ins = (s.elem x.c x.e).ins := by
  have hf := (s.debited x cost).fired_same x
  refine ⟨hd.1.trans hf.1, hd.2.1.trans hf.2, fun c e => ?_, ?_⟩
  · rw [State.fired_elem]
    split
    next h => rw [hd.2.2, h.1, h.2]; rfl
    next => rw [hd.2.2]
  · rw [State.fired_elem]
    simp [hd.2.2]

/-- Registers that two elements without their channels and marks have in common. -/
theorem Elem.still_facts {a b : Elem} (h : a.still = b.still) :
    a.greg = b.greg ∧ a.taint = b.taint ∧ a.pb = b.pb ∧ a.sticky = b.sticky ∧ a.eng = b.eng ∧ a.w = b.w
      ∧ a.done = b.done ∧ a.fixed = b.fixed := by
  have h1 := congrArg Elem.g h
  have h2 := congrArg Elem.taint h
  have h3 := congrArg Elem.pb h
  have h4 := congrArg Elem.sticky h
  have h5 := congrArg Elem.eng h
  have h6 := congrArg Elem.w h
  have h7 := congrArg Elem.done h
  have h8 := congrArg (fun el : Elem => { el with g := [], taint := 0, pb := 0, sticky := 0 }) h
  refine ⟨?_, h2, h3, h4, h5, h6, h7, h8⟩
  have h9 : a.g = b.g := h1
  funext i
  simp [Elem.greg, h9]

/-- A result written after the debit, seen from the state before it. -/
theorem Wrote.from {s u t : State} {x : Fire} {r : Res} {tnt : Bool} (h : (u.elem x.c x.e).still = (s.elem x.c x.e).still)
    (hi : ∀ c e i, u.inputAt c e i = s.inputAt c e i) (hw : Wrote u t x r tnt) : Wrote s t x r tnt := by
  obtain ⟨a, b, c, d, -⟩ := Elem.still_facts h
  obtain ⟨h1, h2, h3, h4, h5⟩ := hw
  rw [a] at h1
  rw [b] at h2
  rw [c] at h3
  rw [d] at h4
  refine ⟨h1, h2, h3, h4, fun k e i => ?_⟩
  have h6 := h5 k e i
  rw [hi, State.tokensOf_outs (by have := congrArg Elem.outs h; exact this)] at h6
  exact h6

/-- A frame after the debit, seen from the state before it. -/
theorem RegFrame.from {s u t : State} {x : Fire} (h1 : SameDevice s u) (h2 : SameEngines s u)
    (h3 : ∀ c e, (u.elem c e).still = (s.elem c e).still) (h : RegFrame u t x) : RegFrame s t x :=
  ⟨h1.trans h.1, h2.trans h.2.1, fun c e hce => (h.2.2.1 c e hce).trans (h3 c e),
    h.2.2.2.trans (Elem.still_facts (h3 x.c x.e)).2.2.2.2.2.2.2⟩

/-- An instruction of the plain classes: fired and paid for, it writes its result and nothing else (R332). -/
theorem State.plain_spec {s : State} {op : Nat} {f : Slot} {x : Fire} {cost : Nat} (h : s.Fires op f x)
    (ha : s.Affords x cost) (g : Fire → State → Res) :
    Wrote s (s.plain op f cost g) x (g x s) x.tnt ∧ RegFrame s (s.plain op f cost g) x ∧ Debits s (s.plain op f cost g) x cost := by
  unfold State.plain
  rw [State.fire_fires h]
  obtain ⟨h1, h2⟩ := State.offer_affords h.2 ha fun s1 => s1.finish x (g x s) x.tnt
  rw [h1]
  have hd := State.debited_fired h2
  have hs := State.finish_spec ((s.debited x cost).fired x) x (g x s) x.tnt
  exact ⟨hs.1.from (hd.2.2.1 _ _) (State.debited_inputs h.2 ha), hs.2.from hd.1 hd.2.1 hd.2.2.1,
    (State.debited_debits h.2 ha).keeps (State.finish_meter _ _ _ _ _)⟩

/-! ### An operation issued -/

/-- The channels after DEQ: each one named loses its head. -/
theorem Elem.popAll_input (el : Elem) (deq : BitVec 4) (i : Nat) (h : i < 4) :
    ((el.popAll deq).input i).q = (el.input i).q.drop (if deq.getLsbD i then 1 else 0) := by
  have step : ∀ (l : List Nat) (e : Elem), l.Nodup →
      ((l.foldl (fun e i => if deq.getLsbD i then e.pop i else e) e).input i).q =
        (e.input i).q.drop (if i ∈ l ∧ deq.getLsbD i = true then 1 else 0) := by
    intro l
    induction l with
    | nil => intro e _; simp
    | cons j l ih =>
      intro e hn
      rw [List.nodup_cons] at hn
      rw [List.foldl_cons, ih _ hn.2]
      by_cases hd : deq.getLsbD j = true
      · simp only [hd, if_true]
        by_cases hij : i = j
        · subst hij
          simp [Elem.pop, hn.1, hd]
        · simp [Elem.pop, hij]
      · simp only [hd]
        by_cases hij : i = j
        · subst hij; simp [hd]
        · simp [hij]
  have hm : i ∈ upTo 4 := by simpa [upTo] using h
  have := step (upTo 4) el (by decide)
  unfold Elem.popAll
  rw [this]
  simp [hm]

/-- Keeping space touches no token. -/
theorem State.reserve_input (s : State) (t : Task) (ds : List Dest) (c e i : Nat) :
    (((s.reserve t ds).elem c e).input i).q = ((s.elem c e).input i).q := by
  unfold State.reserve
  refine foldState_frame (fun st : State => ((st.elem c e).input i).q) _ (fun d st => ?_) ds s
  unfold State.updInputAt
  split
  · rw [State.elem_updCell_keeps]; rfl
  · rw [State.elem_updElem]
    split
    next h =>
      rw [Elem.input_updInput]
      split
      next hi => rw [h.1, h.2, hi]
      next => rw [h.1, h.2]
    next => rfl

theorem State.reserve_frame (s : State) (t : Task) (ds : List Dest) : { s.reserve t ds with cells := s.cells } = s :=
  (s.reserve_channel t ds).1

/-- What issuing an operation changes. -/
theorem State.issue_spec (s : State) (x : Fire) (o : Op) :
    (s.issue x o).ops = s.ops ++ [{ o with id := s.clock.nextId, inj := s.clock.nextId, sent := s.clock.tick }]
      ∧ ((s.issue x o).elem x.c x.e).pendG = (s.elem x.c x.e).pendG ||| (destOf x.op x.f).wg
      ∧ ((s.issue x o).elem x.c x.e).pendP = (s.elem x.c x.e).pendP ||| (destOf x.op x.f).p
      ∧ (∀ i < 4, (((s.issue x o).elem x.c x.e).input i).q =
          ((s.elem x.c x.e).input i).q.drop (if x.f.deq.getLsbD i then 1 else 0))
      ∧ ((s.issue x o).elem x.c x.e).greg = (s.elem x.c x.e).greg
      ∧ ((s.issue x o).elem x.c x.e).pb = (s.elem x.c x.e).pb
      ∧ ((s.issue x o).elem x.c x.e).sticky = (s.elem x.c x.e).sticky
      ∧ ((s.issue x o).elem x.c x.e).eng = (s.elem x.c x.e).eng
      ∧ SameDevice s { s.issue x o with ops := s.ops }
      ∧ SameElems s (s.issue x o) x
      ∧ (∀ c, (((s.issue x o).cell c).engines = (if c = x.c then
            { (s.cell c).engines with vec := { (s.cell c).vec with pendV := (s.cell c).vec.pendV ||| (destOf x.op x.f).v,
                                                                    pendM := (s.cell c).vec.pendM ||| (destOf x.op x.f).m } }
          else (s.cell c).engines))) := by
  let g : Elem → Elem := fun el =>
    ({ el with pendG := el.pendG ||| (destOf x.op x.f).wg, pendP := el.pendP ||| (destOf x.op x.f).p } : Elem).popAll x.f.deq
  let h : Cell → Cell := fun cl =>
    { cl with vec := { cl.vec with pendV := cl.vec.pendV ||| (destOf x.op x.f).v, pendM := cl.vec.pendM ||| (destOf x.op x.f).m } }
  obtain ⟨u, hu⟩ : ∃ u, u = (s.reserve x.t (dstOut (s.elem x.c x.e) x.op x.f)).reserve x.t
    (orderOut (s.elem x.c x.e) x.op x.f) := ⟨_, rfl⟩
  have hi : s.issue x o = { ((u.updElem x.c x.e g).updCell x.c h) with
      clock := { u.clock with nextId := u.clock.nextId + 1 },
      ops := u.ops ++ [{ o with id := u.clock.nextId, inj := u.clock.nextId, sent := s.clock.tick }] } := by
    subst hu; rfl
  rw [hi]
  have hc : ChannelFrame s u := by
    subst hu; exact (State.reserve_channel _ _ _).trans (State.reserve_channel _ _ _)
  have hq : ∀ c e i, ((u.elem c e).input i).q = ((s.elem c e).input i).q := fun c e i => by
    subst hu; rw [State.reserve_input, State.reserve_input]
  have hf := Elem.quiet_facts (hc.2.2.2 x.c x.e)
  have hpg : (u.elem x.c x.e).pendG = (s.elem x.c x.e).pendG := by have := congrArg Elem.pendG (hc.2.2.2 x.c x.e); exact this
  have hpp : (u.elem x.c x.e).pendP = (s.elem x.c x.e).pendP := by have := congrArg Elem.pendP (hc.2.2.2 x.c x.e); exact this
  have hops : u.ops = s.ops := by rw [← hc.1]
  have hid : u.clock = s.clock := by rw [← hc.1]
  have he : ((u.updElem x.c x.e g).updCell x.c h).elem x.c x.e = g (u.elem x.c x.e) := by
    rw [State.elem_updCell_keeps _ _ _ _ _ rfl, State.elem_updElem]
    simp
  have hp := Elem.popAll_quiet ({ u.elem x.c x.e with pendG := (u.elem x.c x.e).pendG ||| (destOf x.op x.f).wg,
                                                       pendP := (u.elem x.c x.e).pendP ||| (destOf x.op x.f).p } : Elem) x.f.deq
  refine ⟨?_, ?_, ?_, ?_, ?_, ?_, ?_, ?_, ?_, ?_, ?_⟩
  · show u.ops ++ [{ o with id := u.clock.nextId, inj := u.clock.nextId, sent := s.clock.tick }] = _
    rw [hops, hid]
  · show (((u.updElem x.c x.e g).updCell x.c h).elem x.c x.e).pendG = _
    rw [he, ← hpg]
    exact congrArg Elem.pendG hp
  · show (((u.updElem x.c x.e g).updCell x.c h).elem x.c x.e).pendP = _
    rw [he, ← hpp]
    exact congrArg Elem.pendP hp
  · intro i hi
    show ((((u.updElem x.c x.e g).updCell x.c h).elem x.c x.e).input i).q = _
    rw [he, ← hq x.c x.e i]
    exact Elem.popAll_input _ _ i hi
  · show (((u.updElem x.c x.e g).updCell x.c h).elem x.c x.e).greg = _
    rw [he]
    funext i
    have h1 : (g (u.elem x.c x.e)).g = (s.elem x.c x.e).g := by
      have := congrArg Elem.g hp
      exact Eq.trans this hf.1
    simp only [Elem.greg, h1]
  · show (((u.updElem x.c x.e g).updCell x.c h).elem x.c x.e).pb = _
    rw [he]
    have := congrArg Elem.pb hp
    exact Eq.trans this hf.2.2.1
  · show (((u.updElem x.c x.e g).updCell x.c h).elem x.c x.e).sticky = _
    rw [he]
    have := congrArg Elem.sticky hp
    exact Eq.trans this hf.2.2.2.1
  · show (((u.updElem x.c x.e g).updCell x.c h).elem x.c x.e).eng = _
    rw [he]
    have := congrArg Elem.eng hp
    exact Eq.trans this hf.2.2.2.2.1
  · have hs := hc.sameDevice
    refine ⟨?_, hs.2.1, hs.2.2.1, hs.2.2.2.1, hs.2.2.2.2⟩
    have h1 := hs.1
    have h2 := congrArg (fun r : State => { r with ops := s.ops }) h1
    exact h2
  · intro c e hce
    show (((u.updElem x.c x.e g).updCell x.c h).elem c e).still = _
    rw [State.elem_updCell_keeps _ _ _ _ _ rfl, State.elem_updElem, if_neg hce]
    exact (hc.elem c e).2.2.2.2.2.2.2
  · intro c
    show (((u.updElem x.c x.e g).updCell x.c h).cell c).engines = _
    rw [State.cell_updCell]
    have hcc := hc.2.1 c
    split
    next hcx =>
      subst hcx
      rw [State.cell_updElem, if_pos rfl]
      have h1 : (u.cell x.c).vec = (s.cell x.c).vec := by have := congrArg Cell.vec hcc; exact this
      rw [← hcc, ← h1]
      rfl
    next hcx =>
      rw [State.cell_updElem, if_neg hcx]
      exact hcc

/-- The post-increment of the offset register (R290). -/
theorem State.postIncr_spec (s : State) (x : Fire) (step : Nat) :
    (∀ d, ((s.postIncr x x.f.src1.toNat step).elem x.c x.e).greg d =
        if x.f.imm = true ∧ d = x.f.src1.toNat then (s.elem x.c x.e).greg d + BitVec.ofNat 32 step
        else (s.elem x.c x.e).greg d)
      ∧ (∀ c e, { ((s.postIncr x x.f.src1.toNat step).elem c e) with g := [], taint := 0 } =
          ({ s.elem c e with g := [], taint := 0 } : Elem))
      ∧ (∀ c e, ¬ (c = x.c ∧ e = x.e) → (s.postIncr x x.f.src1.toNat step).elem c e = s.elem c e)
      ∧ { s.postIncr x x.f.src1.toNat step with cells := s.cells } = s
      ∧ SameEngines s (s.postIncr x x.f.src1.toNat step) := by
  unfold State.postIncr
  by_cases hi : x.f.imm = true
  · simp only [hi, if_true]
    refine ⟨fun d => ?_, fun c e => ?_, fun c e h => ?_, rfl, fun c => ?_⟩
    · rw [State.elem_updElem]
      simp only [and_self, if_true, true_and]
      rw [Elem.greg_setG]
      split
      next h => rw [h]
      next => rfl
    · rw [State.elem_updElem]
      split
      next h => rw [h.1, h.2]; rfl
      next => rfl
    · rw [State.elem_updElem, if_neg h]
    · rw [State.cell_updElem]
      split
      next h => subst h; rfl
      next => rfl
  · simp only [hi]
    exact ⟨fun _ => rfl, fun _ _ => rfl, fun _ _ _ => rfl, rfl, SameEngines.refl s⟩

/-- Neither an issue nor a post-increment touches a meter. -/
theorem State.issue_meter (s : State) (x : Fire) (o : Op) (c : Nat) : ((s.issue x o).cell c).meter = (s.cell c).meter := by
  let g : Elem → Elem := fun el =>
    ({ el with pendG := el.pendG ||| (destOf x.op x.f).wg, pendP := el.pendP ||| (destOf x.op x.f).p } : Elem).popAll x.f.deq
  let h : Cell → Cell := fun cl =>
    { cl with vec := { cl.vec with pendV := cl.vec.pendV ||| (destOf x.op x.f).v, pendM := cl.vec.pendM ||| (destOf x.op x.f).m } }
  have hc := (State.reserve_channel s x.t (dstOut (s.elem x.c x.e) x.op x.f)).trans
    (State.reserve_channel _ x.t (orderOut (s.elem x.c x.e) x.op x.f))
  show (((((s.reserve x.t (dstOut (s.elem x.c x.e) x.op x.f)).reserve x.t (orderOut (s.elem x.c x.e) x.op x.f)).updElem x.c x.e g).updCell
    x.c h).cell c).meter = _
  rw [← hc.2.2.1 c, State.cell_updCell]
  split
  next he =>
    subst he
    rw [State.cell_updElem, if_pos rfl]
  next he => rw [State.cell_updElem, if_neg he]

theorem State.postIncr_meter (s : State) (x : Fire) (a n c : Nat) : ((s.postIncr x a n).cell c).meter = (s.cell c).meter := by
  unfold State.postIncr
  split
  · rw [State.cell_updElem]
    split
    next h => subst h; rfl
    next => rfl
  · rfl

/-- An issue after a debit, a mark and a post-increment, seen from the state before the firing. -/
theorem State.issue_after {s : State} {x : Fire} {cost : Nat} (hd : DebitFrame s (s.debited x cost))
    (hp : Debits s ((s.debited x cost).fired x) x cost) (step : Nat) (o : Op) :
    let t := ((((s.debited x cost).fired x).postIncr x x.f.src1.toNat step)).issue x o
    (s.debited x cost).clock.nextId = s.clock.nextId →
      Issued s t x o step ∧ IssueFrame s t x cost ∧
      (∀ c, ((t.cell c).engines = (if c = x.c then
            { (s.cell c).engines with vec := { (s.cell c).vec with pendV := (s.cell c).vec.pendV ||| (destOf x.op x.f).v,
                                                                    pendM := (s.cell c).vec.pendM ||| (destOf x.op x.f).m } }
          else (s.cell c).engines))) := by
  intro t hid
  have hpay : Debits s t x cost := hp.keeps ((State.issue_meter _ _ _ _).trans (State.postIncr_meter _ _ _ _ _))
  have h1 := State.debited_fired hd
  obtain ⟨u, hu⟩ : ∃ u, u = (s.debited x cost).fired x := ⟨_, rfl⟩
  obtain ⟨p1, p2, p3, p4, p5⟩ := State.postIncr_spec ((s.debited x cost).fired x) x step
  have ht : t = (u.postIncr x x.f.src1.toNat step).issue x o := by subst hu; rfl
  rw [ht] at hpay
  rw [← hu] at p1 p2 p3 p4 p5 h1
  rw [ht]
  obtain ⟨v, hv⟩ : ∃ v, v = u.postIncr x x.f.src1.toNat step := ⟨_, rfl⟩
  rw [← hv] at p1 p2 p3 p4 p5 hpay ⊢
  obtain ⟨i1, i2, i3, i4, i5, i6, i7, i8, i9, i10, i11⟩ := State.issue_spec v x o
  have hus := Elem.still_facts (h1.2.2.1 x.c x.e)
  have q1 := p2 x.c x.e
  have hops : v.ops = s.ops := by
    have a : v.ops = u.ops := by have := congrArg State.ops p4; exact this
    have b : u.ops = s.ops := by have := congrArg State.ops h1.1.1; exact this
    rw [a, b]
  have hclk : v.clock.nextId = s.clock.nextId := by
    have a : v.clock = u.clock := by have := congrArg State.clock p4; exact this
    rw [a, hu]
    exact hid
  have htick : v.clock.tick = s.clock.tick := by
    have a : v.clock = u.clock := by have := congrArg State.clock p4; exact this
    rw [a]
    exact h1.1.2.2.2.1
  have hpg : (v.elem x.c x.e).pendG = (s.elem x.c x.e).pendG := by
    have a := congrArg Elem.pendG q1
    have b := congrArg Elem.pendG (h1.2.2.1 x.c x.e)
    exact Eq.trans a b
  have hpp : (v.elem x.c x.e).pendP = (s.elem x.c x.e).pendP := by
    have a := congrArg Elem.pendP q1
    have b := congrArg Elem.pendP (h1.2.2.1 x.c x.e)
    exact Eq.trans a b
  have hin : (v.elem x.c x.e).ins = (s.elem x.c x.e).ins := by
    have a := congrArg Elem.ins q1
    exact Eq.trans a h1.2.2.2
  have hsd : SameDevice s v := by
    refine h1.1.trans ⟨?_, ?_, ?_, ?_, ?_⟩
    · have a : v.clock = u.clock := by have := congrArg State.clock p4; exact this
      have b : v.tasks = u.tasks := by have := congrArg State.tasks p4; exact this
      have c : v.sched = u.sched := by have := congrArg State.sched p4; exact this
      rw [← a, ← b, ← c]
      exact p4
    · have b : v.tasks = u.tasks := by have := congrArg State.tasks p4; exact this
      rw [b]
    · have c : v.sched = u.sched := by have := congrArg State.sched p4; exact this
      rw [c]
    · have a : v.clock = u.clock := by have := congrArg State.clock p4; exact this
      rw [a]
    · have a : v.clock = u.clock := by have := congrArg State.clock p4; exact this
      rw [a]
  refine ⟨⟨?_, ?_, ?_, ?_, ?_, ?_, ?_, ?_⟩, ⟨?_, ?_, hpay⟩, ?_⟩
  · rw [i1, hops, hclk, htick]
  · rw [i2, hpg]
  · rw [i3, hpp]
  · intro i hi
    rw [i4 i hi]
    simp only [Elem.input, hin]
  · intro d
    rw [i5, p1 d, hus.1]
  · rw [i6]
    have a := congrArg Elem.pb q1
    exact Eq.trans a hus.2.2.1
  · rw [i7]
    have a := congrArg Elem.sticky q1
    exact Eq.trans a hus.2.2.2.1
  · rw [i8]
    have a := congrArg Elem.eng q1
    exact Eq.trans a hus.2.2.2.2.1
  · rw [hops] at i9
    exact hsd.trans i9
  · intro c e hce
    rw [i10 c e hce, p3 c e hce]
    exact h1.2.2.1 c e
  · intro c
    have e1 := (h1.2.1.trans p5) c
    have e2 : (v.cell c).vec = (s.cell c).vec := by have := congrArg Cell.vec e1; exact this
    rw [i11 c, e1, e2]

/-- A debit leaves the identifiers of operations alone. -/
theorem State.debited_nextId {s : State} {x : Fire} {cost : Nat} (hr : s.ready x = true) (ha : s.Affords x cost) :
    (s.debited x cost).clock.nextId = s.clock.nextId := by
  have auto : ∀ (u : State) (t : Task) (c : Nat), (u.autoTopup t c).clock = u.clock := by
    intro u t c
    unfold State.autoTopup
    split
    · rfl
    · split <;> rfl
  unfold State.debited
  by_cases hp : (s.elem x.c x.e).paid = some x.k
  · simp only [hp, if_true]
  · have hk := State.ready_takes hr
    have hs : (s.cell x.c).meter.st = .paying ∨ (s.cell x.c).meter.st = .pending := by
      simpa [Meter.takes] using hk.2.1
    simp only [hp, if_false]
    unfold State.pay
    simp only [hk.1, Bool.false_eq_true, if_false]
    by_cases hm : (s.entryOf x.t).mmode = true
    · simp only [hm, hs, if_true]
      exact (congrArg Clock.nextId (auto (s.pumped x.c) x.t x.c)).trans rfl
    · have hb : cost + s.tokenCost x ≤ (s.cell x.c).meter.bal := by
        unfold State.Affords at ha; tauto
      simp only [hm, hs, hb, if_true]
      exact congrArg Clock.nextId (auto _ _ _)

/-- A memory-class firing whose address and check pass issues its access. -/
theorem State.memFire_spec {s : State} {op : Nat} {f : Slot} {x : Fire} {tg : Target} {size step : Nat} {u : Use}
    {args : Fire → State → List Word} {more : Fire → State → Option AddrFault} (h : s.Fires op f x)
    (hadr : s.address x x.a size size u = .ok tg) (hmore : more x s = none) (ha : s.Affords x (s.memCost x tg).1) :
    let o : Op := { opOf x (x.a :: args x s) with spad := tg.spad, ea := tg.ea, len := size, short := (s.memCost x tg).2 }
    Issued s (s.memFire op f size step u args more) x o step ∧ IssueFrame s (s.memFire op f size step u args more) x (s.memCost x tg).1
      ∧ (∀ c, (((s.memFire op f size step u args more).cell c).engines = (if c = x.c then
            { (s.cell c).engines with vec := { (s.cell c).vec with pendV := (s.cell c).vec.pendV ||| (destOf x.op x.f).v,
                                                                    pendM := (s.cell c).vec.pendM ||| (destOf x.op x.f).m } }
          else (s.cell c).engines))) := by
  intro o
  unfold State.memFire
  rw [State.fire_fires h]
  simp only [hadr, hmore]
  obtain ⟨e1, hd⟩ := State.offer_affords h.2 ha fun s1 => (s1.postIncr x f.src1.toNat step).issue x o
  rw [e1]
  have hsite := h.site
  rw [← hsite.2.1]
  exact State.issue_after hd (State.debited_debits h.2 ha) step o (State.debited_nextId h.2 ha)

end Sys2Proof.Machine
end

