-- ==== Sys2Proof/Laws/Memory.lean ====
section
/-! SUPPORT. The canonical form of the two memories: it holds after reset, and every operation of Machine/Memory.lean that
writes one keeps it; what a byte reads after a write at a physical address. -/

namespace Sys2Proof.Machine

/-- Both memories are in their canonical form. -/
def State.MemOk (s : State) : Prop := s.mem.wf = true ∧ s.hostMem.wf = true

theorem State.reset_memOk : State.reset.MemOk := ⟨rfl, rfl⟩

/-- A state with the same memories. -/
theorem State.MemOk.of_eq {s t : State} (h : s.MemOk) (hm : t.mem = s.mem) (hh : t.hostMem = s.hostMem) : t.MemOk := by
  rw [State.MemOk, hm, hh]
  exact h

theorem State.putPhys_memOk {s : State} (h : s.MemOk) (pa : Nat) (b : Byte) : (s.putPhys pa b).MemOk := by
  unfold State.putPhys
  split
  · exact ⟨h.1, Mem.write_wf _ _ _ h.2⟩
  · exact ⟨Mem.write_wf _ _ _ h.1, h.2⟩

theorem State.putBytes_memOk (bs : List Byte) : ∀ {s : State} (_ : s.MemOk) (pa : Nat), (s.putBytes pa bs).MemOk := by
  induction bs with
  | nil => exact fun h _ => h
  | cons b bs ih => exact fun h pa => ih (State.putPhys_memOk h pa b) (pa + 1)

/-- A fold of operations that keep the memories' form keeps it. -/
theorem foldState_memOk {α : Type} (f : α → State → State) (hf : ∀ a s, s.MemOk → (f a s).MemOk) (l : List α) :
    ∀ s : State, s.MemOk → (foldState l s f).MemOk := by
  induction l with
  | nil => exact fun _ h => h
  | cons a l ih => exact fun s h => ih _ (hf a s h)

theorem State.putMasked_memOk {s : State} (h : s.MemOk) (pa : Nat) (mask : BitVec 64) (data : BitVec 512) :
    (s.putMasked pa mask data).MemOk := by
  refine foldState_memOk _ (fun i st hs => ?_) _ s h
  split
  · exact State.putPhys_memOk hs _ _
  · exact hs

theorem State.putTag_memOk {s : State} (h : s.MemOk) (pa : Nat) (t : BitVec 16) : (s.putTag pa t).MemOk := by
  unfold State.putTag
  split
  · exact h
  · exact h

theorem State.putBlock_memOk {s : State} (h : s.MemOk) (pa : Nat) (b : Block) : (s.putBlock pa b).MemOk :=
  State.putTag_memOk (State.putBytes_memOk _ h _) _ _

theorem State.appendLog_memOk {s : State} (h : s.MemOk) (lg : HostLog) (n : Nat) (bytes : List Byte) :
    (s.appendLog lg n bytes).2.MemOk := by
  unfold State.appendLog
  split
  · exact ⟨h.1, Mem.writeBytes_wf _ _ _ h.2⟩
  · exact h

theorem State.useRange_memOk {s : State} (h : s.MemOk) (pa n : Nat) : (s.useRange pa n).MemOk := h

theorem State.homeWatch_memOk {s : State} (h : s.MemOk) (pa n : Nat) (wr : Bool) (ag : Agent) : (s.homeWatch pa n wr ag).MemOk := by
  unfold State.homeWatch
  split
  · exact h
  · refine foldState_memOk _ (fun i st hs => ?_) _ _ (State.useRange_memOk h pa n)
    split
    · exact State.appendLog_memOk hs _ _ _
    · exact hs

/-! ### What a write at a physical address leaves -/

@[simp] theorem State.level_putPhys (s : State) (pa a : Nat) (b : Byte) : (s.putPhys pa b).level a = s.level a := by
  unfold State.putPhys
  split <;> rfl

/-- Memory other than the host's after a write of one byte. -/
theorem State.mem_putPhys (s : State) (pa : Nat) (b : Byte) :
    (s.putPhys pa b).mem = if s.level pa = .host then s.mem else s.mem.write pa b := by
  unfold State.putPhys
  split <;> rfl

/-- Bytes written in a range of addresses none of which is the host's. -/
theorem State.mem_putBytes (bs : List Byte) : ∀ (s : State) (pa : Nat), (∀ i < bs.length, s.level (pa + i) ≠ .host) →
    (s.putBytes pa bs).mem = s.mem.writeBytes pa bs := by
  induction bs with
  | nil => intros; rfl
  | cons b bs ih =>
    intro s pa h
    have h0 : s.level pa ≠ .host := h 0 (by simp)
    have hs : ∀ i < bs.length, (s.putPhys pa b).level (pa + 1 + i) ≠ .host := by
      intro i hi
      rw [State.level_putPhys, Nat.add_assoc, Nat.add_comm 1 i]
      exact h (i + 1) (by simpa using hi)
    show ((s.putPhys pa b).putBytes (pa + 1) bs).mem = (s.mem.write pa b).writeBytes (pa + 1) bs
    rw [ih _ _ hs, State.mem_putPhys, if_neg h0]

/-- A byte outside the written range reads as before, and one inside it as written. -/
theorem State.read_putBytes (s : State) (pa a : Nat) (bs : List Byte) (h : ∀ i < bs.length, s.level (pa + i) ≠ .host) :
    (s.putBytes pa bs).mem.read a = if pa ≤ a ∧ a < pa + bs.length then bs.getD (a - pa) 0 else s.mem.read a := by
  rw [State.mem_putBytes bs s pa h, Mem.read_writeBytes]

end Sys2Proof.Machine
end

