-- ==== Sys2Proof/Laws/PerInstr.lean ====
section
/-! SUPPORT. One lemma per instruction: its opcode, or its command code, reads back as the instruction. -/

namespace Sys2Proof.Laws.Encoding

/-- The opcode that an element instruction is encoded with, and the code of a hearth command, fit their fields and are those of
the opcode map and of the command list (R292, R295, R299). -/
def Statement (i : Instr) : Prop :=
  (∀ op f, slotParts i = some (op, f) → op < 256 ∧ instrOfOp op f = .ok i)
  ∧ (∀ cmd c, hearthParts i = some (cmd, c) → cmd < 64 ∧ hearthInstr cmd c = some i)

theorem of_slot {i : Instr} {op : Nat} {f : Slot} (h : slotParts i = some (op, f)) (hh : hearthParts i = none) (hb : op < 256)
    (hi : instrOfOp op f = .ok i) : Statement i := by
  constructor
  · intro op' f' h'
    rw [h] at h'
    simp only [Option.some.injEq, Prod.mk.injEq] at h'
    obtain ⟨rfl, rfl⟩ := h'
    exact ⟨hb, hi⟩
  · intro cmd c hc
    rw [hh] at hc
    cases hc

theorem of_hearth {i : Instr} {cmd : Nat} {c : HCmd} (h : slotParts i = none) (hh : hearthParts i = some (cmd, c)) (hb : cmd < 64)
    (hi : hearthInstr cmd c = some i) : Statement i := by
  constructor
  · intro op f hf
    rw [h] at hf
    cases hf
  · intro cmd' c' hc
    rw [hh] at hc
    simp only [Option.some.injEq, Prod.mk.injEq] at hc
    obtain ⟨rfl, rfl⟩ := hc
    exact ⟨hb, hi⟩

theorem of_event {i : Instr} (h : slotParts i = none) (hh : hearthParts i = none) : Statement i := by
  constructor
  · intro op f hf
    rw [h] at hf
    cases hf
  · intro cmd c hc
    rw [hh] at hc
    cases hc

/-- The eight values of an atomic's kind. -/
theorem kinds (k : BitVec 3) : k = 0 ∨ k = 1 ∨ k = 2 ∨ k = 3 ∨ k = 4 ∨ k = 5 ∨ k = 6 ∨ k = 7 := by
  revert k
  decide

theorem nop (f) : Statement (.nop f) := of_slot rfl rfl (by decide) rfl
theorem mov (f) : Statement (.mov f) := of_slot rfl rfl (by decide) rfl
theorem add (f) : Statement (.add f) := of_slot rfl rfl (by decide) rfl
theorem addc (f) : Statement (.addc f) := of_slot rfl rfl (by decide) rfl
theorem sub (f) : Statement (.sub f) := of_slot rfl rfl (by decide) rfl
theorem subb (f) : Statement (.subb f) := of_slot rfl rfl (by decide) rfl
theorem mul (f) : Statement (.mul f) := of_slot rfl rfl (by decide) rfl
theorem mulh (f) : Statement (.mulh f) := of_slot rfl rfl (by decide) rfl
theorem mulhu (f) : Statement (.mulhu f) := of_slot rfl rfl (by decide) rfl
theorem div (f) : Statement (.div f) := of_slot rfl rfl (by decide) rfl
theorem divu (f) : Statement (.divu f) := of_slot rfl rfl (by decide) rfl
theorem rem (f) : Statement (.rem f) := of_slot rfl rfl (by decide) rfl
theorem remu (f) : Statement (.remu f) := of_slot rfl rfl (by decide) rfl
theorem and_ (f) : Statement (.and_ f) := of_slot rfl rfl (by decide) rfl
theorem or_ (f) : Statement (.or_ f) := of_slot rfl rfl (by decide) rfl
theorem xor_ (f) : Statement (.xor_ f) := of_slot rfl rfl (by decide) rfl
theorem andn (f) : Statement (.andn f) := of_slot rfl rfl (by decide) rfl
theorem shl (f) : Statement (.shl f) := of_slot rfl rfl (by decide) rfl
theorem shr (f) : Statement (.shr f) := of_slot rfl rfl (by decide) rfl
theorem sra (f) : Statement (.sra f) := of_slot rfl rfl (by decide) rfl
theorem rot (f) : Statement (.rot f) := of_slot rfl rfl (by decide) rfl
theorem clz (f) : Statement (.clz f) := of_slot rfl rfl (by decide) rfl
theorem popc (f) : Statement (.popc f) := of_slot rfl rfl (by decide) rfl
theorem bfx (f) : Statement (.bfx f) := of_slot rfl rfl (by decide) rfl
theorem bfi (f) : Statement (.bfi f) := of_slot rfl rfl (by decide) rfl
theorem min_ (f) : Statement (.min_ f) := of_slot rfl rfl (by decide) rfl
theorem max_ (f) : Statement (.max_ f) := of_slot rfl rfl (by decide) rfl
theorem minu (f) : Statement (.minu f) := of_slot rfl rfl (by decide) rfl
theorem maxu (f) : Statement (.maxu f) := of_slot rfl rfl (by decide) rfl
theorem sel (f) : Statement (.sel f) := of_slot rfl rfl (by decide) rfl
theorem icmp (f) : Statement (.icmp f) := of_slot rfl rfl (by decide) rfl
theorem plog (f) : Statement (.plog f) := of_slot rfl rfl (by decide) rfl
theorem fadd (w) (f) : Statement (.fadd w f) := by cases w <;> exact of_slot rfl rfl (by decide) rfl
theorem fsub (w) (f) : Statement (.fsub w f) := by cases w <;> exact of_slot rfl rfl (by decide) rfl
theorem fmul (w) (f) : Statement (.fmul w f) := by cases w <;> exact of_slot rfl rfl (by decide) rfl
theorem ffma (w) (f) : Statement (.ffma w f) := by cases w <;> exact of_slot rfl rfl (by decide) rfl
theorem fmin (w) (f) : Statement (.fmin w f) := by cases w <;> exact of_slot rfl rfl (by decide) rfl
theorem fmax (w) (f) : Statement (.fmax w f) := by cases w <;> exact of_slot rfl rfl (by decide) rfl
theorem fcmp (w) (f) : Statement (.fcmp w f) := by cases w <;> exact of_slot rfl rfl (by decide) rfl
theorem fcvt (w) (f) : Statement (.fcvt w f) := by cases w <;> exact of_slot rfl rfl (by decide) rfl
theorem ld (f) : Statement (.ld f) := of_slot rfl rfl (by decide) rfl
theorem ldc (f) : Statement (.ldc f) := of_slot rfl rfl (by decide) rfl
theorem ldwf (f) : Statement (.ldwf f) := of_slot rfl rfl (by decide) rfl
theorem ldtk (f) : Statement (.ldtk f) := of_slot rfl rfl (by decide) rfl
theorem st (f) : Statement (.st f) := of_slot rfl rfl (by decide) rfl
theorem stfl (f) : Statement (.stfl f) := of_slot rfl rfl (by decide) rfl
theorem stsf (f) : Statement (.stsf f) := of_slot rfl rfl (by decide) rfl
theorem feclr (f) : Statement (.feclr f) := of_slot rfl rfl (by decide) rfl
theorem feq (f) : Statement (.feq f) := of_slot rfl rfl (by decide) rfl
theorem ctrinit (f) : Statement (.ctrinit f) := of_slot rfl rfl (by decide) rfl
theorem arrive (f) : Statement (.arrive f) := of_slot rfl rfl (by decide) rfl
theorem fence (f) : Statement (.fence f) := of_slot rfl rfl (by decide) rfl
theorem acq (f) : Statement (.acq f) := of_slot rfl rfl (by decide) rfl
theorem tlook (f) : Statement (.tlook f) := of_slot rfl rfl (by decide) rfl
theorem tins (f) : Statement (.tins f) := of_slot rfl rfl (by decide) rfl
theorem tinv (f) : Statement (.tinv f) := of_slot rfl rfl (by decide) rfl
theorem tload (f) : Statement (.tload f) := of_slot rfl rfl (by decide) rfl
theorem tstore (f) : Statement (.tstore f) := of_slot rfl rfl (by decide) rfl
theorem tmcast (f) : Statement (.tmcast f) := of_slot rfl rfl (by decide) rfl
theorem tfree (f) : Statement (.tfree f) := of_slot rfl rfl (by decide) rfl
theorem tstatq (f) : Statement (.tstatq f) := of_slot rfl rfl (by decide) rfl
theorem qpush (f) : Statement (.qpush f) := of_slot rfl rfl (by decide) rfl
theorem qpop (f) : Statement (.qpop f) := of_slot rfl rfl (by decide) rfl
theorem dqpush (f) : Statement (.dqpush f) := of_slot rfl rfl (by decide) rfl
theorem dqpop (f) : Statement (.dqpop f) := of_slot rfl rfl (by decide) rfl
theorem dqsteal (f) : Statement (.dqsteal f) := of_slot rfl rfl (by decide) rfl
theorem pref (f) : Statement (.pref f) := of_slot rfl rfl (by decide) rfl
theorem atom (op) (f) : Statement (.atom op f) := by
  rcases kinds op with h | h | h | h | h | h | h | h <;> subst h <;> exact of_slot rfl rfl (by decide) rfl
theorem red (op) (f) : Statement (.red op f) := by
  rcases kinds op with h | h | h | h | h | h | h | h <;> subst h <;> exact of_slot rfl rfl (by decide) rfl
theorem atomx (op) (f) : Statement (.atomx op f) := by
  rcases kinds op with h | h | h | h | h | h | h | h <;> subst h <;> exact of_slot rfl rfl (by decide) rfl
theorem vadd (f) : Statement (.vadd f) := of_slot rfl rfl (by decide) rfl
theorem vsub (f) : Statement (.vsub f) := of_slot rfl rfl (by decide) rfl
theorem vmul (f) : Statement (.vmul f) := of_slot rfl rfl (by decide) rfl
theorem vfma (f) : Statement (.vfma f) := of_slot rfl rfl (by decide) rfl
theorem vfms (f) : Statement (.vfms f) := of_slot rfl rfl (by decide) rfl
theorem vmin (f) : Statement (.vmin f) := of_slot rfl rfl (by decide) rfl
theorem vmax (f) : Statement (.vmax f) := of_slot rfl rfl (by decide) rfl
theorem vabs (f) : Statement (.vabs f) := of_slot rfl rfl (by decide) rfl
theorem vneg (f) : Statement (.vneg f) := of_slot rfl rfl (by decide) rfl
theorem vcmp (f) : Statement (.vcmp f) := of_slot rfl rfl (by decide) rfl
theorem vsel (f) : Statement (.vsel f) := of_slot rfl rfl (by decide) rfl
theorem vand (f) : Statement (.vand f) := of_slot rfl rfl (by decide) rfl
theorem vor (f) : Statement (.vor f) := of_slot rfl rfl (by decide) rfl
theorem vxor (f) : Statement (.vxor f) := of_slot rfl rfl (by decide) rfl
theorem vshl (f) : Statement (.vshl f) := of_slot rfl rfl (by decide) rfl
theorem vshr (f) : Statement (.vshr f) := of_slot rfl rfl (by decide) rfl
theorem vsra (f) : Statement (.vsra f) := of_slot rfl rfl (by decide) rfl
theorem viadd (f) : Statement (.viadd f) := of_slot rfl rfl (by decide) rfl
theorem vimul (f) : Statement (.vimul f) := of_slot rfl rfl (by decide) rfl
theorem vcvt (f) : Statement (.vcvt f) := of_slot rfl rfl (by decide) rfl
theorem vscl (f) : Statement (.vscl f) := of_slot rfl rfl (by decide) rfl
theorem vrcp (f) : Statement (.vrcp f) := of_slot rfl rfl (by decide) rfl
theorem vrsq (f) : Statement (.vrsq f) := of_slot rfl rfl (by decide) rfl
theorem vexp2 (f) : Statement (.vexp2 f) := of_slot rfl rfl (by decide) rfl
theorem vlog2 (f) : Statement (.vlog2 f) := of_slot rfl rfl (by decide) rfl
theorem vreds (f) : Statement (.vreds f) := of_slot rfl rfl (by decide) rfl
theorem vredm (f) : Statement (.vredm f) := of_slot rfl rfl (by decide) rfl
theorem vscan (f) : Statement (.vscan f) := of_slot rfl rfl (by decide) rfl
theorem vperm (f) : Statement (.vperm f) := of_slot rfl rfl (by decide) rfl
theorem vbcast (f) : Statement (.vbcast f) := of_slot rfl rfl (by decide) rfl
theorem vext (f) : Statement (.vext f) := of_slot rfl rfl (by decide) rfl
theorem vins (f) : Statement (.vins f) := of_slot rfl rfl (by decide) rfl
theorem vld (f) : Statement (.vld f) := of_slot rfl rfl (by decide) rfl
theorem vst (f) : Statement (.vst f) := of_slot rfl rfl (by decide) rfl
theorem vgath (f) : Statement (.vgath f) := of_slot rfl rfl (by decide) rfl
theorem vscat (f) : Statement (.vscat f) := of_slot rfl rfl (by decide) rfl
theorem vmovm (f) : Statement (.vmovm f) := of_slot rfl rfl (by decide) rfl
theorem vpark (f) : Statement (.vpark f) := of_slot rfl rfl (by decide) rfl
theorem vunpark (f) : Statement (.vunpark f) := of_slot rfl rfl (by decide) rfl
theorem mxcfg (f) : Statement (.mxcfg f) := of_slot rfl rfl (by decide) rfl
theorem mxldb (f) : Statement (.mxldb f) := of_slot rfl rfl (by decide) rfl
theorem mxrule (f) : Statement (.mxrule f) := of_slot rfl rfl (by decide) rfl
theorem mxclr (f) : Statement (.mxclr f) := of_slot rfl rfl (by decide) rfl
theorem mxrd (f) : Statement (.mxrd f) := of_slot rfl rfl (by decide) rfl
theorem mxdrn (f) : Statement (.mxdrn f) := of_slot rfl rfl (by decide) rfl
theorem mxsort (f) : Statement (.mxsort f) := of_slot rfl rfl (by decide) rfl
theorem mxq (f) : Statement (.mxq f) := of_slot rfl rfl (by decide) rfl
theorem cvcfg (f) : Statement (.cvcfg f) := of_slot rfl rfl (by decide) rfl
theorem cvq (f) : Statement (.cvq f) := of_slot rfl rfl (by decide) rfl
theorem zscan (f) : Statement (.zscan f) := of_slot rfl rfl (by decide) rfl
theorem zsq (f) : Statement (.zsq f) := of_slot rfl rfl (by decide) rfl
theorem tagq (f) : Statement (.tagq f) := of_slot rfl rfl (by decide) rfl
theorem statq (f) : Statement (.statq f) := of_slot rfl rfl (by decide) rfl
theorem dpatch (f) : Statement (.dpatch f) := of_slot rfl rfl (by decide) rfl
theorem dpload (f) : Statement (.dpload f) := of_slot rfl rfl (by decide) rfl
theorem dsety (f) : Statement (.dsety f) := of_slot rfl rfl (by decide) rfl
theorem dsetr (f) : Statement (.dsetr f) := of_slot rfl rfl (by decide) rfl
theorem ddom (f) : Statement (.ddom f) := of_slot rfl rfl (by decide) rfl
theorem drun (f) : Statement (.drun f) := of_slot rfl rfl (by decide) rfl
theorem dstop (f) : Statement (.dstop f) := of_slot rfl rfl (by decide) rfl
theorem dsave (f) : Statement (.dsave f) := of_slot rfl rfl (by decide) rfl
theorem drest (f) : Statement (.drest f) := of_slot rfl rfl (by decide) rfl
theorem dgety (f) : Statement (.dgety f) := of_slot rfl rfl (by decide) rfl
theorem dgetn (f) : Statement (.dgetn f) := of_slot rfl rfl (by decide) rfl
theorem dinj (f) : Statement (.dinj f) := of_slot rfl rfl (by decide) rfl
theorem dstat (f) : Statement (.dstat f) := of_slot rfl rfl (by decide) rfl
theorem arg (f) : Statement (.arg f) := of_slot rfl rfl (by decide) rfl
theorem coord (f) : Statement (.coord f) := of_slot rfl rfl (by decide) rfl
theorem ageq (f) : Statement (.ageq f) := of_slot rfl rfl (by decide) rfl
theorem timeq (f) : Statement (.timeq f) := of_slot rfl rfl (by decide) rfl
theorem meterq (f) : Statement (.meterq f) := of_slot rfl rfl (by decide) rfl
theorem topup (f) : Statement (.topup f) := of_slot rfl rfl (by decide) rfl
theorem spawn (f) : Statement (.spawn f) := of_slot rfl rfl (by decide) rfl
theorem semsig (f) : Statement (.semsig f) := of_slot rfl rfl (by decide) rfl
theorem semq (f) : Statement (.semq f) := of_slot rfl rfl (by decide) rfl
theorem wset (f) : Statement (.wset f) := of_slot rfl rfl (by decide) rfl
theorem ctrset (f) : Statement (.ctrset f) := of_slot rfl rfl (by decide) rfl
theorem ctrstep (f) : Statement (.ctrstep f) := of_slot rfl rfl (by decide) rfl
theorem ctrq (f) : Statement (.ctrq f) := of_slot rfl rfl (by decide) rfl
theorem ctok (f) : Statement (.ctok f) := of_slot rfl rfl (by decide) rfl
theorem done (f) : Statement (.done f) := of_slot rfl rfl (by decide) rfl
theorem trap (f) : Statement (.trap f) := of_slot rfl rfl (by decide) rfl
theorem memOpComplete (id) : Statement (.memOpComplete id) := of_event rfl rfl
theorem engineWriteback (id) : Statement (.engineWriteback id) := of_event rfl rfl
theorem waitRetry (id) : Statement (.waitRetry id) := of_event rfl rfl
theorem walkComplete (room) (asid) (va) : Statement (.walkComplete room asid va) := of_event rfl rfl
theorem homeAccess (target) : Statement (.homeAccess target) := of_event rfl rfl
theorem routerCombine (first) (second) : Statement (.routerCombine first second) := of_event rfl rfl
theorem replySplit (combo) : Statement (.replySplit combo) := of_event rfl rfl
theorem atomxFill (fill) : Statement (.atomxFill fill) := of_event rfl rfl
theorem tileBlockArrive (id) (block) : Statement (.tileBlockArrive id block) := of_event rfl rfl
theorem tileBlockPerformed (id) (block) : Statement (.tileBlockPerformed id block) := of_event rfl rfl
theorem setRequestArrive (id) : Statement (.setRequestArrive id) := of_event rfl rfl
theorem setRetry (id) : Statement (.setRetry id) := of_event rfl rfl
theorem ddaDomainStep (cell) (domain) : Statement (.ddaDomainStep cell domain) := of_event rfl rfl
theorem edgePortAdvance (cell) (port) : Statement (.edgePortAdvance cell port) := of_event rfl rfl
theorem channelTokenArrive (cell) (elem) (input) : Statement (.channelTokenArrive cell elem input) := of_event rfl rfl
theorem controlTokenArrive (cell) (elem) (input) : Statement (.controlTokenArrive cell elem input) := of_event rfl rfl
theorem hostIntakeWrite (off) (bytes) : Statement (.hostIntakeWrite off bytes) := of_event rfl rfl
theorem intakeTakeSlot (ring) : Statement (.intakeTakeSlot ring) := of_event rfl rfl
theorem cancel (p) : Statement (.cancel p) := of_event rfl rfl
theorem launchExpand (launch) : Statement (.launchExpand launch) := of_event rfl rfl
theorem topupSettle (acct) : Statement (.topupSettle acct) := of_event rfl rfl
theorem park (id) : Statement (.park id) := of_event rfl rfl
theorem waitLimitExpire (id) : Statement (.waitLimitExpire id) := of_event rfl rfl
theorem ueDetect (site) : Statement (.ueDetect site) := of_event rfl rfl
theorem lodgeSelfTest (cell) (ok) : Statement (.lodgeSelfTest cell ok) := of_event rfl rfl
theorem currentLimit (wing) (on) : Statement (.currentLimit wing on) := of_event rfl rfl
theorem sramEccWindow (errs) : Statement (.sramEccWindow errs) := of_event rfl rfl
theorem ueUndervolt (site) : Statement (.ueUndervolt site) := of_event rfl rfl
theorem pwrStallWindow (wing) (matrix) (vector) (sram) (fabric) : Statement (.pwrStallWindow wing matrix vector sram fabric) := of_event rfl rfl
theorem roomTempSample (room) (temp) : Statement (.roomTempSample room temp) := of_event rfl rfl
theorem thermalCut (room) : Statement (.thermalCut room) := of_event rfl rfl
theorem railStepComplete (rail) : Statement (.railStepComplete rail) := of_event rfl rfl
theorem retentionEnter (arr) : Statement (.retentionEnter arr) := of_event rfl rfl
theorem retentionExit (arr) : Statement (.retentionExit arr) := of_event rfl rfl
theorem reset (cause) : Statement (.reset cause) := of_event rfl rfl
theorem lodgeUpdate (image) (version) : Statement (.lodgeUpdate image version) := of_event rfl rfl
theorem ewjFlitReceive (port) (lane) (crcOk) (resent) : Statement (.ewjFlitReceive port lane crcOk resent) := of_event rfl rfl
theorem ewjMessageReceive (msg) : Statement (.ewjMessageReceive msg) := of_event rfl rfl
theorem ewjPortFail (port) : Statement (.ewjPortFail port) := of_event rfl rfl
theorem linkTimeout (id) : Statement (.linkTimeout id) := of_event rfl rfl
theorem domainRecovery (what) : Statement (.domainRecovery what) := of_event rfl rfl
theorem ethFrameReceive (frame) : Statement (.ethFrameReceive frame) := of_event rfl rfl
theorem ethFrameRelease (stream) : Statement (.ethFrameRelease stream) := of_event rfl rfl
theorem ptpMessage (report) : Statement (.ptpMessage report) := of_event rfl rfl
theorem ringInterrupt (ring) : Statement (.ringInterrupt ring) := of_event rfl rfl
theorem hostRingWrite (ring) (word) (v) : Statement (.hostRingWrite ring word v) := of_event rfl rfl
theorem rtWrite (v) : Statement (.rtWrite v) := of_event rfl rfl
theorem rtRead (v) : Statement (.rtRead v) := of_event rfl rfl
theorem attestationRequest (v) : Statement (.attestationRequest v) := of_event rfl rfl
theorem lodgeEpochWrite (v) : Statement (.lodgeEpochWrite v) := of_event rfl rfl
theorem lodgePtpWrite (v) : Statement (.lodgePtpWrite v) := of_event rfl rfl
theorem rollbackAdvance (cls) (v) : Statement (.rollbackAdvance cls v) := of_event rfl rfl
theorem railRequest (rail) (v) : Statement (.railRequest rail v) := of_event rfl rfl
theorem ecclimWrite (v) : Statement (.ecclimWrite v) := of_event rfl rfl
theorem acctBalanceWrite (acct) (v) : Statement (.acctBalanceWrite acct v) := of_event rfl rfl
theorem cfgLoad (v) : Statement (.cfgLoad v) := of_event rfl rfl
theorem cfgUnload (v) : Statement (.cfgUnload v) := of_event rfl rfl
theorem xlatInv (v) : Statement (.xlatInv v) := of_event rfl rfl
theorem xlatWake (v) : Statement (.xlatWake v) := of_event rfl rfl
theorem dbgHalt (v) : Statement (.dbgHalt v) := of_event rfl rfl
theorem dbgGo (v) : Statement (.dbgGo v) := of_event rfl rfl
theorem hearthCont (room) (v) : Statement (.hearthCont room v) := of_event rfl rfl
theorem hostMemoryWindow (write) (addr) (bytes) : Statement (.hostMemoryWindow write addr bytes) := of_event rfl rfl
theorem counterReadClear (off) : Statement (.counterReadClear off) := of_event rfl rfl
theorem registerWrite (off) (v) : Statement (.registerWrite off v) := of_event rfl rfl
theorem hnop (c) : Statement (.hnop c) := of_hearth rfl rfl (by decide) rfl
theorem hset (c) : Statement (.hset c) := of_hearth rfl rfl (by decide) rfl
theorem cfgload (c) : Statement (.cfgload c) := of_hearth rfl rfl (by decide) rfl
theorem cfgswitch (c) : Statement (.cfgswitch c) := of_hearth rfl rfl (by decide) rfl
theorem hcopy (c) : Statement (.hcopy c) := of_hearth rfl rfl (by decide) rfl
theorem gangrun (c) : Statement (.gangrun c) := of_hearth rfl rfl (by decide) rfl
theorem tagctl (c) : Statement (.tagctl c) := of_hearth rfl rfl (by decide) rfl
theorem quiesce (c) : Statement (.quiesce c) := of_hearth rfl rfl (by decide) rfl
theorem ctxsave (c) : Statement (.ctxsave c) := of_hearth rfl rfl (by decide) rfl
theorem ctxload (c) : Statement (.ctxload c) := of_hearth rfl rfl (by decide) rfl
theorem trapret (c) : Statement (.trapret c) := of_hearth rfl rfl (by decide) rfl
theorem repeat_ (c) : Statement (.repeat_ c) := of_hearth rfl rfl (by decide) rfl
theorem skipif (c) : Statement (.skipif c) := of_hearth rfl rfl (by decide) rfl
theorem semset (c) : Statement (.semset c) := of_hearth rfl rfl (by decide) rfl
theorem topacct (c) : Statement (.topacct c) := of_hearth rfl rfl (by decide) rfl
theorem watch (c) : Statement (.watch c) := of_hearth rfl rfl (by decide) rfl
theorem hend (c) : Statement (.hend c) := of_hearth rfl rfl (by decide) rfl
theorem powerFirmwareUpdate (image) (version) : Statement (.powerFirmwareUpdate image version) := of_event rfl rfl
theorem matrixOpComplete (id) : Statement (.matrixOpComplete id) := of_event rfl rfl
theorem pageTimeout : Statement (.pageTimeout) := of_event rfl rfl
theorem rowFire : Statement (.rowFire) := of_event rfl rfl
theorem mxldbComplete : Statement (.mxldbComplete) := of_event rfl rfl
theorem drainRow : Statement (.drainRow) := of_event rfl rfl
theorem sortKeyEnter : Statement (.sortKeyEnter) := of_event rfl rfl
theorem sortEmit : Statement (.sortEmit) := of_event rfl rfl
theorem convertBlock : Statement (.convertBlock) := of_event rfl rfl
theorem convertComplete : Statement (.convertComplete) := of_event rfl rfl
theorem scanToken : Statement (.scanToken) := of_event rfl rfl
theorem commitPoint : Statement (.commitPoint) := of_event rfl rfl
theorem argReadComplete : Statement (.argReadComplete) := of_event rfl rfl
theorem dispatchStage : Statement (.dispatchStage) := of_event rfl rfl
theorem prefetchComplete : Statement (.prefetchComplete) := of_event rfl rfl
theorem standbyFillComplete : Statement (.standbyFillComplete) := of_event rfl rfl
theorem taskEnterRunning : Statement (.taskEnterRunning) := of_event rfl rfl
theorem brownout : Statement (.brownout) := of_event rfl rfl
theorem physicalStop : Statement (.physicalStop) := of_event rfl rfl
theorem ageHorizon : Statement (.ageHorizon) := of_event rfl rfl
theorem deadlockExpire : Statement (.deadlockExpire) := of_event rfl rfl
theorem preemptQuiescent : Statement (.preemptQuiescent) := of_event rfl rfl
theorem faultReachHearth : Statement (.faultReachHearth) := of_event rfl rfl
theorem droopDetect : Statement (.droopDetect) := of_event rfl rfl
theorem droopHoldExpire : Statement (.droopHoldExpire) := of_event rfl rfl
theorem pwrWatchdog : Statement (.pwrWatchdog) := of_event rfl rfl
theorem switchStuck : Statement (.switchStuck) := of_event rfl rfl
theorem quiesceLimitExpire : Statement (.quiesceLimitExpire) := of_event rfl rfl
theorem hearthCmdComplete : Statement (.hearthCmdComplete) := of_event rfl rfl
theorem lodgeWatchdog : Statement (.lodgeWatchdog) := of_event rfl rfl
theorem converterFault : Statement (.converterFault) := of_event rfl rfl
theorem contextSaveComplete : Statement (.contextSaveComplete) := of_event rfl rfl

end Sys2Proof.Laws.Encoding
end

