-- ==== Sys2Proof/Tests/Slice0.lean ====
section
/-! SUPPORT. Tests: the refusals of WellFormed, words of the manual decoded, one small step for what is easiest to get wrong, and
for each statement a concrete state that meets what it assumes. Expected values are the manual's, or worked by hand from it. -/

namespace Sys2Proof.Tests

open Sys2Proof.Machine

set_option Elab.async false

/-! ### Small states -/

/-- The state in which the element that holds a word is to fire it. -/
def at_ (w : Nat) : State := ({ State.reset.placeSlot w with agenda := [] } : State).atSite (placeCell (opOfBits w)) 0 0

/-- Whether the firing of a word is made and paid for, and `pre` holds of it. -/
def meets (pre : State → Fire → Bool) (s : State) (w cost : Nat) : Bool :=
  match s.fireAt (opOfBits w) (slotOfBits w) with
  | some x => s.ready x && decide (cost + s.tokenCost x ≤ (s.cell x.c).meter.bal) && pre s x
  | none => false

/-- What `meets` says: the hypotheses of a statement about a firing hold together. -/
theorem meets_spec {pre : State → Fire → Bool} {s : State} {w cost : Nat} (h : meets pre s w cost = true) :
    ∃ x, s.Fires (opOfBits w) (slotOfBits w) x ∧ s.Affords x cost ∧ pre s x = true := by
  unfold meets at h
  split at h
  next x hx =>
    simp only [Bool.and_eq_true, decide_eq_true_eq] at h
    exact ⟨x, ⟨hx, h.1.1⟩, Or.inr (Or.inr h.1.2), h.2⟩
  next => cases h

/-- A firing of each of some opcodes, with DST, SRC1 and SRC2 given: words of V = 1. -/
def word (op dst src1 src2 : Nat) : Nat := 1 + 2 ^ 2 * src2 + 2 ^ 7 * src1 + 2 ^ 15 * dst + 2 ^ 30 * op

/-! ### What WellFormed refuses (R301, R302): one term for each check -/

/-- The reason for which a slot is refused in a compute cell. -/
def reason (op : Nat) (f : Slot) : Option Nat := slotReason {} op f

theorem test_wf_add : reason 0x02 { dst := 3, src1 := 1, src2 := 2 } = none := by decide
theorem test_wf_reserved_opcode : reason 0x5B {} = some 0x01 := by decide
theorem test_wf_reserved_dst : reason 0x02 { dst := 22 } = some 0x02 := by decide
theorem test_wf_atom_dst : reason 0x67 { dst := 15, src2 := 2 } = some 0x02 := by decide
theorem test_wf_vector_src : reason 0x8A { dst := 1, src1 := 1, src2 := 2 } = none := by decide
theorem test_wf_width : reason 0x23 { dst := 3 } = some 0x03 := by decide
theorem test_wf_signed_store : reason 0x44 { dst := 3, src1 := 1, src2 := 4 } = some 0x03 := by decide
theorem test_wf_atom_size : reason 0x60 { dst := 3, src1 := 1, src2 := 1 } = some 0x03 := by decide
theorem test_wf_fcvt_direction : reason 0x3C { dst := 3, otag := 7 } = some 0x03 := by decide
theorem test_wf_lane_type : reason 0x8B { dst := 1, otag := 0 } = some 0x03 := by decide
theorem test_wf_scope : reason 0x4B { dst := 28, src2 := 7 } = some 0x03 := by decide
theorem test_wf_cell_kind : reason 0x4D { dst := 3, src1 := 1 } = some 0x04 := by decide
theorem test_wf_group : slotReason { groups := 0 } 0x52 { dst := 8, src1 := 1, src2 := 0 } = some 0x04 := by decide
theorem test_wf_third_counter : reason 0xFB { dst := 3, src2 := 2 } = some 0x04 := by decide
theorem test_wf_pidx : reason 0x02 { dst := 3, pidx := 1 } = some 0x05 := by decide
theorem test_wf_plog_pidx : reason 0x1F { dst := 3, pidx := 1, imm := true } = none := by decide
theorem test_wf_tag : reason 0x02 { dst := 3, tag := 1 } = some 0x05 := by decide
theorem test_wf_pval : reason 0x02 { dst := 3, pval := 1 } = some 0x05 := by decide
theorem test_wf_unused_dst : reason 0x4B { dst := 27 } = some 0x05 := by decide
theorem test_wf_unused_src : reason 0x15 { dst := 3, src2 := 1 } = some 0x05 := by decide
theorem test_wf_order_tag : reason 0x40 { dst := 3, src1 := 1, src2 := 2, otag := 1 } = some 0x05 := by decide
theorem test_wf_deq : reason 0x02 { dst := 3, deq := 1 } = some 0x06 := by decide
theorem test_wf_head : reason 0x02 { dst := 3, src1 := 16 } = some 0x06 := by decide
theorem test_wf_no_source : slotReason { inputs := 0 } 0x02 { dst := 3, need := 1 } = some 0x06 := by decide
theorem test_wf_unrouted : slotReason { outs := 0 } 0x02 { dst := 16 } = some 0x07 := by decide
theorem test_wf_output_tag : reason 0x02 { dst := 16, otag := 7 } = some 0x07 := by decide
theorem test_wf_order_output : reason 0x40 { dst := 16, src1 := 1, src2 := 2, otag := 4 } = some 0x07 := by decide
theorem test_wf_control_output : slotReason { ctls := 0 } 0xFD { dst := 28, imm := true } = some 0x07 := by decide
theorem test_wf_counter : slotReason { ctrs := 0 } 0xFB { dst := 3, src2 := 1, imm := true } = some 0x0A := by decide
theorem test_wf_command_operand : hcmdOk 0 { imm := 1 } = false := by decide
theorem test_wf_command_consume : hcmdOk 0 { wcon := true } = false := by decide
theorem test_wf_command_signal : hcmdOk 0 { sinc := 1 } = false := by decide
theorem test_wf_command_zero_signal : hcmdOk 0 { sen := true } = false := by decide
theorem test_wf_hend_signal : hcmdOk 16 { sen := true, sinc := 1 } = false := by decide
theorem test_wf_repeat_back : hcmdAtOk [(11, { ha := 1 })] 0 = false := by decide
theorem test_wf_skip_past : hcmdAtOk [(12, { ha := 4, hb := 1 }), (16, {})] 0 = false := by decide
theorem test_wf_event : (Instr.brownout).wellFormed {} = true := by decide

/-! ### Words of the manual's examples decoded (R281, R288, R298) -/

theorem test_decode_add : (match decodeTableWord 64 0x010137408CC181C1 with
    | some (.add f) => f.pmask == 1 && f.dst == 3 && f.src1 == 3 && f.src2 == 16 && f.need == 3 && f.deq == 3
    | _ => false) = true := by decide
theorem test_decode_st : (match decodeTableWord 64 0x0703001101108E09 with
    | some (.st f) => f.pmask == 7 && f.pval == 3 && f.dst == 1
    | _ => false) = true := by decide
theorem test_decode_fcvt : decodeTableWord 64 0x0000000F0001B081 = some (.fcvt .f32 { dst := 3, otag := 3, src1 := 1 }) := by decide
theorem test_decode_ldwf : (match decodeTableWord 64 0x000010108411582D with
    | some (.ldwf f) => f.need == 1 && f.deq == 1 && f.dst == 2 && f.otag == 5 && f.src1 == 16 && f.src2 == 11
    | _ => false) = true := by decide
theorem test_decode_fence : (match decodeTableWord 64 0x04040012C12E0011 with
    | some (.fence f) => f.pmask == 4 && f.pval == 4 && f.pidx == 2 && f.pmode == 2 && f.dst == 28 && f.src2 == 4
    | _ => false) = true := by decide
theorem test_decode_atomx : (match decodeTableWord 64 0x0101001C002204C9 with
    | some (.atomx k f) => k == 0 && f.dst == 4 && f.src1 == 9 && f.src2 == 18
    | _ => false) = true := by decide
theorem test_decode_tload : (match decodeTableWord 64 0x0101001400218303 with
    | some (.tload f) => f.pmode == 2 && f.dst == 3 && f.src1 == 6 && f.imm
    | _ => false) = true := by decide
theorem test_decode_vfma : (match decodeTableWord 64 0x02020020C0A1B0C9 with
    | some (.vfma f) => f.dst == 3 && f.otag == 3 && f.src1 == 1 && f.src2 == 18 && f.pidx == 1
    | _ => false) = true := by decide
theorem test_decode_mxrule : (match decodeTableWord 64 0x01010030802E0AD9 with
    | some (.mxrule f) => f.dst == 28 && f.src1 == 21 && f.src2 == 22
    | _ => false) = true := by decide
theorem test_decode_dpatch : (match decodeTableWord 64 0x01010034002E030B with
    | some (.dpatch f) => f.src1 == 6 && f.src2 == 2 && f.imm && f.pmode == 2
    | _ => false) = true := by decide
theorem test_decode_topup : decodeTableWord 64 0x0000003D400E0013 = some (.topup { dst := 28, src2 := 4, imm := true }) := by decide
theorem test_decode_hnop : (match decodeTableWord 128 0x000C000A080300000000000000000000 with
    | some (.hnop c) => c.wsem == 3 && c.wthr == 2 && c.wcon && c.ssem == 4 && c.sinc == 1 && c.sen
    | _ => false) = true := by decide
theorem test_decode_repeat : (match decodeTableWord 128 0x2C000000000002000000000000000003 with
    | some (.repeat_ c) => c.imm == 3 && c.ha == 2
    | _ => false) = true := by decide

/-! ### Firings: each statement about them is met -/

/-- A running one-cell task on a cell whose element 0 holds a word with its trigger met. -/
def on (c w : Nat) : State :=
  ({ State.reset with
     clock := { nextId := 1 }
     tasks := [placedTask c 0]
     cells := [(c, placedCell w 0)] } : State).atSite c 0 0

/-- A state with some registers and window 1 of the element that fires. -/
def regs (s : State) (g : List (Nat × Word)) (win : BitVec 64 := 0) : State :=
  s.updElem s.cur.cell 0 fun el => { el with g := g, w := [(1, win)] }

/-- A window on the scratchpad of the memory cell (0, 1) of the room (R230). -/
def spadWin : BitVec 64 := 0xC004000000000000#64

/-- A container with one binding, of address space 0. -/
def bound (s : State) (k : BindKind) (start len : Nat) : State :=
  { s with ctns := [{ id := 0, binds := [{ kind := k, start := start, len := len }] }] }

/-- Whether an address passes its checks. -/
def addrOk (size : Nat) (u : Use) (s : State) (x : Fire) : Bool :=
  match s.address x x.a size size u with
  | .ok _ => true
  | .error _ => false

/-- Always. -/
def yes : State → Fire → Bool := fun _ _ => true

theorem witness_integer : (List.range 0x20).all (fun op => meets yes (on 0 (word op 3 1 2)) (word op 3 1 2) 40) = true := by
  decide +kernel
theorem witness_float : ((List.range 0x20).filter fun i => i % 4 != 3).all (fun i =>
    meets yes (on 0 (word (0x20 + i) 3 1 2)) (word (0x20 + i) 3 1 2) 12) = true := by decide +kernel
theorem witness_rounding : FFmt.decode (fmtOfWidth .f16) 0x3C00 = .fin false 1024 (-10)
    ∧ FFmt.decode (fmtOfWidth .f32) ((fmtOfWidth .f32).round false 16777217 0).bits = .fin false 8388608 1 := by decide +kernel
theorem witness_nan_inf : (FFmt.decode (fmtOfWidth .f32) 0x7FC00000).isNan = true
    ∧ FFmt.decode (fmtOfWidth .f32) 0x7F800000 = .inf false ∧ FFmt.decode (fmtOfWidth .f32) 0xFF800000 = .inf true
    ∧ FFmt.decode (fmtOfWidth .f32) 0 = .fin false 0 (-149) := by decide +kernel
theorem witness_loads : ([(0x40, .load), (0x41, .load), (0x42, .full 0x42), (0x43, .full 0x43), (0x44, .store), (0x45, .full 0x45),
    (0x46, .full 0x46), (0x47, .full 0x47), (0x48, .full 0x48), (0x49, .full 0x49), (0x4A, .full 0x4A)] : List (Nat × Use)).all (fun p =>
      let w := word p.1 3 1 10
      meets (addrOk 4 p.2) (regs (on 0 w) [] spadWin) w 200) = true := by decide +kernel
theorem witness_loads_virtual : ([(0x40, .load), (0x44, .store)] : List (Nat × Use)).all (fun p =>
      let w := word p.1 3 1 2
      meets (addrOk 4 p.2) (regs (on 0 w) [(1, 0xFFFFFFFC)]) w 200) = true := by decide +kernel
theorem witness_atomics : ([(0x60, .atom), (0x67, .atom), (0x68, .red), (0x6F, .red), (0x70, .atom), (0x77, .atom)] : List (Nat × Use)).all
    (fun p =>
      let w := word p.1 3 1 2
      let s := bound (regs (on 0 w) [(4, 0x00100000), (5, 0xFFFFFFFF)]) .escape 0 64
      meets (fun s x => addrOk 4 p.2 s x && !handleBad s ((s.elem x.c x.e).greg 4)) s w 200) = true := by decide +kernel
theorem witness_fence : meets yes (on 0 (word 0x4B 28 0 4)) (word 0x4B 28 0 4) 8 = true := by decide +kernel
theorem witness_acq : (let w := word 0x4C 28 1 2
    meets (addrOk 4 .acq) (bound (on 0 w) .guardedSet 0 64) w 200) = true := by decide +kernel
theorem witness_pref : meets yes (on 0 (word 0x5A 28 1 0)) (word 0x5A 28 1 0) 8 = true := by decide +kernel
theorem witness_queues : [0x55, 0x56, 0x57, 0x58, 0x59].all (fun op =>
    let w := word op 3 1 8
    meets (fun s x => match s.queueTarget x with
      | .ok _ => true
      | .error _ => false) (regs (on (cellAt 0 1) w) [] spadWin) w 12) = true := by decide +kernel
theorem witness_tables : [0x4D, 0x4E, 0x4F].all (fun op =>
    meets (fun _ x => decide (x.b.toNat ≤ 262143)) (regs (on (cellAt 0 1) (word op 28 1 2)) [(2, 262143)]) (word op 28 1 2) 12) = true := by
  decide +kernel
theorem witness_slots : meets yes (on 0 (word 0x53 0 0 0)) (word 0x53 0 0 0) 8 = true
    ∧ meets (fun _ x => x.b == 7) (regs (on 0 (word 0x54 3 0 2)) [(2, 7)]) (word 0x54 3 0 2) 8 = true := by decide +kernel

/-- Whether a tile copy of n blocks passes its checks. -/
def tileOk (n : Nat) (u : Use) (s : State) (x : Fire) : Bool :=
  match s.tileAddress x n u with
  | .ok _ => decide (1 ≤ n) && decide (n ≤ 256)
  | .error _ => false

theorem witness_tload : meets (tileOk 256 .load) (regs (on 0 (word 0x50 1 1 0)) [(2, 256)]) (word 0x50 1 1 0) (16 * 256) = true
    ∧ meets (tileOk 1 .store) (on 0 (word 0x51 1 1 0)) (word 0x51 1 1 0) 8 = true := by decide +kernel
theorem witness_tmcast : (let w := word 0x52 1 1 8
    let s := regs (on (cellAt 0 1) w) [(2, 1)] spadWin
    meets (tileOk 1 .load) (s.updCell (cellAt 0 1) fun cl => { cl with mcast := [(0, [(0, 0)])] }) w 16) = true := by decide +kernel

theorem witness_arg : (let w := word 0xF0 3 1 2
    meets (fun _ x => x.a.toNat + 4 * x.b.toNat == 252 && x.a.toNat % 4 == 0) (regs (on 0 w) [(1, 244), (2, 2)]) w 8) = true := by
  decide +kernel
theorem witness_system_queries : [0xF1, 0xF2, 0xF3, 0xF4, 0xF8, 0xFC].all (fun op =>
    meets (fun _ x => decide (x.f.dst.toNat < 15)) (on 0 (word op 14 0 0)) (word op 14 0 0) 8) = true := by decide +kernel
theorem witness_timeq_ieee : meets yes (on 0 (word 0xF3 14 0 1)) (word 0xF3 14 0 1) 8 = true := by decide +kernel
theorem witness_topup : ([0, 1, 0x03FFFFFF, 0x04000000] : List Word).all (fun k =>
    meets (fun _ x => x.b == k) (regs (on 0 (word 0xF5 28 0 2)) [(2, k)]) (word 0xF5 28 0 2) 8) = true := by decide +kernel
theorem witness_spawn : (let w := word 0xF6 28 2 4
    meets (fun s x =>
      let n := x.a.toNat / 2 ^ 16 % 4
      x.a.toNat / 2 ^ 12 % 16 == 0 && x.b == 240 && !s.spawnHeld x.t x.a
        && (match windowAddr x.t x.c n (s.window x n) ((s.elem x.c x.e).greg (x.f.src1.toNat + 1)) 1 with
          | .ok tg => (s.bindCheck x.t tg x.b.toNat .load).isNone
          | .error _ => false)) (regs (on 0 w) [(2, 0x00010FFF), (3, 64), (4, 240)]) w 8) = true := by decide +kernel
theorem witness_semsig : (let w := word 0xF7 28 1 2
    meets (fun s x => decide (0xFFFF < (s.room (roomOf x.c)).sem (x.a.toNat % 256) + x.b.toNat % 256)
        && decide ((s.room (roomOf x.c)).hearth.st = .wait))
      ((regs (on 0 w) [(1, 5), (2, 1)]).updRoom 0 fun r => { r with sems := [(5, 0xFFFF)], hearth := { st := .wait } }) w 8) = true := by
  decide +kernel
theorem witness_done_trap : [0xFE, 0xFF].all (fun op => meets yes (on 0 (word op 28 1 2)) (word op 28 1 2) 8) = true := by
  decide +kernel
theorem witness_wset_ctrset : [0xF9, 0xFA].all (fun op =>
    meets (fun _ x => x.c == x.t.lead) (on 0 (word op 28 1 4)) (word op 28 1 4) 8) = true := by decide +kernel
theorem witness_ctok : (let w := word 0xFD 28 0 0
    let d : CtlDest := { x := 0, y := 0, e := 0, i := 0 }
    let s := (on 0 w).updCell 0 fun cl => { cl with ctl := [(0, [d])], elems := [(0, { cl.elem 0 with ctlMap := [(0, 7)] })] }
    meets (fun s x => mget (s.cell x.c).ctl 0 [] == [d] && mfind (s.elem x.c x.e).ctlMap 0 == some 7) s w 8) = true := by decide +kernel

/-- The state with counter set 0 of the cell given. -/
def counter (s : State) (k : CtrSet) : State := s.updCell 0 fun cl => { cl with ctrs := [(0, k)] }

theorem witness_ctrstep : ([{ ext := [2], stride := [4], n := [0], started := true },
      { ext := [2], stride := [4], n := [1], started := true, isDone := true }, { ext := [2], stride := [4], n := [0] }] : List CtrSet).all
    (fun k => meets (fun s x => (s.cell x.c).ctr 0 == k && (s.cell x.c).ctl.isEmpty) (counter (on 0 (word 0xFB 3 0 0)) k) (word 0xFB 3 0 0) 8)
    = true := by decide +kernel

/-- A word of the vector group: OTAG carries the lane type and the mask bit (R288). -/
def vword (op dst src1 src2 otag : Nat) : Nat := word op dst src1 src2 + 2 ^ 12 * otag

theorem witness_vector_lanes : ((List.range 0x19).filter fun i => i != 0x09 && i != 0x0A && i != 0x13 && i != 0x14).all (fun i =>
    let w := vword (0x80 + i) 3 1 (if 0x15 ≤ i then 0 else 2) (if 0x0B ≤ i ∧ i < 0x15 then 6 else 0)
    meets yes (on 0 w) w 192) = true := by decide +kernel
theorem witness_vector_moves : ([(0x89, 28, 1, 2), (0x8A, 3, 1, 2), (0x93, 3, 1, 3), (0x94, 3, 1, 2), (0x9C, 3, 1, 2), (0x9D, 3, 1, 18),
    (0x9E, 3, 1, 18), (0x9F, 3, 17, 18), (0xA4, 3, 0, 0), (0xA4, 28, 17, 8), (0xA4, 28, 17, 12), (0xA4, 28, 3, 16), (0xA4, 28, 3, 20)]
    : List (Nat × Nat × Nat × Nat)).all (fun p =>
      let w := vword p.1 p.2.1 p.2.2.1 p.2.2.2 0
      meets yes (on 0 w) w 96) = true := by decide +kernel
theorem witness_vector_reductions : [0x99, 0x9A, 0x9B].all (fun op => meets yes (on 0 (vword op 3 1 0 1)) (vword op 3 1 0 1) 128) = true := by
  decide +kernel
theorem witness_vector_reduction_lanes : (let w := vword 0x9A 3 1 1 7
    let s := (on 0 w).updCell 0 fun cl => { cl with vec := { cl.vec with m := [(0, 1)] } }
    meets (fun s x => lanePicked s x 0 && !lanePicked s x 1 && vopA s x 3 x.f.src1 0 == 0) s w 128) = true := by decide +kernel
theorem witness_vector_lines : ([(0xA0, .load), (0xA1, .store)] : List (Nat × Use)).all (fun p =>
    let w := vword p.1 3 17 0 0
    meets (fun s x =>
      let h := vecSpan s x 0
      h == (0, 128) && (match windowAddr x.t x.c 0 (s.window x 0) ((s.elem x.c x.e).greg 1) 64 with
        | .ok tg => (s.bindCheck x.t { tg with ea := (tg.ea + h.1) % 2 ^ 48 } h.2 p.2).isNone
        | .error _ => false)) (on 0 w) w 48) = true := by decide +kernel
theorem witness_vector_gather : ([(0xA2, .load), (0xA3, .store)] : List (Nat × Use)).all (fun p =>
    let w := vword p.1 3 1 0 1
    let s := (on 0 w).updCell 0 fun cl => { cl with vec := { cl.vec with m := [(0, 0x80000001)] } }
    meets (fun s x => [0, 31].all fun k =>
      (mget (s.cell x.c).vec.m 0 0).getLsbD k && (match windowAddr x.t x.c 0 (s.window x 0) (BitVec.ofNat 32 (vopA s x 3 x.f.src1 k)) 4 with
        | .ok tg => (s.bindCheck x.t tg 4 p.2).isNone
        | .error _ => false)) s w (48 + 8 * 2)) = true := by decide +kernel
theorem witness_vpark : (let w := vword 0xA5 3 17 3 0
    meets (fun s x => ((s.elem x.c x.e).greg 1).toNat == 127 && (s.cell x.c).vec.spill.isEmpty && (s.cell x.c).mx.rules.isEmpty)
      (regs (on 0 w) [(1, 127)]) w 48) = true := by decide +kernel
theorem witness_vunpark : (let w := vword 0xA6 3 0 0 0
    let s := (on 0 w).updCell 0 fun cl => { cl with vec := { cl.vec with spill := [(2, { reg := 3, col := 127, quarter := 3 })] } }
    meets (fun s x => ((s.cell x.c).vec.spill.find? fun e => e.2.reg == 3) == some (2, { reg := 3, col := 127, quarter := 3 })) s w 48)
    = true := by decide +kernel

/-! ### Engines -/

/-- A tile slot that holds one READY block of FP32 elements. -/
def tile32 : Tile := { st := .ready, len := 1, blocks := [(0, { data := 0, tag := 0x11 })] }

theorem witness_mxcfg : (let w := word 0xC0 28 1 0
    meets (fun _ x => decide (x.a.toNat < 2 ^ 16) && [0x01, 0x09, 0x0A, 0x10, 0x11].contains (x.a.toNat % 256) && numericFmt (x.a.toNat / 256))
      (regs (on 0 w) [(1, 0x1109)]) w 8) = true := by decide +kernel
theorem witness_mxrule : (let w := word 0xC2 28 1 2
    meets (fun _ x => x.a.getLsbD 29 && x.a.toNat % 2 ^ 24 == 0 && (regionOf x.b).isSome) (regs (on 0 w) [(1, 0x20000000)]) w 8) = true
    ∧ (let w := word 0xC2 28 1 2
      meets (fun _ x => !x.a.getLsbD 29 && x.a.toNat % 2 ^ 29 == 0) (regs (on 0 w) [(1, 0xC0000000)]) w 8) = true := by decide +kernel
theorem witness_mxclr : (let w := word 0xC3 28 1 0
    meets (fun _ x => (regionOf x.a).isSome) (regs (on 0 w) [(1, 0x01FC7000)]) w 8) = true := by decide +kernel
theorem witness_mxrd : (let w := word 0xC4 3 1 0
    meets (fun _ x => x.a == 511) (regs (on 0 w) [(1, 511)]) w 32) = true := by decide +kernel
theorem witness_mxdrn : (let w := word 0xC5 1 1 0
    meets (fun _ x => match regionOf x.a with
      | some r => decide ((r.nrow + 1) * (r.ncg + 1) ≤ 256)
      | none => false) (on 0 w) w 32) = true := by decide +kernel
/-- A block of eighty elements of T6 (R221). -/
def t6Block : Block := { tag := 0x11 }
theorem t6_length : (blockElems 0x09 t6Block).length = 80 := by decide +kernel
theorem t6_blocks : ∀ k n, k * 80 < n → blocksFor 0x09 n (List.replicate (k + 1) t6Block) = List.replicate (k + 1) t6Block
  | 0, n, h => by
    have h1 : ¬ n = 0 := by omega
    simp [blocksFor, h1]
  | k + 1, n, h => by
    have h1 : ¬ n = 0 := by omega
    rw [List.replicate_succ, blocksFor, if_neg h1, t6_length, t6_blocks k (n - 80) (by omega)]
theorem t6_elems : ((List.replicate 205 t6Block).flatMap (blockElems 0x09)).length = 16400 := by
  rw [List.length_flatMap, List.map_replicate, t6_length]
  decide +kernel
theorem witness_mxldb_blocks : ∃ bs : List Block, (∀ b ∈ blocksFor 0x09 16384 bs, tagPoison b.tag = false ∧ numericFmt (tagFmt b.tag) = true)
    ∧ 16384 ≤ ((blocksFor 0x09 16384 bs).flatMap (blockElems 0x09)).length := by
  refine ⟨List.replicate 205 t6Block, ?_, ?_⟩
  · rw [t6_blocks 204 16384 (by decide)]
    intro b hb
    rw [List.eq_of_mem_replicate hb]
    decide
  · rw [t6_blocks 204 16384 (by decide), t6_elems]
    decide
theorem witness_mxldb : (let w := word 0xC1 1 0 0
    let t : Tile := { st := .ready, len := 205, blocks := (List.range 205).map fun i => (i, t6Block) }
    meets (fun s x => ((s.cell x.c).tile 1).stream == List.replicate 205 t6Block) ((on 0 w).updCell 0 fun cl => { cl with tiles := [(1, t)] }) w 4096) = true := by
  decide +kernel
/-- The keys of the manual's example of a sort (R413): 2.0, −0.0, NaN, +0.0 and −3.5. -/
def sortTile : Tile :=
  { st := .ready, len := 1, blocks := [(0, { data := 0xC0600000000000007FC000008000000040000000, tag := 0x08 })] }
theorem witness_mxsort : (let w := word 0xC6 1 1 0
    let d : Dest := { x := 0, y := 0, e := 0, i := 0 }
    let s := (regs (on 0 w) [(1, 0x01000004)]).updCell 0 fun cl => { cl with tiles := [(1, sortTile)], ports := [(1, [d]), (2, [d])] }
    meets (fun s x => x.a.toNat / 2 ^ 9 % 2 ^ 7 == 0 && !x.a.getLsbD 7 &&
      (match sortKeys ((s.cell x.c).tile 1) (x.a.toNat % 128 + 1) with
        | .ok ks => ks == [(0x08, 0x40000000, 0), (0x08, 0x80000000, 0), (0x08, 0x7FC00000, 0), (0x08, 0, 0), (0x08, 0xC0600000, 0)]
        | .error _ => false)) s w 8) = true := by decide +kernel
theorem witness_engine_queries : ([(0xC7, 0), (0xC7, 4), (0xC7, 5), (0xC9, 1), (0xC9, 2), (0xCB, 2), (0xCD, 0), (0xCD, 3)]
    : List (Nat × Nat)).all (fun p =>
      let w := word p.1 3 0 p.2
      meets (fun _ x => x.f.src2.toNat == p.2) (on (placeCell p.1) w) w 8) = true := by decide +kernel
theorem witness_cvcfg : (let w := word 0xC8 28 1 2
    let s (a : Word) : State := (regs (on 0 w) [(1, a)]).updCell 0 fun cl => { cl with tiles := [(0, { st := .ready, len := 1, blocks := [(0, { tag := 0x08 })] })] }
    let ok (s : State) (x : Fire) : Bool :=
      decide (x.a.toNat < 2 ^ 31) && x.a.toNat / 2 ^ 19 % 8 != 7 && x.a.toNat / 2 ^ 16 % 8 == 0 && x.a.toNat / 2 ^ 8 % 256 != 0x80
        && numericFmt (x.a.toNat % 256) && (((s.cell x.c).tile 0).stream.all fun b => !tagPoison b.tag && numericFmt (tagFmt b.tag))
    meets (fun s x => ok s x && !x.a.getLsbD 30) (s 0x02000009) w 8 = true
    ∧ meets (fun s x => ok s x && x.a.getLsbD 30 && (match windowAddr x.t x.c (x.a.toNat / 2 ^ 28 % 4) (s.window x (x.a.toNat / 2 ^ 28 % 4)) x.b 64 with
        | .ok tg => tg.spad.isNone && (s.bindCheck x.t tg 64 .store).isNone
        | .error _ => false)) (s 0x40000009) w 8 = true) := by decide +kernel
theorem witness_zscan_tagq : (let w := word 0xCA 28 1 0
    let d : Dest := { x := 0, y := 0, e := 0, i := 0 }
    meets (fun s x =>
      let g := ((s.elem x.c x.e).greg 2).toNat
      g % 2 ^ 24 != 0 && numericFmt (g / 2 ^ 24) && (match windowAddr x.t x.c 0 (s.window x 0) x.a 64 with
        | .ok _ => true
        | .error _ => false)) ((regs (on (cellAt 1 0) w) [(2, 0x08FFFFFF)]).updCell (cellAt 1 0) fun cl => { cl with ports := [(3, [d])] }) w 8) = true
    ∧ (let w := word 0xCC 3 1 0
      meets (fun s x => match windowAddr x.t x.c 0 (s.window x 0) x.a 1 with
        | .ok _ => true
        | .error _ => false) (on 0 w) w 40) = true := by decide +kernel

/-- The DDA of a compute cell whose domain 0 is given. -/
def dom0 (s : State) (d : Dom) : State := s.updCell 0 fun cl => { cl with dda := { cl.dda with doms := [(0, d)] } }

theorem witness_dda_registers : ([(0xD2, 28, 2), (0xD3, 28, 2), (0xD9, 3, 0), (0xDA, 3, 0), (0xDB, 28, 2), (0xDC, 3, 15)]
    : List (Nat × Nat × Nat)).all (fun p =>
      let w := word p.1 p.2.1 1 p.2.2 + (if p.1 = 0xDC then 2 else 0)
      meets (fun _ x => x.a == 255 || p.1 == 0xDC) (regs (on 0 w) [(1, 255)]) w 8) = true := by decide +kernel
theorem witness_dgety_lane : meets (fun _ x => x.f.imm) (on 0 (word 0xD9 3 1 31 + 2)) (word 0xD9 3 1 31 + 2) 8 = true := by
  decide +kernel
theorem witness_dpatch : ([(0, 0x1FF), (3, 0x1FFF), (4, 0x110), (5, 3)] : List (Nat × Word)).all (fun p =>
    let w := word 0xD0 28 1 p.1 + 2
    meets (fun s x =>
      let fld := if p.1 < 4 then (58 + 13 * p.1, 13) else if p.1 = 4 then (110, 9) else (119, 2)
      let v := ((s.elem x.c x.e).greg 2).toNat
      let d := (s.cell x.c).dda
      decide (x.a.toNat < 256) && decide (v < 2 ^ fld.2)
        && !patchRefused d x.a (BitVec.ofNat 32 v) p.1 (patchPut (d.entry x.a.toNat) fld.1 fld.2 v))
      (regs (on 0 w) [(1, 255), (2, if p.1 < 4 then p.2 &&& 0x10F0 else p.2 &&& 0x103)]) w 8) = true := by decide +kernel
theorem witness_ddom : ([(0x0001, 0), (0x0009, 0xFFFFFFFF), (0x0FB, 5), (0x3E0C, 0)] : List (Word × Word)).all (fun p =>
    let w := word 0xD4 28 1 0
    meets (fun s x =>
      let v := x.a.toNat
      let n := ((s.elem x.c x.e).greg 2).toNat
      let mode := v / 4 % 4
      decide (v < 2 ^ 14) && !x.a.getLsbD 8 && (mode != 2 || n != 0) && (mode == 3 || v / 2 ^ 9 == 0)
        && (mode == 2 || (v / 16 % 16 == 0 && n == 0))) (regs (on 0 w) [(1, p.1), (2, p.2)]) w 8) = true := by decide +kernel
theorem witness_drun : ([{ mode := .free }, {}, { st := .stopped }, { st := .running }, { st := .done }, { st := .fault }] : List Dom).all (fun d =>
    let w := word 0xD5 28 0 0
    meets (fun s x => (s.cell x.c).dda.dom 0 == d) (dom0 (on 0 w) d) w 8) = true := by decide +kernel
/-- R435: a DRUN of a domain without a mode is a fault BOUNDS. -/
theorem test_drun_none : (match exec (.drun { dst := 28 }) (on 0 (word 0xD5 28 0 0)) with
    | .next t => decide ((t.elem 0 0).frozen = true ∧ (t.elem 0 0).fault.code = 0x02)
    | _ => false) = true := by decide +kernel
theorem witness_dstop : ([{ st := .running }, { st := .stopped }] : List Dom).all (fun d =>
    let w := word 0xD6 28 0 0
    meets (fun s x => (s.cell x.c).dda.dom 0 == d) (dom0 (on 0 w) d) w 8) = true := by decide +kernel
theorem witness_dda_slots : ([(0xD1, 64), (0xD8, 32)] : List (Nat × Nat)).all (fun p =>
    let w := word p.1 9 0 0
    let s := (on 0 w).updCell 0 fun cl => { cl with tiles := [(1, { st := .ready, len := p.2 })] }
    meets (fun s x => x.f.dst.getLsbD 3 && ((s.cell x.c).tile 1).len == p.2) s w 512) = true := by decide +kernel
theorem witness_dsave_slot : meets (fun _ x => x.f.dst.getLsbD 3) (on 0 (word 0xD7 9 0 0)) (word 0xD7 9 0 0) 256 = true := by
  decide +kernel
theorem witness_dda_areas : ([(0xD1, 4096, .load), (0xD7, 2048, .store), (0xD8, 2048, .load)] : List (Nat × Nat × Use)).all (fun p =>
    let w := word p.1 0 1 1
    meets (fun s x => match windowAddr x.t x.c 1 (s.window x 1) x.a 64 with
        | .ok tg => !x.f.dst.getLsbD 3 && tg.spad.isSome && tg.ea + p.2.1 == 2 ^ 20 && (s.bindCheck x.t tg p.2.1 p.2.2).isNone
        | .error _ => false) (regs (on 0 w) [(1, BitVec.ofNat 32 (2 ^ 20 - p.2.1))] spadWin) w 512) = true := by decide +kernel

/-! ### Hearths -/

/-- Room 0 with its hearth in EXEC at a command that has not begun, with h registers. -/
def hearthAt (h : List (Nat × BitVec 64)) (d : State → State := id) : State :=
  d { State.reset with rooms := [(0, { hearth := { st := .exec, prog := [0, 0], h := h } })] }

/-- A task that runs on cell 0 of room 0. -/
def gang0 : Task := { placedTask 0 0 with age := 7 }

/-- The state with that task, and cell 0 its own. -/
def withGang (s : State) (k : Task) : State :=
  { s with clock := { s.clock with nextId := 1 }, tasks := [k], cells := [(0, { placedCell 1 0 with standby := some {} })] }

theorem witness_hearth : (let s := hearthAt []
    s.cur.subject = 0 ∧ (s.room 0).hearth.st = .exec ∧ (s.room 0).hearth.exec = none) := by decide +kernel
theorem witness_repeat : (let s := hearthAt [] fun s => s.updRoom 0 fun r => { r with hearth := { r.hearth with reps := [(0, 3)] } }
    mget (s.room 0).hearth.reps (s.room 0).hearth.pos 1 = 3) := by decide +kernel
theorem witness_signal_later : (let s := hearthAt [] fun s => s.updRoom 0 fun r => { r with tested := [5] }
    let c : HCmd := { sen := true, ssem := 5, sinc := 1 }
    c.sen = true ∧ c.ssem.toNat ∈ (s.room 0).tested ∧ s.cur.subject = 0 ∧ (s.room 0).hearth.st = .exec ∧ (s.room 0).hearth.exec = none) := by
  decide +kernel
theorem witness_ending : (let s := hearthAt [] fun s => s.updRoom 0 fun r =>
      { r with hearth := { r.hearth with exec := some { ending := some ({ sen := true, ssem := 5, sinc := 1 }, 1) } } }
    s.cur.subject = 0 ∧ (s.room 0).hearth.st = .exec ∧ (s.room 0).hearth.exec.bind HExec.ending = some ({ sen := true, ssem := 5, sinc := 1 }, 1)) := by
  decide +kernel
/-- R171, R300: a command that has only its signal left makes it, and POS moves with it. -/
theorem test_ending : (let s := hearthAt [] fun s => s.updRoom 0 fun r =>
      { r with hearth := { r.hearth with exec := some { ending := some ({ sen := true, ssem := 5, sinc := 1 }, 1) } } }
    match exec .hearthCmdComplete s with
    | .next t => decide ((t.room 0).hearth.pos = 1 ∧ (t.room 0).hearth.exec = none ∧ (t.room 0).sem 5 = 1)
    | _ => false) = true := by decide +kernel
theorem witness_semset : 0xFFFE + mget ((hearthAt [] fun s => s.updRoom 0 fun r => { r with semInc := [(5, 1)] }).room 0).semInc 5 0 ≤ 0xFFFF := by
  decide +kernel
theorem witness_watch : (hearthAt [(1, 0x1000)]).hearthAddr 0 (mget ((hearthAt [(1, 0x1000)]).room 0).hearth.h 1 0) 1 1
    = some (.phys 0x1000) := by decide +kernel
theorem witness_region : regionWord 0 ≠ none ∧ regionWord 0xFFFFFFFFFFFFFFFF#64 = none := by decide +kernel

/-- The region of cell (0, 0) alone, of one cell. -/
def region0 : Nat × Nat × Nat × Nat := (0, 0, 0, 0)

/-- A container of one image, of one compute cell, in the store of room 0 at place 1. -/
def loaded (s : State) : State :=
  { s.updRoom 0 (fun k => { k with store := [(1, (0, 0))] }) with
    ctns := [{ id := 0, images := [{ size := 64, cells := [{}] }] }], handlers := [(0, { ctn := 0, img := 0 })] }

theorem witness_cfgload : (let s := loaded (hearthAt [])
    regionWord (mget (s.room 0).hearth.h 0 0) = some region0 ∧ mfind (s.room 0).store 1 = some (0, 0)
      ∧ ((s.ctn 0).images.getD 0 {}).fits 0 0 0 0 = true) := by decide +kernel
theorem witness_hcopy : (let s := hearthAt [(1, 0x1000), (2, 0xC00400000000FFC0#64)]
    s.hearthAddr 0 (mget (s.room 0).hearth.h 1 0) 64 64 = some (.phys 0x1000)
      ∧ s.hearthAddr 0 (mget (s.room 0).hearth.h 2 0) 64 64 = some (.spad (cellAt 0 1) 0xFFC0)
      ∧ (s.cell (cellAt 0 1)).spad.words = []) := by decide +kernel
theorem witness_gangs : [Gate.none, .quiesce].all (fun g =>
    let s := withGang (hearthAt []) { gang0 with gate := g }
    match s.gangAt 0 region0 with
    | some k => !k.frozen && k.gate == g && (k.gang.all fun d => (s.cell d).standby.isSome) && decide (k.contextBytes ≤ s.poolFree)
    | none => false) = true := by decide +kernel
theorem witness_topacct : (mget ((hearthAt [(0, 0xFFFFFFFFFFFF)]).room 0).hearth.h 0 0).toNat < 2 ^ 48 := by decide +kernel

/-- The command of a GANGRUN of handler 0 that takes n bytes from h1. -/
def gangrun (n : Nat) : HCmd := { imm := BitVec.ofNat 64 (n * 4096), ha := 0, hb := 1 }

/-- The state in which tag 0 runs handler 0, of one image of one cell. -/
def routed (s : State) : State := { loaded s with rtags := [(0, { en := true, written := true, cur := { rooms := 1 } })] }
theorem witness_gangrun : (let s := routed (hearthAt [(1, 0x1000)])
    (match s.gangrunArgs 0 (gangrun 3) with
      | .ok (g, some a) => g == region0 && a == .phys 0x1000
      | _ => false) = true ∧ 1024 < s.qfree ∧ s.gangrunPid 0 ∉ s.sched.cancels ∧ s.hearthPoison (.phys 0x1000) 3 = false) := by decide +kernel
theorem witness_gangrun_sends : HearthSends (routed (hearthAt [(1, 0x1000)])) 0 [(.phys 0x1000, 0, 3)] [] := by
  unfold HearthSends HomesTake
  decide +kernel
theorem witness_ctxload : (let s := { routed (hearthAt [(1, 7)]) with tasks := [{ age := 7, st := .preempted, ctx := some {} }] }
    match s.tasks.find? (fun u => u.st == .preempted && !u.saving && u.age == (mget (s.room 0).hearth.h 1 0).toNat) with
    | some k => s.shape k == (0, 0) && s.roomMay k 0 && s.positionOk k 0 0 0 && !s.sched.hold
    | none => false) = true := by decide +kernel

/-- Room 0 with its trap area at the start of the landing of wing 0, and the address of the first frame in h0. -/
def framed (s : State) : State := s.updRoom 0 fun k => { k with trapBase := 0x80000000001#64 }
/-- A gang that is frozen with its frame written, and the state in which its TRAPRET stands. -/
def trapped0 : Task := { gang0 with age := 0, frozen := true, frame := true, faults := [{ elem := some 0 }] }
def retState : State := framed (withGang (hearthAt [(0, 0x80000000000)]) trapped0)
theorem witness_trapret_sends : HearthSends retState 0 [(.phys 0x80000000000, 0, 1024)] [] := by
  unfold HearthSends HomesTake
  decide +kernel
theorem witness_trapret : (let k := trapped0
    let s := retState
    s.trapArea 0 = some 0x80000000000
      ∧ s.tasks.find? (fun t => t.frozen && t.frame && t.room == 0 && t.age == bytesToNat (((s.physBytes 0x80000000000 1024).drop 16).take 8))
        = some k
      ∧ s.retainedIn 0x80000000000 1024 = [] ∧ s.hearthPoison (.phys 0x80000000000) 1024 = false) := by decide +kernel

/-! ### Operations under way, tokens and engines -/

/-- Task gang0 with some operations under way. -/
def opsOn (os : List Op) (d : State → State := id) : State :=
  d { State.reset with clock := { nextId := 9 }, tasks := [gang0], cells := [(0, placedCell 1 0)], ops := os }

/-- The memory cell (0, 1). -/
def mem1 : Nat := cellAt 0 1

/-- An operation of element 0 of cell 0 that is performed. -/
def doneOp (opc : Nat) : Op := { id := 5, opc := opc, f := { dst := 3 }, phase := .performed, r := 7 }
theorem witness_writeback : [0x40, 0x77, 0xCC, 0x80, 0xBF, 0xD0, 0xDC, 0xC0, 0xC2, 0xC3, 0xC4].all (fun n =>
    let o := doneOp n
    let s := opsOn [{ id := 4, opc := 0x40 }, o]
    s.op? o.id == some o && !o.awaits && !s.replyBehind o && !s.nodeTrapped o
      && (s.ops.takeWhile fun p => p.id != o.id).all fun p => decide (p.opc < 0x80)) = true := by decide +kernel

/-- Whether the meter of cell c takes a debit, with no firing that waits for a grant. -/
def paysOk (s : State) (k : Task) (c cost : Nat) : Bool :=
  !k.frozen && ((s.cell c).elems.all fun p => p.2.held.isNone) && (s.cell c).meter.heldBy.isNone && (s.cell c).meter.takes
    && ((s.entryOf k).mmode || decide (cost ≤ (s.cell c).meter.bal))
theorem paysOk_spec {s : State} {k : Task} {c cost : Nat} (key : Nat) (h : paysOk s k c cost = true) : MeterPays s k c key cost := by
  simp only [paysOk, Bool.and_eq_true, Bool.or_eq_true, Bool.not_eq_true', Option.isNone_iff_eq_none, List.all_eq_true,
    decide_eq_true_eq] at h
  exact ⟨h.1.1.1.1, h.1.1.1.2, fun x hx => by simp [h.1.1.2] at hx, h.1.2, h.2⟩

/-- An access of 4 bytes of that cell at its scratchpad word 0. -/
def spadOp (opc : Nat) (ph : Phase := .issued) : Op := { id := 5, opc := opc, phase := ph, spad := some mem1, len := 4, args := [0, 9] }

/-- That word, full or empty. -/
def wordSt (full : Bool) (s : State) : State := s.updCell mem1 fun cl => { cl with spad := { cl.spad with words := [(0, { full := full })] } }
theorem witness_spad_load : AtSpad (opsOn [spadOp 0x40]) (spadOp 0x40) mem1 gang0
    ∧ (opsOn [spadOp 0x40]).poisonIn gang0 0 { spad := some mem1, ea := 0 } 4 = none := by
  refine ⟨⟨?_, rfl, rfl, rfl, ?_, ?_, ?_, fun _ => ?_, ?_, fun l h => by cases h⟩, ?_⟩ <;> decide +kernel
theorem witness_spad_ldwf : [Phase.issued, .waiting].all (fun ph =>
    let s := wordSt true (opsOn [spadOp 0x42 ph])
    let o := spadOp 0x42 ph
    s.op? o.id == some o && s.task? o.task == some gang0 && s.mayGo o && !s.retained (.spad mem1)
      && !s.tooLate (s.arrivals gang0 o) && !(s.arrive (s.arrivals gang0 o)).servedFirst o
      && (s.poisonIn gang0 0 { spad := some mem1, ea := 0 } 4).isNone
      && wordFull ((s.cell mem1).spad.viewSt 0 (some 0)) ((s.cell mem1).spad.viewWord 0 (some 0))) = true := by decide +kernel
/-- A state whose tag 0 runs unguarded tasks. -/
def unguarded (s : State) : State := { s with rtags := [(0, { cur := { unguarded := true } })] }
theorem witness_spad_stfl : (let s := unguarded (opsOn [spadOp 0x45])
    AtSpad s (spadOp 0x45) mem1 gang0 ∧ s.isGuarded gang0 = false ∧ (s.cell mem1).spad.hidden 0 (some 0) = false
      ∧ (s.cell mem1).spad.wst 0 = {}) := by
  refine ⟨⟨?_, rfl, rfl, rfl, ?_, ?_, ?_, fun _ => ?_, ?_, fun l h => by cases h⟩, ?_, ?_, ?_⟩ <;> decide +kernel

/-- Task gang0 at its commit point, with a line for a landing block still to be written. -/
def draining : State :=
  { State.reset with tasks := [{ gang0 with st := .committing }],
                     cells := [(0, { owner := some 0, vest := [.line 0x80000000000 3 0x1122 none] })] }
theorem witness_drain : draining.owner? 0 = some { gang0 with st := .committing } ∧ draining.level 0x80000000000 = .landing
    ∧ draining.retainedIn 0x80000000000 64 = [] ∧ draining.logs.wlog.en = false
    ∧ draining.pathBusy [] draining.clock.nextId (draining.entryLegs 0 (.line 0x80000000000 3 0x1122 none)) = false
    ∧ draining.routed 0x80000000000 = true
    ∧ draining.tooLate (draining.memArrivals [(0x80000000000, 64)] (homeKey 0 0xFF)) = false := by decide +kernel
theorem test_drain : (match exec (.homeAccess (.drain 0 [])) draining with
    | .next t => decide (t.physByte 0x80000000000 = 0x22 ∧ t.physByte 0x80000000001 = 0x11 ∧ t.physByte 0x80000000002 = 0
        ∧ (t.cell 0).vest = [])
    | _ => false) = true := by decide +kernel

/-- An ATOM add of n to the word of virtual address 0, whose page room 0 holds. -/
def addOp (id n : Nat) : Op := { id := id, elem := id, opc := 0x60, len := 4, args := [0, BitVec.ofNat 32 n] }

/-- Room 0 with a page of physical address 0x80000000000 at virtual address 0. -/
def paged (s : State) : State :=
  { s.updRoom 0 fun k => { k with tlb := [{ pa := 0x80000000000, wr := true }] } with logs := { s.logs with roots := [(0, 1)] } }
theorem witness_combine : (let s := paged (opsOn [addOp 5 12, addOp 6 13])
    (s.request { name := .op 5 }).map (fun a => (a.pa, a.opc, a.red)) = some (0x80000000000, 0, false)
      ∧ (s.request { name := .op 6, port := 1 }).map (fun a => (a.pa, a.opc, a.red)) = some (0x80000000000, 0, false)
      ∧ arrivesBefore (0, 0) (0, 1) = true
      ∧ (match s.request { name := .op 5 }, s.request { name := .op 6, port := 1 } with
        | some a, some b => s.partsBehind a b []
        | _, _ => true) = false) := by decide +kernel

/-- Two committing gangs whose next line is a record of an add to one word; the first record, or a combined one, is red. -/
def reds : State :=
  { State.reset with
    tasks := [{ gang0 with st := .committing }, { gang0 with id := 1, st := .committing, x0 := 1 }]
    cells := [(0, { owner := some 0, vest := [.reds [{ pa := 0x80000000000, val := 2 }]] }),
              (1, { owner := some 1, vest := [.reds [{ pa := 0x80000000000, val := 3 }]] })]
    combos := [{ id := 7, pa := 0x80000000000, red := true, parts := [(2, 0)], val := 4 }] }
theorem witness_combine_reds : ([.record 0 0, .combo 7] : List RequestName).all (fun n =>
    match reds.request { name := n }, reds.request { name := .record 1 0, port := 1 } with
    | some a, some b => a.pa == b.pa && a.opc == b.opc && a.red && b.red && arrivesBefore a.last b.head
        && !reds.partsBehind a b (combosNamed { name := n } ++ combosNamed { name := .record 1 0, port := 1 })
    | _, _ => false) = true := by decide +kernel
theorem test_combine_reds : (match exec (.routerCombine { name := .record 0 0 } { name := .record 1 0, port := 1 }) reds with
    | .next t => (t.combos.getLast?.map fun k => (k.val, k.parts)) == some (5, [(0, 0), (1, 0)])
    | _ => false) = true := by decide +kernel

/-- A combined add of 12 and 13 whose home answered 10 (R253). -/
def combined : State :=
  opsOn [{ addOp 5 12 with combo := some 7 }, { addOp 6 13 with combo := some 7 }] fun s =>
    { s with combos := [{ id := 7, pa := 0, parts := [(5, 12), (6, 13)], old := some 10 }] }
theorem witness_split : (let k : Combo := { id := 7, pa := 0, parts := [(5, 12), (6, 13)], old := some 10 }
    combined.combos.find? (fun j => j.id == k.id) = some k ∧ (k.parts.all fun p =>
        (combined.op? p.1).any fun o => decide (o.opc < 0x70) && o.orphan.isNone) = true
      ∧ (k.parts.map (·.1)).Nodup) := by decide +kernel
theorem test_split : (match exec (.replySplit 7) combined with
    | .next t => decide ((t.op? 5).map Op.r = some 10 ∧ (t.op? 6).map Op.r = some 22)
    | _ => false) = true := by decide +kernel

/-- A fill of word 0 of that cell, whose arrival counts at word 1. -/
def fill0 (filled : Bool) : Fill := { id := 3, handle := 0x00100000, chandle := 0x00100001, val := 9, filled := filled }
theorem witness_fill : ([(false, false), (true, true), (true, false)] : List (Bool × Bool)).all (fun p =>
    let k := fill0 p.1
    let s := opsOn [] fun s => { s.updCell mem1 fun cl => { cl with spad := { cl.spad with words := [(1, { counting := p.2 })] } } with fills := [k] }
    let pd := (s.cell mem1).spad
    s.fills.find? (fun j => j.id == k.id) == some k && handleCell k.handle == mem1 && handleCell k.chandle == mem1
      && handleWord k.chandle == 1 && !s.retained (.spad mem1) && (pd.tentBy 0).isNone && (pd.tentBy 1).isNone && !(pd.wst 0).counting && (pd.wst 1).counting == p.2)
    = true := by decide +kernel
theorem witness_fill_stands : ([(false, 0), (true, 1)] : List (Bool × Nat)).all (fun p =>
    let k := { fill0 p.1 with src := some 0, inj := 3 }
    let s := opsOn [] fun s => { s with fills := [k] }
    let as : List Served := [{ home := spadHome mem1, lo := 4 * p.2, len := 4, key := k.key }]
    !s.pathBusy [k.id] k.inj k.legs && !s.tooLate as && !(s.arrive as).waitsBefore mem1
      { since := k.since.getD (s.clock.tick + 1), key := k.key, num := k.id, ranges := [(4 * p.2, 4)] }) = true := by decide +kernel
/-- R376: a filled word is FULL, and the fill of a task's ATOMX then arrives at its counting word. -/
theorem test_fill : (match exec (.atomxFill 3) (opsOn [] fun s => { s with fills := [fill0 false] }) with
    | .next t => decide ((t.cell mem1).spad.word 0 = 9 ∧ (t.cell mem1).spad.wst 0 = { full := true } ∧ t.fills.map Fill.filled = [true])
    | _ => false) = true := by decide +kernel

/-- Cell 0 with a token on its way to input 0 of element 0 and to inbound edge port 0, and control tokens for predicate 2 of the
element and for counter set 1. -/
def arriving : State :=
  opsOn [] fun s => s.updCell 0 fun cl =>
    { cl with
      elems := [(0, { ins := [(0, { transit := [{ val := 5 }] })], ctlIn := [(0, 1), (9, 1)], ctlMap := [(0, 2)] })]
      edges := [(0, { inq := { transit := [{ val := 6 }] } })] }
theorem witness_tokens : isEdge 0 0 = false ∧ ((arriving.elem 0 0).input 0).transit = [{ val := 5 }]
    ∧ arriving.spawning 0 0 = false ∧ mget (arriving.elem 0 0).ctlIn 0 0 = 1 ∧ mfind (arriving.elem 0 0).ctlMap 0 = some 2
    ∧ mget (arriving.elem 0 0).ctlIn 9 0 = 1 := by decide +kernel

/-- An address cell of a room. -/
def addr0 : Nat := ((List.range 64).find? fun c => kindOf c == .address).getD 0
theorem witness_edge_transit : (let s := opsOn [] fun s => s.updCell addr0 fun cl => { cl with edges := [(0, { inq := { transit := [{ val := 6 }] } })] }
    isEdge addr0 4 = true ∧ ((s.cell addr0).edge 0).inq.transit = [{ val := 6 }]) := by decide +kernel

/-- A task on that cell. -/
def taskAt (c : Nat) : Task := placedTask c 0

/-- A cell whose task runs, with changes. -/
def cellOn (c : Nat) (g : Cell → Cell) (os : List Op := []) : State :=
  { State.reset with clock := { nextId := 9 }, tasks := [taskAt c], cells := [(c, g (placedCell 1 0))], ops := os,
                     cur := { subject := c, cell := c } }
theorem witness_edge_port : (let o : Op := { id := 5, cell := addr0, elem := 4, phase := .performed, r := 7 }
    let s := cellOn addr0 (fun cl => { cl with edges := [(0, { op := some 5 })], ports := [(4, [{ x := 0, y := 0, e := 1, i := 0 }])] }) [o]
    s.engineTask addr0 8 = some (taskAt addr0) ∧ s.op? 5 = some o ∧ (s.cell addr0).port 4 = [{ x := 0, y := 0, e := 1, i := 0 }]
      ∧ (taskAt addr0).cellAt 0 0 = addr0 ∧ isEdge addr0 1 = false ∧ mfind (s.cell addr0).edges 0 = some { op := some 5 })
    := by decide +kernel
theorem witness_domain : (let s := cellOn 0 fun cl => { cl with dda := { cl.dda with doms := [(0, { st := .running, mode := .free })] } }
    let d := (s.cell 0).dda
    s.newFiringTask 0 11 = some (taskAt 0) ∧ (d.dom 0).st = .running ∧ (d.dom 0).mode = .free ∧ (d.step 0).2 = []
      ∧ (taskAt 0).gate = .none ∧ paysOk s (taskAt 0) 0 ((d.active 0 + 3) / 4) = true) := by decide +kernel

/-- A tile slot of one block of T6 zeros. -/
def t6Tile : Tile := { st := .ready, len := 1, blocks := [(0, t6Block)] }
theorem witness_row : ([0, 1] : List Nat).all (fun nrow =>
    let r : MxRule := { rel := true, hold := true, aslot := 1, region := { row0 := 3, nrow := nrow, cg0 := 6, ncg := 1 } }
    let s := cellOn 0 fun cl => { cl with mx := { cl.mx with afmt := 0x11, rules := [(2, r)] }, tiles := [(1, { t6Tile with len := 2, blocks := [(0, t6Block), (1, t6Block)] })] }
    let m := (s.cell 0).mx
    s.newFiringTask 0 10 == some (taskAt 0) && s.nextRule 0 == some (2, r) && (match rowElems m.afmt ((s.cell 0).tile 1) 0 with
      | .ok els => els.length == 128
      | .error _ => false) && decide (r.region.cg0 + r.region.ncg ≤ 7) && paysOk s (taskAt 0) 0 (64 * actWidth m.afmt)) = true := by
  decide +kernel
theorem witness_mxldb_complete : (let l : MxLoad := { op := 5, blocks := List.replicate 205 t6Block }
    let o : Op := { id := 5, opc := 0xC1 }
    let s := cellOn 0 (fun cl => { cl with mx := { cl.mx with load := some l } }) [o]
    (s.cell s.cur.subject).mx.load = some l ∧ s.op? 5 = some o ∧ o.replay = false ∧ 16384 ≤ (l.blocks.flatMap (blockElems 0x09)).length) := by
  refine ⟨by decide +kernel, by decide +kernel, rfl, ?_⟩
  show 16384 ≤ ((List.replicate 205 t6Block).flatMap (blockElems 0x09)).length
  rw [t6_elems]
  decide
theorem witness_drain_row : ([0, 1] : List Nat).all (fun row =>
    let d : Drain := { op := 5, slot := 2, region := { row0 := 3, nrow := 1, cg0 := 0, ncg := 1 }, row := row }
    let o : Op := { id := 5, opc := 0xC4 }
    let s := cellOn 0 (fun cl => { cl with mx := { cl.mx with drains := [d] } }) [o]
    s.engineTask 0 10 == some (taskAt 0) && (s.cell 0).mx.drains.head? == some d && s.op? 5 == some o && !o.replay
      && !s.droopHold 0 && paysOk s (taskAt 0) 0 32) = true := by
  decide +kernel

/-- Ports 1 and 2 of cell 0 to inputs of elements 0 and 1. -/
def sortPorts : AMap (List Dest) := [(1, [{ x := 0, y := 0, e := 0, i := 0 }]), (2, [{ x := 0, y := 0, e := 1, i := 0 }])]
theorem witness_sort : ([(0, 0), (1, 0), (1, 1)] : List (Nat × Nat)).all (fun p =>
    let j : SortJob := { op := 5, ibase := 0x100, keys := [(0x09, 0, 0)], entered := p.1, emitted := p.2 }
    let o : Op := { id := 5, opc := 0xC6 }
    let s := cellOn 0 (fun cl => { cl with mx := { cl.mx with sort := some j }, ports := sortPorts }) [o]
    s.engineTask 0 10 == some (taskAt 0) && (s.cell 0).mx.sort == some j && s.op? 5 == some o && !s.droopHold 0
      && (s.cell 0).port 1 == [{ x := 0, y := 0, e := 0, i := 0 }] && (s.cell 0).port 2 == [{ x := 0, y := 0, e := 1, i := 0 }]
      && s.space (taskAt 0) ((s.cell 0).port 1) && s.space (taskAt 0) ((s.cell 0).port 2) && !isEdge 0 0 && !isEdge 0 1
      && paysOk s (taskAt 0) 0 64 && (j.order[p.2]?).isSome == decide (p.2 = 0)) = true := by decide +kernel
theorem witness_scan : ([(0, 4), (4, 4)] : List (Nat × Nat)).all (fun p =>
    let s := cellOn addr0 fun cl => { cl with scan := { busy := true, spad := some mem1, n := p.2, read := p.1 }, ports := [(3, [{ x := 0, y := 0, e := 1, i := 0 }])] }
    s.engineTask addr0 13 == some (taskAt addr0) && (s.cell addr0).scan.busy && (s.cell addr0).scan.op.isNone
      && (s.bindCheck (taskAt addr0) { spad := some mem1, ea := 0 } 64 .load).isNone
      && s.space (taskAt addr0) ((s.cell addr0).port 3) && paysOk s (taskAt addr0) addr0 0 && !isEdge addr0 1) = true := by decide +kernel
theorem witness_convert : ([0, 1] : List Nat).all (fun next =>
    let o : Op := { id := 5, opc := 0xC8, f := { dst := 3 }, left := [0] }
    let j : ConvJob := { op := 5, blocks := [t6Block], dst := 1, next := next }
    let s := cellOn 0 (fun cl => { cl with conv := { fmt := 0x09, job := some j } }) [o]
    s.op? 5 == some o && s.task? 0 == some (taskAt 0) && (s.cell 0).conv.job == some j && mget (s.cell 0).ctl 0x28 [] == []
      && !(taskAt 0).halted && !(s.cell 0).halted && o.phase == .issued) = true := by
  decide +kernel
theorem witness_blocks : ([(0x50, [0, 1]), (0x50, [1]), (0x51, [0, 1]), (0x51, [1])] : List (Nat × List Nat)).all (fun p =>
    let o : Op := { id := 5, opc := p.1, f := { dst := 3 }, spad := some mem1, len := 128, left := p.2 }
    let s := cellOn 0 (fun cl => { cl with tiles := [(3, { st := .filling, len := 2 })] }) [o] |> unguarded
    s.op? 5 == some o && s.task? 0 == some (taskAt 0) && !o.replay && s.mayGo o && !s.retained (.spad mem1) && !s.isGuarded (taskAt 0)
      && (o.left.all fun n => ((s.cell mem1).spad.countingIn (16 * n) 16 (some 0)).isNone && !(s.cell mem1).spad.hiddenIn (16 * n) 16 (some 0))
      && (o.left.all fun i => !s.tooLate (s.arrivals (taskAt 0) (o.oneBlock i))
        && !(s.arrive (s.arrivals (taskAt 0) (o.oneBlock i))).servedFirst (o.oneBlock i))) = true := by decide +kernel

/-! ### Meters, ends of tasks, waits, traps and staging -/

/-- The state in which cell 0, of task k, waits for two packets of account 3. -/
def asking (k : Task) (st : MeterSt) (a : Acct) : State :=
  { State.reset with
    tasks := [k]
    cells := [(0, { owner := some 0, meter := { st := st, pend := true, bal := 10 } })]
    accts := [(3, a)]
    sched := { reqs := [{ acct := 3, cell := 0, task := 0, packets := 2 }] } }
theorem witness_topup_settle : ([(.pending, 128), (.pending, 127), (.stalled, 127)] : List (MeterSt × Nat)).all (fun p =>
    let s := asking gang0 p.1 { balance := p.2 }
    (takeReq 3 s.sched.reqs).map (fun x => (x.1.dest, x.1.packets)) == some (none, 2) && s.task? 0 == some gang0
      && (s.cell 0).owner == some 0 && ((s.acct 3).canDraw 128 && decide ((s.cell 0).meter.bal + 128 < 2 ^ 32 ∧ (s.cell 0).meter.topped + 128 < 2 ^ 32)) == decide (p.2 = 128)
      && (s.cell 0).meter.st == p.1) = true := by decide +kernel
theorem witness_topacct_settle : (let q : TopReq := { acct := 3, dest := some 4, room := 0, ha := 2 }
    let s := { hearthAt [(2, 100)] with sched := { reqs := [q] } }
    takeReq 3 s.sched.reqs = some (q, []) ∧ (takeReq 4 s.sched.reqs).map (·.1) = some q
      ∧ ({ instr := .topacct {}, task := 0 } : HExec).moves q.task = true ∧ ({ instr := .hcopy {} } : HExec).moves q.task = false) := by
  decide +kernel
theorem witness_physical : [MeterSt.pending, .paying].all (fun st =>
    let s := { asking gang0 st {} with rtags := [(0, { cur := { mmode := true } })], cells := [(0, { owner := some 0, meter := { st := st, bal := 63 } })] }
    s.owner? 0 == some gang0 && (s.entryOf gang0).mmode && !gang0.frozen && decide ((s.cell 0).meter.bal < 64) && (s.cell 0).meter.st == st) = true := by decide +kernel
theorem witness_brownout : (let s := at_ (word 0x20 3 1 2)
    s.owner? 0 = some (placedTask 0 0) ∧ (s.entryOf (placedTask 0 0)).mmode = false ∧ s.coveredFiring 0 = true) := by decide +kernel
theorem witness_topup_past : (let s := { asking gang0 .pending { balance := 2 ^ 40 } with sched := { reqs := [{ acct := 3, cell := 0, task := 0, packets := 0x03FFFFFF }] } }
    2 ^ 32 - 1 < (s.cell 0).meter.bal + 64 * 0x03FFFFFF + 64 ∧ ¬ 2 ^ 32 - 1 < (s.cell 0).meter.topped + 64 * 0x03FFFFFF
      ∧ (s.acct 3).canDraw (64 * 0x03FFFFFF) = true) := by decide +kernel

/-- One task, on cell 0. -/
def lone (k : Task) (d : State → State := id) : State :=
  d { State.reset with clock := { nextId := 9 }, tasks := [k], cells := [(0, { owner := some 0 })] }
theorem witness_commit : (let k := { gang0 with st := TaskSt.committing }
    (lone k).task? 0 = some k ∧ ∀ c ∈ k.gang, ((lone k).cell c).vest = []) := by decide +kernel
theorem witness_horizon : [TaskSt.queued, .running].all (fun st =>
    let k := { gang0 with st := st, age := (2 ^ 44 - 2 ^ 42) * 2 ^ 20 }
    let s := lone k
    s.task? 0 == some k && s.pastHorizon k.age) = true := by decide +kernel
theorem witness_preempt : (let k := { gang0 with gate := Gate.preempt }
    (lone k).task? 0 = some k ∧ (lone k).gangQuiet k = true) := by decide +kernel
theorem witness_context : (let k := { gang0 with st := TaskSt.preempted, saving := true }
    (lone k).task? 0 = some k ∧ (lone k).sched.reqs = []) := by decide +kernel
theorem witness_park : [0x42, 0x45, 0x44].all (fun n => let m := cellAt 9 0
    let o : Op := { id := 5, opc := n, spad := some m, phase := .waiting, len := 4 }
    let s := lone gang0 fun s =>
      { s.updCell m (fun cl => { cl with spad := { cl.spad with tent := [(0, 6)] } }) with
        ops := [o], clock := { s.clock with tick := 16385 } }
    decide (s.op? 5 = some o ∧ o.waits = true ∧ s.waitWord o m = some 0 ∧ gang0.holds m = false ∧ (s.room 0).parkThresh = 16384 ∧ (s.room 0).waitTab = []
      ∧ gang0.contextBytes ≤ s.poolFree)) = true := by decide +kernel

/-- A table at a landing address that maps the first 2 GiB of address space 0 to the first 2 GiB (R233). -/
def mapped (s : State) : State :=
  { s with mem := [(0x80000700007, 0xE0)], logs := { s.logs with roots := [(0, 0x80000700001#64)] } }
theorem witness_walk : (let o : Op := { id := 5, opc := 0x40, phase := .held, heldPage := 0x10000, ea := 0x10000, len := 4 }
    let s := lone gang0 fun s => { s.updRoom 0 (fun r => { r with walks := [(0, 0x10000)] }) with ops := [o] }
    s.op? 5 = some o ∧ s.asidOf gang0 = 0 ∧ s.walkAsleep 0 0x10000 = [] ∧ (mapped s).walkAsleep 0 0x10000 = []
      ∧ s.heldFor 0 0 0x10000 o = true ∧ (0, 0x10000) ∈ (s.room 0).walks ∧ s.walkPoison 0 0x10000 = none ∧ s.walk 0 0x10000 = none
      ∧ (mapped s).walkPoison 0 0x10000 = none ∧ (mapped s).walk 0 0x10000 = some { base := 0, size := 2 ^ 31, pa := 0, wr := true }
      ∧ ((mapped s).poisonBlock 0x80000700000).walkPoison 0 0x10000 = some 0x80000700000) := by decide +kernel
theorem witness_walk_write : (let o : Op := { id := 5, opc := 0x44, phase := .held, heldPage := 0x10000, ea := 0x10000, len := 4 }
    let s := lone gang0 fun s => { s.updRoom 0 (fun r => { r with walks := [(0, 0x10000)] }) with ops := [o] }
    let s1 := { mapped s with mem := [(0x80000700007, 0xC0)] }
    s1.heldFor 0 0 0x10000 o = true ∧ writesMem o.opc = true ∧ s1.walkPoison 0 0x10000 = none
      ∧ s1.walk 0 0x10000 = some { base := 0, size := 2 ^ 31, pa := 0, wr := false }) := by decide +kernel
theorem witness_walk_report : (let s : State := { State.reset with logs := { pf := { en := true } } }
    s.pageReported 0 0x10000 = false ∧ s.logs.pf.sz ≤ 10) := by decide +kernel
/-- A parked task with the wait that parked it, of a limit that is past. -/
def parked : Task :=
  { gang0 with st := .parked, parkWord := some (mem1, 0), ctx := some { ops := [{ id := 5, opc := 0x42, spad := some mem1, phase := .waiting, limit := some 9, len := 4 }] } }
theorem witness_parked_limit : (let s := { State.reset with clock := { nextId := 9, tick := 10 }, tasks := [parked] }
    s.op? 5 = none ∧ s.task? parked.id = some parked
      ∧ s.tasks.find? (fun v => v.st == .parked
        && v.ctx.any fun x => x.ops.any fun q => q.id == 5 && q.limit.any fun l => decide (l < s.clock.tick)) = some parked) := by decide +kernel
theorem test_parked_limit : (match exec (.waitLimitExpire 5) { State.reset with clock := { nextId := 9, tick := 10 }, tasks := [parked] } with
    | .next t => decide ((t.task? parked.id).map Task.wake = some true)
    | _ => false) = true := by decide +kernel
theorem witness_page_timeout : (let o : Op := { id := 5, opc := 0x40, phase := .held, heldAt := some 0 }
    let s := lone gang0 fun s => { s with ops := [o], clock := { s.clock with tbase := 40000000 } }
    s.op? 5 = some o ∧ s.task? o.task = some gang0 ∧ o.task = s.cur.subject) := by decide +kernel
theorem witness_link_timeout : (let o : Op := { id := 5, opc := 0x40, noRoute := some 0, ea := 0, len := 4 }
    let s := lone gang0 fun s =>
      { s.updRoom 0 (fun r => { r with tlb := [{ size := 65536, pa := 2 ^ 44 }] }) with
        ops := [o], clock := { s.clock with tbase := 40000000 }, logs := { s.logs with roots := [(0, 1)] } }
    s.op? 5 = some o ∧ s.physPieces gang0 o.ranges = [(2 ^ 44, 4)] ∧ s.routed (2 ^ 44) = false) := by decide +kernel
theorem witness_set_request : ([(0, 0), (1, 1024)] : List (Nat × Nat)).all (fun p =>
    let o : Op := { id := 5, opc := 0x40, phase := .waitSet, ea := 0, len := 4, since := p.1 }
    let s := lone gang0 fun s => { s with ops := [o], clock := { s.clock with tick := p.2 }, ctns := [{ sets := [{ n := 7, ranges := [(0, 64)] }] }] }
    s.op? 5 == some o && !s.atLock o && s.nextSet gang0 o.ranges == some (0, 7) && s.locks.isEmpty
      && !s.pathBusy [5] (if o.since = 0 then o.inj else s.clock.nextId) (s.setLegs gang0 o)
      && !s.tooLate [s.lockArrival gang0 (0, 7)] && (s.lockPa gang0 (0, 7)).all fun a => (s.retainedIn a 64).isEmpty) = true := by decide +kernel
theorem witness_set_held : ([9, 1] : List Nat).all (fun age =>
    let o : Op := { id := 5, opc := 0x40, phase := .waitSet, ea := 0, len := 4 }
    let k := { gang0 with age := 5 }
    let h := { gang0 with id := 1, x0 := 1, age := age, sets := [(0, 7)] }
    let l : Lock := { ctn := 0, set := 7, holder := some 1 }
    let s := lone k fun s => { s with tasks := [k, h], ops := [o], locks := [l], ctns := [{ sets := [{ n := 7, ranges := [(0, 64)] }] }] }
    s.op? 5 == some o && !s.atLock o && s.nextSet k o.ranges == some (0, 7) && !s.tooLate [s.lockArrival k (0, 7)]
      && !s.pathBusy [5] o.inj (s.setLegs k o)
      && s.locks.find? (fun x => x.ctn == 0 && x.set == 7) == some l && s.task? 1 == some h && ageOlder k.age h.age == decide (age = 9)
      && decide ((s.room 0).waitTab.length < 64)) = true := by decide +kernel
theorem witness_wait_limit : (let o : Op := { id := 5, opc := 0x42, spad := some mem1, phase := .waiting, limit := some 9, len := 4 }
    let s := lone gang0 fun s => { s with ops := [o], clock := { s.clock with tick := 10 } }
    s.op? 5 = some o ∧ s.task? o.task = some gang0 ∧ s.clock.tick = 10 ∧ o.replay = false ∧ s.paused gang0 = false) := by decide +kernel

/-- The state in which the traps of task k go to tag 2, and their frames to the start of the landing of wing 0. -/
def trapping (k : Task) : State :=
  framed { lone k with
    handlers := [(0, { trap := some 2 })], ctns := [{}]
    rtags := [(0, { en := true, written := true }), (2, { en := true, written := true })] }
theorem witness_trap_ready : TrapReady (trapping gang0) gang0 0x80000000000 2 true ∧ TrapReady (trapping gang0) gang0 0x80000000000 2 false := by
  refine ⟨⟨?_, ?_, ?_, ?_, ?_, ?_, ?_, ?_⟩, ?_, ?_, ?_, ?_, ?_, ?_, ?_, ?_⟩ <;> decide +kernel
theorem witness_fault : (let p : PendFault := { reg := { code := 7 } }
    let k := { gang0 with faults := [p] }
    (trapping k).task? (trapping k).cur.subject = some k ∧ firstFault k.faults = some p) := by decide +kernel
theorem witness_deadlock : (let k := { gang0 with dcount := 65536 }
    (trapping k).task? (trapping k).cur.subject = some k ∧ ((trapping k).room 0).dlock = 65536) := by decide +kernel

/-- The state in which the command in progress of hearth 0 is i, its operand registers h. -/
def inCmd (i : Instr) (h : List (Nat × BitVec 64)) (s : State) (units : Nat := 0) : State :=
  s.updRoom 0 fun r => { r with hearth := { st := .exec, prog := [0, 0], h := h, exec := some { instr := i, doneUnits := units } } }

/-- The command with operand registers 1 and 2 and immediate n. -/
def cmd12 (n : Nat) : HCmd := { ha := 1, hb := 2, imm := BitVec.ofNat 64 n }
theorem witness_hcopy_unit : ([0, 1] : List Nat).all (fun i =>
    let s := inCmd (.hcopy (cmd12 2)) [(1, 0x1000), (2, 0x80007000000)] State.reset i
    s.hearthAddr 0 0x1000 128 64 == some (.phys 0x1000) && s.hearthAddr 0 0x80007000000 128 64 == some (.phys 0x80007000000)
      && s.level (0x1000 + 64 * i) == .cellar && s.level (0x80007000000 + 64 * i) == .landing && s.power.retained.isEmpty
      && !s.logs.wlog.en && ((s.room 0).hearth.exec.bind HExec.ending).isNone) = true := by decide +kernel
theorem witness_hcopy_sends : HearthSends (inCmd (.hcopy (cmd12 2)) [(1, 0x1000), (2, 0x80007000000)] State.reset 1) 0
    [(.phys 0x80007000000, 64, 64)] [(.phys 0x1000, 64, 64)] := by
  unfold HearthSends HomesTake
  decide +kernel
theorem witness_switch_stuck : (let k := { gang0 with gate := Gate.switch }
    let s := inCmd (.cfgswitch (cmd12 0)) [] { trapping k with ops := [{ id := 5, opc := 0x40 }] }
    s.task? 0 = some k ∧ s.switchQuiet k = false ∧ s.paused k = false ∧ ((s.room 0).hearth.exec.map fun x => (x.since, x.task)) = some (0, 0)) := by
  decide +kernel
theorem witness_quiesce_limit : (let k := { gang0 with gate := Gate.quiesce }
    let s := inCmd (.quiesce (cmd12 5)) [] { lone k with clock := { tick := 5 }, ops := [{ id := 5, opc := 0x60, phase := .issued, combo := some 1 }] }
    s.task? 0 = some k ∧ s.gangQuiet k = false ∧ s.paused k = false) := by decide +kernel
theorem witness_cont : (let s := State.reset.updRoom 0 fun r => { r with hearth := { st := .trapped, cause := 2, prog := [0] } }
    (s.room 0).hearth.st = .trapped ∧ (0x8000000000000000#64).getLsbD 63 = true) := by decide +kernel

/-- A launch of tag 0 at the head of its queue, of one task with its arguments at address 0. -/
def launching : State :=
  { routed State.reset with launches := [{ id := 4, ages := [7], argStride := 64 }] }
theorem witness_launch : (let l : Launch := { id := 4, ages := [7], argStride := 64 }
    launching.launches.find? (fun m => m.id == l.id) = some l ∧ launching.queueHead 0 = some (.launch l)
      ∧ (launching.rtag 0).en = true ∧ 1024 < launching.qfree ∧ launching.withheld { tag := 0, gen := 0 } = false
      ∧ (launching.placeIn { tag := 0, gen := 0 } 0).isSome = true) := by decide +kernel
theorem witness_arguments : (let k : Task := { id := 1, launch := some { launch := 4, nx := 1, ny := 1 }, argWait := some 0 }
    let s := mapped { launching with tasks := [k], cur := { subject := 1 } }
    let l : Launch := { id := 4, ages := [7], argStride := 64 }
    s.task? 1 = some k ∧ (l.argRange { launch := 4, nx := 1, ny := 1 }) = (0, 64) ∧ s.bindCheck k { ea := 0 } 64 .load = none
      ∧ s.absentPages (s.asidOf k) [(0, 64)] = [] ∧ s.blocksAsleep (s.blocksAt (s.asidOf k) [(0, 64)]) = []
      ∧ ((s.blocksAt (s.asidOf k) [(0, 64)]).all s.routed) = true
      ∧ k.argReported = [] ∧ s.walksAsleep (s.asidOf k) (pagesIn [(0, 64)]) = []
      ∧ tagPoison (s.physTag (s.walkPhys 0 0)) = false
      ∧ s.tooLate (s.memArrivals ((s.blocksAt (s.asidOf k) [(0, 64)]).map fun pa => (pa, 64)) argKey) = false) := by decide +kernel

/-- A fresh task of tag 0. -/
def fresh : Task := { id := 1, age := 7 }
theorem witness_stage : (let s := { routed State.reset with tasks := [fresh], sched := { chosenAt := some 0, chosen := [(0, 0)] } }
    (s.settleFor 0).eligible 0 0 = some (fresh, 0, 0, 0) ∧ ((s.settleFor 0).placed fresh 0 0 0).gang.Nodup ∧ s.sched.hold = false
      ∧ (∀ v < 4, mfind s.sched.lastStage v ≠ some s.clock.tick) ∧ s.touchAllWm = s ∧ s.sched.chosenAt = some s.clock.tick)
    := by decide +kernel

/-- A task staged on cell 0 with its plane held. -/
def staged (k : Task) (held : Bool) : State :=
  { routed State.reset with tasks := [k], cur := { subject := 0 },
                            cells := [(0, { shadow := [0], standby := if held then some {} else none })] }

/-- That task. -/
def stagedTask : Task := { age := 7, st := .staged, decl := [(0, 1000)] }
theorem witness_standby : (let s := staged stagedTask false
    ((s.cell 0).shadow.head?.bind s.task?) = some stagedTask ∧ (s.cell 0).standby ≠ some (s.wantImg stagedTask 0)
      ∧ s.resident 0 (s.wantImg stagedTask 0).ctn (s.wantImg stagedTask 0).img = true) := by decide +kernel
theorem witness_prefetch : (let s := staged stagedTask true
    let p : Prefetch := { slot := 2, va := 0x1000 }
    let s2 := mapped { s with handlers := [(0, { prefetch := [p] })] }
    s.task? 0 = some stagedTask ∧ s.planesHeld stagedTask = true ∧ (s.handlerOf stagedTask).prefetch = []
      ∧ (s2.handlerOf stagedTask).prefetch = [p] ∧ s2.absentPages (s2.asidOf stagedTask) [p.range stagedTask] = []
      ∧ s2.blocksAsleep (s2.blocksAt (s2.asidOf stagedTask) [p.range stagedTask]) = []
      ∧ (s2.blocksAt (s2.asidOf stagedTask) [p.range stagedTask]).all s2.routed = true) := by decide +kernel
theorem witness_prefetch_two : (let p : Prefetch := { slot := 2, va := 0x1000 }
    let q : Prefetch := { slot := 3, va := 0x11000 }
    let s := mapped { staged stagedTask true with handlers := [(0, { prefetch := [p, q] })] }
    let rs := [p, q].map fun p => p.range stagedTask
    stagedTask.runnable = false ∧ stagedTask.ctx = none ∧ stagedTask.argReported = [] ∧ s.walksAsleep (s.asidOf stagedTask) (pagesIn rs) = []
      ∧ s.absentPages (s.asidOf stagedTask) rs = [] ∧ s.blocksAsleep (s.blocksAt (s.asidOf stagedTask) rs) = []
      ∧ (s.blocksAt (s.asidOf stagedTask) rs).all s.routed = true ∧ s.prefetchBehind stagedTask [p, q] = false ∧ s.tooLate (s.prefetchArrivals stagedTask [p, q]) = false
      ∧ ([p, q].map fun p => 2 * (p.y * stagedTask.width + p.x) + p.slot).Nodup) := by decide +kernel
theorem witness_enter : ([none, some { cells := [((stagedTask.posOf 0), { owner := some 1 })] }] : List (Option Ctx)).all (fun x =>
    let k := { stagedTask with runnable := true, ctx := x, decl := [(0, 2 ^ 30)] }
    let s := staged k true
    s.task? 0 == some k && s.planesHeld k && (k.gang.all fun c => (s.cell c).owner.isNone && (s.cell c).shadow.head? == some 0)
      && decide k.gang.Nodup && !k.spads.any s.retained
      && (k.gang.all fun c => decide (k.entryCost (k.posOf c) ≤ mget k.decl (k.posOf c) 0))) = true := by decide +kernel

/-! ### Ways in and out, registers, power and links -/

/-- Intake ring 0 enabled, with a packet of tag 0 and PID 9 in slot 0 and its guard full. -/
def posted (guard : Nat) (s : State) : State :=
  s.updIntake 0 fun r => { r with en := true, slots := [(0, 9)], guards := [(0, guard)] }
theorem witness_intake_write : mfind (State.reset.intakeRing 7).guards 1023 = none
    ∧ mfind ((posted 16 State.reset).intakeRing 0).guards 0 ≠ none := by decide +kernel
/-- R54: a write of two bytes of a guard is discarded and counted. -/
theorem test_guard_part : (match exec (.hostIntakeWrite 0x40001 [1, 2]) State.reset with
    | .next t => decide ((t.intakeRing 0).discards = 1 ∧ mfind (t.intakeRing 0).guards 0 = none)
    | _ => false) = true := by decide +kernel
theorem witness_intake_take : (let s := posted 16 (routed State.reset)
    let p := packetOf ((s.intakeRing 0).slots.readBytes 0 256)
    mfind (s.intakeRing 0).guards (s.intakeRing 0).next = some 16 ∧ p.pid = 9 ∧ s.rejectStatus p 16 = none ∧ p.dev = s.devNum
      ∧ p.kind = 0 ∧ (s.rtag p.tag).cur.launch = false ∧ 1024 < s.qfree
      ∧ (posted 16 State.reset).rejectStatus p 16 = some 0x06) := by decide +kernel

/-- A report ring of the host. -/
def reporting (s : State) : State := { s with rings := [(16, { base := 0x10000, sz := 4, en := true })] }
theorem witness_ring : (reporting State.reset).ringBusy 16 = false := by decide +kernel

/-- A cancel of tag 0 and PID 0. -/
def cancel0 : Packet := { kind := 1, len := 8, body := List.replicate 8 0 }
theorem witness_cancel : ([[], [({ id := 3 } : Task)]] : List (List Task)).all (fun ts =>
    let s := { reporting (routed State.reset) with tasks := ts, sched := { hold := true } }
    (s.rejectStatus cancel0 24).isNone && s.dispatchTick == s && !s.ringBusy 16 && s.launches.isEmpty
      && (s.tasks.filter fun k => k.tag == cancel0.tag && k.pid == cancelTarget cancel0) == ts) = true := by decide +kernel
theorem witness_interrupt : ([none, some 0] : List (Option Nat)).all (fun l =>
    let s := { State.reset with rings := [(2, { irqDue := true, irqLast := l })], clock := { tbase := 4000 } }
    (s.ring 2).irqDue && s.clock.tbase == 4000) = true := by decide +kernel
theorem witness_ring_write : (let x : Notice := { ring := 16, bytes := List.replicate 256 1 }
    let r := (reporting State.reset).ring 16
    x.bytes.length = 256 ∧ r.full = false ∧ State.reset.launches = []) := by decide +kernel
theorem witness_rt_write : (let s := { loaded State.reset with rtags := [(0, { gen := 1, written := true })] }
    s.stageBad = false ∧ State.reset.stageBad = true ∧ s.oldBusy 0 = false ∧ ({ s with tasks := [{}] } : State).oldBusy 0 = true
      ∧ (s.rtag 0).ctl = [] ∧ natField (2 ^ 62) 62 2 = 1 ∧ natField (2 ^ 63) 62 2 = 2) := by decide +kernel

/-- A frame of 60 bytes with EtherType 0x1234. -/
def frame0 (port : Nat) : EthFrame := { port := port, bytes := List.replicate 12 0 ++ [0x12, 0x34] ++ List.replicate 46 0 }

/-- Port 0 with rule 0 matching every frame to stream 1 and tag 0; stream 1 has slots of 128 bytes, with ports that feed it. -/
def listening (ports : List Nat) (taken : List Nat) (k : Nat) : State :=
  { routed State.reset with
    eth := { ports := ports.map fun p => (p, { ruleA := [(0, 0x8000000000000000#64)], ruleB := [(0, 1)] }),
             streams := [(1, { cfg := BitVec.ofNat 64 (1 + k * 2 ^ 28 + 0x40000 * 2 ^ 44), taken := taken })] } }
theorem witness_frames : (let b := (frame0 0).bytes
    isPause b = false ∧ (State.reset.ethPort 0).rule (parseFrame b) = none
      ∧ ((listening [0] [] 0).ethPort 0).rule (parseFrame b) = some 0 ∧ ((listening [0] [] 0).ethPort 0).ruleStream 0 = 1
      ∧ ((listening [0] [] 0).portsOf 1) = [0] ∧ ((listening [0, 1] [] 0).portsOf 1) = [0, 1]
      ∧ ((listening [0] [] 0).stream 1).slotSize = some 128 ∧ ((listening [0] [] 8).stream 1).slotSize = none
      ∧ (listening [0] [] 0).tagLoaded 0 = true ∧ 60 ≤ 128 - 32 ∧ 1024 < (listening [0] [] 0).qfree) := by decide +kernel
theorem witness_stamp : ({ listening [0] [] 0 with clock := { tbase := 400 } } : State).stampOk (frame0 0) = true := by decide +kernel
theorem witness_release : (let s := (listening [0, 1] [] 0).updStream 1 fun x => { x with held := [(frame0 1, 0), (frame0 0, 0)] }
    firstHeld (s.stream 1).held = some (frame0 0, 0) ∧ (frame0 0).stamp + s.mergeDelay 1 < 401) := by decide +kernel
theorem slotTakes_of {s : State} {f : EthFrame} {i : Nat} {a : Nat × Nat} (h : s.landing f i = some a)
    (h1 : s.retainedIn a.1 a.2 = [] ∧ s.tooLate (s.memArrivals [a] (doorKey f.port)) = false) : SlotTakes s f i := by
  intro b hb
  rw [h] at hb
  cases hb
  exact h1
theorem witness_slot_takes : SlotTakes ((listening [0] [] 0).updPort 0 fun k => { k with lastStamp := some 0 }) (frame0 0) 0
    ∧ SlotTakes (listening [0, 1] [] 0) (frame0 0) 0 :=
  ⟨slotTakes_of (a := (0x80000000000, 92)) (by decide +kernel) (by decide +kernel),
    slotTakes_of (a := (0x80000000000, 92)) (by decide +kernel) (by decide +kernel)⟩
theorem witness_ptp : (let s : State := { State.reset with lodge := { ptp := 1 } }
    s.lodge.ptp.getLsbD 0 = true ∧ (0 : Nat) = natField s.lodge.ptp.toNat 2 2) := by decide +kernel
theorem witness_registers : keptBits 0x30 ≠ none ∧ keptBits 0x202000 ≠ none ∧ keptBits 0x202010 ≠ none ∧ keptBits 0x202018 ≠ none ∧ keptBits 0x100050 ≠ none ∧ keptBits 0x600030 ≠ none
    ∧ keptBits 0x6107F8 ≠ none ∧ keptBits 0x6211F8 ≠ none ∧ keptBits 0xA01FF8 ≠ none ∧ keptBits 0x90CFF8 ≠ none
    ∧ keptBits 0x900000 ≠ none ∧ keptBits 0x703F28 ≠ none := by decide +kernel
theorem witness_window : State.reset.windowOk 0x80007E7FFF8 8 true = true ∧ State.reset.windowOk 0x80007E80000 8 true = false
    ∧ State.reset.windowOk 0x80007E7FFF8 8 false = true ∧ State.reset.inPools 0x80007E7FFF8 8 = false
    ∧ State.reset.power.retained = [] ∧ State.reset.tooLate (State.reset.memArrivals [(0x80007E7FFF8, 8)] hostKey) = false
    ∧ tagPoison (State.reset.physTag 0x80007E7FFF8) = false := by decide +kernel
theorem witness_lodge : (let s : State := { State.reset with lodge := { versions := [(0, 9)] } }
    s.verifiedVersion 0 = 9 ∧ natField 0x30 4 2 = 3 ∧ State.reset.lodge.attGo = false ∧ State.reset.lodge.st ≠ 6
      ∧ ({ State.reset with sched := { hold := true } } : State).tasks = []) := by decide +kernel
theorem witness_attest : (let s := { reporting State.reset with lodge := { attAddr := 0x20000 } }
    let r := s.ring 16
    s.lodge.attAddr.toNat % 64 = 0 ∧ s.ringBusy 16 = false ∧ r.base + 256 * (r.prod % ringSize r.sz) + 256 ≤ s.lodge.attAddr.toNat) := by
  decide +kernel

/-! ### Power, errors, resets, links -/

theorem witness_rails : floor33 3 1250 = 763 ∧ ¬ 763 < floor33 3 1250 ∧ ¬ (top33 3 < 763 ∨ (3 = 3 ∧ (1250 < 800 ∨ 1600 < 1250)))
    ∧ 762 < floor33 3 1250 ∧ top33 3 < 851 := by decide +kernel
theorem witness_rail_steps : (let s := State.reset.updPower fun p => p.updRail 3 fun r => { r with pending := some (800, 1600) }
    (s.rail 3).step = none ∧ (s.rail 3).pending = some (800, 1600) ∧ s.power.fwHung = false) := by decide +kernel
theorem witness_windows : (let s := { State.reset with clock := { tbase := 4000000 } }
    mget s.power.stallAt 3 0 + 40000 ≤ s.clock.tbase ∧ State.reset.clock.tbase < mget State.reset.power.stallAt 3 0 + 40000
      ∧ (s.room 63).tempAt + 40000 ≤ s.clock.tbase ∧ s.power.eccAt + 40000 ≤ s.clock.tbase ∧ s.power.checkIn + 4000000 ≤ s.clock.tbase)
    := by decide +kernel
theorem witness_droop : mfind ({ State.reset.power with droopUntil := [(2, 0)] } : Power).droopUntil 2 = some 0 := by decide +kernel
theorem witness_retention : State.reset.arrayIdle (.spad mem1) = true ∧ State.reset.arrayIdle (.slice 3 31) = false
    ∧ ({ State.reset with clock := { tick := 65536 } } : State).arrayIdle (.slice 3 31) = true := by decide +kernel
theorem witness_updates : State.reset.lodge.attGo = false ∧ State.reset.lodge.heldWrites = [] := by decide +kernel
theorem witness_bring_up : ([1, 2, 3, 4] : List Nat).all (fun st =>
    let s : State := { State.reset with lodge := { st := st }, ewj := (List.range 96).map fun p => (p, { st := 1 }) }
    decide (1 ≤ s.lodge.st ∧ s.lodge.st ≤ 4) && (List.range 96).all fun p => (s.ewjPort p).st == 1) = true := by decide +kernel
theorem witness_errors : (let s := lone gang0
    s.owner? 0 = some gang0 ∧ s.readersOf 0x80000000000 = [] ∧ s.level 0x80000000000 ≠ .host ∧ 750 ≤ (s.rail 2).volt
      ∧ s.level 0x80000000000 = .landing ∧ ((s.updPower fun p => p.updRail 2 fun r => { r with volt := 700 }).rail 2).volt < 750) := by decide +kernel
/-- R43: below 750 mV an error in a cell's SRAM-rail arrays locks the rail at its safe point, and one in its other arrays does not. -/
theorem test_ue_cell : ([true, false] : List Bool).all (fun sram =>
    match exec (.ueDetect (.cell 0 sram false)) ((lone gang0).updPower fun p => p.updRail 2 fun r => { r with volt := 700 }) with
    | .next t => t.power.locked == sram && decide ((t.rail 2).volt = if sram then 750 else 700)
    | _ => false) = true := by decide +kernel
theorem witness_ports : ([1, 3] : List (BitVec 2)).all (fun l =>
    let s := { State.reset with ewj := [(95, { st := 2, lanes := l })] }
    (s.ewjPort 95).live && (s.ewjPort 95).lanes.getLsbD 0) = true := by decide +kernel
theorem witness_messages : (let s := { routed State.reset with ewj := [(95, { st := 2, lanes := 3 })] }
    let m : EwjMsg := { src := 1, port := 95, body := .store 0x80007FFFFF8 [1] }
    let l : EwjMsg := { src := 1, port := 95, body := .load 0x80007FFFFF8 8 }
    (s.ewjPort 95).live = true ∧ s.delivered m = false ∧ (s.ewjMark m).delivered m = true ∧ s.remoteMay 0x80007FFFFF8 = true
      ∧ s.ewjWait = [] ∧ s.tooLate (s.memArrivals [(0x80007FFFFF8, 1)] (ewjKey 95)) = false ∧ s.delivered l = false
      ∧ s.tooLate (s.memArrivals [(0x80007FFFFF8, 8)] (ewjKey 95)) = false ∧ s.rejectStatus {} 16 = none) := by decide +kernel
theorem witness_message_host : (let s := { routed State.reset with ewj := [(95, { st := 2, lanes := 3 })] }
    let m : EwjMsg := { src := 1, port := 95, body := .store 0xC0000000000 [1] }
    s.delivered m = false ∧ s.remoteMay 0xC0000000000 = true ∧ s.level 0xC0000000000 = .host ∧ s.logs.wlog.en = false
      ∧ s.tooLate (s.memArrivals [(0xC0000000000, 1)] (ewjKey 95)) = false ∧ s.power.retained = []) := by decide +kernel
theorem witness_message_order : (let m (n : Nat) : EwjMsg := { src := 1, seq := n, port := 95, body := .store 0x80007FFFFF8 [1] }
    let s := { State.reset with ewj := [(95, { st := 2, lanes := 3 })], ewjWait := [m 0],
                                power := { State.reset.power with retained := [.slice 0 31] } }
    s.delivered (m 1) = false ∧ ewjPayload (m 1).body ≤ 256 ∧ s.ewjStream (m 0) = s.ewjStream (m 1) ∧ (s.deliver (m 0)).2 = false)
    := by decide +kernel
theorem witness_wake : (let o : Op := { id := 5, opc := 0x40, phase := .held, heldPage := 0x10000, reported := true }
    let s := lone gang0 fun s => { s with ops := [o] }
    s.task o.task = gang0 ∧ s.asidOf gang0 = 0 ∧ (s.room 0).walks = []
      ∧ natField (BitVec.ofNat 64 (2 ^ 63 + 2 ^ 16)).toNat 16 32 * 65536 = 0x10000) := by decide +kernel
theorem witness_halt : (lone gang0).owner? (cellAt 0 0) = some gang0 ∧ natField (2 ^ 63) 60 2 = 0 ∧ natField (2 ^ 63 + 2 ^ 61) 60 2 = 2
    ∧ natField (2 ^ 63 + 2 ^ 60) 60 2 = 1
    ∧ natField (2 ^ 63 + 3 * 2 ^ 60) 60 2 = 3 := by
  decide +kernel
/-- R276: a halt of launch scope halts the running tasks of the launch, and none of another. -/
theorem test_halt_launch : (let k : Task := { gang0 with launch := some { launch := 4, nx := 3, ny := 1 } }
    let u : Task := { gang0 with id := 1, x0 := 1, launch := some { launch := 4, i := 1, nx := 3, ny := 1 } }
    let v : Task := { gang0 with id := 2, x0 := 2, launch := some { launch := 5, nx := 1, ny := 1 } }
    match exec (.dbgHalt (BitVec.ofNat 64 (2 ^ 63 + 2 ^ 60))) { lone k with tasks := [k, u, v], launches := [{ id := 4, nx := 3 }, { id := 5 }] } with
    | .next t => decide (t.tasks.map Task.halted = [true, true, false] ∧ t.launches.map Launch.halted = [true, false])
    | _ => false) = true := by decide +kernel

/-! ### The whole machine -/

theorem witness_step_element : (let w := word 0x00 3 1 2
    let s := { on 0 w with agenda := [.element 0 0] }
    let s0 : State := ({ s with agenda := [] } : State).beginTurn 0 0
    s0.chooseSlot 0 0 = some 0 ∧ s0.slotWord 0 0 0 = w ∧ decode (natToBytes 8 w) = .ok (.nop { dst := 3, src1 := 1, src2 := 2 })) := by
  decide +kernel
theorem witness_step_hearth : (let s := State.reset.updRoom 0 fun k => { k with hearth := { st := .wait, prog := [0] }, sems := [] }
    (s.room 0).hearth.prog[(s.room 0).hearth.pos]? = some 0 ∧ decode (natToBytes 16 0) = .ok (.hnop {})) := by decide +kernel
theorem witness_step_below : (let s := State.reset.updRoom 0 fun k =>
      { k with hearth := { st := .wait, prog := [0x000C000A080300000000000000000000#128] }, sems := [(3, 1)] }
    (s.room 0).sem (natField 0x000C000A080300000000000000000000 114 8) < natField 0x000C000A080300000000000000000000 98 16) := by
  decide +kernel
theorem witness_step_placed : (let w := word 0x00 3 1 2
    let c := placeCell (opOfBits w)
    (({ State.reset.withFetchWord 64 w with agenda := State.reset.agenda } : State).beginTurn c 0).chooseSlot c 0 = some 0)
    ∧ ([0x00, 0x55, 0xFF].all fun op => (decode (natToBytes 8 (op * 2 ^ 30 + 1))).isOk) = true ∧ State.reset.power.off = false := by
  decide +kernel
theorem witness_step_event : encodable .dispatchStage = false := by decide +kernel
theorem witness_sound : State.reset.Sound := ⟨by decide +kernel, by decide +kernel, by decide +kernel⟩

/-! ### One step with a result of the manual -/

/-- The value of g3 after the firing of a two-operand word of an opcode on two values. -/
def r3 (op a b : Nat) (otag : Nat := 0) : Option Word :=
  let w := word op 3 1 2 + 2 ^ 12 * otag
  match decode (natToBytes 8 w) with
  | .ok i =>
    match exec i (regs (on 0 w) [(1, BitVec.ofNat 32 a), (2, BitVec.ofNat 32 b)]) with
    | .next t => some ((t.elem 0 0).greg 3)
    | _ => none
  | .error _ => none

/-- The value of g3 after a conversion of a value. -/
def cvt (op otag a : Nat) : Option Word :=
  let w := word op 3 1 0 + 2 ^ 12 * otag
  match decode (natToBytes 8 w) with
  | .ok i =>
    match exec i (regs (on 0 w) [(1, BitVec.ofNat 32 a)]) with
    | .next t => some ((t.elem 0 0).greg 3)
    | _ => none
  | .error _ => none

/-- R335: −7 by 2. -/
theorem test_div : r3 0x09 0xFFFFFFF9 2 = some 0xFFFFFFFD := by decide +kernel
theorem test_rem : r3 0x0B 0xFFFFFFF9 2 = some 0xFFFFFFFF := by decide +kernel
theorem test_divu : r3 0x0A 0xFFFFFFF9 2 = some 0x7FFFFFFC := by decide +kernel
theorem test_remu_zero : r3 0x0C 5 0 = some 5 := by decide +kernel
theorem test_div_overflow : r3 0x09 0x80000000 0xFFFFFFFF = some 0x80000000 := by decide +kernel

/-- R341: 3.0e9 saturates; 70,000 overflows FP16; the tie of 2,049 goes to the even significand. -/
theorem test_fcvt_int : cvt 0x3C 3 0x4F32D05E = some 0x7FFFFFFF := by decide +kernel
theorem test_fcvt_f16 : cvt 0x3C 1 0x4788B800 = some 0x7C00 := by decide +kernel
theorem test_fcvt_from : cvt 0x3D 5 2049 = some 0x6800 := by decide +kernel

/-- R337, the trace of the 64-bit add: the first step adds the low words and sets P2 to the carry, and debits 8 mu. -/
theorem test_add_carry : (let f : Slot := { need := 1, ten := true, tag := 0, deq := 1, pidx := 2, pmode := 6, dst := 4, src1 := 4, src2 := 16 }
    let s := (on 0 (word 0x02 0 0 0)).updElem 0 0 fun el =>
      { el with g := [(4, 0xFFFFFFF0), (5, 1)], ins := [(0, { q := [{ val := 0x20 }, { val := 3, tag := 1 }, { val := 0, tag := 5 }] })] }
    match exec (.add f) s with
    | .next t => decide ((t.elem 0 0).greg 4 = 0x10 ∧ (t.elem 0 0).greg 5 = 1 ∧ (t.elem 0 0).pb.getLsbD 2 = true
        ∧ ((t.elem 0 0).input 0).q.length = 2 ∧ (t.cell 0).meter.bal + 8 = (s.cell 0).meter.bal)
    | _ => false) = true := by decide +kernel

/-- R228: the table of one integrator, its second and its seventh step. -/
theorem test_integrate : integrate 0x18000000 0x30000000 [] 1 = (0x18000000, -0x20000000, 1, [])
    ∧ integrate 0x18000000 0x10000000 [] 1 = (0x18000000, -0x40000000, 1, [])
    ∧ integrate 0x18000000 (-0x40000000) [] 1 = (0x18000000, -0x10000000, 0, [])
    ∧ integrate 0x18000000 0x20000000 [] 1 = (0x18000000, -0x30000000, 1, []) := by decide +kernel

/-- R413: the order of the manual's example of a sort. -/
theorem test_sort : (let ks : List (Nat × Nat × Int) :=
      [(0x08, 0x40000000, 0), (0x08, 0x80000000, 0), (0x08, 0x7FC00000, 0), (0x08, 0, 0), (0x08, 0xC0600000, 0)]
    (({ ibase := 0x100, keys := ks } : SortJob).order.map fun q => 0x100 + q.1) = [0x104, 0x101, 0x103, 0x100, 0x102]) := by
  decide +kernel

/-- R187: an LDTK of a FULL word takes its value and leaves it EMPTY; an STFL of a FULL word waits. -/
theorem test_ldtk : (match exec (.homeAccess (.op 5)) (unguarded (wordSt true (opsOn [spadOp 0x43]))) with
    | .next t => decide (((t.cell mem1).spad.wst 0).full = false ∧ (t.op? 5).map Op.phase = some .performed)
    | _ => false) = true := by decide +kernel
theorem test_stfl_waits : (match exec (.homeAccess (.op 5)) (unguarded (wordSt true (opsOn [spadOp 0x45]))) with
    | .next t => decide ((t.op? 5).map Op.phase = some .waiting ∧ (t.cell mem1).spad.word 0 = 0)
    | _ => false) = true := by decide +kernel

/-- R209: −0 is below +0, and a NaN gives the other operand. -/
theorem test_fmin : r3 0x30 0 0x80000000 = some 0x80000000 := by decide +kernel
theorem test_fmax_nan : r3 0x34 0x7FC00001 0x3F800000 = some 0x3F800000 := by decide +kernel

/-- R300: a hearth in WAIT whose semaphore has not reached its threshold waits; its HNOP of R446's example signals. -/
theorem test_hnop_waits : (match step { (State.reset.updRoom 0 fun k =>
        { k with hearth := { st := .wait, prog := [0x000C000A080300000000000000000000#128, 0] }, sems := [(3, 1)] }) with agenda := [.hearth 0] } with
    | .next t => decide ((t.room 0).hearth.st = .wait ∧ (t.room 0).hearth.pos = 0)
    | _ => false) = true := by decide +kernel

/-! ### Containers: the digest and the verification of a signature are free values of the model, so a load is met under what it
asks of them -/

/-- A container without images (R314, R315, R327): HEAD, and a SIGN section with a digest of zeros and an empty signature. -/
def box (version : Nat) : List Byte :=
  natToBytes 4 0x0059524B ++ natToBytes 2 1 ++ natToBytes 2 0 ++ natToBytes 8 296 ++ natToBytes 4 version ++ natToBytes 44 0
    ++ ((List.range 12).flatMap fun i =>
      natToBytes 8 (i + 1) ++ (if i = 10 then natToBytes 4 256 ++ natToBytes 4 40 else natToBytes 8 0)) ++ natToBytes 40 0

/-- Host memory with a descriptor at 0x1000 that names a container at 0x2000. -/
def boxed (b : List Byte) : State :=
  { State.reset with hostMem := ((State.reset.hostMem.writeBytes 0x1000 (natToBytes 8 0x2000 ++ natToBytes 8 b.length)).writeBytes 0x2000 b) }
theorem box_reads : (let s := boxed (box 1)
    s.hostMem.readBytes (bodyField (s.hostMem.readBytes 0x1000 64) 0 8) (bodyField (s.hostMem.readBytes 0x1000 64) 8 8) = box 1)
    := by decide +kernel
theorem witness_signed (h1 : Config.shake256 ((box 1).take 256) = List.replicate 32 0)
    (h2 : Config.falconVerify 0 0 (List.replicate 32 0) [] = true) : (boxed (box 1)).signedOk (box 1) = .ok () := by
  have a : (secAt (box 1) 11).1 = 256 := by decide +kernel
  have b : slice (secBytes (box 1) 11) 8 32 = List.replicate 32 0 := by decide +kernel
  have c : bodyField (secBytes (box 1) 11) 0 1 = 0 ∧ bodyField (secBytes (box 1) 11) 2 2 = 0 := by decide +kernel
  have d : slice (secBytes (box 1) 11) 40 (bodyField (secBytes (box 1) 11) 4 2) = [] := by decide +kernel
  have e : mget (boxed (box 1)).lodge.rb 2 0 ≤ bodyField (box 1) 16 4 := by decide +kernel
  have f : Config.falconVerify 0 0 (List.replicate 32 0#8) [] = true := h2
  simp [State.signedOk, a, b, c.1, c.2, d, e, h1, f, require, -List.reduceReplicate]
  rfl
theorem witness_contents : (contentsOf (box 1)).isOk = true ∧ (contentsOf []).isOk = false := by decide +kernel
theorem witness_load (h1 : Config.shake256 ((box 1).take 256) = List.replicate 32 0)
    (h2 : Config.falconVerify 0 0 (List.replicate 32 0) [] = true) : ((boxed (box 1)).loadWith 0 0x1000).isOk = true := by
  have h := witness_signed h1 h2
  have hb := box_reads
  unfold State.loadWith State.loadable State.checked
  simp only at hb ⊢
  rw [hb, h]
  decide +kernel
theorem witness_load_now (h1 : Config.shake256 ((box 1).take 256) = List.replicate 32 0)
    (h2 : Config.falconVerify 0 0 (List.replicate 32 0) [] = true) : (boxed (box 1)).loadWaits 0 0x1000 = none := by
  have h := witness_signed h1 h2
  have hb := box_reads
  unfold State.loadWaits State.checked
  simp only at hb ⊢
  rw [hb, h]
  decide +kernel

/-- A container with one DATA block of zeros at virtual address 0 (R315, R323). -/
def dataBox : List Byte :=
  natToBytes 4 0x0059524B ++ natToBytes 2 1 ++ natToBytes 2 0 ++ natToBytes 8 424 ++ natToBytes 4 1 ++ natToBytes 44 0
    ++ ((List.range 12).flatMap fun i =>
      natToBytes 8 (i + 1) ++ (if i = 7 then natToBytes 4 256 ++ natToBytes 4 128
        else if i = 10 then natToBytes 4 384 ++ natToBytes 4 40 else natToBytes 8 0))
    ++ (natToBytes 8 0 ++ natToBytes 8 64 ++ natToBytes 112 0) ++ natToBytes 40 0

/-- That container in host memory, with a table whose landing slice is in retention. -/
def sleepingBox : State :=
  { mapped (boxed dataBox) with power := { State.reset.power with retained := [.slice 0 0] } }
theorem witness_load_waits (h1 : Config.shake256 (dataBox.take 384) = List.replicate 32 0)
    (h2 : Config.falconVerify 0 0 (List.replicate 32 0) [] = true) : (sleepingBox.loadWaits 0 0x1000).isSome = true := by
  have hb : sleepingBox.hostMem.readBytes (bodyField (sleepingBox.hostMem.readBytes 4096 64) 0 8)
      (bodyField (sleepingBox.hostMem.readBytes 4096 64) 8 8) = dataBox := by decide +kernel
  have h : sleepingBox.signedOk dataBox = .ok () := by
    have a : (secAt dataBox 11).1 = 384 := by decide +kernel
    have b : slice (secBytes dataBox 11) 8 32 = List.replicate 32 0 := by decide +kernel
    have c : bodyField (secBytes dataBox 11) 0 1 = 0 ∧ bodyField (secBytes dataBox 11) 2 2 = 0 := by decide +kernel
    have d : slice (secBytes dataBox 11) 40 (bodyField (secBytes dataBox 11) 4 2) = [] := by decide +kernel
    have e : mget sleepingBox.lodge.rb 2 0 ≤ bodyField dataBox 16 4 := by decide +kernel
    have f : Config.falconVerify 0 0 (List.replicate 32 0#8) [] = true := h2
    simp [State.signedOk, a, b, c.1, c.2, d, e, h1, f, require, -List.reduceReplicate]
    rfl
  unfold State.loadWaits State.checked
  simp only at hb ⊢
  rw [hb, h]
  decide +kernel
/-- The same container where no page is present: its checks pass, nothing keeps it, and DATA is not mapped. -/
theorem witness_load_absent (h1 : Config.shake256 (dataBox.take 384) = List.replicate 32 0)
    (h2 : Config.falconVerify 0 0 (List.replicate 32 0) [] = true) :
    (match (boxed dataBox).checked 0x1000 with
      | .ok x => !(boxed dataBox).dataMapped 0 x.k.data
      | .error _ => false) = true ∧ (boxed dataBox).loadWaits 0 0x1000 = none := by
  have hb : (boxed dataBox).hostMem.readBytes (bodyField ((boxed dataBox).hostMem.readBytes 4096 64) 0 8)
      (bodyField ((boxed dataBox).hostMem.readBytes 4096 64) 8 8) = dataBox := by decide +kernel
  have h : (boxed dataBox).signedOk dataBox = .ok () := by
    have a : (secAt dataBox 11).1 = 384 := by decide +kernel
    have b : slice (secBytes dataBox 11) 8 32 = List.replicate 32 0 := by decide +kernel
    have c : bodyField (secBytes dataBox 11) 0 1 = 0 ∧ bodyField (secBytes dataBox 11) 2 2 = 0 := by decide +kernel
    have d : slice (secBytes dataBox 11) 40 (bodyField (secBytes dataBox 11) 4 2) = [] := by decide +kernel
    have e : mget (boxed dataBox).lodge.rb 2 0 ≤ bodyField dataBox 16 4 := by decide +kernel
    have f : Config.falconVerify 0 0 (List.replicate 32 0#8) [] = true := h2
    simp [State.signedOk, a, b, c.1, c.2, d, e, h1, f, require, -List.reduceReplicate]
    rfl
  unfold State.loadWaits State.checked
  simp only at hb ⊢
  rw [hb, h]
  decide +kernel
theorem witness_loading : State.reset.loading = false
    ∧ ({ State.reset with logs := { cfgLoad := 0x8000000000000000#64 } } : State).loading = true := by decide +kernel
theorem witness_refused : (State.reset.loadWith 0 0).isOk = false := by
  have hb : State.reset.hostMem.readBytes (bodyField (State.reset.hostMem.readBytes 0 64) 0 8) (bodyField (State.reset.hostMem.readBytes 0 64) 8 8) = []
      := by decide +kernel
  unfold State.loadWith State.loadable State.checked
  simp only at hb ⊢
  rw [hb]
  cases State.reset.signedOk []
  · rfl
  · rename_i u
    cases u
    decide +kernel
theorem witness_unload : (let k : Container := { images := [] , handlerCount := 1 }
    let s : State := { State.reset with ctns := [k] }
    let named : State := { s with rtags := [(5, { written := true })] }
    State.reset.ctn? (State.reset.hostMem.readLE 34 2) = none ∧ s.ctn? (s.hostMem.readLE 34 2) = some k ∧ s.handlersNamed k = false ∧ named.handlersNamed k = true) := by decide +kernel

end Sys2Proof.Tests
end

section
/-! SUPPORT. The writeback of an operation (R284, R362, R392): what its destinations, ENG, its channels and its cell hold
afterwards, and O33. -/

namespace Sys2Proof.Machine

/-! ### Kept space given back -/

/-- A channel after the space of some tokens has been given back: one place less for each destination that it is. -/
theorem State.inputAt_unreserve (t : Task) (c e i : Nat) : ∀ (ds : List Dest) (s : State),
    (s.unreserve t ds).inputAt c e i =
      { s.inputAt c e i with reserved := (s.inputAt c e i).reserved - (ds.filter fun d => d.feeds t c e i).length }
  | [], s => by simp [State.unreserve, foldState]
  | d :: ds, s => by
    have ih := State.inputAt_unreserve t c e i ds
    unfold State.unreserve foldState at ih ⊢
    rw [List.foldl_cons, ih, State.inputAt_updInputAt]
    have hf : d.feeds t c e i = true ↔ t.cellAt d.x d.y = c ∧ d.e = e ∧ (isEdge c e = true ∨ d.i = i) := by
      simp [Dest.feeds, and_assoc]
    by_cases h : t.cellAt d.x d.y = c ∧ d.e = e ∧ (isEdge c e = true ∨ d.i = i)
    · simp [h, hf.2 h, Nat.sub_sub, Nat.add_comm]
    · simp [h, mt hf.1 h]

/-- An edge port without its queue. -/
def Edge.quiet (g : Edge) : Edge := { g with inq := {} }

/-- A change of a channel leaves every edge port but its queue. -/
theorem State.edge_updInputAt (s : State) (c e i : Nat) (f : Input → Input) (d p : Nat) :
    (((s.updInputAt c e i f).cell d).edge p).quiet = ((s.cell d).edge p).quiet := by
  unfold State.updInputAt
  split
  · rw [State.cell_updCell]
    split
    next h =>
      subst h
      simp only [Cell.edge, mget_mset]
      split
      next hp => subst hp; rfl
      next => rfl
    next => rfl
  · rw [State.cell_updElem]
    split
    next h => subst h; rfl
    next => rfl

theorem State.edge_noteSent (s : State) (c e d p : Nat) : ((s.noteSent c e).cell d).edge p = (s.cell d).edge p := by
  unfold State.noteSent
  split
  · rfl
  · rw [State.cell_updCell]
    split
    next h => subst h; rfl
    next => rfl

theorem State.edge_send (s : State) (t : Task) (c : Nat) (ds : List Dest) (k : Token) (d p : Nat) :
    (((s.send t c ds k).cell d).edge p).quiet = ((s.cell d).edge p).quiet := by
  refine foldState_frame (fun st : State => ((st.cell d).edge p).quiet) _ (fun a st => ?_) ds s
  dsimp only
  split
  · rw [State.edge_noteSent, State.edge_updInputAt]
  · rw [State.edge_updInputAt]

theorem State.edge_unreserve (s : State) (t : Task) (ds : List Dest) (d p : Nat) :
    (((s.unreserve t ds).cell d).edge p).quiet = ((s.cell d).edge p).quiet :=
  foldState_frame (fun st : State => ((st.cell d).edge p).quiet) _ (fun _ st => State.edge_updInputAt st _ _ _ _ _ _) ds s

/-! ### Destinations and results -/

@[simp] theorem Needs.and_result (a b : Needs) : (a.and b).result = (a.result || b.result) := rfl

@[simp] theorem wrDst_result (c : BitVec 5) : (wrDst c).result = true := by
  unfold wrDst
  split
  · rfl
  · split <;> rfl

/-- The result of what an opcode leaves pending is that of its class; the predicate of PMODE adds none. -/
theorem destOf_result (op : Nat) (f : Slot) : (destOf op f).result =
    (if op < 0x80 then memDest op f else if op < 0xC0 then vecDest op f else engDest op f).result := by
  simp only [destOf, apply_ite Needs.result, Needs.and_result, useP, Bool.or_false, ite_self]

theorem needsOf_result (op : Nat) (f : Slot) : (needsOf op f).result =
    (if op < 0x40 then aluNeeds op f else if op < 0x80 then memNeeds op f else if op < 0xC0 then vecNeeds op f
      else if op < 0xF0 then engNeeds op f else sysNeeds op f).result := by
  simp only [needsOf, apply_ite Needs.result, Needs.and_result, useP, Bool.or_false, ite_self]

theorem memDest_result {op : Nat} {f : Slot} (h0 : 0x40 ≤ op) (h : (memDest op f).result = true) :
    (memNeeds op f).result = true := by
  unfold memDest at h
  split at h
  next hop =>
    obtain rfl | rfl | rfl | rfl | rfl | rfl | rfl | rfl : op = 0x40 ∨ op = 0x41 ∨ op = 0x42 ∨ op = 0x43 ∨ op = 0x48
      ∨ op = 0x56 ∨ op = 0x58 ∨ op = 0x59 := by omega
    all_goals simp [memNeeds]
  next => split at h <;> exact absurd h (by simp [wrG])

theorem vecDest_result {op : Nat} {f : Slot} (h : (vecDest op f).result = true) : (vecNeeds op f).result = true := by
  unfold vecDest at h
  split at h
  next => simp [useM] at h
  split at h
  next hop =>
    obtain rfl | rfl | rfl := hop
    all_goals simp [vecNeeds]
  split at h
  next => simp at h
  split at h
  next hop =>
    subst hop
    split at h
    next hk =>
      obtain hk | hk : f.src2.toNat / 4 = 0 ∨ f.src2.toNat / 4 = 1 := by omega
      all_goals simp [vecNeeds, hk]
    next => simp [useM] at h
  next => simp [useV] at h

theorem engDest_result {op : Nat} {f : Slot} (h : (engDest op f).result = true) : (engNeeds op f).result = true := by
  unfold engDest at h
  split at h
  next => simp [useV] at h
  split at h
  next hop =>
    obtain rfl | rfl | rfl | rfl := hop
    all_goals simp [engNeeds]
  split at h
  next hop =>
    subst hop
    split at h
    next => simp [useV] at h
    next hi => simp [engNeeds, hi]
  next => simp at h

/-- An operation that leaves a result pending is of an opcode that names one (R286, R362, R392, R426). -/
theorem needsOf_result_of_destOf {op : Nat} {f : Slot} (h0 : 0x40 ≤ op) (h1 : op < 0xF0)
    (h : (destOf op f).result = true) : (needsOf op f).result = true := by
  rw [destOf_result] at h
  rw [needsOf_result, if_neg (by omega)]
  by_cases ha : op < 0x80
  · rw [if_pos ha] at h ⊢
    exact memDest_result h0 h
  · by_cases hb : op < 0xC0
    · rw [if_neg ha, if_pos hb] at h ⊢
      exact vecDest_result h
    · rw [if_neg ha, if_neg hb] at h ⊢
      rw [if_pos h1]
      exact engDest_result h

/-! ### The element and the vector pipe after a writeback -/

/-- Whether an operation writes g register k: the register of DST, where its class or DST gives it a result (R286, R373). -/
abbrev Op.writesG (o : Op) (k : Nat) : Prop :=
  k = o.f.dst.toNat ∧ (decide (0x60 ≤ o.opc ∧ o.opc < 0x68) = true ∨ (destOf o.opc o.f).result = true)

/-- Whether an operation writes the predicates as a whole (R286). -/
abbrev Op.writesPb (o : Op) : Prop :=
  decide (0x60 ≤ o.opc ∧ o.opc < 0x68) = false ∧ (destOf o.opc o.f).result = true ∧ o.f.dst.toNat = 29

/-- An element that an operation no longer keeps waiting, with its status in ENG. -/
def Elem.freed (el : Elem) (o : Op) : Elem :=
  { el with pendG := el.pendG &&& ~~~(destOf o.opc o.f).wg, pendP := el.pendP &&& ~~~(destOf o.opc o.f).p,
            eng := match o.engv with
              | some v => v
              | none => engWord o.opc o.slot o.status }

/-- The result of an operation in its element, before PMODE acts. -/
def Elem.writeRes (el : Elem) (o : Op) : Elem :=
  if 0x60 ≤ o.opc ∧ o.opc < 0x68 then el.setG o.f.dst.toNat o.r o.tnt
  else if (destOf o.opc o.f).result then el.writeDst o.opc o.f o.r o.tnt else el

theorem Elem.writeBack_eq (el : Elem) (o : Op) : el.writeBack o (destOf o.opc o.f) =
    { (el.freed o).writeRes o with pb := predUpdate ((el.freed o).writeRes o).pb o.f o.res
                                   sticky := ((el.freed o).writeRes o).sticky ||| o.sticky } := rfl

/-- An element without what an operation writes back. -/
def Elem.unwritten (el : Elem) : Elem :=
  { el with g := [], taint := 0, pb := 0, sticky := 0, pendG := 0, pendP := 0, eng := 0 }

/-- The taint of the registers below 16 after a write of a register, whichever it is. -/
theorem Elem.taint_setG_any (el : Elem) (i j : Nat) (v : Word) (t : Bool) (hj : j < 16) :
    (el.setG i v t).taint.getLsbD j = if j = i then t else el.taint.getLsbD j := by
  by_cases hi : i < 16
  · exact el.taint_setG i j v t hi hj
  · have h0 : (1#16 <<< i) = 0#16 := by simp [BitVec.shiftLeft_eq_zero, Nat.le_of_not_lt hi]
    have h1 : ¬ j = i := by omega
    unfold Elem.setG
    rw [h0, if_neg h1]
    cases t
    · simp only [Bool.false_eq_true, if_false, BitVec.getLsbD_and, BitVec.getLsbD_not, BitVec.getLsbD_zero, hj]
      simp
    · simp

/-- The register, taint and predicates that an operation writes before PMODE acts. -/
theorem Elem.writeRes_facts (el : Elem) (o : Op) (hop : 0x40 ≤ o.opc) (hop' : o.opc < 0xF0) :
    (∀ k < 16, (el.writeRes o).greg k = if o.writesG k then o.r else el.greg k)
      ∧ (∀ k < 16, (el.writeRes o).taint.getLsbD k = if o.writesG k then o.tnt else el.taint.getLsbD k)
      ∧ (el.writeRes o).pb = (if o.writesPb then BitVec.ofNat 8 o.r.toNat else el.pb)
      ∧ { el.writeRes o with g := [], taint := 0, pb := 0 } = { el with g := [], taint := 0, pb := 0 } := by
  unfold Elem.writeRes Op.writesG Op.writesPb
  by_cases ha : 0x60 ≤ o.opc ∧ o.opc < 0x68
  · simp only [ha, and_self, decide_true, if_true, true_or, and_true, Bool.true_eq_false, false_and, if_false]
    exact ⟨fun k _ => Elem.greg_setG _ _ _ _ _, fun k hk => Elem.taint_setG_any _ _ _ _ _ hk, rfl, rfl⟩
  · simp only [ha, decide_false, if_false, Bool.false_eq_true, false_or, true_and]
    by_cases hd : (destOf o.opc o.f).result = true
    · simp only [hd, if_true, and_true, true_and]
      unfold Elem.writeDst
      simp only [needsOf_result_of_destOf hop hop' hd, Bool.not_true, Bool.false_eq_true, if_false]
      by_cases h16 : o.f.dst.toNat < 16
      · have h29 : ¬ o.f.dst.toNat = 29 := by omega
        simp only [h16, h29, if_true, if_false]
        exact ⟨fun k _ => Elem.greg_setG _ _ _ _ _, fun k hk => Elem.taint_setG_any _ _ _ _ _ hk, rfl, rfl⟩
      · have hk : ∀ k < 16, ¬ k = o.f.dst.toNat := fun k hk q => by omega
        by_cases h29 : o.f.dst.toNat = 29
        · simp only [h29, Nat.reduceLT, if_true, if_false]
          rw [h29] at hk
          exact ⟨fun k h => by simp [hk k h, Elem.greg], fun k h => by simp [hk k h], trivial, trivial⟩
        · simp only [h16, h29, if_false]
          exact ⟨fun k h => by simp [hk k h], fun k h => by simp [hk k h], trivial, trivial⟩
    · simp [hd]

/-- The element after an operation's writeback (R243, R284 steps 3 to 5, R362, R373). -/
theorem Elem.writeBack_facts (el : Elem) (o : Op) (hop : 0x40 ≤ o.opc) (hop' : o.opc < 0xF0) :
    let d := destOf o.opc o.f
    let w := el.writeBack o d
    (∀ k < 16, w.greg k = if o.writesG k then o.r else el.greg k)
      ∧ (∀ k < 16, w.taint.getLsbD k = if o.writesG k then o.tnt else el.taint.getLsbD k)
      ∧ w.pb = predUpdate (if o.writesPb then BitVec.ofNat 8 o.r.toNat else el.pb) o.f o.res
      ∧ w.sticky = el.sticky ||| o.sticky
      ∧ w.pendG = el.pendG &&& ~~~d.wg ∧ w.pendP = el.pendP &&& ~~~d.p
      ∧ w.eng = o.engv.getD (engWord o.opc o.slot o.status)
      ∧ w.unwritten = el.unwritten := by
  intro d w
  have hw : w = _ := el.writeBack_eq o
  obtain ⟨hg, ht, hp, hr⟩ := (el.freed o).writeRes_facts o hop hop'
  rw [hw]
  refine ⟨hg, ht, ?_, ?_, ?_, ?_, ?_, ?_⟩
  · exact congrArg (predUpdate · o.f o.res) hp
  · have h := congrArg Elem.sticky hr
    exact congrArg (· ||| o.sticky) h
  · exact congrArg Elem.pendG hr
  · exact congrArg Elem.pendP hr
  · refine (congrArg Elem.eng hr).trans ?_
    cases h : o.engv <;> simp [Elem.freed, h]
  · have h := congrArg Elem.unwritten hr
    exact h

theorem Elem.writeBack_ins (el : Elem) (o : Op) (hop : 0x40 ≤ o.opc) (hop' : o.opc < 0xF0) (i : Nat) :
    (el.writeBack o (destOf o.opc o.f)).input i = el.input i := by
  have h := congrArg Elem.ins (el.writeBack_facts o hop hop').2.2.2.2.2.2.2
  unfold Elem.input
  exact congrArg (mget · i {}) h

/-- A writeback does not look at the channels. -/
theorem Elem.writeBack_quiet (el : Elem) (o : Op) (d : Needs) : (el.writeBack o d).quiet = (el.quiet.writeBack o d).quiet := by
  unfold Elem.writeBack Elem.writeDst
  dsimp only
  split
  · rfl
  · split
    · split
      · rfl
      · split
        · rfl
        · split <;> rfl
    · rfl

/-- The vector register or mask that a writeback writes (R392, R410). -/
theorem Vec.writeBack_facts (v : Vec) (o : Op) (d : Needs) :
    (∀ k, mget (v.writeBack o d).v k 0 = if d.v ≠ 0 ∧ k = o.f.dst.toNat then o.vres else mget v.v k 0)
      ∧ (∀ k, mget (v.writeBack o d).m k 0 =
          if d.v = 0 ∧ d.m ≠ 0 ∧ k = (if o.opc = 0x89 then o.f.dst.toNat % 4 else o.f.src2.toNat % 4) then BitVec.ofNat 64 o.vres.toNat
          else mget v.m k 0)
      ∧ (v.writeBack o d).pendV = v.pendV &&& ~~~d.v := by
  unfold Vec.writeBack
  dsimp only
  split
  next hv =>
    have hv0 : d.v ≠ 0#16 := by simpa using hv
    exact ⟨fun k => by simp only [mget_mput, ne_eq, show ¬ d.v = 0 from hv0, not_false_eq_true, true_and], fun k => by simp [hv0], rfl⟩
  next hv =>
    have hv0 : d.v = 0 := by simpa using hv
    split
    next hm =>
      have hm0 : d.m ≠ 0#4 := by simpa using hm
      exact ⟨fun k => by simp [hv0], fun k => by simp [hv0, hm0, mget_mput], rfl⟩
    next hm =>
      have hm0 : d.m = 0 := by simpa using hm
      exact ⟨fun k => by simp [hv0], fun k => by simp [hm0], rfl⟩

/-- A completed DRUN changes of the DDA only the tick of a domain's next step (R434). -/
theorem Dda.runDone_facts (d : Dda) (o : Op) (tick : Nat) :
    { d.runDone o tick with doms := d.doms } = d
      ∧ (∀ n, { (d.runDone o tick).dom n with next := 0 } = { d.dom n with next := 0 })
      ∧ (o.opc ≠ 0xD5 → d.runDone o tick = d) := by
  unfold Dda.runDone
  dsimp only
  split
  next h =>
    refine ⟨rfl, fun n => ?_, fun q => absurd h.1 q⟩
    simp only [Dda.updDom, Dda.dom, mget_mset]
    split
    next hn => subst hn; rfl
    next => rfl
  next => exact ⟨rfl, fun _ => rfl, fun _ => rfl⟩

/-! ### The state after a writeback -/

/-- The state in which an operation that completes has given its kept space back. -/
def State.spaceFreed (s : State) (o : Op) : State :=
  (s.unreserve (s.task o.task) (dstOut (s.elem o.cell o.elem) o.opc o.f)).unreserve (s.task o.task)
    (orderOut (s.elem o.cell o.elem) o.opc o.f)

/-- The state in which it has written its destinations, before its tokens leave. -/
def State.destsWritten (s : State) (o : Op) : State :=
  ((s.spaceFreed o).updElem o.cell o.elem fun el => el.writeBack o (destOf o.opc o.f)).updCell o.cell fun cl =>
    { cl with vec := cl.vec.writeBack o (destOf o.opc o.f), dda := cl.dda.runDone o s.clock.tick }

/-- The state in which its tokens have left. -/
def State.tokensSent (s : State) (o : Op) : State :=
  ((s.destsWritten o).send (s.task o.task) o.cell (dstOut (s.elem o.cell o.elem) o.opc o.f)
    { val := o.r, tag := tokenTag o.opc o.f }).send (s.task o.task) o.cell (orderOut (s.elem o.cell o.elem) o.opc o.f)
    { val := 0, tag := 6 }

theorem State.writeback_eq (s : State) (o : Op) : s.writeback o = ((s.tokensSent o).endStep o.cell).delOp o.id := rfl

/-- The tokens of an operation that completes: its result, and the order token (R286, R291). -/
def State.tokensOfOp (s : State) (o : Op) : List (Dest × Token) :=
  (dstOut (s.elem o.cell o.elem) o.opc o.f).map (fun a => (a, { val := o.r, tag := tokenTag o.opc o.f }))
    ++ (orderOut (s.elem o.cell o.elem) o.opc o.f).map fun a => (a, { val := 0, tag := 6 })

variable (s : State) (o : Op)

theorem State.spaceFreed_channel : ChannelFrame s (s.spaceFreed o) :=
  (State.unreserve_channel _ _ _).trans (State.unreserve_channel _ _ _)

theorem State.tokensSent_channel : ChannelFrame (s.destsWritten o) (s.tokensSent o) :=
  (State.send_channel _ _ _ _ _).trans (State.send_channel _ _ _ _ _)

/-- The element that holds the operation, once its destinations are written. -/
theorem State.destsWritten_elem_self :
    (s.destsWritten o).elem o.cell o.elem = ((s.spaceFreed o).elem o.cell o.elem).writeBack o (destOf o.opc o.f) := by
  unfold State.destsWritten
  rw [State.elem_updCell_keeps _ _ _ _ _ rfl, State.elem_updElem]
  simp

theorem State.destsWritten_elem_ne {c e : Nat} (h : ¬ (c = o.cell ∧ e = o.elem)) :
    (s.destsWritten o).elem c e = (s.spaceFreed o).elem c e := by
  unfold State.destsWritten
  rw [State.elem_updCell_keeps _ _ _ _ _ rfl, State.elem_updElem, if_neg h]

/-- The cell that holds the operation, its elements aside, once its destinations are written. -/
theorem State.destsWritten_cell_self : { (s.destsWritten o).cell o.cell with elems := [] } =
    { (s.spaceFreed o).cell o.cell with
      elems := []
      vec := ((s.spaceFreed o).cell o.cell).vec.writeBack o (destOf o.opc o.f)
      dda := ((s.spaceFreed o).cell o.cell).dda.runDone o s.clock.tick } := by
  unfold State.destsWritten
  rw [State.cell_updCell, if_pos rfl, State.cell_updElem, if_pos rfl]

theorem State.destsWritten_cell_ne {c : Nat} (h : c ≠ o.cell) : (s.destsWritten o).cell c = (s.spaceFreed o).cell c := by
  unfold State.destsWritten
  rw [State.cell_updCell, if_neg h, State.cell_updElem, if_neg h]

theorem State.destsWritten_meter (c : Nat) : ((s.destsWritten o).cell c).meter = ((s.spaceFreed o).cell c).meter := by
  by_cases h : c = o.cell
  · have h1 := congrArg Cell.meter (s.destsWritten_cell_self o)
    rw [h]
    exact h1
  · rw [s.destsWritten_cell_ne o h]

theorem State.destsWritten_edge (c p : Nat) : ((s.destsWritten o).cell c).edge p = ((s.spaceFreed o).cell c).edge p := by
  by_cases h : c = o.cell
  · have h1 := congrArg (fun cl : Cell => cl.edge p) (s.destsWritten_cell_self o)
    rw [h]
    exact h1
  · rw [s.destsWritten_cell_ne o h]

/-- The end of a step and the removal of an operation touch no element. -/
theorem State.writeback_elem (c e : Nat) : (s.writeback o).elem c e = (s.tokensSent o).elem c e := by
  show ((s.tokensSent o).endStep o.cell).elem c e = _
  exact State.elem_updCell_keeps _ _ _ _ _ rfl

theorem State.writeback_cell (c : Nat) : (s.writeback o).cell c =
    if c = o.cell then { (s.tokensSent o).cell c with turned := none } else (s.tokensSent o).cell c := by
  show ((s.tokensSent o).endStep o.cell).cell c = _
  unfold State.endStep
  rw [State.cell_updCell]
  split
  next h => subst h; rfl
  next => rfl

/-- The parts of the state besides cells and operations. -/
theorem State.writeback_rest : { s.writeback o with cells := s.cells, ops := s.ops } = s := by
  have h1 := (s.spaceFreed_channel o).1
  have h2 := (s.tokensSent_channel o).1
  have h3 : { s.destsWritten o with cells := s.cells } = s := h1
  have h4 : { s.tokensSent o with cells := s.cells } = s := by
    rw [← h2] at h3
    exact h3
  exact congrArg (fun t : State => { t with ops := s.ops }) h4

theorem State.writeback_ops : (s.writeback o).ops = s.ops.filter fun p => p.id != o.id := by
  have h : (s.tokensSent o).ops = s.ops := by
    have h1 := congrArg State.ops (s.spaceFreed_channel o).1
    have h2 := congrArg State.ops (s.tokensSent_channel o).1
    exact Eq.trans h2 h1
  show (s.tokensSent o).ops.filter _ = _
  rw [h]

/-- The engines of a cell after a writeback: of its own cell the vector destination, the DDA and the step have changed. -/
theorem State.writeback_engines_self : ((s.writeback o).cell o.cell).engines =
    { (s.cell o.cell).engines with vec := (s.cell o.cell).vec.writeBack o (destOf o.opc o.f)
                                   dda := (s.cell o.cell).dda.runDone o s.clock.tick
                                   turned := none } := by
  have h1 := (s.spaceFreed_channel o).2.1 o.cell
  have h2 := (s.tokensSent_channel o).2.1 o.cell
  have h3 := congrArg Cell.engines (s.destsWritten_cell_self o)
  have hv : ((s.spaceFreed o).cell o.cell).vec = (s.cell o.cell).vec := by have := congrArg Cell.vec h1; exact this
  have hd : ((s.spaceFreed o).cell o.cell).dda = (s.cell o.cell).dda := by have := congrArg Cell.dda h1; exact this
  rw [State.writeback_cell, if_pos rfl, ← h1, ← hv, ← hd]
  have h4 := h2.trans h3
  exact congrArg (fun cl : Cell => { cl with turned := none }) h4

theorem State.writeback_engines_ne {c : Nat} (h : c ≠ o.cell) : ((s.writeback o).cell c).engines = (s.cell c).engines := by
  rw [State.writeback_cell, if_neg h]
  exact ((s.tokensSent_channel o).2.1 c).trans ((congrArg Cell.engines (s.destsWritten_cell_ne o h)).trans
    ((s.spaceFreed_channel o).2.1 c))

theorem State.writeback_meter (c : Nat) : ((s.writeback o).cell c).meter = (s.cell c).meter := by
  have h1 := (s.spaceFreed_channel o).2.2.1 c
  have h2 := (s.tokensSent_channel o).2.2.1 c
  have h4 := h2.trans ((s.destsWritten_meter o c).trans h1)
  rw [State.writeback_cell]
  split <;> exact h4

theorem State.writeback_edge (c p : Nat) : (((s.writeback o).cell c).edge p).quiet = ((s.cell c).edge p).quiet := by
  have h1 : (((s.spaceFreed o).cell c).edge p).quiet = ((s.cell c).edge p).quiet := by
    unfold State.spaceFreed
    rw [State.edge_unreserve, State.edge_unreserve]
  have h2 : (((s.tokensSent o).cell c).edge p).quiet = (((s.destsWritten o).cell c).edge p).quiet := by
    unfold State.tokensSent
    rw [State.edge_send, State.edge_send]
  have h4 := h2.trans ((congrArg Edge.quiet (s.destsWritten_edge o c p)).trans h1)
  rw [State.writeback_cell]
  split <;> exact h4

/-- Every other element keeps all but its channels. -/
theorem State.writeback_still {c e : Nat} (h : ¬ (c = o.cell ∧ e = o.elem)) :
    ((s.writeback o).elem c e).still = (s.elem c e).still := by
  rw [State.writeback_elem, ((s.tokensSent_channel o).elem c e).2.2.2.2.2.2.2, s.destsWritten_elem_ne o h,
    ((s.spaceFreed_channel o).elem c e).2.2.2.2.2.2.2]

/-- The element that held the operation: its channels aside it is the element of before, written back. -/
theorem State.writeback_quiet :
    ((s.writeback o).elem o.cell o.elem).quiet = ((s.elem o.cell o.elem).writeBack o (destOf o.opc o.f)).quiet := by
  rw [State.writeback_elem, (s.tokensSent_channel o).2.2.2 o.cell o.elem, s.destsWritten_elem_self,
    Elem.writeBack_quiet, (s.spaceFreed_channel o).2.2.2 o.cell o.elem, ← Elem.writeBack_quiet]

/-- The channels once the destinations are written: as the kept space given back leaves them. -/
theorem State.destsWritten_inputAt (hop : 0x40 ≤ o.opc) (hop' : o.opc < 0xF0) (c e i : Nat) :
    (s.destsWritten o).inputAt c e i = (s.spaceFreed o).inputAt c e i := by
  unfold State.destsWritten
  refine (State.inputAt_updCell_keeps _ _ _ rfl rfl c e i).trans ?_
  rw [State.inputAt_updElem]
  split
  next h =>
    obtain ⟨rfl, rfl, hE⟩ := h
    rw [Elem.writeBack_ins _ _ hop hop']
    simp [State.inputAt, hE]
  next => rfl

theorem State.spaceFreed_inputAt (c e i : Nat) : (s.spaceFreed o).inputAt c e i =
    { s.inputAt c e i with reserved := (s.inputAt c e i).reserved -
        ((s.tokensOfOp o).filter fun p => p.1.feeds (s.task o.task) c e i).length } := by
  unfold State.spaceFreed State.tokensOfOp
  rw [State.inputAt_unreserve, State.inputAt_unreserve, List.filter_append, List.length_append, List.filter_map,
    List.filter_map, List.length_map, List.length_map, Nat.sub_sub]
  rfl

/-- Every channel after a writeback: its tokens have taken the places kept for them (R176, R177, R286). -/
theorem State.writeback_inputAt (hop : 0x40 ≤ o.opc) (hop' : o.opc < 0xF0) (c e i : Nat) :
    (s.writeback o).inputAt c e i =
      Input.entered { s.inputAt c e i with reserved := (s.inputAt c e i).reserved -
        ((s.tokensOfOp o).filter fun p => p.1.feeds (s.task o.task) c e i).length }
        (s.tokensOfOp o) (s.task o.task) o.cell c e i := by
  have h : ((s.tokensSent o).endStep o.cell).inputAt c e i = (s.tokensSent o).inputAt c e i := by
    unfold State.endStep
    exact State.inputAt_updCell_keeps _ _ _ rfl rfl c e i
  rw [State.writeback_eq]
  refine Eq.trans (b := ((s.tokensSent o).endStep o.cell).inputAt c e i) rfl ?_
  rw [h, ← s.spaceFreed_inputAt, ← s.destsWritten_inputAt o hop hop']
  unfold State.tokensSent State.tokensOfOp
  rw [State.inputAt_send, State.inputAt_send, Input.entered_append]

/-- An operation that completes retires as R362 and R392 say. -/
theorem State.writeback_retires {i : Instr} (h : exec i s = .next (s.writeback o)) (hop : 0x40 ≤ o.opc) (hop' : o.opc < 0xF0) :
    Retires i s o := by
  obtain ⟨hg, ht, hp, hst, hpg, hpp, he, hu⟩ := (s.elem o.cell o.elem).writeBack_facts o hop hop'
  have hq := s.writeback_quiet o
  obtain ⟨qg, qt, qp, qs, qe, -, -, -⟩ := Elem.quiet_facts hq
  have hgreg : ((s.writeback o).elem o.cell o.elem).greg = ((s.elem o.cell o.elem).writeBack o (destOf o.opc o.f)).greg := by
    funext k
    simp only [Elem.greg, qg]
  have hself := s.writeback_engines_self o
  obtain ⟨vv, vm, vp⟩ := (s.cell o.cell).vec.writeBack_facts o (destOf o.opc o.f)
  have hvec : ((s.writeback o).cell o.cell).vec = (s.cell o.cell).vec.writeBack o (destOf o.opc o.f) := by
    have := congrArg Cell.vec hself; exact this
  have hdda : ((s.writeback o).cell o.cell).dda = (s.cell o.cell).dda.runDone o s.clock.tick := by
    have := congrArg Cell.dda hself; exact this
  obtain ⟨dd, dn, dx⟩ := (s.cell o.cell).dda.runDone_facts o s.clock.tick
  refine ⟨s.writeback o, h, s.writeback_ops o, s.writeback_rest o, fun k hk => ?_, fun k hk => ?_, qp.trans hp, qs.trans hst,
    ?_, ?_, qe.trans he, ?_, ?_, ?_, fun c e hce => s.writeback_still o hce, ?_, fun c hc => s.writeback_engines_ne o hc, ?_, ?_,
    s.writeback_inputAt o hop hop', ?_, ?_, ?_, fun c => ⟨s.writeback_meter o c, s.writeback_edge o c⟩⟩
  · rw [hgreg]; exact hg k hk
  · rw [qt]; exact ht k hk
  · have := congrArg Elem.pendG hq; exact this.trans hpg
  · have := congrArg Elem.pendP hq; exact this.trans hpp
  · rw [hvec]; exact vv
  · rw [hvec]; exact vm
  · rw [hvec]; exact vp
  · have h1 := congrArg (fun el : Elem => { el.fixedEng with pendG := 0, pendP := 0 }) hq
    have h2 := congrArg (fun el : Elem => { el with ins := [], last := none, held := none, paid := none, spawnTick := none }) hu
    exact Eq.trans h1 h2
  · have := congrArg (fun cl : Cell => { cl with vec := {}, dda := {}, turned := none }) hself; exact this
  · have := congrArg Cell.turned hself; exact this
  · rw [hdda]; exact dd
  · rw [hdda]; exact dn
  · rw [hdda]; exact dx

end Sys2Proof.Machine

namespace Sys2Proof.Proofs

open Sys2Proof.Machine

/-- Settles O33: each of the three completions comes to the writeback of its operation, which retires it. -/
theorem operationsWriteBack : Obligations.OperationsWriteBack := by
  intro s o ho hph haw hrb hnt
  have hcomp : isVecOp o.opc = false ∨ s.firstVec o = true → s.completable o = true := by
    intro h
    simp [State.completable, hph, haw, hnt]
    tauto
  refine ⟨fun hop => ?_, fun h1 h2 hfirst => ?_, fun h1 h2 => ?_, fun hop => ?_⟩
  · have hv : isVecOp o.opc = false := by simp [isVecOp]; omega
    refine s.writeback_retires o ?_ (by omega) (by omega)
    show execMemOpComplete o.id s = _
    simp [execMemOpComplete, ho, hcomp (.inl hv), hop, hrb]
  · have hv : isVecOp o.opc = true := by simp [isVecOp]; omega
    have hf : s.firstVec o = true := by
      simp only [State.firstVec, isVecOp, Bool.not_eq_true', List.any_eq_false, Bool.and_eq_true, beq_iff_eq, decide_eq_true_eq]
      rintro p hp ⟨⟨hc, he⟩, h3, h4⟩
      have := hfirst p hp hc he
      omega
    refine s.writeback_retires o ?_ (by omega) (by omega)
    show execEngineWriteback o.id s = _
    simp [execEngineWriteback, ho, hcomp (.inr hf), hv, hrb]
  · have hv : isVecOp o.opc = false := by simp [isVecOp]; omega
    refine s.writeback_retires o ?_ (by omega) (by omega)
    show execEngineWriteback o.id s = _
    simp [execEngineWriteback, ho, hcomp (.inl hv), h1, h2, hrb]
  · have hr : 0x40 ≤ o.opc ∧ o.opc < 0xF0 := by simp at hop; omega
    refine s.writeback_retires o ?_ hr.1 hr.2
    show execMatrixOpComplete o.id s = _
    have hc : ([0xC0, 0xC2, 0xC3, 0xC4] : List Nat).contains o.opc = true := by simpa using hop
    simp only [execMatrixOpComplete, ho]
    rw [if_pos ⟨hph, hc, hnt⟩]

end Sys2Proof.Proofs
end

section
/-! SUPPORT. O43 fails: no premise says that the operations under way have different numbers, and a walk marks the held accesses by
their numbers (R266, R267). -/

namespace Sys2Proof.Proofs

open Sys2Proof.Machine

/-- A load held for the page at 0x10000. -/
def heldLoad : Op := { id := 5, opc := 0x40, task := 1, phase := .held, heldPage := 0x10000, ea := 0x10000, len := 4 }

/-- A store under the same number, held for the same page. -/
def heldStore : Op := { heldLoad with opc := 0x44 }

/-- The running task of both. -/
def holdingTask : Task := { id := 1, st := .running }

/-- A state in which both are held, the walk of their page is in flight, and its table maps the page for reads alone. -/
def sharedNumber : State :=
  { State.reset with
    ops := [heldLoad, heldStore], tasks := [holdingTask], rooms := [(0, { walks := [(0, 0x10000)] })]
    mem := [(0x80000700007, 0xC0)], logs := { roots := [(0, 0x80000700001#64)] } }

/-- The page that the walk finds may not be written. -/
def readPage : Page := { base := 0, size := 2 ^ 31, pa := 0, wr := false }

theorem sharedNumber_walk : sharedNumber.walkAsleep 0 0x10000 = [] ∧ sharedNumber.walkPoison 0 0x10000 = none
    ∧ sharedNumber.walk 0 0x10000 = some readPage := by decide +kernel

/-- The store must stay held, so its number does, and the load with it. -/
theorem sharedNumber_stays_held : (match exec (.walkComplete 0 0 0x10000) sharedNumber with
    | .next t => (t.op? 5).map Op.phase
    | _ => none) = some .held := by decide +kernel

/-- Refutes O43: in a state where a held load shares its number with a held store, a walk that finds a page for reads alone leaves the
load held, although the statement lets it go on. -/
theorem not_waitsResolve : ¬ Obligations.WaitsResolve := by
  intro h
  obtain ⟨hsleep, hpoison, hwalk⟩ := sharedNumber_walk
  have hclauses := (h sharedNumber).2 heldLoad holdingTask rfl rfl
  have hpage := hclauses.1 0 0 0x10000 (by decide) (by decide) (by decide) hsleep rfl rfl rfl (by decide)
  obtain ⟨t, q, ht, hq, -, hgo, -⟩ := hpage.1 readPage hpoison hwalk
  have hissued : q.phase = .issued := (hgo (by decide)).1
  have hheld := sharedNumber_stays_held
  rw [ht] at hheld
  have hq5 : t.op? 5 = some q := hq
  simp only [hq5, Option.map_some, hissued] at hheld
  exact absurd hheld (by decide)

end Sys2Proof.Proofs
end

section
/-! SUPPORT. The control registers (R26, R27): what a register reads after a write, what a read clears, window 2; and O49. -/

namespace Sys2Proof.Machine

/-! ### Fields of a word -/

theorem natBit_toNat {w : Nat} (v : BitVec w) (i : Nat) : natBit v.toNat i = v.getLsbD i := rfl

/-- A mask that keeps one field, above a mask of lower bits. -/
theorem and_field_add (n lo len b : Nat) (h : b < 2 ^ lo) :
    n &&& ((2 ^ len - 1) * 2 ^ lo + b) = natField n lo len * 2 ^ lo + (n &&& b) := by
  have hb : n &&& b < 2 ^ lo := lt_of_le_of_lt Nat.and_le_right h
  rw [Nat.mul_comm, Nat.mul_comm (natField n lo len), Nat.two_pow_add_eq_or_of_lt h, Nat.two_pow_add_eq_or_of_lt hb,
    Nat.and_or_distrib_left]
  congr 1
  apply Nat.eq_of_testBit_eq
  intro i
  simp only [natField, Nat.testBit_and, Nat.testBit_two_pow_mul, Nat.testBit_two_pow_sub_one, Nat.testBit_mod_two_pow,
    Nat.testBit_div_two_pow]
  by_cases hi : lo ≤ i
  · simp [hi, Bool.and_comm]
  · simp [hi]

theorem and_field (n lo len : Nat) : n &&& ((2 ^ len - 1) * 2 ^ lo) = natField n lo len * 2 ^ lo := by
  have h := and_field_add n lo len 0 (Nat.two_pow_pos lo)
  simpa using h

theorem natField_lt (n lo len : Nat) : natField n lo len < 2 ^ len := Nat.mod_lt _ (Nat.two_pow_pos len)

theorem natField_bit0 (n : Nat) : natField n 0 1 = bit (natBit n 0) := by
  unfold natField natBit bit
  rw [Nat.testBit_zero]
  rcases Nat.mod_two_eq_zero_or_one n with h | h <;> simp [h]

/-! ### Arrays of registers -/

/-- The offsets of an array of registers. -/
theorem regIndex_eq_some {off base count stride i : Nat} (h0 : 0 < stride) :
    regIndex off base count stride = some i ↔ off = base + i * stride ∧ i < count := by
  unfold regIndex
  split
  next h =>
    obtain ⟨h1, h2, h3⟩ := h
    have hm : (off - base) / stride * stride = off - base := Nat.div_mul_cancel (Nat.dvd_of_mod_eq_zero h3)
    simp only [Option.some.injEq]
    constructor
    · rintro rfl
      exact ⟨by omega, Nat.div_lt_of_lt_mul (by rw [Nat.mul_comm]; omega)⟩
    · rintro ⟨rfl, _⟩
      simp [h0]
  next h =>
    simp only [reduceCtorEq, false_iff]
    rintro ⟨rfl, hi⟩
    refine h ⟨by omega, ?_, by simp⟩
    have := Nat.mul_lt_mul_of_pos_right hi h0
    omega

/-- No register of an array lies outside its span. -/
theorem regIndex_eq_none {off base count stride : Nat} (h : off < base ∨ base + count * stride ≤ off) :
    regIndex off base count stride = none := by
  unfold regIndex
  rw [if_neg]
  omega

/-! ### Which part of the state a register reads -/

theorem State.regWord_congr {s t : State} {o : Nat} (hl : o < 0x100000 → t.lodgeWord o = s.lodgeWord o)
    (hp : t.powerWord o = s.powerWord o) (hs : t.schedWord o = s.schedWord o)
    (hd : 0x600000 ≤ o → o < 0x800000 → t.debugWord o = s.debugWord o) (hk : 0x800000 ≤ o → t.linkWord o = s.linkWord o) :
    t.regWord o = s.regWord o := by
  unfold State.regWord
  split
  next h => exact hl h
  · split
    · exact hp
    · split
      · exact hs
      · split
        next h => exact hd (by omega) h
        next h => exact hk (by omega)

theorem State.regWord_lodge {s : State} {o : Nat} (h : o < 0x100000) : s.regWord o = s.lodgeWord o := if_pos h

theorem State.regWord_sched {s : State} {o : Nat} (h0 : 0x200000 ≤ o) (h : o < 0x600000) : s.regWord o = s.schedWord o := by
  unfold State.regWord
  rw [if_neg (by omega), if_neg (by omega), if_pos h]

theorem State.regWord_debug {s : State} {o : Nat} (h0 : 0x600000 ≤ o) (h : o < 0x800000) : s.regWord o = s.debugWord o := by
  unfold State.regWord
  rw [if_neg (by omega), if_neg (by omega), if_neg (by omega), if_pos h]

theorem State.regWord_link {s : State} {o : Nat} (h0 : 0x800000 ≤ o) : s.regWord o = s.linkWord o := by
  unfold State.regWord
  rw [if_neg (by omega), if_neg (by omega), if_neg (by omega), if_neg (by omega)]

/-- The state t differs from s in the register at an offset alone, which reads a value. -/
def RegHolds (s t : State) (off val : Nat) : Prop :=
  t.regWord off = val ∧ (∀ o, o ≠ off → t.regWord o = s.regWord o) ∧ t.mem = s.mem ∧ t.tasks = s.tasks

/-- A register of the lodge changed. -/
theorem RegHolds.lodge (s : State) (l : Lodge) (off val : Nat) (h : off < 0x100000)
    (hv : ({ s with lodge := l } : State).lodgeWord off = val)
    (ho : ∀ o, o ≠ off → ({ s with lodge := l } : State).lodgeWord o = s.lodgeWord o) :
    RegHolds s { s with lodge := l } off val :=
  ⟨(State.regWord_lodge h).trans hv, fun o hne => State.regWord_congr (fun _ => ho o hne) rfl rfl (fun _ _ => rfl) (fun _ => rfl),
    rfl, rfl⟩

/-- A register of the scheduler changed. -/
theorem RegHolds.sched (s : State) (c : Sched) (off val : Nat) (h0 : 0x200000 ≤ off) (h : off < 0x600000)
    (hv : ({ s with sched := c } : State).schedWord off = val)
    (ho : ∀ o, o ≠ off → ({ s with sched := c } : State).schedWord o = s.schedWord o) :
    RegHolds s { s with sched := c } off val :=
  ⟨(State.regWord_sched h0 h).trans hv, fun o hne => State.regWord_congr (fun _ => rfl) rfl (ho o hne) (fun _ _ => rfl)
    (fun _ => rfl), rfl, rfl⟩

/-- A register of the logs, the translation roots or the home watchpoints changed. -/
theorem RegHolds.logs (s : State) (g : Logs) (off val : Nat) (h0 : 0x600000 ≤ off) (h : off < 0x800000)
    (hv : ({ s with logs := g } : State).debugWord off = val)
    (ho : ∀ o, o ≠ off → ({ s with logs := g } : State).debugWord o = s.debugWord o) :
    RegHolds s { s with logs := g } off val :=
  ⟨(State.regWord_debug h0 h).trans hv, fun o hne => State.regWord_congr (fun _ => rfl) rfl rfl (fun _ _ => ho o hne)
    (fun _ => rfl), rfl, rfl⟩

/-- A register of the front door changed. -/
theorem RegHolds.eth (s : State) (e : Eth) (off val : Nat) (h0 : 0x800000 ≤ off)
    (hv : ({ s with eth := e } : State).linkWord off = val)
    (ho : ∀ o, o ≠ off → ({ s with eth := e } : State).linkWord o = s.linkWord o) :
    RegHolds s { s with eth := e } off val :=
  ⟨(State.regWord_link h0).trans hv, fun o hne => State.regWord_congr (fun _ => rfl) rfl rfl (fun _ _ => rfl)
    (fun _ => ho o hne), rfl, rfl⟩

end Sys2Proof.Machine
end
section
namespace Sys2Proof.Machine

variable (s : State)

/-! ### Writes that are held, register by register -/

theorem exec_registerWrite (off : Nat) (v : BitVec 64) : exec (.registerWrite off v) s =
    .next (if off < 0x200000 then s.putLow off v.toNat else if off < 0x600000 then s.putSched off v.toNat
      else if off < 0x800000 then s.putDebug off v.toNat else s.putLink off v.toNat) := rfl

/-- LODGE_ATTEST's address (R79). -/
theorem attAddr_holds (x : BitVec 64) :
    RegHolds s { s with lodge := { s.lodge with attAddr := x } } 0x10 x.toNat := by
  refine .lodge s _ _ _ (by decide) rfl fun o ho => ?_
  unfold State.lodgeWord
  split
  case h_3 => exact absurd rfl ho
  all_goals rfl

/-- The four words of the attestation nonce (R79). -/
theorem attNonce_holds (i : Nat) (hi : i < 4) (x : BitVec 64) :
    RegHolds s { s with lodge := { s.lodge with attNonce := mput s.lodge.attNonce i x 0 } } (0x18 + 8 * i) x.toNat := by
  refine .lodge s _ _ _ (by omega) ?_ fun o ho => ?_
  · unfold State.lodgeWord
    obtain rfl | rfl | rfl | rfl : i = 0 ∨ i = 1 ∨ i = 2 ∨ i = 3 := by omega
    all_goals simp
  · unfold State.lodgeWord
    split
    case h_4 => exact congrArg BitVec.toNat (mget_mput_ne _ _ _ (by omega))
    case h_5 => exact congrArg BitVec.toNat (mget_mput_ne _ _ _ (by omega))
    case h_6 => exact congrArg BitVec.toNat (mget_mput_ne _ _ _ (by omega))
    case h_7 => exact congrArg BitVec.toNat (mget_mput_ne _ _ _ (by omega))
    all_goals rfl

/-- The idle time of the slices (R44, R47). -/
theorem idleTicks_holds (n : Nat) :
    RegHolds s { s with power := { s.power with idleTicks := n } } 0x100050 n := by
  refine ⟨rfl, fun o ho => State.regWord_congr (fun _ => rfl) ?_ rfl (fun _ _ => rfl) (fun _ => rfl), rfl, rfl⟩
  unfold State.powerWord
  split
  case h_3 => exact absurd rfl ho
  all_goals rfl

/-- A word of the route-tag stage, of which the reserved bits read as zero (R64). -/
theorem rtStage_holds (i : Nat) (hi : i < 4) (x : BitVec 64) :
    RegHolds s { s with sched := { s.sched with rtStage := mput s.sched.rtStage i x 0 } } (0x202000 + 8 * i)
      (readMask i x.toNat) := by
  have hw : ∀ j, ({ s with sched := { s.sched with rtStage := mput s.sched.rtStage i x 0 } } : State).stageWord j
      = if j = i then x.toNat else s.stageWord j := by
    intro j
    simp only [State.stageWord, mget_mput]
    split <;> rfl
  refine .sched s _ _ _ (by omega) (by omega) ?_ fun o ho => ?_
  · have h1 : regIndex (0x202000 + 8 * i) 0x200000 8 8 = none := regIndex_eq_none (.inr (by omega))
    have h2 : regIndex (0x202000 + 8 * i) 0x201000 34 8 = none := regIndex_eq_none (.inr (by omega))
    have h3 : regIndex (0x202000 + 8 * i) 0x202000 4 8 = some i := (regIndex_eq_some (by decide)).2 ⟨by omega, hi⟩
    unfold State.schedWord
    split
    case h_7 => simp only [h1, h2, h3, hw, if_true]
    all_goals omega
  · unfold State.schedWord
    split
    case h_7 =>
      split
      case h_3 =>
        rename_i j hj _ _
        have hji : j ≠ i := fun q => ho (by rw [((regIndex_eq_some (by decide)).1 hj).1]; omega)
        exact congrArg (readMask j) ((hw j).trans (if_neg hji))
      all_goals rfl
    all_goals rfl

/-- The address spaces' roots (R234). -/
theorem roots_hold (a : Nat) (ha : a < 256) (x : BitVec 64) :
    RegHolds s { s with logs := { s.logs with roots := mput s.logs.roots a x 0 } } (0x610000 + 8 * a) x.toNat := by
  refine .logs s _ _ _ (by omega) (by omega) ?_ fun o ho => ?_
  · have h1 : regIndex (0x610000 + 8 * a) 0x610000 256 8 = some a := (regIndex_eq_some (by decide)).2 ⟨by omega, ha⟩
    unfold State.debugWord
    split
    case h_14 => simp only [h1, mget_mput_self]
    all_goals omega
  · unfold State.debugWord
    split
    case h_14 =>
      split
      case h_1 =>
        rename_i b hb
        have hba : b ≠ a := fun q => ho (by rw [((regIndex_eq_some (by decide)).1 hb).1]; omega)
        exact congrArg BitVec.toNat (mget_mput_ne _ _ _ hba)
      all_goals rfl
    all_goals rfl

/-- The home watchpoints (R279). -/
theorem watch_holds (i : Nat) (hi : i < 64) (x : BitVec 64) :
    RegHolds s { s with logs := { s.logs with watch := mput s.logs.watch i x 0 } } (0x621000 + 8 * i) x.toNat := by
  refine .logs s _ _ _ (by omega) (by omega) ?_ fun o ho => ?_
  · have h1 : regIndex (0x621000 + 8 * i) 0x610000 256 8 = none := regIndex_eq_none (.inr (by omega))
    have h2 : regIndex (0x621000 + 8 * i) 0x620000 4 8 = none := regIndex_eq_none (.inr (by omega))
    have h3 : regIndex (0x621000 + 8 * i) 0x621000 64 8 = some i := (regIndex_eq_some (by decide)).2 ⟨by omega, hi⟩
    unfold State.debugWord
    split
    case h_14 => simp only [h1, h2, h3, mget_mput_self]
    all_goals omega
  · unfold State.debugWord
    split
    case h_14 =>
      split
      case h_3 =>
        rename_i j hj _ _
        have hji : j ≠ i := fun q => ho (by rw [((regIndex_eq_some (by decide)).1 hj).1]; omega)
        exact congrArg BitVec.toNat (mget_mput_ne _ _ _ hji)
      all_goals rfl
    all_goals rfl

/-- Word 0 of DBG_METERLOG (R150). -/
theorem meterLog_holds (v : Nat) :
    RegHolds s { s with logs := { s.logs with meter := s.logs.meter.put v } } 0x600000 ((s.logs.meter.put v).word 0) := by
  refine .logs s _ _ _ (by decide) (by decide) rfl fun o ho => ?_
  unfold State.debugWord
  split
  case h_1 => exact absurd rfl ho
  all_goals rfl

/-- Word 0 of DBG_TRAPLOG (R150, R262). -/
theorem trapLog_holds (v : Nat) :
    RegHolds s { s with logs := { s.logs with trap := s.logs.trap.put v } } 0x600010 ((s.logs.trap.put v).word 0) := by
  refine .logs s _ _ _ (by decide) (by decide) rfl fun o ho => ?_
  unfold State.debugWord
  split
  case h_3 => exact absurd rfl ho
  all_goals rfl

/-- Word 0 of DBG_WATCHLOG (R150, R280). -/
theorem watchLog_holds (v : Nat) :
    RegHolds s { s with logs := { s.logs with wlog := s.logs.wlog.put v } } 0x600020 ((s.logs.wlog.put v).word 0) := by
  refine .logs s _ _ _ (by decide) (by decide) rfl fun o ho => ?_
  unfold State.debugWord
  split
  case h_5 => exact absurd rfl ho
  all_goals rfl

/-- Word 0 of XLAT_PFLOG (R150, R267). -/
theorem pageLog_holds (v : Nat) :
    RegHolds s { s with logs := { s.logs with pf := s.logs.pf.put v } } 0x600030 ((s.logs.pf.put v).word 0) := by
  refine .logs s _ _ _ (by decide) (by decide) rfl fun o ho => ?_
  unfold State.debugWord
  split
  case h_7 => exact absurd rfl ho
  all_goals rfl

end Sys2Proof.Machine
end
section
namespace Sys2Proof.Machine

variable (s : State)

/-- The configuration of a stream (R70). -/
theorem streamCfg_holds (n : Nat) (hn : n < 1024) (x : BitVec 64) :
    RegHolds s (s.updStream n fun k => { k with cfg := x }) (0xA00000 + 8 * n) x.toNat := by
  have hst : ∀ m, (s.updStream n fun k => { k with cfg := x }).stream m =
      if m = n then { s.stream n with cfg := x } else s.stream m := fun m => mget_mset _ _ _ _ _
  refine .eth s _ _ _ (by omega) ?_ fun o ho => ?_
  · have h1 : regIndex (0xA00000 + 8 * n) 0x800000 96 8 = none := regIndex_eq_none (.inr (by omega))
    have h2 : regIndex (0xA00000 + 8 * n) 0xA00000 1024 8 = some n := (regIndex_eq_some (by decide)).2 ⟨by omega, hn⟩
    unfold State.linkWord
    simp only [h1, h2]
    exact congrArg (fun k : Stream => k.cfg.toNat) ((hst n).trans (if_pos rfl))
  · unfold State.linkWord
    split
    case h_2 =>
      rename_i m hm _
      have hmn : m ≠ n := fun q => ho (by rw [((regIndex_eq_some (by decide)).1 hm).1]; omega)
      exact congrArg (fun k : Stream => k.cfg.toNat) ((hst m).trans (if_neg hmn))
    case h_3 =>
      rename_i j _ _ _
      have hq : ∀ f : Stream → Nat, (∀ k, f { k with cfg := x } = f k) →
          f ((s.updStream n fun k => { k with cfg := x }).stream (j / 2)) = f (s.stream (j / 2)) := by
        intro f hf
        rw [hst]
        split
        next h => rw [h, hf]
        next => rfl
      exact hq (fun k => if j % 2 = 0 then k.nextSeq * 2 ^ 32 + k.nextSlot else k.dropFull * 2 ^ 32 + k.dropLen) fun _ => rfl
    all_goals rfl

/-- The word of a port's rule at an even or odd place (R69). -/
def EthPort.ruleWord (e : EthPort) (w : Nat) : Nat :=
  if w % 2 = 0 then (mget e.ruleA (w / 2) 0).toNat else (mget e.ruleB (w / 2) 0).toNat

/-- A port with a word of its rules written (R69). -/
def EthPort.putRule (e : EthPort) (w : Nat) (x : BitVec 64) : EthPort :=
  if w % 2 = 0 then { e with ruleA := mput e.ruleA (w / 2) x 0 } else { e with ruleB := mput e.ruleB (w / 2) x 0 }

theorem EthPort.ruleWord_putRule (e : EthPort) (w u : Nat) (x : BitVec 64) :
    (e.putRule w x).ruleWord u = if u = w then x.toNat else e.ruleWord u := by
  unfold EthPort.putRule EthPort.ruleWord
  by_cases hw : w % 2 = 0
  · by_cases hu : u % 2 = 0
    · have h : u / 2 = w / 2 ↔ u = w := by omega
      simp only [hw, hu, if_true, mget_mput, h]
      split <;> rfl
    · have h : ¬ u = w := by omega
      simp [hw, hu, h]
  · by_cases hu : u % 2 = 0
    · have h : ¬ u = w := by omega
      simp [hw, hu, h]
    · have h : u / 2 = w / 2 ↔ u = w := by omega
      simp only [hw, hu, if_false, mget_mput, h]
      split <;> rfl

theorem EthPort.putRule_counters (e : EthPort) (w : Nat) (x : BitVec 64) :
    (e.putRule w x).fcs = e.fcs ∧ (e.putRule w x).oversize = e.oversize ∧ (e.putRule w x).pause = e.pause
      ∧ (e.putRule w x).noMatch = e.noMatch := by
  unfold EthPort.putRule
  split <;> exact ⟨rfl, rfl, rfl, rfl⟩

/-- What the registers of the front door's ports read (R69, R74). -/
theorem State.linkWord_port {o : Nat} (h0 : 0x900000 ≤ o) (h : o < 0x910000) (h8 : o % 8 = 0) :
    s.linkWord o =
      let e := s.ethPort ((o - 0x900000) / 0x4000)
      let a := (o - 0x900000) % 0x4000
      if a < 0x1000 then e.ruleWord (a / 8)
      else if a = 0x1000 then e.fcs * 2 ^ 32 + e.oversize
      else if a = 0x1008 then e.pause * 2 ^ 32 + e.noMatch
      else 0 := by
  have h1 : regIndex o 0x800000 96 8 = none := regIndex_eq_none (.inr (by omega))
  have h2 : regIndex o 0xA00000 1024 8 = none := regIndex_eq_none (.inl (by omega))
  have h3 : regIndex o 0xA10000 2048 8 = none := regIndex_eq_none (.inl (by omega))
  unfold State.linkWord
  simp only [h1, h2, h3]
  rw [if_pos ⟨h0, h, h8⟩]
  split
  · unfold EthPort.ruleWord
    have e1 : (o - 0x900000) % 0x4000 / 8 / 2 = (o - 0x900000) % 0x4000 / 16 := by omega
    have e2 : (o - 0x900000) % 0x4000 / 8 % 2 = 0 ↔ (o - 0x900000) % 0x4000 % 16 = 0 := by omega
    simp only [e1, e2]
  · rfl

/-- A word of a port's rules (R69). -/
theorem ethRule_holds (p w : Nat) (hp : p < 4) (hw : w < 512) (x : BitVec 64) :
    RegHolds s (s.updPort p fun e => e.putRule w x) (0x900000 + 0x4000 * p + 8 * w) x.toNat := by
  have hport : ∀ q, (s.updPort p fun e => e.putRule w x).ethPort q =
      if q = p then (s.ethPort p).putRule w x else s.ethPort q := fun q => mget_mset _ _ _ _ _
  refine .eth s _ _ _ (by omega) ?_ fun o ho => ?_
  · refine (State.linkWord_port (s.updPort p fun e => e.putRule w x) (by omega) (by omega) (by omega)).trans ?_
    have e1 : (0x900000 + 0x4000 * p + 8 * w - 0x900000) / 0x4000 = p := by omega
    have e2 : (0x900000 + 0x4000 * p + 8 * w - 0x900000) % 0x4000 = 8 * w := by omega
    have e3 : 8 * w / 8 = w := by omega
    simp only [e1, e2, e3, hport, if_true]
    rw [if_pos (by omega), EthPort.ruleWord_putRule, if_pos rfl]
  · by_cases hr : 0x900000 ≤ o ∧ o < 0x910000 ∧ o % 8 = 0
    · obtain ⟨h0, h1, h8⟩ := hr
      refine (State.linkWord_port (s.updPort p fun e => e.putRule w x) h0 h1 h8).trans ?_
      rw [State.linkWord_port s h0 h1 h8]
      dsimp only
      rw [hport]
      by_cases hq : (o - 0x900000) / 0x4000 = p
      · have hne : (o - 0x900000) % 0x4000 < 0x1000 → (o - 0x900000) % 0x4000 / 8 ≠ w := by omega
        obtain ⟨c1, c2, c3, c4⟩ := (s.ethPort p).putRule_counters w x
        rw [if_pos hq, EthPort.ruleWord_putRule, c1, c2, c3, c4, hq]
        split
        next hlt => rw [if_neg (hne hlt)]
        next => rfl
      · rw [if_neg hq]
    · unfold State.linkWord
      split
      case h_4 => rw [if_neg hr, if_neg hr]
      all_goals rfl

/-- A register of a room's block, where the room keeps its temperature and its presence. -/
theorem room_holds (r a val : Nat) (hr : r < 64) (ha : a < 0x100) (ha8 : a % 8 = 0) (f : Room → Room)
    (htemp : ∀ k, (f k).temp = k.temp) (habs : ∀ k, (f k).absent = k.absent)
    (hval : (f (s.room r)).word a = val) (hother : ∀ b, b ≠ a → (f (s.room r)).word b = (s.room r).word b) :
    RegHolds s (s.updRoom r f) (0x700000 + 0x100 * r + a) val := by
  have hroom : ∀ q, (s.updRoom r f).room q = if q = r then f (s.room r) else s.room q := fun q => State.room_updRoom s r q f
  have ht : ∀ q, ((s.updRoom r f).room q).temp = (s.room q).temp := by
    intro q
    rw [hroom]
    split
    next h => rw [h, htemp]
    next => rfl
  have hab : ∀ q, ((s.updRoom r f).room q).absent = (s.room q).absent := by
    intro q
    rw [hroom]
    split
    next h => rw [h, habs]
    next => rfl
  refine ⟨?_, fun o ho => State.regWord_congr (fun _ => rfl) ?_ ?_ (fun h0 h1 => ?_) (fun _ => rfl), rfl, rfl⟩
  · rw [State.regWord_debug (by omega) (by omega)]
    have h1 : regIndex (0x700000 + 0x100 * r + a) 0x610000 256 8 = none := regIndex_eq_none (.inr (by omega))
    have h2 : regIndex (0x700000 + 0x100 * r + a) 0x620000 4 8 = none := regIndex_eq_none (.inr (by omega))
    have h3 : regIndex (0x700000 + 0x100 * r + a) 0x621000 64 8 = none := regIndex_eq_none (.inr (by omega))
    have h4 : regIndex (0x700000 + 0x100 * r + a) 0x700000 2048 8 = some (32 * r + a / 8) :=
      (regIndex_eq_some (by decide)).2 ⟨by omega, by omega⟩
    have e1 : (32 * r + a / 8) / 32 = r := by omega
    have e2 : 8 * ((32 * r + a / 8) % 32) = a := by omega
    unfold State.debugWord
    split
    case h_14 =>
      simp only [h1, h2, h3, h4, e1, e2, hroom, if_true]
      exact hval
    all_goals omega
  · unfold State.powerWord
    simp only [ht]
    rfl
  · unfold State.schedWord
    simp only [hab]
    rfl
  · unfold State.debugWord
    split
    case h_14 =>
      split
      case h_4 =>
        rename_i i hi _ _ _
        have hi' := ((regIndex_eq_some (by decide)).1 hi).1
        have hb : i / 32 = r → 8 * (i % 32) ≠ a := by
          clear * - ho hi'
          omega
        show ((s.updRoom r f).room (i / 32)).word (8 * (i % 32)) = (s.room (i / 32)).word (8 * (i % 32))
        rw [hroom]
        split
        next h => rw [hother (8 * (i % 32)) (hb h), h]
        next => rfl
      all_goals rfl
    all_goals rfl

end Sys2Proof.Machine
end
section
namespace Sys2Proof.Machine

/-! ### What each mask keeps -/

theorem toNat_and_mask (v m : BitVec 64) : (v &&& m).toNat = v.toNat &&& m.toNat := BitVec.toNat_and v m

theorem toNat_and_ones (v : BitVec 64) : (v &&& 0xFFFFFFFFFFFFFFFF).toNat = v.toNat :=
  congrArg BitVec.toNat (BitVec.and_allOnes (x := v))

/-- One field kept. -/
theorem toNat_and_field (v m : BitVec 64) (lo len : Nat) (h : m.toNat = (2 ^ len - 1) * 2 ^ lo) :
    (v &&& m).toNat = natField v.toNat lo len * 2 ^ lo := by
  rw [toNat_and_mask, h, and_field]

/-- Two fields kept, the higher one first. -/
theorem toNat_and_fields (v m : BitVec 64) (lo len lo' len' : Nat) (h : m.toNat = (2 ^ len - 1) * 2 ^ lo + (2 ^ len' - 1) * 2 ^ lo')
    (hlt : (2 ^ len' - 1) * 2 ^ lo' < 2 ^ lo) :
    (v &&& m).toNat = natField v.toNat lo len * 2 ^ lo + natField v.toNat lo' len' * 2 ^ lo' := by
  rw [toNat_and_mask, h, and_field_add _ _ _ _ hlt, and_field]

/-- Three fields kept. -/
theorem toNat_and_three (v m : BitVec 64) (lo len lo' len' lo'' len'' : Nat)
    (h : m.toNat = (2 ^ len - 1) * 2 ^ lo + ((2 ^ len' - 1) * 2 ^ lo' + (2 ^ len'' - 1) * 2 ^ lo''))
    (hlt : (2 ^ len' - 1) * 2 ^ lo' + (2 ^ len'' - 1) * 2 ^ lo'' < 2 ^ lo) (hlt' : (2 ^ len'' - 1) * 2 ^ lo'' < 2 ^ lo') :
    (v &&& m).toNat = natField v.toNat lo len * 2 ^ lo + natField v.toNat lo' len' * 2 ^ lo' + natField v.toNat lo'' len'' * 2 ^ lo'' := by
  rw [toNat_and_mask, h, and_field_add _ _ _ _ hlt, and_field_add _ _ _ _ hlt', and_field, Nat.add_assoc]

/-- A number held in 64 bits. -/
theorem toNat_ofNat64 (v m : BitVec 64) (n : Nat) (h : (v &&& m).toNat = n) : (BitVec.ofNat 64 n).toNat = (v &&& m).toNat := by
  rw [← h, BitVec.ofNat_toNat, BitVec.setWidth_eq]

/-! ### Writes of the registers that hold their bits -/

/-- A write of v to the register at an offset leaves it with the bits of a mask, and changes no other register. -/
def Keeps (s : State) (off : Nat) (v m : BitVec 64) : Prop :=
  ∃ t, exec (.registerWrite off v) s = .next t ∧ RegHolds s t off (v &&& m).toNat

theorem Keeps.intro {s t : State} {off val : Nat} {v m : BitVec 64} (he : exec (.registerWrite off v) s = .next t)
    (h : RegHolds s t off val) (hv : val = (v &&& m).toNat) : Keeps s off v m := ⟨t, he, hv ▸ h⟩

variable (s : State) (v : BitVec 64)

theorem keeps_attAddr : Keeps s 0x10 v 0xFFFFFFFFFFFFFFFF :=
  .intro rfl (attAddr_holds s (BitVec.ofNat 64 v.toNat)) (by rw [toNat_and_ones, BitVec.ofNat_toNat, BitVec.setWidth_eq])

theorem putLow_nonce (i n : Nat) (hi : i < 4) : s.putLow (0x18 + 8 * i) n =
    { s with lodge := { s.lodge with attNonce := mput s.lodge.attNonce i (BitVec.ofNat 64 n) 0 } } := by
  obtain rfl | rfl | rfl | rfl : i = 0 ∨ i = 1 ∨ i = 2 ∨ i = 3 := by omega
  all_goals rfl

theorem keeps_attNonce (i : Nat) (hi : i < 4) : Keeps s (0x18 + 8 * i) v 0xFFFFFFFFFFFFFFFF := by
  refine .intro ?_ (attNonce_holds s i hi (BitVec.ofNat 64 v.toNat)) (by rw [toNat_and_ones, BitVec.ofNat_toNat, BitVec.setWidth_eq])
  rw [exec_registerWrite, if_pos (by omega), putLow_nonce s i _ hi]

theorem keeps_idleTicks : Keeps s 0x100050 v 0xFFFFFFFF := by
  refine .intro rfl (idleTicks_holds s (natField v.toNat 0 32)) ?_
  rw [toNat_and_field v _ 0 32 (by decide)]
  simp

theorem keeps_rtStage (i : Nat) (hi : i < 4) (m : BitVec 64) (hm : readMask i v.toNat = (v &&& m).toNat) :
    Keeps s (0x202000 + 8 * i) v m := by
  refine .intro ?_ (rtStage_holds s i hi (BitVec.ofNat 64 v.toNat)) (by rw [BitVec.ofNat_toNat, BitVec.setWidth_eq, hm])
  have h1 : regIndex (0x202000 + 8 * i) 0x200000 8 8 = none := regIndex_eq_none (.inr (by omega))
  have h2 : regIndex (0x202000 + 8 * i) 0x202000 4 8 = some i := (regIndex_eq_some (by decide)).2 ⟨by omega, hi⟩
  rw [exec_registerWrite, if_neg (by omega), if_pos (by omega)]
  unfold State.putSched
  rw [if_neg (by omega), if_neg (by omega)]
  simp only [h1, h2]

theorem HostLog.put_word0 (l : HostLog) : (l.put v.toNat).word 0 = (v &&& 0xFFFFFFFFFFFFFF01).toNat := by
  rw [toNat_and_three v _ 12 52 8 4 0 1 (by decide) (by decide) (by decide), natField_bit0]
  simp [HostLog.word, HostLog.put]

theorem keeps_logs : Keeps s 0x600000 v 0xFFFFFFFFFFFFFF01 ∧ Keeps s 0x600010 v 0xFFFFFFFFFFFFFF01
    ∧ Keeps s 0x600020 v 0xFFFFFFFFFFFFFF01 ∧ Keeps s 0x600030 v 0xFFFFFFFFFFFFFF01 :=
  ⟨.intro rfl (meterLog_holds s v.toNat) (HostLog.put_word0 v _), .intro rfl (trapLog_holds s v.toNat) (HostLog.put_word0 v _),
    .intro rfl (watchLog_holds s v.toNat) (HostLog.put_word0 v _), .intro rfl (pageLog_holds s v.toNat) (HostLog.put_word0 v _)⟩

theorem keeps_root (a : Nat) (ha : a < 256) : Keeps s (0x610000 + 8 * a) v 0x1FFFFFFFFF00001 := by
  refine .intro ?_ (roots_hold s a ha (BitVec.ofNat 64 (natField v.toNat 20 37 * 2 ^ 20 + natField v.toNat 0 1)))
    (toNat_ofNat64 _ _ _ (by rw [toNat_and_fields v _ 20 37 0 1 (by decide) (by decide)]; simp))
  have h1 : regIndex (0x610000 + 8 * a) 0x610000 256 8 = some a := (regIndex_eq_some (by decide)).2 ⟨by omega, ha⟩
  rw [exec_registerWrite, if_neg (by omega), if_neg (by omega), if_pos (by omega)]
  unfold State.putDebug
  split
  case h_5 => simp only [h1]
  all_goals omega

theorem keeps_watch (i : Nat) (hi : i < 64) : Keeps s (0x621000 + 8 * i) v 0xE0000FFFFFFFFFFF := by
  refine .intro ?_ (watch_holds s i hi (BitVec.ofNat 64 (natField v.toNat 61 3 * 2 ^ 61 + natField v.toNat 0 44)))
    (toNat_ofNat64 _ _ _ (by rw [toNat_and_fields v _ 61 3 0 44 (by decide) (by decide)]; simp))
  have h1 : regIndex (0x621000 + 8 * i) 0x610000 256 8 = none := regIndex_eq_none (.inr (by omega))
  have h2 : regIndex (0x621000 + 8 * i) 0x621000 64 8 = some i := (regIndex_eq_some (by decide)).2 ⟨by omega, hi⟩
  rw [exec_registerWrite, if_neg (by omega), if_neg (by omega), if_pos (by omega)]
  unfold State.putDebug
  split
  case h_5 => simp only [h1, h2]
  all_goals omega

theorem keeps_streamCfg (n : Nat) (hn : n < 1024) : Keeps s (0xA00000 + 8 * n) v 0x1FFFF000FFFF0001 := by
  refine .intro ?_ (streamCfg_holds s n hn
    (BitVec.ofNat 64 (natField v.toNat 44 17 * 2 ^ 44 + natField v.toNat 16 16 * 2 ^ 16 + natField v.toNat 0 1)))
    (toNat_ofNat64 _ _ _ (by rw [toNat_and_three v _ 44 17 16 16 0 1 (by decide) (by decide) (by decide)]; simp))
  have h1 : regIndex (0xA00000 + 8 * n) 0xA00000 1024 8 = some n := (regIndex_eq_some (by decide)).2 ⟨by omega, hn⟩
  rw [exec_registerWrite, if_neg (by omega), if_neg (by omega), if_neg (by omega)]
  unfold State.putLink
  simp only [h1]

/-- The rules of a port: words of even number keep their match, words of odd number their stream and TAG (R69). -/
theorem keeps_ethRule (p w : Nat) (hp : p < 4) (hw : w < 512) :
    Keeps s (0x900000 + 0x4000 * p + 8 * w) v (if w % 2 = 0 then 0xFFFFFFFFFFFF0000 else 0xFFF003FF) := by
  have h1 : regIndex (0x900000 + 0x4000 * p + 8 * w) 0xA00000 1024 8 = none := regIndex_eq_none (.inl (by omega))
  have e1 : (0x900000 + 0x4000 * p + 8 * w - 0x900000) / 0x4000 = p := by omega
  have e2 : (0x900000 + 0x4000 * p + 8 * w - 0x900000) % 0x4000 / 16 = w / 2 := by omega
  have e3 : (0x900000 + 0x4000 * p + 8 * w) % 16 = 0 ↔ w % 2 = 0 := by omega
  have he : ∀ g : EthPort → EthPort, (∀ e, g e = if w % 2 = 0 then
        { e with ruleA := mput e.ruleA (w / 2) (BitVec.ofNat 64 (natField v.toNat 16 48 * 2 ^ 16)) 0 }
      else { e with ruleB := mput e.ruleB (w / 2) (BitVec.ofNat 64 (natField v.toNat 20 12 * 2 ^ 20 + natField v.toNat 0 10)) 0 }) →
      exec (.registerWrite (0x900000 + 0x4000 * p + 8 * w) v) s = .next (s.updPort p g) := by
    intro g hg
    rw [exec_registerWrite, if_neg (by omega), if_neg (by omega), if_neg (by omega)]
    unfold State.putLink
    simp only [h1]
    rw [if_pos (by omega)]
    simp only [e1, e2, e3]
    rw [show g = _ from funext hg]
  by_cases h2 : w % 2 = 0
  · rw [if_pos h2]
    refine .intro (he _ fun e => ?_) (ethRule_holds s p w hp hw (BitVec.ofNat 64 (natField v.toNat 16 48 * 2 ^ 16)))
      (toNat_ofNat64 _ _ _ (toNat_and_field v _ 16 48 (by decide)))
    rw [EthPort.putRule, if_pos h2, if_pos h2]
  · rw [if_neg h2]
    refine .intro (he _ fun e => ?_) (ethRule_holds s p w hp hw
      (BitVec.ofNat 64 (natField v.toNat 20 12 * 2 ^ 20 + natField v.toNat 0 10)))
      (toNat_ofNat64 _ _ _ (by rw [toNat_and_fields v _ 20 12 0 10 (by decide) (by decide)]; simp))
    rw [EthPort.putRule, if_neg h2, if_neg h2]

/-- A write to the register at an offset of a room's block. -/
theorem exec_roomWrite (r a : Nat) (hr : r < 64) (ha : a < 0x100) (ha8 : a % 8 = 0) :
    exec (.registerWrite (0x700000 + 0x100 * r + a) v) s = .next (s.updRoom r fun k => k.putWord a v.toNat) := by
  have h1 : regIndex (0x700000 + 0x100 * r + a) 0x610000 256 8 = none := regIndex_eq_none (.inr (by omega))
  have h2 : regIndex (0x700000 + 0x100 * r + a) 0x621000 64 8 = none := regIndex_eq_none (.inr (by omega))
  have h3 : regIndex (0x700000 + 0x100 * r + a) 0x700000 2048 8 = some (32 * r + a / 8) :=
    (regIndex_eq_some (by decide)).2 ⟨by omega, by omega⟩
  have e1 : (32 * r + a / 8) / 32 = r := by omega
  have e2 : 8 * ((32 * r + a / 8) % 32) = a := by omega
  rw [exec_registerWrite, if_neg (by omega), if_neg (by omega), if_pos (by omega)]
  unfold State.putDebug
  split
  case h_5 => simp only [h1, h2, h3, e1, e2]
  all_goals omega

/-- A write of a room's register keeps the room's temperature and presence. -/
theorem Room.putWord_keeps (k : Room) (a n : Nat) : (k.putWord a n).temp = k.temp ∧ (k.putWord a n).absent = k.absent := by
  unfold Room.putWord
  split <;> exact ⟨rfl, rfl⟩

theorem keeps_room (r a : Nat) (m : BitVec 64) (hr : r < 64) (ha : a < 0x100) (ha8 : a % 8 = 0)
    (hval : ∀ k : Room, (k.putWord a v.toNat).word a = (v &&& m).toNat)
    (hother : ∀ (k : Room) (b : Nat), b ≠ a → (k.putWord a v.toNat).word b = k.word b) :
    Keeps s (0x700000 + 0x100 * r + a) v m :=
  ⟨_, exec_roomWrite s v r a hr ha ha8, room_holds s r a _ hr ha ha8 _ (fun k => (k.putWord_keeps a _).1)
    (fun k => (k.putWord_keeps a _).2) (hval _) (hother _)⟩

theorem keeps_trapBase (r : Nat) (hr : r < 64) : Keeps s (0x700000 + 0x100 * r + 0x08) v 0xFFFFFFE0001 := by
  refine keeps_room s v r 0x08 _ hr (by decide) (by decide) (fun k => ?_) fun k b hb => ?_
  · exact toNat_ofNat64 _ _ _ (by rw [toNat_and_fields v _ 17 27 0 1 (by decide) (by decide)]; simp)
  · unfold Room.word
    split
    case h_2 => exact absurd rfl hb
    all_goals rfl

theorem keeps_trapVa (r : Nat) (hr : r < 64) : Keeps s (0x700000 + 0x100 * r + 0x10) v 0xFFFFFFFFFFFF := by
  refine keeps_room s v r 0x10 _ hr (by decide) (by decide) (fun k => ?_) fun k b hb => ?_
  · exact toNat_ofNat64 _ _ _ (by rw [toNat_and_field v _ 0 48 (by decide)]; simp)
  · unfold Room.word
    split
    case h_3 => exact absurd rfl hb
    all_goals rfl

theorem keeps_dlock (r : Nat) (hr : r < 64) : Keeps s (0x700000 + 0x100 * r + 0x20) v 0xFFFFFFFF := by
  refine keeps_room s v r 0x20 _ hr (by decide) (by decide) (fun k => ?_) fun k b hb => ?_
  · rw [toNat_and_field v _ 0 32 (by decide)]
    simp [Room.word, Room.putWord]
  · unfold Room.word
    split
    case h_5 => exact absurd rfl hb
    all_goals rfl

theorem keeps_hkAcct (r : Nat) (hr : r < 64) : Keeps s (0x700000 + 0x100 * r + 0x28) v 0xFFFF := by
  refine keeps_room s v r 0x28 _ hr (by decide) (by decide) (fun k => ?_) fun k b hb => ?_
  · rw [toNat_and_field v _ 0 16 (by decide)]
    simp [Room.word, Room.putWord]
  · unfold Room.word
    split
    case h_6 => exact absurd rfl hb
    all_goals rfl

/-- Each register that holds the bits of a write keeps those of its mask (R27, R44, R47, R64, R69, R70, R79, R150, R234, R258, R264, R279). -/
theorem keeps_of_keptBits (off : Nat) (m : BitVec 64) (h : keptBits off = some m) : Keeps s off v m := by
  unfold keptBits at h
  split at h
  next ho =>
    cases h
    simp only [List.mem_cons, List.not_mem_nil, or_false] at ho
    obtain rfl | rfl | rfl | rfl | rfl | rfl | rfl := ho
    · exact keeps_attAddr s v
    · exact keeps_attNonce s v 0 (by decide)
    · exact keeps_attNonce s v 1 (by decide)
    · exact keeps_attNonce s v 2 (by decide)
    · exact keeps_attNonce s v 3 (by decide)
    · exact keeps_rtStage s v 1 (by decide) _ (toNat_and_ones v).symm
    · exact keeps_rtStage s v 2 (by decide) _ (toNat_and_ones v).symm
  split at h
  next ho =>
    cases h; subst ho
    refine keeps_rtStage s v 0 (by decide) _ ?_
    exact (toNat_and_fields v _ 53 11 16 36 (by decide) (by decide)).symm
  split at h
  next ho =>
    cases h; subst ho
    refine keeps_rtStage s v 3 (by decide) _ ?_
    rw [toNat_and_field v _ 16 48 (by decide)]
    have hread : readMask 3 v.toNat = v.toNat / 2 ^ 16 * 2 ^ 16 := rfl
    have := v.isLt
    rw [hread, natField]
    omega
  split at h
  next ho => cases h; subst ho; exact keeps_idleTicks s v
  split at h
  next ho =>
    cases h
    obtain ⟨h1, h2, h3, h4⟩ := keeps_logs s v
    simp only [List.mem_cons, List.not_mem_nil, or_false] at ho
    obtain rfl | rfl | rfl | rfl := ho
    exacts [h1, h2, h3, h4]
  split at h
  next ho =>
    cases h
    obtain ⟨a, ha⟩ := Option.ne_none_iff_exists'.1 ho
    obtain ⟨rfl, hlt⟩ := (regIndex_eq_some (by decide)).1 ha
    rw [Nat.mul_comm]
    exact keeps_root s v a hlt
  split at h
  next ho =>
    cases h
    obtain ⟨i, hi⟩ := Option.ne_none_iff_exists'.1 ho
    obtain ⟨rfl, hlt⟩ := (regIndex_eq_some (by decide)).1 hi
    rw [Nat.mul_comm]
    exact keeps_watch s v i hlt
  split at h
  next ho =>
    cases h
    obtain ⟨n, hn⟩ := Option.ne_none_iff_exists'.1 ho
    obtain ⟨rfl, hlt⟩ := (regIndex_eq_some (by decide)).1 hn
    rw [Nat.mul_comm]
    exact keeps_streamCfg s v n hlt
  split at h
  next ho =>
    have hr := keeps_ethRule s v ((off - 0x900000) / 0x4000) ((off - 0x900000) % 0x4000 / 8) (by omega) (by omega)
    split at h
    next h0 =>
      cases h
      rw [if_pos (by omega)] at hr
      convert hr using 1
      omega
    next h0 =>
      split at h
      next h1 =>
        cases h
        rw [if_neg (by omega)] at hr
        convert hr using 1
        omega
      next => cases h
  split at h
  next ho =>
    obtain ⟨r, a, hra, hr, ha⟩ : ∃ r a, off = 0x700000 + 0x100 * r + a ∧ r < 64 ∧ (off - 0x700000) % 0x100 = a :=
      ⟨(off - 0x700000) / 0x100, (off - 0x700000) % 0x100, by omega, by omega, rfl⟩
    rw [ha] at h
    subst hra
    split at h
    · cases h; exact keeps_trapBase s v r hr
    · cases h; exact keeps_trapVa s v r hr
    · cases h; exact keeps_dlock s v r hr
    · cases h; exact keeps_hkAcct s v r hr
    · cases h
  next => cases h

end Sys2Proof.Machine
end
section
namespace Sys2Proof.Machine

variable (s : State) (v : BitVec 64)

/-! ### Writes with an effect of their own -/

/-- Any write of LODGE_CAUSE clears it (R48). -/
theorem lodgeCause_clears : ∃ t, exec (.registerWrite 0x08 v) s = .next t ∧ t.regWord 0x08 = 0
    ∧ ∀ o, o ≠ 0x08 → t.regWord o = s.regWord o := by
  have h : RegHolds s { s with lodge := { s.lodge with cuts := 0, causeWing := 0, causeRoom := 0, cause := 0 } } 0x08 0 := by
    refine .lodge s _ _ _ (by decide) (by simp [State.lodgeWord]) fun o ho => ?_
    unfold State.lodgeWord
    split
    case h_2 => exact absurd rfl ho
    all_goals rfl
  obtain ⟨hword, hother, -, -⟩ := h
  exact ⟨_, rfl, hword, hother⟩

theorem droopTicks_held :
    ∃ t, exec (.registerWrite 0x100040 v) s = .next t ∧ t.regWord 0x100040 = max 16 (v.toNat % 65536) := by
  refine ⟨_, rfl, ?_⟩
  show max 16 (natField v.toNat 0 16) = _
  simp [natField]

theorem exec_schedCtl : exec (.registerWrite 0x203000 v) s
    = .next { s with sched := { s.sched with checker := v.getLsbD 1, hold := v.getLsbD 0 } } := rfl

/-- A write of an intake ring's word keeps its EN alone (R58). -/
theorem exec_intakeWrite (n : Nat) (hn : n < 8) : exec (.registerWrite (0x200000 + 8 * n) v) s
    = .next (s.updIntake n fun r => { r with en := v.getLsbD 0 }) := by
  have h1 : regIndex (0x200000 + 8 * n) 0x200000 8 8 = some n := (regIndex_eq_some (by decide)).2 ⟨by omega, hn⟩
  rw [exec_registerWrite, if_neg (by omega), if_pos (by omega)]
  unfold State.putSched
  rw [if_neg (by omega), if_neg (by omega)]
  simp only [h1]
  rfl

/-- A write of an account's ceiling (R142). -/
theorem exec_ceilWrite (a : Nat) (ha : a < 65536) : exec (.registerWrite (0x300000 + 32 * a + 16) v) s
    = .next (s.updAcct a fun x => { x with ceil := v.toNat / 2 ^ 32 }) := by
  have h1 : regIndex (0x300000 + 32 * a + 16) 0x200000 8 8 = none := regIndex_eq_none (.inr (by omega))
  have h2 : regIndex (0x300000 + 32 * a + 16) 0x202000 4 8 = none := regIndex_eq_none (.inr (by omega))
  have h3 : regIndex (0x300000 + 32 * a + 16) 0x300000 262144 8 = some (4 * a + 2) :=
    (regIndex_eq_some (by decide)).2 ⟨by omega, by omega⟩
  have e1 : (4 * a + 2) % 4 = 2 := by omega
  have e2 : (4 * a + 2) / 4 = a := by omega
  have e3 : natField v.toNat 32 32 = v.toNat / 2 ^ 32 := by
    have := v.isLt
    exact Nat.mod_eq_of_lt (by omega)
  rw [exec_registerWrite, if_neg (by omega), if_pos (by omega)]
  unfold State.putSched
  rw [if_neg (by omega), if_neg (by omega)]
  simp only [h1, h2, h3, e1, e2, e3, if_true]

/-- A write of a room's wait table word keeps its threshold alone (R139). -/
theorem exec_parkThreshWrite (r : Nat) (hr : r < 64) : exec (.registerWrite (0x700000 + 256 * r + 0x18) v) s
    = .next (s.updRoom r fun x => { x with parkThresh := v.toNat % 2 ^ 32 }) := by
  have e1 : natField v.toNat 0 32 = v.toNat % 2 ^ 32 := by simp [natField]
  rw [exec_roomWrite s v r 0x18 hr (by decide) (by decide), ← e1]
  rfl

/-! ### Reads, and what they clear -/

/-- A read of the register at an offset returns a value and leaves a state, but for the value in rd. -/
def Reads (s : State) (off val : Nat) (t : State) : Prop :=
  exec (.counterReadClear off) s = .next { t with rd := BitVec.ofNat 64 val, rdBytes := natToBytes 8 val }

theorem Reads.intro {s t : State} {off val : Nat} (hv : s.regWord off = val) (ht : s.readClears off = t) : Reads s off val t := by
  rw [← hv, ← ht]
  rfl

theorem reads_intake (n : Nat) (hn : n < 8) : Reads s (0x200000 + 8 * n)
    ((s.intakeRing n).discards * 2 ^ 32 + (s.intakeRing n).next * 2 ^ 16 + (if (s.intakeRing n).en then 1 else 0))
    (s.updIntake n fun k => { k with discards := 0 }) := by
  have h1 : regIndex (0x200000 + 8 * n) 0x200000 8 8 = some n := (regIndex_eq_some (by decide)).2 ⟨by omega, hn⟩
  refine .intro ?_ ?_
  · rw [State.regWord_sched (by omega) (by omega)]
    unfold State.schedWord
    split
    case h_7 => simp only [h1, bit]
    all_goals omega
  · unfold State.readClears
    simp only [h1]

/-- The words of an account (R142). -/
theorem schedWord_acct (a i : Nat) (ha : a < 65536) (hi : i < 4) : s.regWord (0x300000 + 32 * a + 8 * i) =
    if i = 0 then (s.acct a).balance else if i = 1 then (s.acct a).consumed
      else if i = 2 then (s.acct a).ceil * 2 ^ 32 + (s.acct a).outPackets else 0 := by
  have h1 : regIndex (0x300000 + 32 * a + 8 * i) 0x200000 8 8 = none := regIndex_eq_none (.inr (by omega))
  have h2 : regIndex (0x300000 + 32 * a + 8 * i) 0x201000 34 8 = none := regIndex_eq_none (.inr (by omega))
  have h3 : regIndex (0x300000 + 32 * a + 8 * i) 0x202000 4 8 = none := regIndex_eq_none (.inr (by omega))
  have h4 : regIndex (0x300000 + 32 * a + 8 * i) 0x210000 4096 8 = none := regIndex_eq_none (.inr (by omega))
  have h5 : regIndex (0x300000 + 32 * a + 8 * i) 0x300000 262144 8 = some (4 * a + i) :=
    (regIndex_eq_some (by decide)).2 ⟨by omega, by omega⟩
  have e1 : (4 * a + i) % 4 = i := by omega
  have e2 : (4 * a + i) / 4 = a := by omega
  rw [State.regWord_sched (by omega) (by omega)]
  unfold State.schedWord
  split
  case h_7 => simp only [h1, h2, h3, h4, h5, e1, e2]
  all_goals omega

theorem readClears_acct (a i : Nat) (ha : a < 65536) (hi : i < 4) : s.readClears (0x300000 + 32 * a + 8 * i) =
    if i = 1 then s.updAcct a fun k => { k with consumed := 0 } else s := by
  have h1 : regIndex (0x300000 + 32 * a + 8 * i) 0x200000 8 8 = none := regIndex_eq_none (.inr (by omega))
  have h2 : regIndex (0x300000 + 32 * a + 8 * i) 0x300000 262144 8 = some (4 * a + i) :=
    (regIndex_eq_some (by decide)).2 ⟨by omega, by omega⟩
  have e1 : (4 * a + i) % 4 = i := by omega
  have e2 : (4 * a + i) / 4 = a := by omega
  unfold State.readClears
  simp only [h1, h2, e1, e2]

theorem reads_acct (a : Nat) (ha : a < 65536) : Reads s (0x300000 + 32 * a) (s.acct a).balance s
    ∧ Reads s (0x300000 + 32 * a + 8) (s.acct a).consumed (s.updAcct a fun k => { k with consumed := 0 })
    ∧ Reads s (0x300000 + 32 * a + 16) ((s.acct a).ceil * 2 ^ 32 + ((s.acct a).out + 63) / 64) s :=
  ⟨.intro (schedWord_acct s a 0 ha (by decide)) (readClears_acct s a 0 ha (by decide)),
    .intro (schedWord_acct s a 1 ha (by decide)) (readClears_acct s a 1 ha (by decide)),
    .intro (schedWord_acct s a 2 ha (by decide)) (readClears_acct s a 2 ha (by decide))⟩

/-- The registers of a room (R27). -/
theorem regWord_room (r i : Nat) (hr : r < 64) (hi : i < 32) :
    s.regWord (0x700000 + 256 * r + 8 * i) = (s.room r).word (8 * i) := by
  have h1 : regIndex (0x700000 + 256 * r + 8 * i) 0x610000 256 8 = none := regIndex_eq_none (.inr (by omega))
  have h2 : regIndex (0x700000 + 256 * r + 8 * i) 0x620000 4 8 = none := regIndex_eq_none (.inr (by omega))
  have h3 : regIndex (0x700000 + 256 * r + 8 * i) 0x621000 64 8 = none := regIndex_eq_none (.inr (by omega))
  have h4 : regIndex (0x700000 + 256 * r + 8 * i) 0x700000 2048 8 = some (32 * r + i) :=
    (regIndex_eq_some (by decide)).2 ⟨by omega, by omega⟩
  have e1 : (32 * r + i) / 32 = r := by omega
  have e2 : (32 * r + i) % 32 = i := by omega
  rw [State.regWord_debug (by omega) (by omega)]
  unfold State.debugWord
  split
  case h_14 => simp only [h1, h2, h3, h4, e1, e2]
  all_goals omega

theorem readClears_room (r i : Nat) (hr : r < 64) (hi : i < 32) : s.readClears (0x700000 + 256 * r + 8 * i) =
    if i = 6 then s.updRoom r fun x => { x with herr := { x.herr with count := 0 } }
    else if i = 7 then s.updRoom r fun x => { x with axlost := { x.axlost with count := 0 } } else s := by
  have h1 : regIndex (0x700000 + 256 * r + 8 * i) 0x200000 8 8 = none := regIndex_eq_none (.inr (by omega))
  have h2 : regIndex (0x700000 + 256 * r + 8 * i) 0x300000 262144 8 = none := regIndex_eq_none (.inr (by omega))
  have h3 : regIndex (0x700000 + 256 * r + 8 * i) 0x620000 4 8 = none := regIndex_eq_none (.inr (by omega))
  have h4 : regIndex (0x700000 + 256 * r + 8 * i) 0x700000 2048 8 = some (32 * r + i) :=
    (regIndex_eq_some (by decide)).2 ⟨by omega, by omega⟩
  have e1 : (32 * r + i) / 32 = r := by omega
  have e2 : (32 * r + i) % 32 = i := by omega
  unfold State.readClears
  simp only [h1, h2, h3, h4, e1, e2]

theorem reads_room (r : Nat) (hr : r < 64) :
    Reads s (0x700000 + 256 * r + 0x30)
      ((s.room r).herr.count * 2 ^ 48 + (s.room r).herr.a * 2 ^ 32 + (s.room r).herr.b * 2 ^ 16 + (s.room r).herr.c)
      (s.updRoom r fun x => { x with herr := { x.herr with count := 0 } })
    ∧ Reads s (0x700000 + 256 * r + 0x38)
      ((s.room r).axlost.count * 2 ^ 48 + (s.room r).axlost.b * 2 ^ 32 + (s.room r).axlost.a)
      (s.updRoom r fun x => { x with axlost := { x.axlost with count := 0 } }) :=
  ⟨.intro (regWord_room s r 6 hr (by decide)) (readClears_room s r 6 hr (by decide)),
    .intro (regWord_room s r 7 hr (by decide)) (readClears_room s r 7 hr (by decide))⟩

/-- A read of a port's counters (R74). -/
theorem readClears_port (p a : Nat) (hp : p < 4) (ha : a < 0x4000) (ha8 : a % 8 = 0) :
    s.readClears (0x900000 + 0x4000 * p + a) = s.updPort p fun e => e.clear a := by
  have h1 : regIndex (0x900000 + 0x4000 * p + a) 0x200000 8 8 = none := regIndex_eq_none (.inr (by omega))
  have h2 : regIndex (0x900000 + 0x4000 * p + a) 0x300000 262144 8 = none := regIndex_eq_none (.inr (by omega))
  have h3 : regIndex (0x900000 + 0x4000 * p + a) 0x620000 4 8 = none := regIndex_eq_none (.inr (by omega))
  have h4 : regIndex (0x900000 + 0x4000 * p + a) 0x700000 2048 8 = none := regIndex_eq_none (.inr (by omega))
  have h5 : regIndex (0x900000 + 0x4000 * p + a) 0x800000 96 8 = none := regIndex_eq_none (.inr (by omega))
  have h6 : regIndex (0x900000 + 0x4000 * p + a) 0xA10000 2048 8 = none := regIndex_eq_none (.inl (by omega))
  have e1 : (0x900000 + 0x4000 * p + a - 0x900000) / 0x4000 = p := by omega
  have e2 : (0x900000 + 0x4000 * p + a - 0x900000) % 0x4000 = a := by omega
  unfold State.readClears
  simp only [h1, h2, h3, h4, h5, h6, e1, e2]
  rw [if_pos (by omega)]

/-- The words of a port's counters (R74). -/
theorem regWord_port (p a : Nat) (hp : p < 4) (ha0 : 0x1000 ≤ a) (ha : a < 0x4000) (ha8 : a % 8 = 0) :
    s.regWord (0x900000 + 0x4000 * p + a) =
      if a = 0x1000 then (s.ethPort p).fcs * 2 ^ 32 + (s.ethPort p).oversize
      else if a = 0x1008 then (s.ethPort p).pause * 2 ^ 32 + (s.ethPort p).noMatch else 0 := by
  have e1 : (0x900000 + 0x4000 * p + a - 0x900000) / 0x4000 = p := by omega
  have e2 : (0x900000 + 0x4000 * p + a - 0x900000) % 0x4000 = a := by omega
  rw [State.regWord_link (by omega), State.linkWord_port s (by omega) (by omega) (by omega)]
  simp only [e1, e2]
  rw [if_neg (by omega)]

theorem reads_port (p : Nat) (hp : p < 4) :
    Reads s (0x901000 + 0x4000 * p) ((s.ethPort p).fcs * 2 ^ 32 + (s.ethPort p).oversize)
      (s.updPort p fun k => { k with fcs := 0, oversize := 0 })
    ∧ Reads s (0x901008 + 0x4000 * p) ((s.ethPort p).pause * 2 ^ 32 + (s.ethPort p).noMatch)
      (s.updPort p fun k => { k with pause := 0, noMatch := 0 }) := by
  have e1 : 0x901000 + 0x4000 * p = 0x900000 + 0x4000 * p + 0x1000 := by omega
  have e2 : 0x901008 + 0x4000 * p = 0x900000 + 0x4000 * p + 0x1008 := by omega
  rw [e1, e2]
  exact ⟨.intro (regWord_port s p 0x1000 hp (by decide) (by decide) (by decide))
      (readClears_port s p 0x1000 hp (by decide) (by decide)),
    .intro (regWord_port s p 0x1008 hp (by decide) (by decide) (by decide))
      (readClears_port s p 0x1008 hp (by decide) (by decide))⟩

/-- The two status words of a stream (R70). -/
theorem regWord_stream (n i : Nat) (hn : n < 1024) (hi : i < 2) : s.regWord (0xA10000 + 16 * n + 8 * i) =
    if i = 0 then (s.stream n).nextSeq * 2 ^ 32 + (s.stream n).nextSlot
    else (s.stream n).dropFull * 2 ^ 32 + (s.stream n).dropLen := by
  have h1 : regIndex (0xA10000 + 16 * n + 8 * i) 0x800000 96 8 = none := regIndex_eq_none (.inr (by omega))
  have h2 : regIndex (0xA10000 + 16 * n + 8 * i) 0xA00000 1024 8 = none := regIndex_eq_none (.inr (by omega))
  have h3 : regIndex (0xA10000 + 16 * n + 8 * i) 0xA10000 2048 8 = some (2 * n + i) :=
    (regIndex_eq_some (by decide)).2 ⟨by omega, by omega⟩
  have e1 : (2 * n + i) / 2 = n := by omega
  have e2 : (2 * n + i) % 2 = i := by omega
  rw [State.regWord_link (by omega)]
  unfold State.linkWord
  simp only [h1, h2, h3, e1, e2]

theorem readClears_stream (n i : Nat) (hn : n < 1024) (hi : i < 2) : s.readClears (0xA10000 + 16 * n + 8 * i) =
    if i = 1 then s.updStream n fun k => { k with dropFull := 0, dropLen := 0 } else s := by
  have h1 : regIndex (0xA10000 + 16 * n + 8 * i) 0x200000 8 8 = none := regIndex_eq_none (.inr (by omega))
  have h2 : regIndex (0xA10000 + 16 * n + 8 * i) 0x300000 262144 8 = none := regIndex_eq_none (.inr (by omega))
  have h3 : regIndex (0xA10000 + 16 * n + 8 * i) 0x620000 4 8 = none := regIndex_eq_none (.inr (by omega))
  have h4 : regIndex (0xA10000 + 16 * n + 8 * i) 0x700000 2048 8 = none := regIndex_eq_none (.inr (by omega))
  have h5 : regIndex (0xA10000 + 16 * n + 8 * i) 0x800000 96 8 = none := regIndex_eq_none (.inr (by omega))
  have h6 : regIndex (0xA10000 + 16 * n + 8 * i) 0xA10000 2048 8 = some (2 * n + i) :=
    (regIndex_eq_some (by decide)).2 ⟨by omega, by omega⟩
  have e1 : (2 * n + i) / 2 = n := by omega
  have e2 : (2 * n + i) % 2 = i := by omega
  unfold State.readClears
  simp only [h1, h2, h3, h4, h5, h6, e1, e2]

theorem reads_stream (n : Nat) (hn : n < 1024) :
    Reads s (0xA10000 + 16 * n) ((s.stream n).nextSeq * 2 ^ 32 + (s.stream n).nextSlot) s
    ∧ Reads s (0xA10008 + 16 * n) ((s.stream n).dropFull * 2 ^ 32 + (s.stream n).dropLen)
      (s.updStream n fun k => { k with dropFull := 0, dropLen := 0 }) := by
  have e1 : 0xA10008 + 16 * n = 0xA10000 + 16 * n + 8 * 1 := by omega
  rw [e1]
  exact ⟨.intro (regWord_stream s n 0 hn (by decide)) (readClears_stream s n 0 hn (by decide)),
    .intro (regWord_stream s n 1 hn (by decide)) (readClears_stream s n 1 hn (by decide))⟩

/-- Registers that a read leaves as they are. -/
theorem reads_plain (o : Nat) (ho : o ∈ [0x00, 0x40, 0x48, 0x100050, 0x203000, 0x203008, 0x600040, 0x610000]) :
    Reads s o (s.regWord o) s := by
  refine .intro rfl ?_
  simp only [List.mem_cons, List.not_mem_nil, or_false] at ho
  obtain rfl | rfl | rfl | rfl | rfl | rfl | rfl | rfl := ho
  all_goals rfl

end Sys2Proof.Machine
end
section
/-! SUPPORT. What a home watchpoint leaves as it was, the levels of a range, and window 2 (R13, R26, R279). -/

namespace Sys2Proof.Machine

/-- The home watchpoints change host memory, the logs and the use of the slices alone (R44, R280). -/
theorem State.homeWatch_frame {β : Type} (g : State → β)
    (hg : ∀ (t : State) h l p, g { t with hostMem := h, logs := l, power := p } = g t)
    (s : State) (pa n : Nat) (wr : Bool) (ag : Agent) : g (s.homeWatch pa n wr ag) = g s := by
  unfold State.homeWatch
  split
  · rfl
  · refine (foldState_frame g _ (fun i st => ?_) _ _).trans (hg s _ _ _)
    split
    · unfold State.appendLog
      split
      · exact hg st _ _ _
      · exact hg st _ _ _
    · rfl

section
variable (s : State) (pa n : Nat) (wr : Bool) (ag : Agent)

@[simp] theorem State.homeWatch_mem : (s.homeWatch pa n wr ag).mem = s.mem := State.homeWatch_frame State.mem (fun _ _ _ _ => rfl) ..
@[simp] theorem State.homeWatch_tags : (s.homeWatch pa n wr ag).tags = s.tags := State.homeWatch_frame State.tags (fun _ _ _ _ => rfl) ..
@[simp] theorem State.homeWatch_tasks : (s.homeWatch pa n wr ag).tasks = s.tasks :=
  State.homeWatch_frame State.tasks (fun _ _ _ _ => rfl) ..
@[simp] theorem State.homeWatch_sched : (s.homeWatch pa n wr ag).sched = s.sched :=
  State.homeWatch_frame State.sched (fun _ _ _ _ => rfl) ..
@[simp] theorem State.homeWatch_eth : (s.homeWatch pa n wr ag).eth = s.eth := State.homeWatch_frame State.eth (fun _ _ _ _ => rfl) ..
@[simp] theorem State.homeWatch_devNum : (s.homeWatch pa n wr ag).devNum = s.devNum :=
  State.homeWatch_frame State.devNum (fun _ _ _ _ => rfl) ..

end

/-! ### The level of a range -/

theorem localLevel_eq_cellar {l : Nat} : localLevel l = .cellar ↔ l < 0x0C000000000 := by
  unfold localLevel
  split_ifs <;> simp_all

theorem localLevel_eq_attic {l : Nat} : localLevel l = .attic ↔ 0x10000000000 ≤ l ∧ l < 0x40000000000 := by
  unfold localLevel
  split_ifs <;> simp_all
  omega

theorem localLevel_eq_landing {l : Nat} : localLevel l = .landing ↔ 0x80000000000 ≤ l ∧ l < 0x80020000000 := by
  unfold localLevel
  split_ifs <;> simp_all <;> omega

theorem localLevel_eq_host {l : Nat} : localLevel l = .host ↔ 0xC0000000000 ≤ l ∧ l < 0xF0000000000 := by
  unfold localLevel
  split_ifs <;> simp_all <;> omega

/-- A level is an interval of addresses: a range whose ends are of one level is of that level (R13). -/
theorem localLevel_between {l a b : Nat} {k : Level} (hk : k ≠ .reserved) (hr : k ≠ .remote) (hl : localLevel l = k)
    (hb : localLevel b = k) (h1 : l ≤ a) (h2 : a ≤ b) : localLevel a = k := by
  cases k with
  | landing => rw [localLevel_eq_landing] at *; omega
  | cellar => rw [localLevel_eq_cellar] at *; omega
  | attic => rw [localLevel_eq_attic] at *; omega
  | host => rw [localLevel_eq_host] at *; omega
  | remote => exact absurd rfl hr
  | reserved => exact absurd rfl hk

/-- No address of a level that is not the host's is in host memory, whatever its device. -/
theorem State.level_ne_host (s : State) (d a : Nat) (ha : a < 2 ^ 44) (hl : localLevel a ≠ .host) : s.level (d * 2 ^ 44 + a) ≠ .host := by
  have hloc : localOf (d * 2 ^ 44 + a) = a := by
    unfold localOf
    omega
  unfold State.level
  rw [hloc]
  split
  · decide
  · split
    · exact hl
    · decide

theorem localLevel_lt {l : Nat} (h : localLevel l ≠ .reserved) : l < 2 ^ 44 := by
  by_contra hl
  refine h ?_
  unfold localLevel
  iterate 7 rw [if_neg (by omega)]

/-! ### Window 2 -/

section
variable (s : State) {addr n : Nat} {wr : Bool}

/-- The range of an access that window 2 takes is of one level of memory (R26). -/
theorem State.windowOk_level (h : s.windowOk addr n wr = true) : (localLevel addr = .landing ∨ localLevel addr = .cellar
    ∨ localLevel addr = .attic) ∧ localLevel (addr + n - 1) = localLevel addr := by
  simp only [State.windowOk, Bool.and_eq_true, Bool.or_eq_true, beq_iff_eq] at h
  exact ⟨or_assoc.1 h.1.1, h.1.2⟩

theorem State.windowOk_inside (h : s.windowOk addr n wr = true) {i : Nat} (hi : i < n) :
    localLevel (addr + i) = localLevel addr := by
  obtain ⟨hl, hend⟩ := s.windowOk_level h
  refine localLevel_between ?_ ?_ rfl hend (Nat.le_add_right _ _) (by omega)
  · rintro h0; rw [h0] at hl; simp at hl
  · rintro h0; rw [h0] at hl; simp at hl

/-- No byte of an access that window 2 takes is in host memory (R26). -/
theorem State.windowOk_ne_host (h : s.windowOk addr n wr = true) {i : Nat} (hi : i < n) (t : State) :
    t.level (s.devNum * 2 ^ 44 + addr + i) ≠ .host := by
  have hin := s.windowOk_inside h hi
  obtain ⟨hl, -⟩ := s.windowOk_level h
  rw [Nat.add_assoc]
  refine t.level_ne_host _ _ (localLevel_lt ?_) ?_
  · rw [hin]; rintro h0; rw [h0] at hl; simp at hl
  · rw [hin]; rintro h0; rw [h0] at hl; simp at hl

/-- Each byte of a read that window 2 takes is one that it takes alone. -/
theorem State.windowOk_byte (h : s.windowOk addr n wr = true) {i : Nat} (hi : i < n) : s.windowOk (addr + i) 1 false = true := by
  have hin := s.windowOk_inside h hi
  obtain ⟨hl, -⟩ := s.windowOk_level h
  have h1 : addr + i + 1 - 1 = addr + i := rfl
  simp only [State.windowOk, h1, hin, Bool.and_eq_true, Bool.or_eq_true, beq_iff_eq, Bool.false_and, Bool.not_false, and_true]
  exact or_assoc.2 hl

theorem overlaps_inside {a l b m i : Nat} (h : overlaps a l b m = false) (hi : i < l) : overlaps (a + i) 1 b m = false := by
  unfold overlaps at *
  simp only [Bool.and_eq_false_iff, decide_eq_false_iff_not] at *
  omega

theorem State.inPools_byte (h : s.inPools addr n = false) {i : Nat} (hi : i < n) : s.inPools (addr + i) 1 = false := by
  simp only [State.inPools, Bool.or_eq_false_iff, List.any_eq_false] at h ⊢
  obtain ⟨hq, hc⟩ := h
  exact ⟨fun w hw => by simpa using overlaps_inside (by simpa using hq w hw) hi, overlaps_inside hc hi⟩

/-- The first byte of a read through window 2, where it is no pool's and of no poisoned block (R26). -/
theorem State.windowBytes_succ (a n : Nat) (hok : s.windowOk a 1 false = true) (hpool : s.inPools a 1 = false)
    (hpois : tagPoison (s.physTag (s.devNum * 2 ^ 44 + a)) = false) : s.windowBytes a (n + 1) =
      (s.physByte (s.devNum * 2 ^ 44 + a) :: (s.windowBytes (a + 1) n).1, (s.windowBytes (a + 1) n).2) := by
  rw [State.windowBytes]
  simp only [hok, hpool, hpois, Bool.and_false, Bool.false_eq_true, if_false, State.windowByte, Bool.not_false, Bool.and_self,
    if_true]

theorem State.physBytes_succ (pa n : Nat) : s.physBytes pa (n + 1) = s.physByte pa :: s.physBytes (pa + 1) n := by
  simp only [State.physBytes, upTo, List.range_succ_eq_map, List.map_cons, List.map_map, Nat.add_zero]
  refine congrArg _ (List.map_congr_left fun i _ => ?_)
  rw [Function.comp_apply, Nat.add_assoc pa 1 i, Nat.add_comm 1 i]

/-- A read through window 2 of bytes that are no pool's and of no poisoned block takes each byte as it stands (R26). -/
theorem State.windowBytes_plain (n : Nat) : ∀ a, (∀ i < n, s.windowOk (a + i) 1 false = true ∧ s.inPools (a + i) 1 = false
      ∧ tagPoison (s.physTag (s.devNum * 2 ^ 44 + (a + i))) = false) →
    s.windowBytes a n = (s.physBytes (s.devNum * 2 ^ 44 + a) n, s) := by
  induction n with
  | zero => exact fun _ _ => rfl
  | succ n ih =>
    intro a h
    obtain ⟨hok, hpool, hpois⟩ := h 0 n.succ_pos
    have hrest := ih (a + 1) fun i hi => by
      have := h (i + 1) (Nat.succ_lt_succ hi)
      rwa [Nat.add_assoc, Nat.add_comm 1 i]
    rw [s.windowBytes_succ a n hok hpool hpois, hrest, State.physBytes_succ, Nat.add_assoc]

end

/-- Bytes that are not of host memory read alike in two states with the same memory. -/
theorem State.physByte_congr {s t : State} {pa : Nat} (hm : t.mem = s.mem) (hs : s.level pa ≠ .host) (ht : t.level pa ≠ .host) :
    t.physByte pa = s.physByte pa := by
  rw [State.physByte, State.physByte, if_neg hs, if_neg ht, hm]

/-- A write of a range whose slices are awake and that is of this tick (R26). -/
theorem exec_windowWrite (s : State) (addr : Nat) (bytes : List Byte) (hok : s.windowOk addr bytes.length true = true)
    (hret : s.retainedIn (s.devNum * 2 ^ 44 + addr) bytes.length = [])
    (hlate : s.tooLate (s.memArrivals [(s.devNum * 2 ^ 44 + addr, bytes.length)] hostKey) = false) :
    exec (.hostMemoryWindow true addr bytes) s = .next
      (((s.arrive (s.memArrivals [(s.devNum * 2 ^ 44 + addr, bytes.length)] hostKey)).putBytes (s.devNum * 2 ^ 44 + addr) bytes).homeWatch
        (s.devNum * 2 ^ 44 + addr) bytes.length true { kind := 7, dev := s.devNum }) := by
  refine congrArg Host.Outcome.next ?_
  dsimp only
  rw [if_neg (by rw [hok]; decide), if_neg (by rw [hret]; decide), if_neg (by rw [hlate]; decide), if_pos rfl]

theorem exec_windowRead (s : State) (addr : Nat) (bytes : List Byte) (hok : s.windowOk addr bytes.length false = true)
    (hret : s.retainedIn (s.devNum * 2 ^ 44 + addr) bytes.length = [])
    (hlate : s.tooLate (s.memArrivals [(s.devNum * 2 ^ 44 + addr, bytes.length)] hostKey) = false) (t : State) (bs : List Byte)
    (ht : ((s.arrive (s.memArrivals [(s.devNum * 2 ^ 44 + addr, bytes.length)] hostKey)).homeWatch
      (s.devNum * 2 ^ 44 + addr) bytes.length false { kind := 7, dev := s.devNum }).windowBytes addr bytes.length = (bs, t)) :
    exec (.hostMemoryWindow false addr bytes) s = .next (t.returns bs) := by
  refine congrArg Host.Outcome.next ?_
  dsimp only
  rw [if_neg (by rw [hok]; decide), if_neg (by rw [hret]; decide), if_neg (by rw [hlate]; decide), if_neg (by decide), ht]

/-- What a write of bytes leaves: the tags, the tasks and all but the memories. -/
theorem State.putBytes_frame {β : Type} (g : State → β) (hg : ∀ (t : State) m h, g { t with mem := m, hostMem := h } = g t)
    (bs : List Byte) : ∀ (s : State) (pa : Nat), g (s.putBytes pa bs) = g s := by
  induction bs with
  | nil => intros; rfl
  | cons b bs ih =>
    intro s pa
    refine (ih (s.putPhys pa b) (pa + 1)).trans ?_
    unfold State.putPhys
    split
    · exact hg s _ _
    · exact hg s _ _

theorem windowWrite_writes (s : State) (addr : Nat) (bytes : List Byte) (hok : s.windowOk addr bytes.length true = true)
    (hret : s.retainedIn (s.devNum * 2 ^ 44 + addr) bytes.length = [])
    (hlate : s.tooLate (s.memArrivals [(s.devNum * 2 ^ 44 + addr, bytes.length)] hostKey) = false) :
    ∃ t, exec (.hostMemoryWindow true addr bytes) s = .next t
      ∧ (∀ a, t.mem.read a = if s.devNum * 2 ^ 44 + addr ≤ a ∧ a < s.devNum * 2 ^ 44 + addr + bytes.length
          then bytes.getD (a - (s.devNum * 2 ^ 44 + addr)) 0 else s.mem.read a)
      ∧ t.tags = s.tags ∧ t.tasks = s.tasks := by
  refine ⟨_, exec_windowWrite s addr bytes hok hret hlate, fun a => ?_, ?_, ?_⟩
  · rw [State.homeWatch_mem, State.read_putBytes _ _ _ _ fun i hi => s.windowOk_ne_host hok hi _]
    rfl
  · rw [State.homeWatch_tags, State.putBytes_frame State.tags fun _ _ _ => rfl]
    rfl
  · rw [State.homeWatch_tasks, State.putBytes_frame State.tasks fun _ _ _ => rfl]
    rfl

theorem windowRead_reads (s : State) (addr : Nat) (bytes : List Byte) (hok : s.windowOk addr bytes.length false = true)
    (hret : s.retainedIn (s.devNum * 2 ^ 44 + addr) bytes.length = [])
    (hlate : s.tooLate (s.memArrivals [(s.devNum * 2 ^ 44 + addr, bytes.length)] hostKey) = false)
    (hpool : s.inPools addr bytes.length = false)
    (hpois : ∀ i < bytes.length, tagPoison (s.physTag (s.devNum * 2 ^ 44 + addr + i)) = false) :
    ∃ t, exec (.hostMemoryWindow false addr bytes) s = .next t
      ∧ t.rdBytes = s.physBytes (s.devNum * 2 ^ 44 + addr) bytes.length
      ∧ t.rd = BitVec.ofNat 64 (bytesToNat (t.rdBytes.take 8)) ∧ t.mem = s.mem ∧ t.tags = s.tags := by
  obtain ⟨u, hu⟩ : ∃ u, u = (s.arrive (s.memArrivals [(s.devNum * 2 ^ 44 + addr, bytes.length)] hostKey)).homeWatch
      (s.devNum * 2 ^ 44 + addr) bytes.length false { kind := 7, dev := s.devNum } := ⟨_, rfl⟩
  have hmem : u.mem = s.mem := by rw [hu, State.homeWatch_mem]; rfl
  have htags : u.tags = s.tags := by rw [hu, State.homeWatch_tags]; rfl
  have hdev : u.devNum = s.devNum := by rw [hu, State.homeWatch_devNum]; rfl
  have hsched : u.sched = s.sched := by rw [hu, State.homeWatch_sched]; rfl
  have hbytes : u.windowBytes addr bytes.length = (u.physBytes (s.devNum * 2 ^ 44 + addr) bytes.length, u) := by
    rw [← hdev]
    refine u.windowBytes_plain _ _ fun i hi => ⟨s.windowOk_byte hok hi, ?_, ?_⟩
    · have := s.inPools_byte hpool hi
      rwa [State.inPools, hsched]
    · have := hpois i hi
      rwa [State.physTag, htags, hdev, ← Nat.add_assoc]
  refine ⟨_, exec_windowRead s addr bytes hok hret hlate _ _ (by rw [← hu]; exact hbytes), ?_, rfl, hmem, htags⟩
  refine List.map_congr_left fun i hi => State.physByte_congr hmem ?_ ?_
  · exact s.windowOk_ne_host hok (List.mem_range.1 hi) s
  · exact s.windowOk_ne_host hok (List.mem_range.1 hi) u

end Sys2Proof.Machine

namespace Sys2Proof.Proofs
open Sys2Proof.Machine

/-- Settles O49: the registers that hold their bits, the writes with an effect of their own, the reads that clear, and window 2. -/
theorem registersComplete : Obligations.RegistersComplete := by
  unfold Obligations.RegistersComplete
  intro s
  refine ⟨fun off v m hm => keeps_of_keptBits s v off m hm, fun v => ?_, ?_, fun addr bytes _ => ?_⟩
  · exact ⟨lodgeCause_clears s v, droopTicks_held s v, exec_schedCtl s v, exec_intakeWrite s v, exec_ceilWrite s v,
      exec_parkThreshWrite s v⟩
  · exact ⟨reads_plain s, reads_intake s, reads_acct s, reads_room s, reads_port s, reads_stream s⟩
  · refine ⟨fun hok hfree => ?_, fun hno => ?_, fun hok hfree hpool hpois => ?_⟩
    · exact windowWrite_writes s addr bytes hok hfree.1 hfree.2
    · show execHostMemoryWindow true addr bytes s = _
      simp only [execHostMemoryWindow, hno]
      rfl
    · exact windowRead_reads s addr bytes hok hfree.1 hfree.2 hpool hpois

end Sys2Proof.Proofs
end

section
/-! SUPPORT. Ewejan ports and messages (R17 to R22), a packet that joins its queue (R57, R117), invalidations and wakes of
translations (R235, R267), the debug halt (R275, R276); and O55. -/

namespace Sys2Proof.Machine

/-! ### A packet joins its queue -/

/-- A tag's watermark state brought up to date changes route tags and the scheduler alone (R117, R130). -/
theorem State.touchWm_frame {β : Type} (g : State → β) (hg : ∀ (t : State) rt sc, g { t with rtags := rt, sched := sc } = g t)
    (s : State) (tag : Nat) : g (s.touchWm tag) = g s := hg s _ _

/-- The task of a packet that joins its tag's queue, the tag being none of launches (R57). -/
theorem State.enqueue_tasks (s : State) (p : Packet) (time : Nat) (pin : Option (Nat × Nat × Nat)) (slot : Option (Nat × Nat))
    (hl : (s.rtag p.tag).cur.launch = false) : ∃ k : Task, (s.enqueue p time pin slot).tasks = s.tasks ++ [k]
      ∧ k.tag = p.tag ∧ k.pid = p.pid ∧ k.arg = p.body.take p.len ∧ k.st = .queued ∧ k.run = .fresh ∧ k.restarts = 0
      ∧ k.frameSlot = slot := by
  unfold State.enqueue
  simp only [hl, Bool.false_eq_true, if_false]
  exact ⟨_, rfl, rfl, rfl, rfl, rfl, rfl, rfl, rfl⟩

/-- A packet that joins the queue of a tag that is none of launches changes its tag, the tasks, the clock and the scheduler. -/
theorem State.enqueue_frame {β : Type} (g : State → β)
    (hg : ∀ (t : State) rt ts c sc, g { t with rtags := rt, tasks := ts, clock := c, sched := sc } = g t)
    (s : State) (p : Packet) (time : Nat) (pin : Option (Nat × Nat × Nat)) (slot : Option (Nat × Nat))
    (hl : (s.rtag p.tag).cur.launch = false) : g (s.enqueue p time pin slot) = g s := by
  unfold State.enqueue
  simp only [hl, Bool.false_eq_true, if_false]
  exact hg s _ _ _ _

/-- A packet whose tag takes it and that finds the pool free joins its queue (R57, R105). -/
theorem State.acceptPacket_joins (s : State) (p : Packet) (guard time : Nat) (slot : Option (Nat × Nat))
    (hr : s.rejectStatus p guard = none) (hk : p.kind ≠ 1) (hq : 1024 < s.qfree) :
    s.acceptPacket p guard time slot = some (s.enqueue p time none slot) := by
  unfold State.acceptPacket
  simp only [hr]
  rw [if_neg hk, if_neg (by omega)]

/-! ### Ports -/

theorem EwjPort.live_iff (e : EwjPort) : e.live = true ↔ e.st = 2 ∨ e.st = 3 := by
  simp [EwjPort.live]

/-- The lanes of a port of which one has failed (R18). -/
theorem lanes_retired : ∀ (l : BitVec 2) (lane : Fin 2), l.getLsbD lane = true →
    (l.getLsbD (1 - lane) = true → l &&& ~~~(1#2 <<< lane.val) = if lane.val = 0 then 2 else 1)
    ∧ (l.getLsbD (1 - lane) = false → l &&& ~~~(1#2 <<< lane.val) = 0) := by decide

/-- A lasting error on one of two lanes leaves the port degraded, and one on its only lane takes it down (R18). -/
theorem EwjPort.retire_eq (e : EwjPort) (lane : Nat) (hlane : lane < 2) (hl : e.lanes.getLsbD lane = true) :
    (e.lanes.getLsbD (1 - lane) = true → e.retire lane = { e with st := 3, lanes := if lane = 0 then 2 else 1 })
    ∧ (e.lanes.getLsbD (1 - lane) = false → e.retire lane = { e with st := 4, lanes := 0 }) := by
  obtain ⟨htwo, hone⟩ := lanes_retired e.lanes ⟨lane, hlane⟩ hl
  constructor
  · intro h
    have hne : (if lane = 0 then 2 else 1 : BitVec 2) ≠ 0 := by split <;> decide
    simp only [EwjPort.retire, htwo h, if_neg hne]
  · intro h
    simp only [EwjPort.retire, hone h, if_true]

theorem exec_ewjPortFail (s : State) (p : Nat) (hp : p < 96) : exec (.ewjPortFail p) s =
    .next { s with ewj := mset s.ewj p { s.ewjPort p with st := 4, lanes := 0 } } := by
  refine congrArg Host.Outcome.next ?_
  rw [if_neg (by omega)]
  rfl

/-- A flit on a lane in use of a live port (R18). -/
theorem exec_ewjFlitReceive (s : State) (p lane : Nat) (crc resent : Bool) (hp : p < 96) (hlane : lane < 2)
    (hlive : (s.ewjPort p).live = true) (hl : (s.ewjPort p).lanes.getLsbD lane = true) :
    exec (.ewjFlitReceive p lane crc resent) s = .next (if !resent then s
      else if crc then s.updEwj p fun e => { e with retries := min (e.retries + 1) 0xFFFF }
      else s.updEwj p fun e => e.retire lane) := by
  refine congrArg Host.Outcome.next ?_
  rw [if_neg]
  simp only [hlive, hl]
  simp
  omega

/-- The flits of a lane that is in use (R18). -/
theorem ewjFlits (s : State) (p lane : Nat) (hp : p < 96) (hlane : lane < 2) (hst : (s.ewjPort p).st = 2 ∨ (s.ewjPort p).st = 3)
    (hl : (s.ewjPort p).lanes.getLsbD lane = true) :
    exec (.ewjFlitReceive p lane false false) s = .next s
    ∧ exec (.ewjFlitReceive p lane true true) s
        = .next { s with ewj := mset s.ewj p { s.ewjPort p with retries := min ((s.ewjPort p).retries + 1) 0xFFFF } }
    ∧ ((s.ewjPort p).lanes.getLsbD (1 - lane) = true → exec (.ewjFlitReceive p lane false true) s
        = .next { s with ewj := mset s.ewj p { s.ewjPort p with st := 3, lanes := if lane = 0 then 2 else 1 } })
    ∧ ((s.ewjPort p).lanes.getLsbD (1 - lane) = false → exec (.ewjFlitReceive p lane false true) s
        = .next { s with ewj := mset s.ewj p { s.ewjPort p with st := 4, lanes := 0 } }) := by
  have he := fun crc resent => exec_ewjFlitReceive s p lane crc resent hp hlane ((EwjPort.live_iff _).2 hst) hl
  obtain ⟨htwo, hone⟩ := (s.ewjPort p).retire_eq lane hlane hl
  refine ⟨he _ _, he _ _, fun h => (he _ _).trans ?_, fun h => (he _ _).trans ?_⟩
  · rw [← htwo h]
    rfl
  · rw [← hone h]
    rfl

/-! ### Messages -/

/-- The stream of a message depends on the number of the device alone (R21). -/
theorem State.ewjStream_congr {s t : State} (h : t.devNum = s.devNum) (m : EwjMsg) : t.ewjStream m = s.ewjStream m := by
  have hhome : t.homeOf = s.homeOf := by
    funext pa
    simp only [State.homeOf, State.level, h]
  simp only [State.ewjStream, State.ewjDest, hhome]

/-- A message that is marked has been delivered (R20). -/
theorem State.delivered_ewjMark (s : State) (m : EwjMsg) (w : List EwjMsg) :
    ({ s.ewjMark m with ewjWait := w } : State).delivered m = true := by
  have hseq : seqOld m.seq (m.seq % 2 ^ 16) = true := by
    simp only [seqOld, Bool.or_eq_true, beq_iff_eq]
    omega
  have hstream : ({ s.ewjMark m with ewjWait := w } : State).ewjStream m = s.ewjStream m := State.ewjStream_congr rfl m
  unfold State.delivered
  rw [Bool.or_eq_true, hstream]
  refine Or.inl (List.any_eq_true.2 ⟨_, List.mem_append_right _ (List.mem_singleton.2 rfl), ?_⟩)
  rw [Bool.and_eq_true, beq_iff_eq]
  exact ⟨rfl, hseq⟩

/-- A message of a live port that is no duplicate is delivered in its turn (R21). -/
theorem exec_ewjMessage (s : State) (m : EwjMsg) (hp : m.port < 96) (hlive : (s.ewjPort m.port).live = true)
    (hlen : ewjPayload m.body ≤ 256) (hnew : s.delivered m = false) :
    exec (.ewjMessageReceive m) s = .next (s.ewjFlush (s.ewjWait ++ [m]) []) := by
  refine congrArg Host.Outcome.next ?_
  rw [if_neg]
  simp only [hlive, hnew]
  simp
  omega

/-- A duplicate and a message of more than 256 bytes change nothing (R17, R20). -/
theorem exec_ewjMessage_discarded (s : State) (m : EwjMsg) (h : 256 < ewjPayload m.body ∨ s.delivered m = true) :
    exec (.ewjMessageReceive m) s = .next s := by
  refine congrArg Host.Outcome.next ?_
  rw [if_pos (.inr (.inr h))]

/-- A remote access that is not done leaves the state but for exits from retention (R45). -/
theorem State.remoteAt_waits (s : State) (port pa n : Nat) (go : State → State) (h : (s.remoteAt port pa n go).2 = false) :
    ∃ as, (s.remoteAt port pa n go).1 = s ∨ (s.remoteAt port pa n go).1 = s.beginExit as := by
  unfold State.remoteAt at *
  dsimp only at *
  refine ⟨s.retainedIn pa n, ?_⟩
  split at h
  · cases h
  next h1 =>
    rw [if_neg h1]
    split at h
    next h2 => rw [if_pos h2]; exact .inr rfl
    next h2 =>
      rw [if_neg h2]
      split at h
      next h3 => rw [if_pos h3]; exact .inl rfl
      · cases h

/-- A message that is not done leaves the state but for exits from retention. -/
theorem State.deliver_waits (s : State) (m : EwjMsg) (h : (s.deliver m).2 = false) :
    ∃ as, (s.deliver m).1 = s ∨ (s.deliver m).1 = s.beginExit as := by
  unfold State.deliver at *
  cases hb : m.body with
  | load pa len => rw [hb] at h; exact s.remoteAt_waits _ _ _ _ h
  | store pa bytes => rw [hb] at h; exact s.remoteAt_waits _ _ _ _ h
  | atomic pa op a b => rw [hb] at h; exact s.remoteAt_waits _ _ _ _ h
  | reduction pa op a => rw [hb] at h; exact s.remoteAt_waits _ _ _ _ h
  | packet p =>
    rw [hb] at h
    dsimp only at h ⊢
    split at h
    next hd =>
      rw [if_pos hd]
      split at h
      · cases h
      next => exact ⟨[], .inl rfl⟩
    next hd => rw [if_neg hd]; exact ⟨[], .inl rfl⟩
  | reply op => rw [hb] at h; cases h

/-- A message whose stream has one that waits and is not done waits behind it (R21). -/
theorem ewjMessage_waits (s : State) (m k : EwjMsg) (hp : m.port < 96) (hlive : (s.ewjPort m.port).live = true)
    (hlen : ewjPayload m.body ≤ 256) (hnew : s.delivered m = false) (hw : s.ewjWait = [k]) (hst : s.ewjStream k = s.ewjStream m)
    (hk : (s.deliver k).2 = false) : ∃ t, exec (.ewjMessageReceive m) s = .next t ∧ t.ewjWait = [k, m] ∧ t.mem = s.mem := by
  obtain ⟨as, has⟩ := s.deliver_waits k hk
  have hdev : (s.deliver k).1.devNum = s.devNum := by rcases has with h | h <;> simp [h, State.beginExit]
  have hmem : (s.deliver k).1.mem = s.mem := by rcases has with h | h <;> simp [h, State.beginExit]
  have hbehind : (s.deliver k).1.ewjBehind m k = true := by
    rw [State.ewjBehind, State.ewjStream_congr hdev, State.ewjStream_congr hdev, hst, beq_self_eq_true, Bool.true_or]
  refine ⟨{ (s.deliver k).1 with ewjWait := [k, m] }, ?_, rfl, hmem⟩
  rw [exec_ewjMessage s m hp hlive hlen hnew, hw]
  refine congrArg Host.Outcome.next ?_
  show s.ewjFlush [k, m] [] = _
  simp only [State.ewjFlush, List.any_nil, Bool.false_eq_true, if_false, hk, List.nil_append, List.any_cons, hbehind, Bool.true_or,
    if_true]
  rfl

/-- A message before which none waits, and which is done, is delivered and marked (R20, R21). -/
theorem ewjMessage_done (s t : State) (m : EwjMsg) (hp : m.port < 96) (hlive : (s.ewjPort m.port).live = true)
    (hlen : ewjPayload m.body ≤ 256) (hnew : s.delivered m = false) (hw : s.ewjWait = []) (hd : s.deliver m = (t, true)) :
    exec (.ewjMessageReceive m) s = .next { t.ewjMark m with ewjWait := [] }
      ∧ ({ t.ewjMark m with ewjWait := [] } : State).delivered m = true := by
  refine ⟨?_, t.delivered_ewjMark m []⟩
  rw [exec_ewjMessage s m hp hlive hlen hnew, hw]
  refine congrArg Host.Outcome.next ?_
  show s.ewjFlush [m] [] = _
  simp only [State.ewjFlush, List.any_nil, Bool.false_eq_true, if_false, hd, if_true]

/-- Nothing of a range is in retention where nothing is. -/
theorem State.retainedIn_nil (s : State) (h : s.power.retained = []) (pa n : Nat) : s.retainedIn pa n = [] := by
  simp [State.retainedIn, State.retained, h]

/-- A remote access of a range that is awake, in its place of the tick (R45, R240). -/
theorem State.remoteAt_done (s : State) (port pa n : Nat) (go : State → State) (hret : s.power.retained = [])
    (hlate : s.tooLate (s.memArrivals [(pa, n)] (ewjKey port)) = false) : s.remoteAt port pa n go =
      (if s.remoteMay pa then go ((s.arrive (s.memArrivals [(pa, n)] (ewjKey port))).useRange pa n) else s, true) := by
  unfold State.remoteAt
  simp only [s.retainedIn_nil hret, hlate]
  cases s.remoteMay pa <;> rfl

/-! #### Stores -/

/-- An access to no home of a wing is none that a home watchpoint sees. -/
theorem State.homeWatch_of_host (s : State) (pa n : Nat) (wr : Bool) (ag : Agent) (h : s.level pa = .host) :
    s.homeWatch pa n wr ag = s := by
  have hw : s.homeWing pa = none := by
    unfold State.homeWing
    rw [h]
  unfold State.homeWatch
  rw [hw]

/-- The last of the bytes written stands in host memory, where its address is of the host (R229). -/
theorem State.hostMem_putBytes_last (bs : List Byte) : ∀ (s : State) (pa : Nat), bs ≠ [] →
    s.level (pa + bs.length - 1) = .host →
    (s.putBytes pa bs).hostMem.read (hostAddr (localOf (pa + bs.length - 1))) = bs.getLastD 0 := by
  induction bs with
  | nil => exact fun _ _ h => absurd rfl h
  | cons b bs ih =>
    intro s pa _ hl
    cases hbs : bs with
    | nil =>
      subst hbs
      have hl0 : s.level pa = .host := hl
      show (s.putPhys pa b).hostMem.read (hostAddr (localOf pa)) = b
      unfold State.putPhys
      rw [if_pos hl0]
      exact (Mem.read_write _ _ _ _).trans (if_pos rfl)
    | cons c cs =>
      have he : pa + (b :: bs).length - 1 = pa + 1 + bs.length - 1 := by
        rw [List.length_cons]
        omega
      rw [← hbs, he]
      rw [he] at hl
      have := ih (s.putPhys pa b) (pa + 1) (by rw [hbs]; exact List.cons_ne_nil c cs) (by rw [State.level_putPhys]; exact hl)
      rw [State.putBytes, this, hbs]
      rfl

end Sys2Proof.Machine
end
section
namespace Sys2Proof.Machine

/-- The addresses of a remote range whose ends are of one level of this device's memory are of that level (R12, R13). -/
theorem State.level_of_range (s : State) (pa n : Nat) (hn : n ≤ 256) (hmay : s.remoteMay pa = true) (hl : s.level pa ≠ .host)
    (hend : s.level (pa + n - 1) = s.level pa) {i : Nat} (hi : i < n) : s.level (pa + i) ≠ .host := by
  have hlev : ∀ a, s.level a ≠ .reserved → s.level a ≠ .remote → localLevel (localOf a) = s.level a := by
    intro a h1 h2
    unfold State.level at *
    split
    next h => rw [if_pos h] at h1; exact absurd rfl h1
    next h =>
      rw [if_neg h] at h2
      split
      · rfl
      next hd => rw [if_neg hd] at h2; exact absurd rfl h2
  have hmem : s.level pa = .landing ∨ s.level pa = .cellar ∨ s.level pa = .attic := by
    simp only [State.remoteMay, Bool.and_eq_true, Bool.or_eq_true, beq_iff_eq] at hmay
    obtain ⟨-, ((h | h) | h) | h⟩ := hmay
    exacts [.inl h, .inr (.inl h), .inr (.inr h), absurd h hl]
  have hne : s.level pa ≠ .reserved ∧ s.level pa ≠ .remote := by
    rcases hmem with h | h | h
    all_goals
      rw [h]
      decide
  have h0 := hlev pa hne.1 hne.2
  have h1 := hlev (pa + n - 1) (by rw [hend]; exact hne.1) (by rw [hend]; exact hne.2)
  rw [hend] at h1
  have hlow : localOf pa < 2 ^ 44 - 256 := by
    rcases hmem with h | h | h
    · rw [h, localLevel_eq_landing] at h0; omega
    · rw [h, localLevel_eq_cellar] at h0; omega
    · rw [h, localLevel_eq_attic] at h0; omega
  have hin : localOf (pa + i) = localOf pa + i := by
    unfold localOf at *
    omega
  have hlast : localOf (pa + n - 1) = localOf pa + (n - 1) := by
    unfold localOf at *
    omega
  have hmid : localLevel (localOf (pa + i)) = s.level pa := by
    refine localLevel_between hne.1 hne.2 h0 h1 ?_ ?_
    · rw [hin]; omega
    · rw [hin, hlast]; omega
  unfold State.level
  rw [hmid]
  split
  · decide
  · split
    · exact hl
    · decide

/-- The state after a store over Ewejan at its home, its message not yet marked (R17). -/
def State.ewjStored (s : State) (m : EwjMsg) (pa : Nat) (bytes : List Byte) : State :=
  (((s.arrive (s.memArrivals [(pa, bytes.length)] (ewjKey m.port))).useRange pa bytes.length).putBytes pa bytes).homeWatch pa
    bytes.length true { kind := 8, dev := m.src, tag := m.tag, age := m.age }

theorem State.ewjStored_tags (s : State) (m : EwjMsg) (pa : Nat) (bytes : List Byte) : (s.ewjStored m pa bytes).tags = s.tags := by
  rw [State.ewjStored, State.homeWatch_tags, State.putBytes_frame State.tags fun _ _ _ => rfl]
  rfl

theorem State.ewjStored_tasks (s : State) (m : EwjMsg) (pa : Nat) (bytes : List Byte) : (s.ewjStored m pa bytes).tasks = s.tasks := by
  rw [State.ewjStored, State.homeWatch_tasks, State.putBytes_frame State.tasks fun _ _ _ => rfl]
  rfl

section
variable (s : State) (m : EwjMsg) (pa : Nat) (hp : m.port < 96) (hlive : (s.ewjPort m.port).live = true)
  (hnew : s.delivered m = false) (hret : s.power.retained = []) (hw : s.ewjWait = [])
include hp hlive hnew hret hw

/-- A store over Ewejan that finds its home awake is delivered (R17, R45). -/
theorem exec_ewjStore (bytes : List Byte) (hb : m.body = .store pa bytes) (hlen : bytes.length ≤ 256) (hmay : s.remoteMay pa = true)
    (hlate : s.tooLate (s.memArrivals [(pa, bytes.length)] (ewjKey m.port)) = false) :
    exec (.ewjMessageReceive m) s = .next { (s.ewjStored m pa bytes).ewjMark m with ewjWait := [] }
      ∧ ({ (s.ewjStored m pa bytes).ewjMark m with ewjWait := [] } : State).delivered m = true := by
  refine ewjMessage_done s _ m hp hlive (by rw [hb]; exact hlen) hnew hw ?_
  rw [State.deliver, hb]
  refine (s.remoteAt_done m.port pa bytes.length _ hret hlate).trans ?_
  rw [if_pos hmay]
  rfl

/-- A store over Ewejan to the host's memory writes its last byte last (R229, R487). -/
theorem ewjStore_host (bytes : List Byte) (hb : m.body = .store pa bytes) (hne : bytes ≠ []) (hlen : bytes.length ≤ 256)
    (hmay : s.remoteMay pa = true) (hl : s.level pa = .host) (hend : s.level (pa + bytes.length - 1) = .host)
    (hlate : s.tooLate (s.memArrivals [(pa, bytes.length)] (ewjKey m.port)) = false) :
    ∃ t, exec (.ewjMessageReceive m) s = .next t ∧ t.delivered m = true
      ∧ t.hostMem.read (hostAddr (localOf (pa + bytes.length - 1))) = bytes.getLastD 0 ∧ t.tasks = s.tasks := by
  obtain ⟨he, hdone⟩ := exec_ewjStore s m pa hp hlive hnew hret hw bytes hb hlen hmay hlate
  refine ⟨_, he, hdone, ?_, s.ewjStored_tasks m pa bytes⟩
  show (s.ewjStored m pa bytes).hostMem.read _ = _
  rw [State.ewjStored, State.homeWatch_of_host]
  · exact State.hostMem_putBytes_last bytes _ pa hne hend
  · rw [State.putBytes_frame (fun t => t.level pa) fun _ _ _ => rfl]
    exact hl

/-- A store over Ewejan to this device's memory writes its bytes and nothing else (R17). -/
theorem ewjStore_mem (bytes : List Byte) (hb : m.body = .store pa bytes) (hlen : bytes.length ≤ 256) (hmay : s.remoteMay pa = true)
    (hl : s.level pa ≠ .host) (hend : s.level (pa + bytes.length - 1) = s.level pa)
    (hlate : s.tooLate (s.memArrivals [(pa, bytes.length)] (ewjKey m.port)) = false) :
    ∃ t, exec (.ewjMessageReceive m) s = .next t ∧ t.delivered m = true
      ∧ (∀ a, t.mem.read a = if pa ≤ a ∧ a < pa + bytes.length then bytes.getD (a - pa) 0 else s.mem.read a)
      ∧ t.tags = s.tags ∧ t.tasks = s.tasks := by
  obtain ⟨he, hdone⟩ := exec_ewjStore s m pa hp hlive hnew hret hw bytes hb hlen hmay hlate
  refine ⟨_, he, hdone, fun a => ?_, s.ewjStored_tags m pa bytes, s.ewjStored_tasks m pa bytes⟩
  show (s.ewjStored m pa bytes).mem.read a = _
  rw [State.ewjStored, State.homeWatch_mem]
  exact State.read_putBytes _ pa a bytes fun i hi => s.level_of_range pa bytes.length hlen hmay hl hend hi

/-- A load over Ewejan leaves memory as it is; its reply leaves the device (R17). -/
theorem ewjLoad (len : Nat) (hb : m.body = .load pa len) (hlen : len ≤ 256)
    (hlate : s.tooLate (s.memArrivals [(pa, len)] (ewjKey m.port)) = false) :
    ∃ t, exec (.ewjMessageReceive m) s = .next t ∧ t.delivered m = true ∧ t.mem = s.mem := by
  have hdl : s.deliver m = s.remoteAt m.port pa len
      fun s1 => s1.homeWatch pa len false { kind := 8, dev := m.src, tag := m.tag, age := m.age } := by rw [State.deliver, hb]
  obtain ⟨he, hdone⟩ := ewjMessage_done s _ m hp hlive (by rw [hb]; exact hlen) hnew hw
    (hdl.trans (s.remoteAt_done m.port pa len _ hret hlate))
  refine ⟨_, he, hdone, ?_⟩
  show (ite (s.remoteMay pa = true) _ s).mem = s.mem
  split
  · exact State.homeWatch_mem ..
  · rfl

end

/-- A packet over Ewejan for this device joins its tag's queue (R51). -/
theorem ewjPacket (s : State) (m : EwjMsg) (p : Packet) (hp : m.port < 96) (hlive : (s.ewjPort m.port).live = true)
    (hnew : s.delivered m = false) (hw : s.ewjWait = []) (hb : m.body = .packet p) (hlen : p.len ≤ 240) (hdev : p.dev = s.devNum)
    (hk : p.kind = 0) (hr : s.rejectStatus p (16 + p.len) = none) (hbody : p.body.length ≤ p.len) (hq : 1024 < s.qfree)
    (hl : (s.rtag p.tag).cur.launch = false) :
    ∃ t, exec (.ewjMessageReceive m) s = .next t ∧ t.delivered m = true ∧ PacketJoins s t p ∧ t.mem = s.mem := by
  have hacc := s.acceptPacket_joins p (16 + p.len) s.domainTime none hr (by omega) hq
  have hdl : s.deliver m = (s.enqueue p s.domainTime none none, true) := by
    rw [State.deliver, hb]
    dsimp only
    rw [if_pos hdev, hacc]
  obtain ⟨he, hdone⟩ := ewjMessage_done s _ m hp hlive (by rw [hb]; show 16 + p.len ≤ 256; omega) hnew hw hdl
  obtain ⟨k, hts, htag, hpid, harg, hst, hrun, hre, -⟩ := s.enqueue_tasks p s.domainTime none none hl
  rw [List.take_of_length_le hbody] at harg
  exact ⟨_, he, hdone, ⟨k, hts, htag, hpid, harg, hst, hrun, hre⟩, State.enqueue_frame State.mem (fun _ _ _ _ _ => rfl) s _ _ _ _ hl⟩

end Sys2Proof.Machine
end
section
namespace Sys2Proof.Machine

/-! ### Every entry of sparse data changed alike -/

theorem mfind_map {α β : Type} (f : α → β) (m : AMap α) (k : Nat) :
    mfind (m.map fun p => (p.1, f p.2)) k = (mfind m k).map f := by
  induction m with
  | nil => rfl
  | cons p t ih =>
    simp only [List.map_cons, mfind]
    split
    · rfl
    · exact ih

theorem mget_map {α β : Type} (f : α → β) (m : AMap α) (k : Nat) (d : α) :
    mget (m.map fun p => (p.1, f p.2)) k (f d) = f (mget m k d) := by
  unfold mget
  rw [mfind_map]
  cases mfind m k <;> rfl

/-! ### Invalidations (R235) -/

/-- Whether an invalidation drops a translation (R235). -/
def xlatGone (v : BitVec 64) (x : Tlb) : Bool :=
  x.asid == natField v.toNat 48 8 && (v.getLsbD 62 || natField v.toNat 16 32 * 65536 / x.size == x.va / x.size)

theorem xlatGone_eq (v : BitVec 64) (x : Tlb) : xlatGone v x = if natBit v.toNat 62 then x.asid == natField v.toNat 48 8
    else x.covers (natField v.toNat 48 8) (natField v.toNat 16 32 * 65536) := by
  unfold xlatGone Tlb.covers
  rw [natBit_toNat]
  cases v.getLsbD 62
  · rfl
  · rw [Bool.true_or, Bool.and_true, if_pos rfl]

/-- A number that fits in 64 bits. -/
theorem toNat_ofNat_lt (n : Nat) (h : n < 2 ^ 64) : (BitVec.ofNat 64 n).toNat = n := Nat.mod_eq_of_lt h

/-- XLAT_INV's register while no combined request and no write of an ended task can be waited for (R235). -/
theorem regWord_xlatInv (s : State) (rooms : AMap Room) (inv : BitVec 64) (wait : List Nat)
    (hw : wait = (s.logs.invWait.filter (fun i => (s.op? i).isSome)).eraseDups) :
    ({ s with rooms := rooms, logs := { s.logs with inv := inv, invWait := wait } } : State).regWord 0x600058
      = (if s.invBusy = true then 2 ^ 63 else 0) + inv.toNat := by
  have hbusy : ({ s with rooms := rooms, logs := { s.logs with inv := inv, invWait := wait } } : State).invBusy = s.invBusy := by
    rw [Bool.eq_iff_iff]
    simp only [State.invBusy, List.any_eq_true, hw, List.mem_eraseDups, List.mem_filter]
    constructor
    · rintro ⟨i, ⟨hi, -⟩, ho⟩
      exact ⟨i, hi, ho⟩
    · rintro ⟨i, hi, ho⟩
      refine ⟨i, ⟨hi, ?_⟩, ho⟩
      obtain ⟨o, hs, -⟩ := (Option.any_eq_true _ _).1 ho
      rw [show s.op? i = some o from hs]
      rfl
  rw [State.regWord_debug (by decide) (by decide)]
  show bit (State.invBusy _) * 2 ^ 63 + inv.toNat = _
  rw [hbusy, bit]
  split <;> simp

theorem xlatInv_drops (s : State) (v : BitVec 64) : ∃ t, exec (.xlatInv v) s = .next t ∧ t.mem = s.mem ∧ t.tasks = s.tasks
    ∧ (s.combos = [] → (∀ o ∈ s.ops, o.orphan = none) → t.regWord 0x600058
        = (if s.invBusy = true then 2 ^ 63 else 0) + v.toNat / 2 ^ 62 % 2 * 2 ^ 62 + v.toNat / 2 ^ 16 % 2 ^ 40 * 2 ^ 16)
    ∧ ∀ r, (t.room r).tlb = (s.room r).tlb.filter fun x => !xlatGone v x := by
  refine ⟨_, rfl, rfl, rfl, fun hc ho => ?_, fun r => ?_⟩
  · refine (regWord_xlatInv s _ _ _ ?_).trans ?_
    · have hops : ∀ f : Op → Bool, (s.ops.filter fun o => o.orphan.isSome || (false && f o)) = [] := by
        intro f
        rw [List.filter_eq_nil_iff]
        intro o h
        simp [ho o h]
      simp only [hc, List.flatMap_nil, List.contains_nil]
      rw [hops, List.map_nil, List.append_nil]
    · have hlt : natField v.toNat 62 1 * 2 ^ 62 + natField v.toNat 16 40 * 2 ^ 16 < 2 ^ 64 := by
        have h1 := natField_lt v.toNat 62 1
        have h2 := natField_lt v.toNat 16 40
        omega
      rw [toNat_ofNat_lt _ hlt, ← Nat.add_assoc]
      rfl
  · have hroom := mget_map (fun k : Room => { k with tlb := k.tlb.filter fun x =>
      !(if natBit v.toNat 62 then x.asid == natField v.toNat 48 8
        else x.covers (natField v.toNat 48 8) (natField v.toNat 16 32 * 65536)) }) s.rooms r {}
    exact (congrArg Room.tlb hroom).trans (List.filter_congr fun x _ => congrArg _ (xlatGone_eq v x).symm)

/-! ### Wakes (R267) -/

/-- A walk that a room can take is in flight after it begins (R266). -/
theorem Room.mem_beginWalk (k : Room) (asid page : Nat) (h : k.walks.length < 256) : (asid, page) ∈ (k.beginWalk asid page).walks := by
  unfold Room.beginWalk
  split
  next hc => simpa [show ¬ 256 ≤ k.walks.length by omega] using hc
  next => exact List.mem_append_right _ (List.mem_singleton.2 rfl)

/-- The walks of a room stay in flight when another begins. -/
theorem Room.beginWalk_mono (k : Room) (asid page : Nat) {w : Nat × Nat} (h : w ∈ k.walks) : w ∈ (k.beginWalk asid page).walks := by
  unfold Room.beginWalk
  split
  · exact h
  · exact List.mem_append_left _ h

/-- A page's walk begins in some rooms. -/
def State.walkIn (s : State) (asid page : Nat) (rooms : List Nat) : State :=
  foldState rooms s fun r st => st.updRoom r fun k => k.beginWalk asid page

theorem State.walkIn_frame {β : Type} (g : State → β) (hg : ∀ (t : State) rs, g { t with rooms := rs } = g t)
    (s : State) (asid page : Nat) (rooms : List Nat) : g (s.walkIn asid page rooms) = g s :=
  foldState_frame g _ (fun _ _ => hg _ _) _ _

/-- The walk is in flight in each of the rooms that could take it. -/
theorem State.mem_walkIn (asid page r : Nat) (rooms : List Nat) : ∀ s : State, r ∈ rooms → (s.room r).walks.length < 256 →
    (asid, page) ∈ ((s.walkIn asid page rooms).room r).walks := by
  induction rooms with
  | nil => exact fun _ h => absurd h List.not_mem_nil
  | cons a l ih =>
    intro s hr hlen
    show _ ∈ (((s.updRoom a fun k => k.beginWalk asid page).walkIn asid page l).room r).walks
    by_cases ha : r = a
    · subst ha
      refine foldState_keeps (fun t => (asid, page) ∈ (t.room r).walks) _ (fun b t ht => ?_) l _ ?_
      · rw [State.room_updRoom]
        split
        next hb => exact hb ▸ Room.beginWalk_mono _ _ _ ht
        next => exact ht
      · rw [State.room_updRoom, if_pos rfl]
        exact Room.mem_beginWalk _ _ _ hlen
    · have hmem : r ∈ l := (List.mem_cons.1 hr).resolve_left ha
      refine ih _ hmem ?_
      rw [State.room_updRoom, if_neg ha]
      exact hlen

theorem xlatWake_walks (s : State) (v : BitVec 64) (o : Op) (ho : o ∈ s.ops) (hph : o.phase = .held)
    (hpage : o.heldPage = natField v.toNat 16 32 * 65536) (hasid : s.asidOf (s.task o.task) = natField v.toNat 48 8)
    (hlen : (s.room (s.task o.task).room).walks.length < 256) : ∃ t, exec (.xlatWake v) s = .next t
      ∧ (natField v.toNat 48 8, natField v.toNat 16 32 * 65536) ∈ (t.room (s.task o.task).room).walks
      ∧ { o with reported := false } ∈ t.ops ∧ t.mem = s.mem ∧ t.cells = s.cells := by
  have hheld : (o.phase == .held && o.heldPage == natField v.toNat 16 32 * 65536
      && s.asidOf (s.task o.task) == natField v.toNat 48 8) = true := by
    simp [hph, hpage, hasid]
  refine ⟨_, rfl, State.mem_walkIn _ _ _ _ _ ?_ hlen, ?_, ?_, ?_⟩
  · rw [List.mem_eraseDups]
    exact List.mem_map.2 ⟨o, List.mem_filter.2 ⟨ho, hheld⟩, rfl⟩
  · refine (State.walkIn_frame State.ops (fun _ _ => rfl) _ _ _ _).symm ▸ List.mem_map.2 ⟨o, ho, ?_⟩
    exact if_pos hheld
  · exact State.walkIn_frame State.mem (fun _ _ => rfl) _ _ _ _
  · exact State.walkIn_frame State.cells (fun _ _ => rfl) _ _ _ _

end Sys2Proof.Machine
end
section
namespace Sys2Proof.Machine

/-! ### The debug halt (R275, R276) -/

/-- The state of a halt before its tasks and elements are frozen (R275). -/
def State.haltMark (s : State) (v : BitVec 64) (scope : Nat) : State :=
  { s with logs := { s.logs with haltCell := cellAt (natField v.toNat 6 6) (natField v.toNat 0 6),
                                 haltScope := scope, haltSt := 2 } }

/-- The task whose gang a halt names (R276). -/
def State.haltOwner (s : State) (v : BitVec 64) : Option Task := s.owner? (cellAt (natField v.toNat 6 6) (natField v.toNat 0 6))

/-- Whether a halt of launch scope freezes a task: the owner's own gang, and those of its launch (R276). -/
def sameLaunch (own : Option Task) (u : Task) : Bool :=
  own.any fun k => k.id == u.id || (k.launch.any fun a => u.launch.any fun b => a.launch == b.launch)

section
variable (s : State) (v : BitVec 64) (hv : v.getLsbD 63 = true)
include hv

theorem exec_haltGang (hs : natField v.toNat 60 2 = 0) : exec (.dbgHalt v) s =
    .next ((s.haltMark v 0).haltTasks fun t => (s.haltOwner v).any fun k => k.id == t.id) := by
  refine congrArg Host.Outcome.next ?_
  rw [natBit_toNat, hv, if_neg (by decide)]
  dsimp only
  rw [hs]
  rfl

theorem exec_haltLaunch (hs : natField v.toNat 60 2 = 1) : exec (.dbgHalt v) s =
    .next (match (s.haltOwner v).bind (·.launch) with
      | some l => { (s.haltMark v 1).haltTasks (sameLaunch (s.haltOwner v)) with
          launches := s.launches.map fun (x : Launch) => if x.id = l.launch then { x with halted := true } else x }
      | none => (s.haltMark v 1).haltTasks (sameLaunch (s.haltOwner v))) := by
  refine congrArg Host.Outcome.next ?_
  rw [natBit_toNat, hv, if_neg (by decide)]
  dsimp only
  rw [hs]
  rfl

theorem exec_haltDevice (hs : natField v.toNat 60 2 = 2) : exec (.dbgHalt v) s =
    .next { (s.haltMark v 2).haltTasks fun _ => true with sched := { s.sched with hold := true } } := by
  refine congrArg Host.Outcome.next ?_
  rw [natBit_toNat, hv, if_neg (by decide)]
  dsimp only
  rw [hs]
  rfl

theorem exec_haltCell (hs : natField v.toNat 60 2 = 3) : exec (.dbgHalt v) s =
    .next ((s.haltMark v 3).updCell (cellAt (natField v.toNat 6 6) (natField v.toNat 0 6)) fun cl =>
      { cl with halted := true, elems := cl.elems.map fun (e : Nat × Elem) => (e.1, { e.2 with halted := true }) }) := by
  refine congrArg Host.Outcome.next ?_
  rw [natBit_toNat, hv, if_neg (by decide)]
  dsimp only
  rw [hs]
  rfl

/-- A halt of one gang freezes its running task until GO (R275). -/
theorem haltGang_freezes (k : Task) (hown : s.haltOwner v = some k) (hrun : k.st = .running)
    (hone : s.tasks.filter (fun u => u.id == k.id) = [k]) (hs : natField v.toNat 60 2 = 0) :
    ∃ t, exec (.dbgHalt v) s = .next t ∧ t.task? k.id = some { k with halted := true } ∧ t.logs.haltSt = 2
      ∧ (∀ n, n ≠ k.id → t.task? n = s.task? n) ∧ { t with tasks := s.tasks, logs := s.logs } = s := by
  have hfind : ∀ n, ((s.haltMark v 0).haltTasks fun t => (some k).any fun k => k.id == t.id).task? n =
      (s.task? n).map fun t => if t.st = .running ∧ (k.id == t.id) = true then { t with halted := true } else t := by
    intro n
    show List.find? _ (List.map _ s.tasks) = _
    rw [List.find?_map]
    refine congrArg (Option.map _) (List.find?_congr fun t _ => ?_)
    show ((if _ then _ else _ : Task).id == n) = _
    split <;> rfl
  have hk : s.task? k.id = some k := by
    rw [State.task?, ← List.head?_filter, hone]
    rfl
  have hexec := exec_haltGang s v hv hs
  rw [hown] at hexec
  refine ⟨_, hexec, ?_, rfl, fun n hn => ?_, rfl⟩
  · rw [hfind, hk]
    simp [hrun]
  · rw [hfind]
    cases hf : s.task? n with
    | none => rfl
    | some u =>
      have hid : u.id = n := by simpa using List.find?_some hf
      have hne : ¬ (k.id == u.id) = true := by
        rw [beq_iff_eq, hid]
        exact fun h => hn h.symm
      exact congrArg some (if_neg fun h => hne h.2)

/-- A halt of launch scope freezes the owner's gang and every running task of its launch, of which no more is staged (R276). -/
theorem haltLaunch_freezes (k : Task) (hs : natField v.toNat 60 2 = 1) (hown : s.haltOwner v = some k) :
    let mine (u : Task) : Prop := u.id = k.id ∨ ∃ a b, k.launch = some a ∧ u.launch = some b ∧ a.launch = b.launch
    ∃ t, exec (.dbgHalt v) s = .next t ∧ t.logs.haltSt = 2 ∧ t.tasks.length = s.tasks.length
      ∧ (∀ (i : Nat) (u : Task), s.tasks[i]? = some u → (u.st = .running → mine u → t.tasks[i]? = some { u with halted := true })
          ∧ (u.st ≠ .running ∨ ¬ mine u → t.tasks[i]? = some u))
      ∧ (∀ a, k.launch = some a → (∀ l ∈ t.launches, l.id = a.launch → l.halted = true)
          ∧ ∀ (u : Task) (b : LaunchRef), u.launch = some b → b.launch = a.launch → (∃ l ∈ s.launches, l.id = a.launch) →
              t.taskMay u = false)
      ∧ (k.launch = none → t.launches = s.launches)
      ∧ { t with tasks := s.tasks, launches := s.launches, logs := s.logs } = s := by
  intro mine
  have hmine : ∀ u, sameLaunch (some k) u = true ↔ mine u := by
    intro u
    simp only [sameLaunch, Option.any_some, Bool.or_eq_true, beq_iff_eq, Option.any_eq_true, mine]
    constructor
    · rintro (h | ⟨a, ha, b, hb, hab⟩)
      · exact .inl h.symm
      · exact .inr ⟨a, b, ha, hb, hab⟩
    · rintro (h | ⟨a, b, ha, hb, hab⟩)
      · exact .inl h.symm
      · exact .inr ⟨a, ha, b, hb, hab⟩
  have hlen : ((s.haltMark v 1).haltTasks (sameLaunch (some k))).tasks.length = s.tasks.length := List.length_map _
  have htasks : ∀ (i : Nat) (u : Task), s.tasks[i]? = some u →
      (u.st = .running → mine u → ((s.haltMark v 1).haltTasks (sameLaunch (some k))).tasks[i]? = some { u with halted := true })
      ∧ (u.st ≠ .running ∨ ¬ mine u → ((s.haltMark v 1).haltTasks (sameLaunch (some k))).tasks[i]? = some u) := by
    intro i u hu
    have hget : ((s.haltMark v 1).haltTasks (sameLaunch (some k))).tasks[i]? =
        some (if u.st = .running ∧ sameLaunch (some k) u = true then { u with halted := true } else u) := by
      show (List.map _ s.tasks)[i]? = _
      rw [List.getElem?_map, hu]
      rfl
    rw [hget]
    refine ⟨fun hrun hm => ?_, fun h => ?_⟩
    · rw [if_pos ⟨hrun, (hmine u).2 hm⟩]
    · rw [if_neg]
      rintro ⟨hrun, hm⟩
      exact h.elim (fun h => h hrun) (fun h => h ((hmine u).1 hm))
  have hexec := exec_haltLaunch s v hv hs
  rw [hown] at hexec
  cases hl : k.launch with
  | none =>
    rw [Option.bind_some, hl] at hexec
    exact ⟨_, hexec, rfl, hlen, htasks, fun a ha => (nomatch ha), fun _ => rfl, rfl⟩
  | some a =>
    rw [Option.bind_some, hl] at hexec
    refine ⟨_, hexec, rfl, hlen, htasks, fun a' ha => ?_, fun h => (nomatch h), rfl⟩
    cases ha
    have hhalted : ∀ l ∈ s.launches.map (fun (x : Launch) => if x.id = a.launch then { x with halted := true } else x),
        l.id = a.launch → l.halted = true := by
      intro l hl hid
      obtain ⟨x, -, rfl⟩ := List.mem_map.1 hl
      split at hid
      next h => rw [if_pos h]
      next h => exact absurd hid h
    refine ⟨hhalted, fun u b hu hb hex => ?_⟩
    obtain ⟨l, hmem, hid⟩ := hex
    unfold State.taskMay
    have hany : (u.launch.any fun k => (s.launches.map fun (x : Launch) =>
        if x.id = a.launch then { x with halted := true } else x).any fun l => l.id == k.launch && l.halted) = true := by
      rw [hu, Option.any_some, List.any_eq_true]
      refine ⟨_, List.mem_map_of_mem hmem, ?_⟩
      rw [if_pos hid, hb]
      simp [hid]
    dsimp only
    rw [hany, Bool.not_true, Bool.and_false, Bool.false_and, Bool.false_and]

theorem haltDevice_freezes (hs : natField v.toNat 60 2 = 2) : ∃ t, exec (.dbgHalt v) s = .next t ∧ t.sched.hold = true
    ∧ (∀ k ∈ t.tasks, k.st = .running → k.halted = true) ∧ t.mem = s.mem := by
  refine ⟨_, exec_haltDevice s v hv hs, rfl, fun k hk hrun => ?_, rfl⟩
  obtain ⟨x, -, rfl⟩ := List.mem_map.1 hk
  split at hrun
  next h => rw [if_pos h]
  next h => exact absurd ⟨hrun, rfl⟩ h

theorem haltCell_freezes (hs : natField v.toNat 60 2 = 3) : ∃ t, exec (.dbgHalt v) s = .next t
    ∧ (t.cell (cellAt (natField v.toNat 6 6) (natField v.toNat 0 6))).halted = true
    ∧ (∀ d, d ≠ cellAt (natField v.toNat 6 6) (natField v.toNat 0 6) → t.cell d = s.cell d) ∧ t.tasks = s.tasks := by
  refine ⟨_, exec_haltCell s v hv hs, ?_, fun d hd => ?_, rfl⟩
  · exact congrArg Cell.halted (mget_mset_self _ _ _ _)
  · exact mget_mset_ne _ _ _ hd

end

/-- A write with both HALT and GO halts and does not go (R275). -/
theorem exec_dbgGo_halt (s : State) (v : BitVec 64) (hv : v.getLsbD 63 = true) : exec (.dbgGo v) s = .next s := by
  refine congrArg Host.Outcome.next ?_
  rw [natBit_toNat, natBit_toNat, hv, if_pos (.inr rfl)]

theorem dbgGo_thaws (s : State) (v : BitVec 64) (hv : v.getLsbD 63 = false) (hgo : v.getLsbD 62 = true) :
    ∃ t, exec (.dbgGo v) s = .next t ∧ t.logs.haltSt = 0 ∧ (∀ k ∈ t.tasks, k.halted = false) ∧ (∀ c, (t.cell c).halted = false)
      ∧ (∀ c e, (t.elem c e).halted = false) ∧ t.mem = s.mem := by
  have hexec : exec (.dbgGo v) s = .next
      { s with
        logs := { s.logs with haltSt := 0 }
        tasks := s.tasks.map fun (t : Task) => { t with halted := false }
        launches := s.launches.map fun (x : Launch) => { x with halted := false }
        cells := s.cells.map fun (p : Nat × Cell) =>
          (p.1, { p.2 with halted := false, elems := p.2.elems.map fun (e : Nat × Elem) => (e.1, { e.2 with halted := false }) }) } := by
    refine congrArg Host.Outcome.next ?_
    rw [natBit_toNat, natBit_toNat, hv, hgo, if_neg (by decide)]
  have hcell : ∀ c, _ = _ := fun c => mget_map (fun cl : Cell =>
    { cl with halted := false, elems := cl.elems.map fun (e : Nat × Elem) => (e.1, { e.2 with halted := false }) }) s.cells c {}
  refine ⟨_, hexec, rfl, fun k hk => ?_, fun c => congrArg Cell.halted (hcell c), fun c e => ?_, rfl⟩
  · obtain ⟨x, -, rfl⟩ := List.mem_map.1 hk
    rfl
  · refine (congrArg (fun cl : Cell => (cl.elem e).halted) (hcell c)).trans ?_
    exact congrArg Elem.halted (mget_map (fun x : Elem => { x with halted := false }) (s.cell c).elems e {})

end Sys2Proof.Machine

namespace Sys2Proof.Proofs
open Sys2Proof.Machine

/-- Settles O55: ports, messages, invalidations, wakes and the scopes of the debug halt, each by its own lemma. -/
theorem linksComplete : Obligations.LinksComplete := by
  unfold Obligations.LinksComplete
  intro s
  refine ⟨fun p lane hp hlane => ?_, fun m hp hlive => ?_, xlatInv_drops s, ?_, ?_, ?_, haltDevice_freezes s, haltCell_freezes s,
    fun v hv _ => exec_dbgGo_halt s v hv, dbgGo_thaws s⟩
  · exact ⟨exec_ewjPortFail s p hp, ewjFlits s p lane hp hlane⟩
  · refine ⟨fun hd => exec_ewjMessage_discarded s m (.inr hd), fun hnew hlen k hw hst hk => ?_,
      fun _ hlen => exec_ewjMessage_discarded s m (.inl hlen), fun hnew hret hw => ⟨?_, ?_, ?_, ?_⟩⟩
    · exact ewjMessage_waits s m k hp hlive hlen hnew hw hst hk
    · intro pa bytes hb hne hlen hmay hl hend _ hlate
      exact ewjStore_host s m pa hp hlive hnew hret hw bytes hb hne hlen hmay hl hend hlate
    · intro pa bytes hb _ hlen hmay hl hend hlate
      exact ewjStore_mem s m pa hp hlive hnew hret hw bytes hb hlen hmay hl hend hlate
    · intro pa len hb hlen hlate
      exact ewjLoad s m pa hp hlive hnew hret hw len hb hlen hlate
    · intro p hb hlen hdev hk hr hbody hq hl
      exact ewjPacket s m p hp hlive hnew hw hb hlen hdev hk hr hbody hq hl
  · exact fun v o ho hph hpage hasid hlen => xlatWake_walks s v o ho hph hpage hasid hlen
  · exact fun v k hv hown hrun hone hs => haltGang_freezes s v hv k hown hrun hone hs
  · exact fun v k hv hs hown => haltLaunch_freezes s v hv k hs hown

end Sys2Proof.Proofs
end

section
/-! SUPPORT. Rings of the host (R59, R62), the entries of the route-tag table (R64 to R66), the frames of the front door (R69 to R73);
and O48. -/

namespace Sys2Proof.Machine

/-! ### Bytes read where they were written -/

theorem Mem.readBytes_eq (m : Mem) (n : Nat) : ∀ a, m.readBytes a n = (List.range n).map fun i => m.read (a + i) := by
  induction n with
  | zero => exact fun _ => rfl
  | succ n ih =>
    intro a
    rw [Mem.readBytes, ih, List.range_succ_eq_map, List.map_cons, List.map_map]
    refine congrArg _ (List.map_congr_left fun i _ => ?_)
    rw [Function.comp_apply, Nat.add_assoc, Nat.add_comm 1 i]

theorem map_getD_range (bs : List Byte) : ((List.range bs.length).map fun i => bs.getD i 0) = bs := by
  refine List.ext_getElem (by simp) fun i h1 h2 => ?_
  rw [List.getElem_map, List.getElem_range, List.getD_eq_getElem _ _ h2]

theorem Mem.readBytes_writeBytes (m : Mem) (a : Nat) (bs : List Byte) : (m.writeBytes a bs).readBytes a bs.length = bs := by
  rw [Mem.readBytes_eq]
  refine Eq.trans (List.map_congr_left fun i hi => ?_) (map_getD_range bs)
  rw [Mem.read_writeBytes, if_pos ⟨Nat.le_add_right _ _, Nat.add_lt_add_left (List.mem_range.1 hi) a⟩, Nat.add_sub_cancel_left]

@[simp] theorem length_natToBytes (n : Nat) : ∀ v, (natToBytes n v).length = n := by
  induction n with
  | zero => exact fun _ => rfl
  | succ n ih => exact fun v => congrArg (· + 1) (ih (v / 256))

/-! ### Watermarks (R117) -/

theorem onlyWatermarks_refl (s : State) : OnlyWatermarks s s := rfl

/-- A part of the state apart from the tags and the scheduler is unchanged where the watermark states alone differ. -/
theorem onlyWatermarks_frame {s t : State} (h : OnlyWatermarks s t) {β : Type} (g : State → β)
    (hg : ∀ (t : State) rt sc, g { t with rtags := rt, sched := sc } = g t) : g t = g s := (hg t _ _).symm.trans (congrArg g h)

theorem onlyWatermarks_touchWm {s t : State} (h : OnlyWatermarks s t) (tag : Nat) : OnlyWatermarks s (t.touchWm tag) := h

theorem onlyWatermarks_touchAllWm (s : State) : OnlyWatermarks s s.touchAllWm :=
  foldState_keeps (OnlyWatermarks s) _ (fun a _ h => onlyWatermarks_touchWm h a) _ _ (onlyWatermarks_refl s)

/-- The watermark state of one tag changes that tag alone. -/
theorem State.rtag_touchWm (s : State) (tag m : Nat) :
    (s.touchWm tag).rtag m = if m = tag then { s.rtag tag with wm := s.nextWm tag } else s.rtag m := mget_mset _ _ _ _ _

/-! ### Rings of the host (R59, R62) -/

theorem foldState_id {α : Type} (f : α → State → State) (l : List α) (h : ∀ a ∈ l, ∀ s, f a s = s) (s : State) :
    foldState l s f = s := by
  induction l with
  | nil => rfl
  | cons a l ih =>
    show foldState l (f a s) f = s
    rw [h a List.mem_cons_self]
    exact ih fun b hb => h b (List.mem_cons_of_mem _ hb)

/-- Where no launch has ended, the drain of the rings writes the records that wait and brings up the watermarks (R62, R93). -/
theorem State.drainRings_open (s : State) (h : ∀ l ∈ (s.drainNotices s.notices []).launches, l.ended < l.nx * l.ny) :
    OnlyWatermarks (s.drainNotices s.notices []) s.drainRings := by
  have hw := onlyWatermarks_touchAllWm (s.drainNotices s.notices [])
  have hl : (s.drainNotices s.notices []).touchAllWm.launches = (s.drainNotices s.notices []).launches :=
    onlyWatermarks_frame hw State.launches fun _ _ _ => rfl
  unfold State.drainRings
  dsimp only
  rw [foldState_id]
  · exact hw
  · intro l hmem t
    rw [hl] at hmem
    exact if_pos (h l hmem)

/-- Nothing is drained where no record waits. -/
theorem State.drainNotices_none (s : State) (h : s.notices = []) : s.drainNotices s.notices [] = s := by
  rw [h]
  exact congrArg (fun l => ({ s with notices := l } : State)) h.symm

/-- The one record that waits is written where its ring takes it (R62). -/
theorem State.drainNotices_one (s : State) (x : Notice) (h : (s.ring x.ring).full = false) :
    s.drainNotices [x] [] = { (if x.att then (s.putRecord x.ring x.bytes).attDone else s.putRecord x.ring x.bytes) with notices := [] } := by
  simp only [State.drainNotices, h, List.any_nil, Bool.or_self, Bool.false_eq_true, if_false]

theorem State.ring_put (s : State) (n m : Nat) (r : HostRing) :
    ({ s with rings := mset s.rings n r } : State).ring m = if m = n then r else s.ring m := mget_mset _ _ _ _ _

theorem State.ring_putRecord (s : State) (n : Nat) (bytes : List Byte) : (s.putRecord n bytes).ring n =
    { s.ring n with prod := ((s.ring n).prod + 1) % ringSize (s.ring n).sz, irqDue := true } := mget_mset_self _ _ _ _

/-- A ring's registers taken while no record waits (R59). -/
theorem State.ringPut_plain (s : State) (n : Nat) (r : HostRing) (hn : s.notices = []) (hl : ∀ l ∈ s.launches, l.ended < l.nx * l.ny) :
    let t := ({ s with rings := mset s.rings n r } : State).drainRings
    t.ring n = r ∧ (∀ m, m ≠ n → t.ring m = s.ring m) ∧ OnlyWatermarks { s with rings := t.rings } t := by
  intro t
  have hd := ({ s with rings := mset s.rings n r } : State).drainNotices_none hn
  have hw := ({ s with rings := mset s.rings n r } : State).drainRings_open (by rw [hd]; exact hl)
  rw [hd] at hw
  have hring : ∀ m, t.ring m = if m = n then r else s.ring m := fun m =>
    (onlyWatermarks_frame hw (fun t => t.ring m) fun _ _ _ => rfl).trans (s.ring_put n m r)
  have hrings : t.rings = mset s.rings n r := onlyWatermarks_frame hw State.rings fun _ _ _ => rfl
  refine ⟨(hring n).trans (if_pos rfl), fun m hm => (hring m).trans (if_neg hm), ?_⟩
  rw [hrings]
  exact hw

/-- A ring's registers taken while one record waits that the ring now takes (R59, R62). -/
theorem State.ringPut_drains (s : State) (n : Nat) (r : HostRing) (x : Notice) (hn : s.notices = [x]) (hx : x.ring = n)
    (hfull : r.full = false) (hlen : x.bytes.length = 256) (hl : ∀ l ∈ s.launches, l.ended < l.nx * l.ny) :
    let t := ({ s with rings := mset s.rings n r } : State).drainRings
    t.notices = [] ∧ t.hostMem.readBytes (r.base + 256 * (r.prod % ringSize r.sz)) 256 = x.bytes
      ∧ t.ring n = { r with prod := (r.prod + 1) % ringSize r.sz, irqDue := true } := by
  intro t
  subst hx
  obtain ⟨u, hu⟩ : ∃ u : State, u = { s with rings := mset s.rings x.ring r } := ⟨_, rfl⟩
  have hr : u.ring x.ring = r := by rw [hu]; exact (s.ring_put _ _ r).trans (if_pos rfl)
  have hd : u.drainNotices u.notices [] =
      { (if x.att then (u.putRecord x.ring x.bytes).attDone else u.putRecord x.ring x.bytes) with notices := [] } := by
    rw [show u.notices = [x] by rw [hu]; exact hn]
    exact u.drainNotices_one x (by rw [hr]; exact hfull)
  have hrec : ∀ {β : Type} (g : State → β), (∀ (t : State) lo nt, g { t with lodge := lo, notices := nt } = g t) →
      g (u.drainNotices u.notices []) = g (u.putRecord x.ring x.bytes) := by
    intro β g hg
    rw [hd]
    split
    · exact hg (u.putRecord x.ring x.bytes) _ _
    · exact hg (u.putRecord x.ring x.bytes) _ _
  have hlaunch : (u.drainNotices u.notices []).launches = s.launches := by
    rw [hrec State.launches fun _ _ _ => rfl, hu]
    rfl
  have hw := u.drainRings_open (by rw [hlaunch]; exact hl)
  have ht : t = u.drainRings := by rw [hu]
  rw [← ht] at hw
  refine ⟨?_, ?_, ?_⟩
  · rw [onlyWatermarks_frame hw State.notices fun _ _ _ => rfl, hd]
  · rw [onlyWatermarks_frame hw State.hostMem fun _ _ _ => rfl, hrec State.hostMem fun _ _ _ => rfl, State.putRecord, hr, ← hlen]
    exact Mem.readBytes_writeBytes _ _ _
  · rw [onlyWatermarks_frame hw (fun t => t.ring x.ring) fun _ _ _ => rfl, hrec (fun t => t.ring x.ring) fun _ _ _ => rfl, State.ring_putRecord, hr]

/-- A write of a ring's register (R59). -/
theorem exec_hostRingWrite (s : State) (n word : Nat) (v : BitVec 64) (hn : n ≤ 16) : exec (.hostRingWrite n word v) s =
    .next (({ s with rings := mset s.rings n (if word = 0 then
        { s.ring n with base := natField v.toNat 12 52 * 4096, sz := natField v.toNat 8 4, en := v.getLsbD 0 }
      else { s.ring n with vec := natField v.toNat 48 16, cons := natField v.toNat 16 16 }) } : State).drainRings) := by
  refine congrArg Host.Outcome.next ?_
  rw [if_neg (by omega)]
  rfl

end Sys2Proof.Machine
end
section
namespace Sys2Proof.Machine

/-! ### Entries of the route-tag table (R64 to R66) -/

theorem bit_natBit (n i : Nat) : bit (natBit n i) = natField n i 1 := by
  unfold bit natBit natField
  rw [Nat.testBit_eq_decide_div_mod_eq]
  rcases Nat.mod_two_eq_zero_or_one (n / 2 ^ i) with h | h <;> simp [h]

/-- An entry written in a tick without a TAGCTL of the tag (R66). -/
theorem RouteTag.write_eq (r : RouteTag) (e : RtEntry) (en : Bool) (tick : Nat) (h : ∀ q ∈ r.ctl, q.tick ≠ tick) :
    r.write e en tick = { r with en := en, written := true, gen := r.gen + 1, cur := e,
                                 old := if r.written then some r.cur else none } := by
  have hctl : (r.ctl.filter fun c => c.tick == tick) = [] := by
    rw [List.filter_eq_nil_iff]
    intro q hq
    simpa using h q hq
  unfold RouteTag.write
  rw [hctl]
  rfl

/-- The reserved bits of a stage that is not refused are zero (R65). -/
theorem State.stage_reserved (s : State) (h : s.stageBad = false) :
    natField (s.stageWord 0) 52 1 = 0 ∧ natField (s.stageWord 0) 0 16 = 0 ∧ natField (s.stageWord 3) 0 16 = 0 := by
  simp only [State.stageBad, Bool.or_eq_false_iff, bne_eq_false_iff_eq] at h
  obtain ⟨⟨⟨⟨⟨h52, h0⟩, h3⟩, -⟩, -⟩, -⟩ := h
  refine ⟨?_, h0, h3⟩
  rw [← bit_natBit, h52]
  rfl

/-- A field above the bits below it. -/
theorem natField_glue (w lo len : Nat) : natField w lo len * 2 ^ lo + w % 2 ^ lo = w % 2 ^ (lo + len) := by
  rw [Nat.pow_add, Nat.mod_mul, natField, Nat.mul_comm, Nat.add_comm]

/-- The fields of word 0 of an entry, of which bit 62 is the tag's own, make the word again (R64). -/
theorem word0_eq (w p : Nat) (hw : w < 2 ^ 64) (h52 : natField w 52 1 = 0) (h0 : natField w 0 16 = 0) :
    natField w 63 1 * 2 ^ 63 + p * 2 ^ 62 + natField w 61 1 * 2 ^ 61 + natField w 60 1 * 2 ^ 60 + natField w 59 1 * 2 ^ 59
      + natField w 58 1 * 2 ^ 58 + natField w 57 1 * 2 ^ 57 + natField w 56 1 * 2 ^ 56 + natField w 53 3 * 2 ^ 53
      + natField w 50 2 * 2 ^ 50 + natField w 48 2 * 2 ^ 48 + natField w 32 16 * 2 ^ 32 + natField w 16 16 * 2 ^ 16
    = w - 2 ^ 62 * natField w 62 1 + p * 2 ^ 62 := by
  have hsum : w = natField w 63 1 * 2 ^ 63 + (natField w 62 1 * 2 ^ 62 + (natField w 61 1 * 2 ^ 61 + (natField w 60 1 * 2 ^ 60
      + (natField w 59 1 * 2 ^ 59 + (natField w 58 1 * 2 ^ 58 + (natField w 57 1 * 2 ^ 57 + (natField w 56 1 * 2 ^ 56
      + (natField w 53 3 * 2 ^ 53 + (natField w 52 1 * 2 ^ 52 + (natField w 50 2 * 2 ^ 50 + (natField w 48 2 * 2 ^ 48
      + (natField w 32 16 * 2 ^ 32 + (natField w 16 16 * 2 ^ 16 + (natField w 0 16 * 2 ^ 0 + w % 2 ^ 0)))))))))))))) := by
    rw [natField_glue w 0 16, natField_glue w 16 16, natField_glue w 32 16, natField_glue w 48 2, natField_glue w 50 2,
      natField_glue w 52 1, natField_glue w 53 3, natField_glue w 56 1, natField_glue w 57 1, natField_glue w 58 1,
      natField_glue w 59 1, natField_glue w 60 1, natField_glue w 61 1, natField_glue w 62 1, natField_glue w 63 1,
      Nat.mod_eq_of_lt hw]
  rw [h52, h0, Nat.pow_zero, Nat.mod_one] at hsum
  omega

theorem word2_eq (w : Nat) (hw : w < 2 ^ 64) : natField w 32 32 * 2 ^ 32 + natField w 0 32 = w := by
  unfold natField
  omega

theorem word3_eq (w : Nat) (hw : w < 2 ^ 64) (h0 : natField w 0 16 = 0) :
    natField w 48 16 * 2 ^ 48 + natField w 32 16 * 2 ^ 32 + natField w 24 8 * 2 ^ 24 + natField w 16 8 * 2 ^ 16 = w := by
  unfold natField at *
  omega

theorem State.stageWord_lt (s : State) (i : Nat) : s.stageWord i < 2 ^ 64 := (mget s.sched.rtStage i 0).isLt

/-- A tag whose entry is the stage reads as the stage, PEND apart (R64, R65). -/
theorem State.words_staged (s : State) (r : RouteTag) (hbad : s.stageBad = false) (hen : r.en = natBit (s.stageWord 0) 63)
    (hcur : r.cur = s.stagedEntry) : r.words = [s.stageWord 0 - 2 ^ 62 * natField (s.stageWord 0) 62 1 + (if r.pend then 2 ^ 62 else 0),
      s.stageWord 1, s.stageWord 2, s.stageWord 3] := by
  obtain ⟨h52, h0, h3⟩ := s.stage_reserved hbad
  have hrooms : (BitVec.ofNat 64 (s.stageWord 1)).toNat = s.stageWord 1 := toNat_ofNat_lt _ (s.stageWord_lt 1)
  have hpend : bit r.pend * 2 ^ 62 = if r.pend then 2 ^ 62 else 0 := by cases r.pend <;> rfl
  have hw0 := word0_eq (s.stageWord 0) (bit r.pend) (s.stageWord_lt 0) h52 h0
  rw [hpend] at hw0
  unfold RouteTag.words
  simp only [hen, hcur, State.stagedEntry, bit_natBit, hrooms, hpend, hw0, word2_eq _ (s.stageWord_lt 2), word3_eq _ (s.stageWord_lt 3) h3]

theorem onlyWatermarks_updRtag (s : State) (tag : Nat) (f : RouteTag → RouteTag) : OnlyWatermarks s (s.updRtag tag f) := rfl

theorem onlyWatermarks_rtDone {s t : State} (h : OnlyWatermarks s t) (tag st : Nat) : OnlyWatermarks (s.rtDone tag st) (t.rtDone tag st) :=
  congrArg (fun x : State => x.rtDone tag st) h

/-- The stage written into an entry (R65, R66). -/
theorem State.rtWrite_stages (s : State) (tag : Nat) (hbad : s.stageBad = false) (hold : s.oldBusy tag = false)
    (hctl : ∀ q ∈ (s.rtag tag).ctl, q.tick ≠ s.clock.tick) :
    let t := s.rtWrite tag
    (t.rtag tag).words = [s.stageWord 0 - 2 ^ 62 * natField (s.stageWord 0) 62 1 + (if (s.rtag tag).pend then 2 ^ 62 else 0),
        s.stageWord 1, s.stageWord 2, s.stageWord 3]
      ∧ (t.rtag tag).gen = (s.rtag tag).gen + 1
      ∧ ((s.rtag tag).written = true → (t.rtag tag).old = some (s.rtag tag).cur)
      ∧ (∀ m, m ≠ tag → t.rtag m = s.rtag m) ∧ OnlyWatermarks (s.rtDone tag 0x00) t := by
  intro t
  obtain ⟨u, hu⟩ : ∃ u : State, u = s.updRtag tag fun r => r.write s.stagedEntry (natBit (s.stageWord 0) 63) s.clock.tick := ⟨_, rfl⟩
  have ht : t = (u.touchWm tag).rtDone tag 0x00 := by
    show s.rtWrite tag = _
    rw [State.rtWrite, hbad, hold, hu]
    rfl
  have hrtag : ∀ m, u.rtag m = if m = tag then { s.rtag tag with
      en := natBit (s.stageWord 0) 63, written := true, gen := (s.rtag tag).gen + 1, cur := s.stagedEntry,
      old := if (s.rtag tag).written then some (s.rtag tag).cur else none } else s.rtag m := by
    intro m
    rw [hu, ← RouteTag.write_eq _ _ _ _ hctl]
    exact mget_mset _ _ _ _ _
  have htag : ∀ m, t.rtag m = if m = tag then { u.rtag tag with wm := u.nextWm tag } else u.rtag m := by
    intro m
    rw [ht]
    exact u.rtag_touchWm tag m
  have hself := htag tag
  rw [if_pos rfl, hrtag, if_pos rfl] at hself
  refine ⟨?_, ?_, fun hwr => ?_, fun m hm => ?_, ?_⟩
  · have hen : (t.rtag tag).en = natBit (s.stageWord 0) 63 := by rw [hself]
    have hcur : (t.rtag tag).cur = s.stagedEntry := by rw [hself]
    have hpend : (t.rtag tag).pend = (s.rtag tag).pend := by rw [hself]
    rw [s.words_staged _ hbad hen hcur, hpend]
  · rw [hself]
  · rw [hself]
    exact if_pos hwr
  · rw [htag, if_neg hm, hrtag, if_neg hm]
  · rw [ht, hu]
    exact onlyWatermarks_rtDone (onlyWatermarks_touchWm (onlyWatermarks_updRtag s tag _) tag) tag 0x00

/-- A write of RT_CMD with OP 1 while the lodge is in no restart (R65). -/
theorem exec_rtWrite (s : State) (v : BitVec 64) (hop : natField v.toNat 62 2 = 1) (hst : s.lodge.st ≠ 6) :
    exec (.rtWrite v) s = .next (s.rtWrite (natField v.toNat 0 12)) := by
  refine congrArg Host.Outcome.next ?_
  dsimp only
  rw [if_neg (not_not.2 hop), if_neg hst]

/-- A write made while the lodge restarts waits with its stage (R81). -/
theorem exec_rtWrite_waits (s : State) (v : BitVec 64) (hop : natField v.toNat 62 2 = 1) (hst : s.lodge.st = 6) :
    exec (.rtWrite v) s = .next { s with
      lodge := { s.lodge with heldWrites := s.lodge.heldWrites ++ [{ cmd := v, stage := s.sched.rtStage }] }
      sched := { s.sched with rtTag := natField v.toNat 0 12 } } := by
  refine congrArg Host.Outcome.next ?_
  dsimp only
  rw [if_neg (not_not.2 hop), if_pos hst]

/-- A refused write, with the stage's own fault before a tag that is busy (R65). -/
theorem State.rtWrite_refused (s : State) (tag : Nat) : (s.stageBad = true → s.rtWrite tag = s.rtDone tag 0x02)
    ∧ (s.stageBad = false → s.oldBusy tag = true → s.rtWrite tag = s.rtDone tag 0x01) := by
  constructor
  · intro h
    rw [State.rtWrite, h]
    rfl
  · intro h1 h2
    rw [State.rtWrite, h1, h2]
    rfl

/-- The stage with the words of an entry (R65). -/
def stageOf (m : AMap (BitVec 64)) (ws : List Nat) : AMap (BitVec 64) :=
  (upTo 4).foldl (fun m i => mput m i (BitVec.ofNat 64 (ws.getD i 0)) 0) m

theorem mget_stageOf (m : AMap (BitVec 64)) (ws : List Nat) (i : Nat) (hi : i < 4) :
    mget (stageOf m ws) i 0 = BitVec.ofNat 64 (ws.getD i 0) := by
  have hfold : stageOf m ws = mput (mput (mput (mput m 0 (BitVec.ofNat 64 (ws.getD 0 0)) 0) 1 (BitVec.ofNat 64 (ws.getD 1 0)) 0) 2
      (BitVec.ofNat 64 (ws.getD 2 0)) 0) 3 (BitVec.ofNat 64 (ws.getD 3 0)) 0 := rfl
  rw [hfold]
  simp only [mget_mput]
  obtain rfl | rfl | rfl | rfl : i = 0 ∨ i = 1 ∨ i = 2 ∨ i = 3 := by omega
  all_goals simp

theorem exec_rtRead (s : State) (v : BitVec 64) (hop : natField v.toNat 62 2 = 2) : exec (.rtRead v) s =
    .next (({ s with sched := { s.sched with
      rtStage := stageOf s.sched.rtStage (s.rtag (natField v.toNat 0 12)).words } } : State).rtDone (natField v.toNat 0 12) 0x00) := by
  refine congrArg Host.Outcome.next ?_
  dsimp only
  rw [if_neg (not_not.2 hop)]
  rfl

/-- The state after a read of an entry reads its words in the stage and differs in nothing else (R65). -/
theorem State.stagePut_reads (s : State) (ws : List Nat) (hlen : ws.length = 4) (tag : Nat) :
    let t := ({ s with sched := { s.sched with rtStage := stageOf s.sched.rtStage ws } } : State).rtDone tag 0x00
    (List.range 4).map t.stageWord = ws.map (· % 2 ^ 64)
      ∧ { t with sched := { t.sched with rtStage := s.sched.rtStage } } = s.rtDone tag 0x00 := by
  intro t
  have hword : ∀ i, t.stageWord i = (mget (stageOf s.sched.rtStage ws) i 0).toNat := fun _ => rfl
  refine ⟨List.ext_getElem (by simp [hlen]) fun i hi hi' => ?_, rfl⟩
  have hi4 : i < ws.length := by simpa using hi'
  rw [List.getElem_map, List.getElem_map, List.getElem_range, hword, mget_stageOf _ _ _ (hlen ▸ hi4),
    List.getD_eq_getElem _ _ hi4, BitVec.toNat_ofNat]

theorem rtRead_reads (s : State) (v : BitVec 64) (hop : natField v.toNat 62 2 = 2) : ∃ t, exec (.rtRead v) s = .next t
    ∧ (List.range 4).map t.stageWord = (s.rtag (natField v.toNat 0 12)).words.map (· % 2 ^ 64)
    ∧ { t with sched := { t.sched with rtStage := s.sched.rtStage } } = s.rtDone (natField v.toNat 0 12) 0x00 :=
  ⟨_, exec_rtRead s v hop, s.stagePut_reads _ rfl _⟩

end Sys2Proof.Machine
end
section
namespace Sys2Proof.Machine

/-! ### Streams and ports of the front door -/

theorem State.stream_updStream_self (s : State) (n : Nat) (f : Stream → Stream) : (s.updStream n f).stream n = f (s.stream n) :=
  mget_mset_self _ _ _ _

theorem State.stream_arrive (s : State) (as : List Served) (n : Nat) : (s.arrive as).stream n = s.stream n := rfl

theorem State.mem_arrive (s : State) (as : List Served) : (s.arrive as).mem = s.mem := rfl

theorem State.mem_updStream (s : State) (n : Nat) (f : Stream → Stream) : (s.updStream n f).mem = s.mem := rfl

theorem State.waiting_updStream (s : State) (n : Nat) (f : Stream → Stream) : (s.updStream n f).eth.waiting = s.eth.waiting := rfl

theorem slotSize_le {x : Stream} {size : Nat} (h : x.slotSize = some size) : 128 ≤ size ∧ size ≤ 2 ^ 14 := by
  unfold Stream.slotSize at h
  dsimp only at h
  split at h
  next hk =>
    cases h
    exact ⟨Nat.pow_le_pow_right (n := 2) (i := 7) (by decide) (by omega), Nat.pow_le_pow_right (by decide) (by omega)⟩
  next => cases h

/-! ### A frame's packet joins its queue, or waits (R71, R106) -/

/-- A packet of this kind that its tag takes is not rejected (R56). -/
theorem State.rejectStatus_none (s : State) (p : Packet) (hlen : p.len ≤ 240) (hk : p.kind = 0) (hc : p.cmode = false)
    (hr : p.rsv = 0) (ht : s.tagLoaded p.tag = true) (hl : (s.rtag p.tag).cur.launch = false) :
    s.rejectStatus p (16 + p.len) = none := by
  unfold State.rejectStatus
  rw [if_neg (by omega), if_neg (by rw [hk, hc, hr]; decide), if_neg (by rw [ht]; decide), if_neg (by rw [hl]; simp)]

/-- The ages of a launch's tasks are the scheduler's (R97). -/
theorem State.issueMany_eth (time n : Nat) : ∀ s : State, (s.issueMany time n).2.eth = s.eth := by
  induction n with
  | zero => exact fun _ => rfl
  | succ n ih => exact fun s => ih (s.issueAge time).2

theorem State.enqueue_eth (s : State) (p : Packet) (time : Nat) (pin : Option (Nat × Nat × Nat)) (slot : Option (Nat × Nat)) :
    (s.enqueue p time pin slot).eth = s.eth := by
  unfold State.enqueue
  dsimp only
  split
  · refine (State.touchWm_frame State.eth (fun _ _ _ => rfl) _ _).trans ?_
    show State.eth (ite ((s.rtag p.tag).cur.ord = true) (State.issueMany _ _ _) _).2 = s.eth
    split
    · exact State.issueMany_eth ..
    · rfl
  · rfl

theorem State.emitRecord_eth (s : State) (n tag : Nat) (notice : Bool) (bytes : List Byte) :
    (s.emitRecord n tag notice bytes).eth = s.eth := by
  unfold State.emitRecord
  split
  · rfl
  · split <;> rfl

/-- A slot freed leaves a stream's sequence number (R72). -/
theorem State.nextSeq_freeSlot (s : State) (slot : Option (Nat × Nat)) (m : Nat) :
    ((s.freeSlot slot).stream m).nextSeq = (s.stream m).nextSeq := by
  cases slot with
  | none => rfl
  | some q =>
    have hst : (s.freeSlot (some q)).stream m = if m = q.1 then
        { s.stream q.1 with taken := (s.stream q.1).taken.filter fun j => j != q.2 } else s.stream m := mget_mset _ _ _ _ _
    rw [hst]
    split
    next h => rw [h]
    next => rfl

/-- A frame's packet leaves the sequence numbers of the streams, whether it joins, waits or is rejected (R71). -/
theorem State.nextSeq_framePacket (s : State) (p : Packet) (time st slot m : Nat) (hk : p.kind = 0) :
    ((s.framePacket p time st slot).stream m).nextSeq = (s.stream m).nextSeq := by
  have heth : ∀ {t u : State}, t.eth = u.eth → (t.stream m).nextSeq = (u.stream m).nextSeq := fun h => by
    rw [State.stream, State.stream, h]
  unfold State.framePacket
  split
  · rfl
  · cases hacc : s.acceptPacket p (16 + p.len) time (some (st, slot)) with
    | none => rfl
    | some u =>
      unfold State.acceptPacket at hacc
      split at hacc
      · cases hacc
        exact (State.nextSeq_freeSlot _ _ m).trans (heth (State.emitRecord_eth ..))
      · rw [if_neg (by omega)] at hacc
        split at hacc
        · cases hacc
        · cases hacc
          exact heth (State.enqueue_eth ..)

/-- A frame's packet joins its tag's queue where none waits before it (R71). -/
theorem State.framePacket_joins (s : State) (p : Packet) (time st slot : Nat) (hw : s.eth.waiting = [])
    (hr : s.rejectStatus p (16 + p.len) = none) (hk : p.kind = 0) (hq : 1024 < s.qfree) :
    s.framePacket p time st slot = s.enqueue p time none (some (st, slot)) := by
  unfold State.framePacket
  rw [hw, if_neg (by decide), s.acceptPacket_joins p _ time _ hr (by omega) hq]

/-! ### A frame's slot (R70, R71) -/

/-- The packet of a frame that takes its stream's next slot (R71). -/
def State.slotPacket (s : State) (f : EthFrame) (rule n : Nat) : Packet :=
  { dev := s.devNum, tag := natField (mget (s.ethPort f.port).ruleB rule 0).toNat 20 12, len := 18,
    pid := BitVec.ofNat 64 (stampNat f.stamp),
    body := recBytes [(2, n), (2, (s.stream n).nextSlot), (4, (s.stream n).nextSeq), (8, stampNat f.stamp), (2, f.bytes.length)] }

/-- The state with a frame written in its stream's next slot (R70, R71). -/
def State.slotWritten (s : State) (f : EthFrame) (rule n size : Nat) : State :=
  let x := s.stream n
  let bytes := slotBytes f x.nextSeq rule
  let a := s.slotAddr x x.nextSlot size
  let s1 := s.updStream n fun k => { k with nextSeq := (x.nextSeq + 1) % 2 ^ 32 }
  (((s1.arrive (s1.memArrivals [(a, bytes.length)] (doorKey f.port))).putBytes a bytes).homeWatch a bytes.length true
    { kind := 6, x := f.port, y := f.port, dev := s.devNum }).updStream n fun k =>
      { k with taken := k.taken ++ [x.nextSlot], nextSlot := (x.nextSlot + 1) % (natField x.cfg.toNat 16 12 + 1) }

section
variable (s : State) (f : EthFrame) (rule : Nat)

/-- A frame of a stream that is disabled counts as unmatched (R72). -/
theorem State.landFrame_none (h : (s.stream ((s.ethPort f.port).ruleStream rule)).slotSize = none) : s.landFrame f rule =
    s.updPort f.port fun k => { k with noMatch := min (k.noMatch + 1) (2 ^ 32 - 1) } := by
  unfold State.landFrame
  simp only [h]

variable {size : Nat} (hsize : (s.stream ((s.ethPort f.port).ruleStream rule)).slotSize = some size)
include hsize

/-- What becomes of a frame of a stream that is enabled (R71, R72). -/
theorem State.landFrame_some : s.landFrame f rule =
    let n := (s.ethPort f.port).ruleStream rule
    let s1 := s.updStream n fun k => { k with nextSeq := ((s.stream n).nextSeq + 1) % 2 ^ 32 }
    if size - 32 < f.bytes.length then s1.updStream n fun k => { k with dropLen := min (k.dropLen + 1) (2 ^ 32 - 1) }
    else if (s.stream n).taken.contains (s.stream n).nextSlot then
      s1.updStream n fun k => { k with dropFull := min (k.dropFull + 1) (2 ^ 32 - 1) }
    else (s.slotWritten f rule n size).framePacket (s.slotPacket f rule n) (s.toDomain f.stamp) n (s.stream n).nextSlot := by
  unfold State.landFrame
  simp only [hsize]
  rfl

end

section
variable (s : State) (f : EthFrame) (rule n size : Nat)

/-- A slot's write changes memory, the logs, the slices' use, the tick's arrivals and the front door. -/
theorem State.slotWritten_frame {β : Type} (g : State → β)
    (hg : ∀ (t : State) m h l p e sv, g { t with mem := m, hostMem := h, logs := l, power := p, eth := e, served := sv } = g t) :
    g (s.slotWritten f rule n size) = g s := by
  unfold State.slotWritten State.updStream
  refine (hg _ _ _ _ _ _ _).trans ((State.homeWatch_frame g (fun t h l p => hg t t.mem h l p t.eth t.served) ..).trans ?_)
  exact (State.putBytes_frame g (fun t m h => hg t m h t.logs t.power t.eth t.served) ..).trans (hg s _ _ _ _ _ _)

/-- The stream whose slot was written (R70, R71). -/
theorem State.stream_slotWritten : (s.slotWritten f rule n size).stream n = { s.stream n with
    nextSeq := ((s.stream n).nextSeq + 1) % 2 ^ 32, taken := (s.stream n).taken ++ [(s.stream n).nextSlot],
    nextSlot := ((s.stream n).nextSlot + 1) % (natField (s.stream n).cfg.toNat 16 12 + 1) } := by
  unfold State.slotWritten
  dsimp only
  rw [State.stream_updStream_self, State.homeWatch_frame (fun t => t.stream n) (fun _ _ _ _ => rfl),
    State.putBytes_frame (fun t => t.stream n) fun _ _ _ => rfl, State.stream_arrive, State.stream_updStream_self]

theorem State.waiting_slotWritten : (s.slotWritten f rule n size).eth.waiting = s.eth.waiting := by
  unfold State.slotWritten
  dsimp only
  rw [State.waiting_updStream, State.homeWatch_eth, State.putBytes_frame State.eth fun _ _ _ => rfl]
  rfl

theorem length_slotBytes (seq : Nat) : (slotBytes f seq rule).length = 32 + f.bytes.length := by
  simp [slotBytes, recBytes]
  omega

/-- No byte of a slot is in host memory, wherever the slot lies (R13, R70). -/
theorem State.level_slot (t : State) (x : Stream) (hn : x.nextSlot < 4096) (hs : size ≤ 2 ^ 14) {i : Nat} (hi : i < 2 ^ 14) :
    t.level (s.slotAddr x x.nextSlot size + i) ≠ .host := by
  have hcfg := natField_lt x.cfg.toNat 32 29
  have hmul : x.nextSlot * size ≤ 4096 * 2 ^ 14 := Nat.mul_le_mul hn.le hs
  have haddr : s.slotAddr x x.nextSlot size + i = s.devNum * 2 ^ 44
      + (0x80000000000 + natField x.cfg.toNat 32 29 / 4096 * 4096 + x.nextSlot * size + i) := by
    unfold State.slotAddr
    omega
  rw [haddr]
  refine t.level_ne_host _ _ (by omega) ?_
  rw [Ne, localLevel_eq_host]
  omega

theorem State.read_slotWritten (hn : (s.stream n).nextSlot < 4096) (hs : size ≤ 2 ^ 14) (hlen : 32 + f.bytes.length ≤ size) (b : Nat) :
    (s.slotWritten f rule n size).mem.read b =
      let a := s.slotAddr (s.stream n) (s.stream n).nextSlot size
      if a ≤ b ∧ b < a + (32 + f.bytes.length) then (slotBytes f (s.stream n).nextSeq rule).getD (b - a) 0 else s.mem.read b := by
  have hlevel : ∀ t : State, ∀ i < (slotBytes f (s.stream n).nextSeq rule).length,
      t.level (s.slotAddr (s.stream n) (s.stream n).nextSlot size + i) ≠ .host := by
    intro t i hi
    rw [length_slotBytes] at hi
    exact s.level_slot size t (s.stream n) hn hs (by omega)
  unfold State.slotWritten
  dsimp only
  rw [State.mem_updStream, State.homeWatch_mem, State.read_putBytes _ _ _ _ (hlevel _), State.mem_arrive, State.mem_updStream,
    length_slotBytes]

/-- The bytes of a slot read back as they were written (R71). -/
theorem State.physBytes_slot (hn : (s.stream n).nextSlot < 4096) (hs : size ≤ 2 ^ 14) (hlen : 32 + f.bytes.length ≤ size) (t : State)
    (ht : t.mem = (s.slotWritten f rule n size).mem) :
    t.physBytes (s.slotAddr (s.stream n) (s.stream n).nextSlot size) (32 + f.bytes.length) = slotBytes f (s.stream n).nextSeq rule := by
  refine Eq.trans ?_ (map_getD_range _)
  rw [length_slotBytes]
  refine List.map_congr_left fun i hi => ?_
  have hi' : i < 32 + f.bytes.length := List.mem_range.1 hi
  rw [State.physByte, if_neg (s.level_slot size t (s.stream n) hn hs (by omega)), ht, State.read_slotWritten s f rule n size hn hs hlen]
  dsimp only
  rw [if_pos ⟨Nat.le_add_right _ _, Nat.add_lt_add_left hi' _⟩, Nat.add_sub_cancel_left]

end

end Sys2Proof.Machine
end
section
namespace Sys2Proof.Machine

/-! ### Frames land (R71, R72) -/

section
variable (s : State) (f : EthFrame) (rule n size : Nat)

/-- The frame packet of a slot joins its tag's queue (R71, R106). -/
theorem State.slotPacket_joins (time : Nat) (hw : s.eth.waiting = []) (hq : 1024 < s.qfree)
    (ht : s.tagLoaded (natField (mget (s.ethPort f.port).ruleB rule 0).toNat 20 12) = true)
    (hl : (s.rtag (natField (mget (s.ethPort f.port).ruleB rule 0).toNat 20 12)).cur.launch = false) :
    (s.slotWritten f rule n size).framePacket (s.slotPacket f rule n) time n (s.stream n).nextSlot
      = (s.slotWritten f rule n size).enqueue (s.slotPacket f rule n) time none (some (n, (s.stream n).nextSlot)) := by
  refine State.framePacket_joins _ _ _ _ _ ((s.waiting_slotWritten f rule n size).trans hw) ?_ rfl ?_
  · refine State.rejectStatus_none _ _ (show 18 ≤ 240 by decide) rfl rfl rfl ?_ ?_
    · exact (s.slotWritten_frame f rule n size (fun t => t.tagLoaded _) fun _ _ _ _ _ _ _ => rfl).trans ht
    · exact (s.slotWritten_frame f rule n size (fun t => (t.rtag _).cur.launch) fun _ _ _ _ _ _ _ => rfl).trans hl
  · rw [s.slotWritten_frame f rule n size State.qfree fun _ _ _ _ _ _ _ => rfl]
    exact hq

/-- The task of a frame's packet is the last of the queue's (R71). -/
theorem State.slotPacket_task (time : Nat)
    (hl : (s.rtag (natField (mget (s.ethPort f.port).ruleB rule 0).toNat 20 12)).cur.launch = false) :
    PacketJoins s ((s.slotWritten f rule n size).enqueue (s.slotPacket f rule n) time none (some (n, (s.stream n).nextSlot)))
      { tag := natField (mget (s.ethPort f.port).ruleB rule 0).toNat 20 12, pid := BitVec.ofNat 64 (stampNat f.stamp),
        body := natToBytes 2 n ++ natToBytes 2 (s.stream n).nextSlot ++ natToBytes 4 (s.stream n).nextSeq
          ++ natToBytes 8 (stampNat f.stamp) ++ natToBytes 2 f.bytes.length } := by
  have hl' : ((s.slotWritten f rule n size).rtag (s.slotPacket f rule n).tag).cur.launch = false :=
    (s.slotWritten_frame f rule n size (fun t => (t.rtag _).cur.launch) fun _ _ _ _ _ _ _ => rfl).trans hl
  obtain ⟨k, hts, htag, hpid, harg, hst, hrun, hre, -⟩ := (s.slotWritten f rule n size).enqueue_tasks (s.slotPacket f rule n) time none
    (some (n, (s.stream n).nextSlot)) hl'
  rw [s.slotWritten_frame f rule n size State.tasks fun _ _ _ _ _ _ _ => rfl] at hts
  refine ⟨k, hts, htag, hpid, harg.trans ?_, hst, hrun, hre⟩
  rw [List.take_of_length_le (by simp [State.slotPacket, recBytes])]
  simp [State.slotPacket, recBytes]

end

theorem slotBytes_eq (f : EthFrame) (seq rule : Nat) : slotBytes f seq rule = natToBytes 8 (stampNat f.stamp) ++ natToBytes 4 seq
    ++ natToBytes 2 f.bytes.length ++ natToBytes 1 f.port ++ natToBytes 1 rule ++ natToBytes 16 0 ++ f.bytes := by
  simp [slotBytes, recBytes]

section
variable (s : State) (f : EthFrame) (rule : Nat)

/-- A frame of a stream that is enabled takes the stream's next sequence number, landed or not (R72). -/
theorem State.nextSeq_landFrame {size : Nat} (hsize : (s.stream ((s.ethPort f.port).ruleStream rule)).slotSize = some size) :
    ((s.landFrame f rule).stream ((s.ethPort f.port).ruleStream rule)).nextSeq
      = ((s.stream ((s.ethPort f.port).ruleStream rule)).nextSeq + 1) % 2 ^ 32 := by
  rw [s.landFrame_some f rule hsize]
  dsimp only
  split
  · rw [State.stream_updStream_self, State.stream_updStream_self]
  · split
    · rw [State.stream_updStream_self, State.stream_updStream_self]
    · rw [State.nextSeq_framePacket _ _ _ _ _ _ rfl, State.stream_slotWritten]

/-- A matched frame lands as R71 and R72 say. -/
theorem State.landFrame_lands : FrameLands s (s.landFrame f rule) f rule := by
  refine ⟨s.landFrame_none f rule, fun size hsize => ⟨s.nextSeq_landFrame f rule hsize, fun hlong => ?_, fun hfit hfull => ?_,
    fun hfit hfree hn hw hq => ?_⟩⟩
  · rw [s.landFrame_some f rule hsize]
    dsimp only
    rw [if_pos hlong]
    refine ⟨?_, rfl, rfl, ?_⟩ <;> rw [State.stream_updStream_self, State.stream_updStream_self]
  · rw [s.landFrame_some f rule hsize]
    dsimp only
    rw [if_neg (by omega), if_pos (List.contains_iff_mem.2 hfull)]
    refine ⟨?_, rfl, rfl, ?_⟩ <;> rw [State.stream_updStream_self, State.stream_updStream_self]
  · intro tag ht hl a stamp
    obtain ⟨hlow, hhigh⟩ := slotSize_le hsize
    have hlen : 32 + f.bytes.length ≤ size := by omega
    have hland := s.landFrame_some f rule hsize
    dsimp only at hland
    rw [if_neg (by omega), if_neg (fun h => hfree (List.contains_iff_mem.1 h)),
      s.slotPacket_joins f rule _ size _ hw hq ht hl] at hland
    have hl' : ((s.slotWritten f rule ((s.ethPort f.port).ruleStream rule) size).rtag
        (s.slotPacket f rule ((s.ethPort f.port).ruleStream rule)).tag).cur.launch = false :=
      (s.slotWritten_frame f rule _ size (fun t => (t.rtag _).cur.launch) fun _ _ _ _ _ _ _ => rfl).trans hl
    have hmem : (s.landFrame f rule).mem = (s.slotWritten f rule ((s.ethPort f.port).ruleStream rule) size).mem := by
      rw [hland]
      exact State.enqueue_frame State.mem (fun _ _ _ _ _ => rfl) _ _ _ _ _ hl'
    have hstream : (s.landFrame f rule).stream ((s.ethPort f.port).ruleStream rule) =
        (s.slotWritten f rule ((s.ethPort f.port).ruleStream rule) size).stream ((s.ethPort f.port).ruleStream rule) := by
      rw [hland]
      exact State.enqueue_frame (fun t => t.stream _) (fun _ _ _ _ _ => rfl) _ _ _ _ _ hl'
    rw [State.stream_slotWritten] at hstream
    refine ⟨?_, fun b hb => ?_, ?_, ?_, ?_⟩
    · exact (s.physBytes_slot f rule _ size hn hhigh hlen _ hmem).trans (slotBytes_eq f _ rule)
    · rw [hmem, State.read_slotWritten s f rule _ size hn hhigh hlen b]
      exact if_neg fun h => by
        rcases hb with hb | hb
        · exact absurd h.1 (Nat.not_le.2 hb)
        · exact absurd h.2 (Nat.not_lt.2 ((Nat.add_assoc _ _ _).symm.le.trans hb))
    · rw [hstream]
    · rw [hstream]
      exact List.mem_append_right _ (List.mem_singleton.2 rfl)
    · rw [hland]
      exact s.slotPacket_task f rule _ size _ hl

end

/-! ### Frames are received and released (R32, R69, R73) -/

/-- A frame whose slot's home takes the write lands now (R45, R240). -/
theorem State.landingWaits_none (s : State) (f : EthFrame) (i : Nat) (h : SlotTakes s f i) : s.landingWaits f i = none := by
  unfold State.landingWaits
  cases ha : s.landing f i with
  | none => rfl
  | some a =>
    obtain ⟨hret, hlate⟩ := h a ha
    rw [Option.bind_some]
    dsimp only
    rw [hret, hlate]
    rfl

/-- A frame of a stream that is disabled has no slot to wait for. -/
theorem State.slotTakes_of_none (s : State) (f : EthFrame) (i : Nat)
    (h : (s.stream ((s.ethPort f.port).ruleStream i)).slotSize = none) : SlotTakes s f i := by
  intro a ha
  unfold State.landing at ha
  dsimp only at ha
  rw [h] at ha
  cases ha

section
variable (s : State) (f : EthFrame)

theorem State.takeFrame_none (h : (s.ethPort f.port).rule (parseFrame f.bytes) = none) :
    s.takeFrame f = s.updPort f.port fun k => { k with noMatch := min (k.noMatch + 1) (2 ^ 32 - 1) } := by
  unfold State.takeFrame
  dsimp only
  rw [h]

variable {i : Nat} (hr : (s.ethPort f.port).rule (parseFrame f.bytes) = some i)
include hr

/-- A frame of a stream that several ports feed, or that has held frames, is held (R73). -/
theorem State.takeFrame_holds (h1 : 1 < (s.portsOf ((s.ethPort f.port).ruleStream i)).length
      ∨ (s.stream ((s.ethPort f.port).ruleStream i)).held ≠ [])
    (h2 : (s.stream ((s.ethPort f.port).ruleStream i)).slotSize ≠ none) :
    s.takeFrame f = s.updStream ((s.ethPort f.port).ruleStream i) fun x => { x with held := x.held ++ [(f, i)] } := by
  unfold State.takeFrame
  dsimp only
  rw [hr]
  exact if_pos ⟨Option.isSome_iff_ne_none.2 h2, h1.imp id fun h => by simpa using h⟩

/-- A frame that is not held and whose slot's home takes the write lands (R73). -/
theorem State.takeFrame_lands (h : (s.stream ((s.ethPort f.port).ruleStream i)).slotSize = none
      ∨ ((s.portsOf ((s.ethPort f.port).ruleStream i)).length ≤ 1 ∧ (s.stream ((s.ethPort f.port).ruleStream i)).held = []
        ∧ SlotTakes s f i)) : s.takeFrame f = s.landFrame f i := by
  have htakes : SlotTakes s f i := h.elim (s.slotTakes_of_none f i) fun h => h.2.2
  have hnot : ¬ ((s.stream ((s.ethPort f.port).ruleStream i)).slotSize.isSome = true
      ∧ (1 < (s.portsOf ((s.ethPort f.port).ruleStream i)).length
        ∨ (!(s.stream ((s.ethPort f.port).ruleStream i)).held.isEmpty) = true)) := by
    rintro ⟨hs, hmany⟩
    rcases h with h | ⟨hone, hheld, -⟩
    · rw [h] at hs
      cases hs
    · rw [hheld] at hmany
      exact hmany.elim (fun h => absurd h (by omega)) (fun h => (nomatch h))
  unfold State.takeFrame
  dsimp only
  rw [hr]
  dsimp only
  rw [if_neg hnot, s.landingWaits_none f i htakes]

end

/-- The frames that a port counts and drops (R29, R32, R74). -/
theorem ethFrame_counted (s : State) (f : EthFrame) (hp : f.port < 4) :
    (f.fcsOk = false → exec (.ethFrameReceive f) s = .next (s.updPort f.port fun k => { k with fcs := min (k.fcs + 1) (2 ^ 32 - 1) }))
    ∧ (f.fcsOk = true → 9212 < f.bytes.length → exec (.ethFrameReceive f) s
        = .next (s.updPort f.port fun k => { k with oversize := min (k.oversize + 1) (2 ^ 32 - 1) }))
    ∧ (f.fcsOk = true → f.bytes.length ≤ 9212 → isPause f.bytes = true → exec (.ethFrameReceive f) s
        = .next (s.updPort f.port fun k => { k with pause := min (k.pause + 1) (2 ^ 32 - 1) })) := by
  refine ⟨fun hf => ?_, fun hf hlen => ?_, fun hf hlen hpause => ?_⟩
  all_goals
    refine congrArg Host.Outcome.next ?_
    dsimp only
    rw [if_neg (by omega), hf]
  · rfl
  · rw [if_neg (by decide), if_pos hlen]
  · rw [if_neg (by decide), if_neg (by omega), if_pos hpause]

/-- A frame that arrives whole with a stamp is taken (R30, R32, R69). -/
theorem exec_ethFrame (s : State) (f : EthFrame) (hp : f.port < 4) (hf : f.fcsOk = true) (hlen : f.bytes.length ≤ 9212)
    (hpause : isPause f.bytes = false) (hstamp : s.stampOk f = true) : exec (.ethFrameReceive f) s =
      .next ((s.updPort f.port fun k => { k with lastStamp := some f.stamp }).takeFrame f) := by
  refine congrArg Host.Outcome.next ?_
  dsimp only
  rw [if_neg (by omega), hf, if_neg (by decide), if_neg (by omega), hpause, if_neg (by decide), hstamp, if_neg (by decide)]

/-- A held frame lands after its merge delay, once its home takes the write (R73). -/
theorem exec_ethRelease (s : State) (n : Nat) (f : EthFrame) (i : Nat) (hfirst : firstHeld (s.stream n).held = some (f, i))
    (hdue : f.stamp + s.mergeDelay n < s.clock.tbase) (htakes : SlotTakes s f i) : exec (.ethFrameRelease n) s =
      .next ((s.updStream n fun x => { x with held := x.held.erase (f, i) }).landFrame f i) := by
  have hheld : s.heldDue n f = true := by
    rw [State.heldDue, decide_eq_true hdue, Bool.or_true]
  refine congrArg Host.Outcome.next ?_
  rw [hfirst]
  dsimp only
  rw [hheld, if_neg (by decide), s.landingWaits_none f i htakes]

/-- A report of the time client is taken where the client is enabled on its port (R31, R75). -/
theorem exec_ptpMessage (s : State) (p : PtpReport) (hen : s.lodge.ptp.getLsbD 0 = true) (hport : p.port = natField s.lodge.ptp.toNat 2 2)
    (h1 : 1 ≤ p.state) (h4 : p.state ≤ 4) (hstep : p.step ≤ 1 ∨ p.step = 15) :
    exec (.ptpMessage p) s = .next { s with lodge := { s.lodge with ptpst := p } } :=
  congrArg Host.Outcome.next (if_pos ⟨hen, hport, h1, h4, hstep⟩)

end Sys2Proof.Machine

namespace Sys2Proof.Proofs
open Sys2Proof.Machine

/-- Settles O48: the rings of the host, the entries of the route-tag table, the frames of the front door and the time client. -/
theorem frontDoorCompletes : Obligations.FrontDoorCompletes := by
  unfold Obligations.FrontDoorCompletes
  intro s
  refine ⟨fun n v hn hl => ?_, fun v => ?_, fun f hp => ?_, fun n f i hfirst hdue htakes => ?_, exec_ptpMessage s⟩
  · refine ⟨fun hnone => ⟨?_, ?_⟩, fun x hone hx hfull hlen => ?_⟩
    · exact ⟨_, exec_hostRingWrite s n 0 v hn, s.ringPut_plain n _ hnone hl⟩
    · exact ⟨_, exec_hostRingWrite s n 1 v hn, s.ringPut_plain n _ hnone hl⟩
    · exact ⟨_, exec_hostRingWrite s n 0 v hn, s.ringPut_drains n _ x hone hx hfull hlen hl⟩
  · refine ⟨fun hop hst => ⟨fun hbad hold hctl => ?_, fun hbad => ?_, fun hbad hold => ?_⟩, exec_rtWrite_waits s v, rtRead_reads s v⟩
    · exact ⟨_, exec_rtWrite s v hop hst, s.rtWrite_stages _ hbad hold hctl⟩
    · rw [exec_rtWrite s v hop hst, (s.rtWrite_refused _).1 hbad]
      rfl
    · rw [exec_rtWrite s v hop hst, (s.rtWrite_refused _).2 hbad hold]
      rfl
  · obtain ⟨hfcs, hlong, hpause⟩ := ethFrame_counted s f hp
    refine ⟨hfcs, hlong, hpause, fun hf hlen hnp hstamp => ?_⟩
    have hexec := exec_ethFrame s f hp hf hlen hnp hstamp
    refine ⟨fun hnone => ?_, fun i hr => ⟨fun h => ?_, fun h1 h2 => ?_⟩⟩
    · rw [hexec, State.takeFrame_none _ f hnone]
    · rw [State.takeFrame_lands _ f hr h] at hexec
      exact ⟨_, hexec, State.landFrame_lands _ f i⟩
    · rw [hexec, State.takeFrame_holds _ f hr h1 h2]
  · exact ⟨_, exec_ethRelease s n f i hfirst hdue htakes, State.landFrame_lands _ f i⟩

end Sys2Proof.Proofs
end

section
/-! SUPPORT. A step of a sound state leads to a sound one: for each function of the model a rule that it keeps `State.Sound`, in the
order of the model's files. A state that a function answers with inside another type is spoken of by a predicate on that type. -/

namespace Sys2Proof.Machine

/-! ### What is kept -/

/-- Each state that a payment answers with satisfies `P`. -/
def Pay.All (P : State → Prop) : Pay → Prop
  | .paid s => P s
  | .stalled s => P s
  | .stopped s => P s

/-- Each state that an attempt answers with satisfies `P`. -/
def Perf.All (P : State → Prop) : Perf → Prop
  | .ok s _ => P s
  | .wait => True
  | .fault _ => True
  | .stop s => P s

/-- The state that a turn goes on with satisfies `P`. -/
def Turn.All (P : State → Prop) : Turn → Prop
  | .run _ s => P s
  | .done s => P s

/-- The outcome goes on, to a sound state. -/
def Lands (o : Host.Outcome State Fault Refusal) : Prop := ∃ t, o = .next t ∧ t.Sound

theorem State.Sound.lands {s : State} (h : s.Sound) : Lands (.next s) := ⟨s, rfl, h⟩

/-- A state is sound whose memories and power are those of a sound one, whatever else has changed. -/
theorem State.Sound.frame {s : State} (h : s.Sound) {clock agenda cur devNum tags cells rooms ops combos fills tasks launches
    rtags accts locks ctns handlers intake rings notices eth ewj ewjSeq ewjWait served lodge logs sched rd rdBytes} :
    (State.mk clock agenda cur devNum s.mem tags s.hostMem cells rooms ops combos fills tasks launches rtags accts locks ctns
      handlers intake rings notices eth ewj ewjSeq ewjWait served lodge s.power logs sched rd rdBytes).Sound := h

theorem State.Sound.foldState {s : State} {α : Type} {l : List α} {f : α → State → State} (h : s.Sound)
    (hf : ∀ x u, u.Sound → (f x u).Sound) : (foldState l s f).Sound := foldState_keeps State.Sound f hf l s h

theorem State.Sound.ite {c : Prop} [Decidable c] {a b : State} (ha : a.Sound) (hb : b.Sound) :
    (if c then a else b).Sound := by
  split
  · exact ha
  · exact hb

theorem Perf.All.ite {c : Prop} [Decidable c] {P : State → Prop} {a b : Perf} (ha : a.All P) (hb : b.All P) :
    (if c then a else b).All P := by
  split
  · exact ha
  · exact hb

theorem Turn.All.ite {c : Prop} [Decidable c] {P : State → Prop} {a b : Turn} (ha : a.All P) (hb : b.All P) :
    (if c then a else b).All P := by
  split
  · exact ha
  · exact hb

section
variable {P : State → Prop} {s : State}

theorem Pay.All.of_paid {p : Pay} (h : p.All P) (hp : p = .paid s) : P s := by subst hp; exact h
theorem Pay.All.of_stalled {p : Pay} (h : p.All P) (hp : p = .stalled s) : P s := by subst hp; exact h
theorem Pay.All.of_stopped {p : Pay} (h : p.All P) (hp : p = .stopped s) : P s := by subst hp; exact h
theorem Perf.All.of_ok {p : Perf} {x : Out} (h : p.All P) (hp : p = .ok s x) : P s := by subst hp; exact h
theorem Perf.All.of_stop {p : Perf} (h : p.All P) (hp : p = .stop s) : P s := by subst hp; exact h
theorem Turn.All.of_run {t : Turn} {i : Instr} (h : t.All P) (ht : t = .run i s) : P s := by subst ht; exact h
theorem Turn.All.of_done {t : Turn} (h : t.All P) (ht : t = .done s) : P s := by subst ht; exact h
end

theorem State.Sound.putHost {s : State} {a : Nat} {bs : List Byte} (h : s.Sound) :
    ({ s with hostMem := s.hostMem.writeBytes a bs } : State).Sound :=
  ⟨h.1, Mem.writeBytes_wf _ _ _ h.2.1, h.2.2⟩

/-! ### The rails -/

theorem reset_railsOk : State.reset.power.railsOk = true := by decide

theorem pointOk_iff {i volt freq : Nat} :
    pointOk i volt freq = true ↔ railFloor i freq ≤ volt ∧ volt ≤ railTop i := by
  simp [pointOk]

theorem Rail.ok_iff {i : Nat} {r : Rail} : r.ok i = true ↔
    pointOk i r.volt r.freq = true ∧ (∀ p, r.pending = some p → pointOk i p.1 p.2 = true) ∧
      (∀ p, r.step = some p → pointOk i p.1 p.2 = true) := by
  simp [Rail.ok, Option.all_eq_true, and_assoc]

theorem Power.railsOk_iff {p : Power} : p.railsOk = true ↔
    (∀ i < 4, (mget p.rails i {}).ok i = true) ∧ pointOk 2 p.safe 0 = true := by
  simp [Power.railsOk, upTo]

theorem Power.updRail_railsOk {p : Power} {i : Nat} {f : Rail → Rail} (h : p.railsOk = true)
    (hf : (mget p.rails i {}).ok i = true → (f (mget p.rails i {})).ok i = true) : (p.updRail i f).railsOk = true := by
  obtain ⟨hrails, hsafe⟩ := Power.railsOk_iff.1 h
  refine Power.railsOk_iff.2 ⟨fun j hj => ?_, hsafe⟩
  unfold Power.updRail
  rw [mget_mset]
  split
  next hji =>
    subst hji
    exact hf (hrails j hj)
  next => exact hrails j hj

theorem railFloor_mono {i f g : Nat} (h : f ≤ g) : railFloor i f ≤ railFloor i g := by
  unfold railFloor
  split
  · exact le_rfl
  · split
    · omega
    · exact le_rfl

theorem Power.denies_none {p : Power} {i volt freq : Nat} (h : p.denies i volt freq = none) : pointOk i volt freq = true := by
  unfold Power.denies at h
  split at h
  · cases h
  next hfloor =>
    split at h
    · cases h
    next htop =>
      rw [not_or] at hfloor htop
      exact pointOk_iff.2 ⟨not_lt.1 hfloor.1, not_lt.1 htop.1⟩

/-- The floor of the SRAM rail does not depend on a clock (R42). -/
theorem pointOk_sram {volt f g : Nat} (h : pointOk 2 volt f = true) : pointOk 2 volt g = true := h

theorem Rail.ok_request {i volt freq status : Nat} {r : Rail} (h : r.ok i = true) (hp : pointOk i volt freq = true) :
    ({ r with status := status, pending := some (volt, freq) } : Rail).ok i = true := by
  obtain ⟨hnow, -, hstep⟩ := Rail.ok_iff.1 h
  refine Rail.ok_iff.2 ⟨hnow, ?_, hstep⟩
  rintro _ ⟨⟩
  exact hp

theorem Rail.ok_finish {i : Nat} {r : Rail} {p : Nat × Nat} (h : r.ok i = true) (hp : r.step = some p) :
    (r.finish p.1 p.2).ok i = true := by
  obtain ⟨-, hpend, hstep⟩ := Rail.ok_iff.1 h
  exact Rail.ok_iff.2 ⟨hstep p hp, hpend, nofun⟩

/-- The first of the two moves of a step keeps the rail above what both clocks need (R33). -/
theorem Rail.ok_begin {i : Nat} {r : Rail} {p : Nat × Nat} (h : r.ok i = true) (hp : r.pending = some p) :
    (r.begin p.1 p.2).ok i = true := by
  obtain ⟨hnow, hpend, -⟩ := Rail.ok_iff.1 h
  have hnext := hpend p hp
  obtain ⟨hfloor, htop⟩ := pointOk_iff.1 hnow
  obtain ⟨hfloor', htop'⟩ := pointOk_iff.1 hnext
  have hstep : ∀ q, some (p.1, p.2) = some q → pointOk i q.1 q.2 = true := by
    rintro _ ⟨⟩
    exact hnext
  unfold Rail.begin
  dsimp only
  split
  next hup => exact Rail.ok_iff.2 ⟨pointOk_iff.2 ⟨(railFloor_mono hup.le).trans hfloor', htop'⟩, nofun, hstep⟩
  next =>
    split
    next hdown => exact Rail.ok_iff.2 ⟨pointOk_iff.2 ⟨(railFloor_mono hdown.le).trans hfloor, htop⟩, nofun, hstep⟩
    next => exact Rail.ok_iff.2 ⟨hnow, nofun, hstep⟩

theorem Rail.ok_setVolt {r : Rail} {volt : Nat} (h : r.ok 2 = true) (hv : pointOk 2 volt 0 = true) :
    ({ r with volt := volt } : Rail).ok 2 = true := by
  obtain ⟨-, hpend, hstep⟩ := Rail.ok_iff.1 h
  exact Rail.ok_iff.2 ⟨pointOk_sram hv, hpend, hstep⟩

theorem keepAbove_eq_some {o : Option (Nat × Nat)} {p : Nat × Nat} (h : keepAbove o = some p) : o = some p := by
  cases o with
  | none => exact h
  | some q =>
    by_cases hq : q.1 < 750
    · simp [keepAbove, hq] at h
    · simpa [keepAbove, hq] using h

theorem Rail.ok_rolledBack {r : Rail} {safe : Nat} (h : r.ok 2 = true) (hs : pointOk 2 safe 0 = true) :
    (r.rolledBack safe).ok 2 = true := by
  have hdone : (match r.step with | some p => r.finish p.1 p.2 | none => r).ok 2 = true := by
    split
    next p hp => exact Rail.ok_finish h hp
    next => exact h
  obtain ⟨-, hpend, -⟩ := Rail.ok_iff.1 h
  obtain ⟨-, -, hstep⟩ := Rail.ok_iff.1 hdone
  exact Rail.ok_iff.2 ⟨pointOk_sram hs, fun p hp => hpend p (keepAbove_eq_some hp), hstep⟩

theorem Power.safe_ok {p : Power} (h : p.railsOk = true) : pointOk 2 p.safe 0 = true := (Power.railsOk_iff.1 h).2

/-- The rails are all that `Power.railsOk` reads. -/
theorem Power.railsOk_congr {p q : Power} (hrails : q.rails = p.rails) (hsafe : q.safe = p.safe) (h : p.railsOk = true) :
    q.railsOk = true := by
  rw [Power.railsOk_iff] at h ⊢
  rwa [hrails, hsafe]

theorem Power.rollback_railsOk {p : Power} (h : p.railsOk = true) : p.rollback.railsOk = true := by
  have hback := Power.updRail_railsOk (i := 2) (f := fun r => r.rolledBack p.safe) h fun hr =>
    Rail.ok_rolledBack hr (Power.safe_ok h)
  exact Power.railsOk_congr rfl rfl hback

theorem State.Sound.framePower {s : State} (h : s.Sound) {p : Power} (hp : p.railsOk = true) :
    ({ s with power := p } : State).Sound := ⟨h.1, h.2.1, hp⟩

variable {s : State}

/-! ### Sys2Proof/Machine/Map.lean -/

theorem State.Sound.setCell {c : Nat} {v : Cell} (h : s.Sound) : (s.setCell c v).Sound := h.frame

theorem State.Sound.updCell {c : Nat} {f : Cell → Cell} (h : s.Sound) : (s.updCell c f).Sound := h.setCell

theorem State.Sound.updElem {c e : Nat} {f : Elem → Elem} (h : s.Sound) : (s.updElem c e f).Sound := h.updCell

theorem State.Sound.updRoom {r : Nat} {f : Room → Room} (h : s.Sound) : (s.updRoom r f).Sound := h.frame

theorem State.Sound.updTask {t : Nat} {f : Task → Task} (h : s.Sound) : (s.updTask t f).Sound := h.frame

theorem State.Sound.delTask {t : Nat} (h : s.Sound) : (s.delTask t).Sound := h.frame

theorem State.Sound.updOp {i : Nat} {f : Op → Op} (h : s.Sound) : (s.updOp i f).Sound := h.frame

theorem State.Sound.delOp {i : Nat} (h : s.Sound) : (s.delOp i).Sound := h.frame

theorem State.Sound.updRtag {t : Nat} {f : RouteTag → RouteTag} (h : s.Sound) : (s.updRtag t f).Sound := h.frame

theorem State.Sound.updAcct {n : Nat} {f : Acct → Acct} (h : s.Sound) : (s.updAcct n f).Sound := h.frame

theorem State.Sound.logError {pa kind : Nat} (h : s.Sound) : (s.logError pa kind).Sound := h.frame

theorem State.Sound.fresh (h : s.Sound) : s.fresh.2.Sound := h.frame

theorem State.Sound.inject {id : Nat} (h : s.Sound) : (s.inject id).Sound := h.fresh.updOp

theorem State.Sound.free (h : s.Sound) : s.free.2.Sound := h.frame

theorem State.Sound.injectAll {ids : List Nat} (h : s.Sound) : (s.injectAll ids).Sound :=
  h.foldState fun _ _ ht => ht.inject

theorem State.Sound.updGang {t : Task} {f : Cell → Cell} (h : s.Sound) : (s.updGang t f).Sound :=
  h.foldState fun _ _ ht => ht.updCell

theorem State.Sound.updGangElems {t : Task} {f : Elem → Elem} (h : s.Sound) : (s.updGangElems t f).Sound := h.updGang

/-! ### Sys2Proof/Machine/Memory.lean -/

theorem State.Sound.putPhys {pa : Nat} {b : Byte} (h : s.Sound) : (s.putPhys pa b).Sound := by
  obtain ⟨hmem, hhost, hrails⟩ := h
  unfold State.putPhys
  split
  · exact ⟨hmem, Mem.write_wf _ _ _ hhost, hrails⟩
  · exact ⟨Mem.write_wf _ _ _ hmem, hhost, hrails⟩

theorem State.Sound.putBytes {pa : Nat} {bs : List Byte} (h : s.Sound) : (s.putBytes pa bs).Sound := by
  induction bs generalizing s pa with
  | nil => exact h
  | cons b bs ih => exact ih h.putPhys

theorem State.Sound.putMasked {pa : Nat} {mask : BitVec 64} {data : BitVec 512} (h : s.Sound) :
    (s.putMasked pa mask data).Sound := by
  refine h.foldState fun i _ ht => ?_
  split
  · exact ht.putPhys
  · exact ht

theorem State.Sound.putTag {pa : Nat} {t : BitVec 16} (h : s.Sound) : (s.putTag pa t).Sound := by
  unfold State.putTag
  split
  · exact h
  · exact h.frame

theorem State.Sound.putBlock {pa : Nat} {b : Block} (h : s.Sound) : (s.putBlock pa b).Sound := h.putBytes.putTag

theorem State.Sound.appendLog {lg : HostLog} {recLen : Nat} {bytes : List Byte} (h : s.Sound) :
    (s.appendLog lg recLen bytes).2.Sound := by
  unfold State.appendLog
  split
  · exact h.putHost
  · exact h

theorem State.Sound.useRange {pa n : Nat} (h : s.Sound) : (s.useRange pa n).Sound := h

theorem State.Sound.useRanges {ps : List (Nat × Nat)} (h : s.Sound) : (s.useRanges ps).Sound :=
  h.foldState fun _ _ ht => ht.useRange

theorem State.Sound.beginExit {as : List RetArray} (h : s.Sound) : (s.beginExit as).Sound := h

theorem State.Sound.homeWatch {pa n : Nat} {wr : Bool} {ag : Agent} (h : s.Sound) : (s.homeWatch pa n wr ag).Sound := by
  dsimp only [State.homeWatch]
  split
  · exact h
  · exact h.useRange.foldState fun i _ ht => by
        split
        · exact ht.appendLog.frame
        · exact ht

theorem State.Sound.walkUse {asid va : Nat} (h : s.Sound) : (s.walkUse asid va).Sound :=
  h.foldState fun _ _ ht => ht.useRange

theorem State.Sound.setSpad {c : Nat} {p : Spad} (h : s.Sound) : (s.setSpad c p).Sound := h.updCell

/-! ### Sys2Proof/Machine/Sched.lean -/

theorem State.Sound.putRecord {n : Nat} {bytes : List Byte} (h : s.Sound) : (s.putRecord n bytes).Sound :=
  h.putHost.frame

theorem State.Sound.emitRecord {n tag : Nat} {notice : Bool} {bytes : List Byte} (h : s.Sound) :
    (s.emitRecord n tag notice bytes).Sound := by
  dsimp only [State.emitRecord]
  split
  · exact h.putRecord
  · split
    · exact h.frame
    · exact h.frame

theorem State.Sound.issueAge {cand : Nat} (h : s.Sound) : (s.issueAge cand).2.Sound := h.frame

theorem State.Sound.touchWm {tag : Nat} (h : s.Sound) : (s.touchWm tag).Sound := h.updRtag.frame

theorem State.Sound.touchAllWm (h : s.Sound) : s.touchAllWm.Sound := h.foldState fun _ _ ht => ht.touchWm

theorem State.Sound.issueMany {time n : Nat} (h : s.Sound) : (s.issueMany time n).2.Sound := by
  induction n generalizing s with
  | zero => exact h
  | succ n ih => exact ih h.issueAge

theorem State.Sound.enqueue {p : Packet} {time : Nat} {pin : Option (Nat × Nat × Nat)} {slot : Option (Nat × Nat)}
    (h : s.Sound) : (s.enqueue p time pin slot).Sound := by
  dsimp only [State.enqueue]
  split
  · split
    · exact h.issueAge.fresh.updRtag.issueMany.updRtag.frame.touchWm
    · exact h.issueAge.fresh.updRtag.updRtag.frame.touchWm
  · exact h.issueAge.fresh.updRtag.updRtag.frame.touchWm

theorem State.Sound.report {tag status : Nat} {pid : BitVec 64} {body : List Byte} (h : s.Sound) :
    (s.report tag status pid body).Sound := h.emitRecord

theorem State.Sound.settleTask {t : Task} (h : s.Sound) : (s.settleTask t).Sound := h.updAcct

theorem State.Sound.openGate {tag : Nat} (h : s.Sound) : (s.openGate tag).Sound := h.updRtag.frame

theorem State.Sound.releaseTicket {tag : Nat} {ticket : Option Nat} (h : s.Sound) : (s.releaseTicket tag ticket).Sound := by
  unfold State.releaseTicket
  split
  · exact h
  · exact h.updRtag.openGate

theorem State.Sound.launchRecord {l : Launch} (h : s.Sound) : (s.launchRecord l).Sound := by
  dsimp only [State.launchRecord]
  split
  · exact h
  · split
    · exact h.frame
    · split
      · exact h.frame.emitRecord
      · exact h

theorem State.Sound.launchEnd {id n k : Nat} {status : Option Nat} (h : s.Sound) : (s.launchEnd id n k status).Sound := by
  dsimp only [State.launchEnd]
  split
  · split
    · exact h.frame
    · exact h.frame.frame.launchRecord
  · exact h.frame

theorem State.Sound.freeSlot {slot : Option (Nat × Nat)} (h : s.Sound) : (s.freeSlot slot).Sound := by
  dsimp only [State.freeSlot]
  split
  · exact h
  · exact h.frame

theorem State.Sound.endTask {t : Task} {status : Option Nat} (h : s.Sound) : (s.endTask t status).Sound := by
  dsimp only [State.endTask]
  split
  · split
    · exact h.delTask.freeSlot.releaseTicket.launchEnd.touchWm
    · exact h.delTask.freeSlot.launchEnd.touchWm
  · split
    · exact h.delTask.freeSlot.releaseTicket.touchWm
    · exact h.delTask.freeSlot.touchWm

theorem State.Sound.argFail {t : Task} {code : Nat} (h : s.Sound) : (s.argFail t code).Sound := h.report.endTask

/-! ### Sys2Proof/Machine/Flight.lean -/

theorem State.Sound.arrive {as : List Served} (h : s.Sound) : (s.arrive as).Sound := h.frame

/-! ### Sys2Proof/Machine/Vanish.lean -/

theorem State.Sound.wakeWhere {p : Nat → Nat → Nat → Bool} (h : s.Sound) : (s.wakeWhere p).Sound := h.frame

theorem State.Sound.wakeParks (h : s.Sound) : s.wakeParks.Sound := h.wakeWhere

theorem State.Sound.wakeWord {cell word : Nat} (h : s.Sound) : (s.wakeWord cell word).Sound := h.wakeWhere

theorem State.Sound.allSpads {f : Spad → Spad} (h : s.Sound) : (s.allSpads f).Sound := h.frame

theorem State.Sound.grantSet {ctn set task : Nat} (h : s.Sound) : (s.grantSet ctn set task).Sound := h.frame.injectAll

theorem State.Sound.releaseSet {k : Nat × Nat} (h : s.Sound) : (s.releaseSet k).Sound := by
  unfold State.releaseSet
  split
  · exact h
  · split
    · exact h.grantSet
    · exact h.frame

theorem State.Sound.releaseSets {t : Task} (h : s.Sound) : (s.releaseSets t).Sound :=
  h.frame.foldState fun _ _ ht => ht.releaseSet

theorem State.Sound.freeCells {t : Task} (h : s.Sound) : (s.freeCells t).Sound := h.frame

theorem State.Sound.dropOps {task : Nat} (h : s.Sound) : (s.dropOps task).Sound := h.frame

theorem State.Sound.rollTask {t : Task} (h : s.Sound) : (s.rollTask t).Sound := by
  dsimp only [State.rollTask]
  split
  · exact h.settleTask.allSpads.dropOps.freeCells.frame.releaseSets.wakeParks
  · exact h.settleTask.allSpads.dropOps.freeCells.releaseSets.wakeParks

theorem State.Sound.vanish1 {t : Task} {c : Cause} {noRestart : Bool} {short : Nat} (h : s.Sound) :
    (s.vanish1 t c noRestart short).Sound := by
  dsimp only [State.vanish1]
  split
  · exact h.rollTask.fresh.frame.touchWm
  · exact h.rollTask.report.endTask

theorem State.Sound.logFrame {t : Task} (h : s.Sound) : (s.logFrame t).Sound := by
  dsimp only [State.logFrame]
  split
  · exact h
  · exact h.arrive.appendLog.frame

theorem State.Sound.awaitFrame {t : Task} {action : Nat} (h : s.Sound) : (s.awaitFrame t action).Sound :=
  h.beginExit.updTask

theorem State.Sound.vanishN {fuel id : Nat} {c : Cause} {noRestart : Bool} {short : Nat} (h : s.Sound) :
    (s.vanishN fuel id c noRestart short).Sound := by
  induction fuel generalizing s id c noRestart short with
  | zero => exact h
  | succ fuel ih =>
    unfold State.vanishN
    dsimp only
    split
    · exact h
    · split
      · exact h
      · split
        · exact h.vanish1
        · split
          · exact h.vanish1
          · split
            · split
              · exact h.vanish1
              · split
                · exact h.vanish1.awaitFrame
                · exact ih h.vanish1.logFrame
            · exact h.vanish1

theorem State.Sound.vanish {id : Nat} {c : Cause} (h : s.Sound) : (s.vanish id c).Sound := h.vanishN

theorem State.Sound.vanishReport {t : Task} (h : s.Sound) : (s.vanishReport t).Sound := by
  unfold State.vanishReport
  split
  · exact h.awaitFrame
  · exact h.logFrame.vanishN

/-! ### Sys2Proof/Machine/Meter.lean -/

theorem Pay.All.andThen {p : Pay} {f : State → State} (hp : p.All State.Sound) (hf : ∀ u, u.Sound → (f u).Sound) :
    (p.andThen f).Sound := by
  cases p with
  | paid s => exact hf s hp
  | stalled s => exact hp
  | stopped s => exact hp

theorem Pay.All.step {p : Pay} {tid : Nat} {f : State → State} (hp : p.All State.Sound) (hf : ∀ u, u.Sound → (f u).Sound) :
    (p.step tid f).Sound := hp.andThen fun _ h => hf _ h.updTask

theorem State.Sound.updMeter {c : Nat} {f : Meter → Meter} (h : s.Sound) : (s.updMeter c f).Sound := h.updCell

theorem State.Sound.requestTopup {t : Task} {c packets : Nat} (h : s.Sound) : (s.requestTopup t c packets).Sound :=
  h.updMeter.frame

theorem State.Sound.autoRequest {t : Task} {c : Nat} (h : s.Sound) : (s.autoRequest t c).Sound := h.updMeter.requestTopup

theorem State.Sound.autoTopup {t : Task} {c : Nat} (h : s.Sound) : (s.autoTopup t c).Sound := by
  unfold State.autoTopup
  split
  · exact h
  · split
    · exact h.updMeter
    · exact h.autoRequest

theorem State.Sound.lateTopups (h : s.Sound) : s.lateTopups.Sound := by
  refine h.foldState fun p st ht => ?_
  dsimp only
  split
  · split
    · exact ht.updMeter
    · exact ht.updMeter.autoRequest
  · exact ht.updMeter

theorem State.Sound.meterStop {t : Task} {c cost : Nat} {atEntry : Bool} (h : s.Sound) :
    (s.meterStop t c cost atEntry).Sound := h.appendLog.frame.vanishN

theorem State.Sound.pumped {c : Nat} (h : s.Sound) : (s.pumped c).Sound := h.free.updMeter

theorem State.Sound.pay {t : Task} {c cost : Nat} (h : s.Sound) : (s.pay t c cost).All State.Sound := by
  dsimp only [State.pay]
  split
  · exact h
  · split
    · split
      · exact h.pumped.autoTopup
      · split
        · exact h.updMeter.autoTopup
        · split
          · exact h
          · split
            · exact h.updMeter
            · exact h.meterStop
    · exact h

theorem State.Sound.payEngine {t : Task} {c key cost : Nat} (h : s.Sound) :
    (s.payEngine t c key cost).All State.Sound := by
  unfold State.payEngine
  split
  · exact h
  · split
    next s1 hs => exact h.pay.of_paid hs
    next s1 hs =>
      have h1 : s1.Sound := h.pay.of_stalled hs
      split
      · exact h1.updMeter
      · exact h1
    next s1 hs => exact h.pay.of_stopped hs

theorem State.Sound.iterDone {t : Task} (h : s.Sound) : (s.iterDone t).Sound := h.updGang.updTask

theorem State.Sound.houseDebit {r mu : Nat} (h : s.Sound) : (s.houseDebit r mu).Sound := h.updAcct

/-! ### Sys2Proof/Machine/Engines.lean -/

theorem State.Sound.endStep {c : Nat} (h : s.Sound) : (s.endStep c).Sound := h.updCell

/-! ### Sys2Proof/Machine/Ops.lean -/

theorem State.Sound.updInputAt {c e i : Nat} {f : Input → Input} (h : s.Sound) : (s.updInputAt c e i f).Sound := by
  dsimp only [State.updInputAt]
  split
  · exact h.updCell
  · exact h.updElem

theorem State.Sound.reserve {t : Task} {ds : List Dest} (h : s.Sound) : (s.reserve t ds).Sound :=
  h.foldState fun _ _ ht => ht.updInputAt

theorem State.Sound.unreserve {t : Task} {ds : List Dest} (h : s.Sound) : (s.unreserve t ds).Sound :=
  h.foldState fun _ _ ht => ht.updInputAt

theorem State.Sound.noteSent {c e : Nat} (h : s.Sound) : (s.noteSent c e).Sound := by
  unfold State.noteSent
  split
  · exact h
  · exact h.updCell

theorem State.Sound.send {t : Task} {c : Nat} {ds : List Dest} {tok : Token} (h : s.Sound) : (s.send t c ds tok).Sound := by
  refine h.foldState fun d _ ht => ?_
  dsimp only
  split
  · exact ht.updInputAt.noteSent
  · exact ht.updInputAt

theorem State.Sound.fire {op : Nat} {f : Slot} {body : Fire → State → State} (h : s.Sound)
    (hbody : ∀ x u, u.Sound → (body x u).Sound) : (s.fire op f body).Sound := by
  unfold State.fire
  split
  · exact h
  · split
    · exact hbody _ _ h
    · exact h

theorem State.Sound.atSite {c e k : Nat} (h : s.Sound) : (s.atSite c e k).Sound := h.frame

theorem State.Sound.noteTurn {c e : Nat} {n : Option Nat} (h : s.Sound) : (s.noteTurn c e n).Sound := h.updCell

theorem State.Sound.fired {x : Fire} (h : s.Sound) : (s.fired x).Sound := h.updElem.updTask

theorem State.Sound.offer {x : Fire} {cost : Nat} {body : State → State} (h : s.Sound)
    (hbody : ∀ u, u.Sound → (body u).Sound) : (s.offer x cost body).Sound := by
  unfold State.offer
  split
  · exact hbody _ h.fired
  · split
    next s1 hs => exact hbody _ (h.pay.of_paid hs).fired
    next s1 hs => exact (h.pay.of_stalled hs).updElem
    next s1 hs => exact h.pay.of_stopped hs

theorem State.Sound.sendResult {x : Fire} {r : Word} (h : s.Sound) : (s.sendResult x r).Sound := h.send.send

theorem State.Sound.finish {x : Fire} {r : Res} {tnt : Bool} (h : s.Sound) : (s.finish x r tnt).Sound :=
  h.updElem.sendResult

theorem State.Sound.finishEng {x : Fire} {r : Res} {status : Nat} (h : s.Sound) : (s.finishEng x r status).Sound :=
  h.updElem.finish

theorem State.Sound.plain {op : Nat} {f : Slot} {cost : Nat} {g : Fire → State → Res} (h : s.Sound) :
    (s.plain op f cost g).Sound := h.fire fun _ _ h0 => h0.offer fun _ h1 => h1.finish

theorem State.Sound.issue {x : Fire} {o : Op} (h : s.Sound) : (s.issue x o).Sound :=
  h.reserve.reserve.updElem.updCell.fresh.frame

theorem State.Sound.postIncr {x : Fire} {reg step : Nat} (h : s.Sound) : (s.postIncr x reg step).Sound := by
  unfold State.postIncr
  split
  · exact h.updElem
  · exact h

theorem State.Sound.tryCommit {tid : Nat} (h : s.Sound) : (s.tryCommit tid).Sound := by
  dsimp only [State.tryCommit]
  split
  · exact h
  · split
    · exact h.updTask
    · exact h

theorem State.Sound.writeback {o : Op} (h : s.Sound) : (s.writeback o).Sound :=
  h.unreserve.unreserve.updElem.updCell.send.send.endStep.delOp

theorem State.Sound.countFaults {t : Task} {n : Nat} (h : s.Sound) : (s.countFaults t n).Sound := by
  dsimp only [State.countFaults]
  split
  · exact h.updTask
  · split
    · split
      · exact h.updTask.arrive.putPhys.homeWatch.updTask
      · exact h.updTask.beginExit.updTask
    · exact h.updTask.updRoom

theorem State.Sound.countFault {t : Task} (h : s.Sound) : (s.countFault t).Sound := h.countFaults

theorem State.Sound.raise {tid c : Nat} {elem : Option Nat} {reg : FaultReg} {op : Option Nat} (h : s.Sound) :
    (s.raise tid c elem reg op).Sound := by
  dsimp only [State.raise]
  split
  · exact h
  · split
    · exact h.countFault
    · split
      · exact h.updElem.updTask
      · exact h.updCell.updTask

theorem State.Sound.raiseFire {x : Fire} {a : AddrFault} (h : s.Sound) : (s.raiseFire x a).Sound := h.updElem.raise

theorem State.Sound.raiseOp {o : Op} {a : AddrFault} (h : s.Sound) : (s.raiseOp o a).Sound := by
  dsimp only [State.raiseOp]
  split
  · exact h.updOp.raise
  · exact h.updOp.raise

theorem State.Sound.raiseNode {tid c node : Nat} {a : AddrFault} (h : s.Sound) : (s.raiseNode tid c node a).Sound := h.raise

theorem State.Sound.faultFire {x : Fire} {cost : Nat} {a : AddrFault} (h : s.Sound) : (s.faultFire x cost a).Sound :=
  h.offer fun _ h1 => h1.raiseFire

theorem State.Sound.putFrame {t : Task} {bytes : List Byte} (h : s.Sound) : (s.putFrame t bytes).Sound := by
  unfold State.putFrame
  split
  · exact h.putBytes.homeWatch
  · exact h.updRoom

theorem State.Sound.hearthWrites {t : Task} {withMap : Bool} {go : State → State} (h : s.Sound)
    (hgo : ∀ u, u.Sound → (go u).Sound) : (s.hearthWrites t withMap go).Sound := by
  dsimp only [State.hearthWrites]
  split
  · exact h.beginExit
  · split
    · exact h
    · exact hgo _ h.arrive

theorem State.Sound.putMap {t : Task} (h : s.Sound) : (s.putMap t).Sound := by
  refine h.foldState fun c _ ht => ?_
  dsimp only
  split
  · exact ht.putBytes.homeWatch
  · exact ht.updRoom

theorem State.Sound.gateDomains {t : Task} (h : s.Sound) : (s.gateDomains t).Sound := h.updGang

theorem State.Sound.ungateDomains {t : Task} (h : s.Sound) : (s.ungateDomains t).Sound := h.updGang

theorem State.Sound.withdraw {p : PendFault} (h : s.Sound) : (s.withdraw p).Sound := h.frame

theorem State.Sound.dropPark {tid : Nat} (h : s.Sound) : (s.dropPark tid).Sound := h.frame

theorem State.Sound.sendTrap {t : Task} (h : s.Sound) : (s.sendTrap t).Sound := by
  dsimp only [State.sendTrap]
  split
  · split
    · exact h.vanishReport
    · split
      · exact h.updTask
      · exact h.free.enqueue.updTask.frame
  · exact h.vanishReport

theorem State.Sound.unbar {t : Task} (h : s.Sound) : (s.unbar t).Sound := h.updGangElems

theorem State.Sound.enterTrap {t : Task} {p : PendFault} {withMap : Bool} (h : s.Sound) :
    (s.enterTrap t p withMap).Sound := by
  dsimp only [State.enterTrap]
  split
  · split
    · exact h.updTask.withdraw.ungateDomains.dropPark.unbar.putMap.putFrame.sendTrap
    · exact h.updTask.withdraw.putMap.putFrame.sendTrap
  · split
    · exact h.updTask.withdraw.ungateDomains.dropPark.unbar.putFrame.sendTrap
    · exact h.updTask.withdraw.putFrame.sendTrap

theorem State.Sound.clearSwitch {t : Task} (h : s.Sound) : (s.clearSwitch t).Sound := h.updGangElems.updGang

theorem State.Sound.resume {t : Task} {fr : List Byte} (h : s.Sound) : (s.resume t fr).Sound := by
  dsimp only [State.resume]
  split
  · split
    · exact h.updElem.updGang.frame.injectAll.clearSwitch.ungateDomains.updTask.updTask
    · exact h.updGang.frame.injectAll.clearSwitch.ungateDomains.updTask.updTask
  · split
    · exact h.updElem.updGang.frame.injectAll.updTask
    · exact h.updGang.frame.injectAll.updTask

theorem State.Sound.trapAct {t : Task} {action : Nat} {fr : List Byte} (h : s.Sound) : (s.trapAct t action fr).Sound := by
  unfold State.trapAct
  split
  · exact h.resume
  · split
    · exact h.vanishN
    · exact h.vanishReport

theorem State.Sound.watchFrame {t : Task} (h : s.Sound) : (s.watchFrame t).Sound := by
  unfold State.watchFrame
  split
  · exact h.arrive.homeWatch
  · exact h

theorem State.Sound.trapReturn {t : Task} (h : s.Sound) : (s.trapReturn t).Sound := by
  unfold State.trapReturn
  split
  · exact h.awaitFrame
  · split
    · exact h.watchFrame.trapAct
    · exact h.watchFrame.trapAct

theorem State.Sound.frameDue {t : Task} (h : s.Sound) : (s.frameDue t).Sound := by
  dsimp only [State.frameDue]
  split
  · exact h
  · split
    · split
      · exact h.countFaults.trapReturn
      · exact h.trapReturn
    · split
      · exact h.countFaults.vanishReport
      · exact h.vanishReport
    · split
      · exact h.countFaults
      · exact h

/-! ### Sys2Proof/Machine/Counters.lean -/

theorem State.Sound.updCtr {c n : Nat} {f : CtrSet → CtrSet} (h : s.Sound) : (s.updCtr c n f).Sound := h.updCell

theorem State.Sound.controlNow {c e key : Nat} (h : s.Sound) : (s.controlNow c e key).Sound := by
  unfold State.controlNow
  split
  · exact h.updCtr
  · exact h.updElem

theorem State.Sound.controlLater {c e key : Nat} (h : s.Sound) : (s.controlLater c e key).Sound := h.updCell

theorem State.Sound.controlArrive {c e key : Nat} (h : s.Sound) : (s.controlArrive c e key).Sound := by
  unfold State.controlArrive
  split
  · exact h.controlLater
  · exact h.controlNow

theorem State.Sound.sendControl {t : Task} {c source : Nat} (h : s.Sound) : (s.sendControl t c source).Sound := by
  refine h.foldState fun d _ ht => ?_
  dsimp only
  split
  · exact ht.controlLater
  · exact ht.updElem

theorem State.Sound.beginStep {c : Nat} (h : s.Sound) : (s.beginStep c).Sound :=
  (h.foldState fun _ _ ht => ht.controlNow).updCell

theorem State.Sound.beginTurn {c e : Nat} (h : s.Sound) : (s.beginTurn c e).Sound := by
  unfold State.beginTurn
  split
  · exact h.beginStep
  · exact h

theorem State.Sound.advanceCtr {t : Task} {c n : Nat} (h : s.Sound) : (s.advanceCtr t c n).Sound := by
  dsimp only [State.advanceCtr]
  split
  · split
    · exact h.updCtr.updCell.sendControl.iterDone
    · exact h.updCtr.iterDone
  · split
    · exact h.updCtr.updCell.sendControl
    · exact h.updCtr

theorem State.Sound.gateTask {t : Task} {g : Gate} (h : s.Sound) : (s.gateTask t g).Sound := h.gateDomains.updGang.updTask

theorem State.Sound.ungateTask {t : Task} (h : s.Sound) : (s.ungateTask t).Sound := h.ungateDomains.updTask

theorem State.Sound.barSpawn {tid c e k : Nat} {f : Slot} (h : s.Sound) : (s.barSpawn tid c e k f).Sound := by
  dsimp only [State.barSpawn]
  split
  · exact h.updElem
  · exact h

theorem State.Sound.preempt {t : Task} (h : s.Sound) : (s.preempt t).Sound := by
  unfold State.preempt
  split
  · exact h.gateTask
  · exact h

/-! ### Sys2Proof/Machine/Access.lean -/

theorem Perf.All.andThen {p : Perf} {f : State → Out → Perf} (hp : p.All State.Sound)
    (hf : ∀ u x, u.Sound → (f u x).All State.Sound) : (p.andThen f).All State.Sound := by
  cases p with
  | ok s x => exact hf s x hp
  | wait => exact hp
  | fault a => exact hp
  | stop s => exact hp

theorem State.Sound.pageReport {t : Task} {x y asid va : Nat} {wr : Bool} (h : s.Sound) :
    (s.pageReport t x y asid va wr).Sound := h.appendLog.frame

theorem State.Sound.hold {t : Task} {o : Op} {page : Nat} {wr : Bool} (h : s.Sound) : (s.hold t o page wr).Sound := by
  dsimp only [State.hold]
  split
  · split
    · exact h.pageReport.inject.updOp
    · exact h.inject.updOp
  · split
    · exact h.pageReport.inject.updOp.updRoom
    · exact h.inject.updOp.updRoom

theorem State.Sound.watchRead {t : Task} {kind c e ea n : Nat} (h : s.Sound) : (s.watchRead t kind c e ea n).Sound := by
  refine h.foldState fun i _ ht => ?_
  dsimp only
  split
  · exact ht.homeWatch
  · exact ht

theorem State.Sound.allocLines {t : Task} {mc n : Nat} {go : State → Perf} (h : s.Sound)
    (hgo : ∀ u, u.Sound → (go u).All State.Sound) : (s.allocLines t mc n go).All State.Sound := by
  unfold State.allocLines
  dsimp only
  split
  · exact hgo s h
  · split
    · exact h.vanish
    · split
      · exact hgo s h
      · split
        next s1 hs => exact hgo s1 (h.payEngine.of_paid hs)
        next s1 hs => exact h.payEngine.of_stalled hs
        next s1 hs => exact h.payEngine.of_stopped hs

theorem State.Sound.storePieces {t : Task} {mc : Nat} {ag : Agent} {pieces : List (Nat × List Byte × Option (BitVec 16))}
    (h : s.Sound) : (s.storePieces t mc ag pieces).All State.Sound := by
  refine h.allocLines fun _ h1 => h1.updCell.foldState fun p _ ht => ?_
  dsimp only
  split
  · exact ht.putBytes.putTag.homeWatch
  · exact ht.putBytes.homeWatch

theorem State.Sound.storeVirt {t : Task} {mc : Nat} {ag : Agent} {ea : Nat} {bytes : List Byte} (h : s.Sound) :
    (s.storeVirt t mc ag ea bytes).All State.Sound := h.storePieces

theorem State.Sound.spadPut {t : Task} {m : Nat} {p : Option Spad} (h : s.Sound) : (s.spadPut t m p).All State.Sound := by
  dsimp only [State.spadPut]
  split
  · exact h.vanish
  · split
    · exact h.setSpad.wakeParks
    · exact h.setSpad

theorem State.Sound.spadStore {t : Task} {m : Nat} {ps : List (Nat × List Byte)} (h : s.Sound) :
    (s.spadStore t m ps).All State.Sound := by
  dsimp only [State.spadStore]
  split
  · trivial
  · split
    · trivial
    · exact h.spadPut

theorem State.Sound.store {t : Task} {c e : Nat} {tg : Target} {bytes : List Byte} (h : s.Sound) :
    (s.store t c e tg bytes).All State.Sound := by
  unfold State.store
  split
  · exact h.spadStore
  · exact h.storeVirt

theorem State.Sound.countXovf {pa n : Nat} (h : s.Sound) : (s.countXovf pa n).Sound := by
  dsimp only [State.countXovf]
  split
  · exact h
  · exact h.frame

theorem State.Sound.takeRed {t : Task} {mc pa : Nat} {op : BitVec 3} {a : Nat} (h : s.Sound) :
    (s.takeRed t mc pa op a).All State.Sound := by
  dsimp only [State.takeRed]
  split
  · exact h.updCell.countXovf
  · split
    · exact h.fresh.updCell
    · exact h.fresh.allocLines fun _ h1 => h1.updCell

theorem State.Sound.paySurcharge {t : Task} {o : Op} {go : State → State} (h : s.Sound)
    (hgo : ∀ u, u.Sound → (go u).Sound) : (s.paySurcharge t o go).Sound := by
  unfold State.paySurcharge
  dsimp only
  split
  · exact hgo s h
  · split
    · exact hgo _ h.updOp
    · split
      next s1 hs => exact hgo _ (h.payEngine.of_paid hs).updOp
      next s1 hs => exact h.payEngine.of_stalled hs
      next s1 hs => exact h.payEngine.of_stopped hs

theorem State.Sound.await {o : Op} (h : s.Sound) : (s.await o).Sound := h.updOp

theorem State.Sound.awaitExit {o : Op} (h : s.Sound) : (s.awaitExit o).Sound := h.await.updOp

theorem State.Sound.perform {o : Op} {f : Op → Op} (h : s.Sound) : (s.perform o f).Sound := h.inject.updOp

theorem State.Sound.settle {o : Op} {p : Perf} (h : s.Sound) (hp : p.All State.Sound) : (s.settle o p).Sound := by
  cases p with
  | ok s1 x => exact State.Sound.perform hp
  | wait => exact h.await
  | fault a => exact h.raiseOp
  | stop s1 => exact hp

theorem State.Sound.virtAttempt {t : Task} {o : Op} {go : State → State} (h : s.Sound) (hgo : ∀ u, u.Sound → (go u).Sound) :
    (s.virtAttempt t o go).Sound := by
  dsimp only [State.virtAttempt]
  split
  · split
    · exact h.inject.updOp.hold
    · exact h.hold
  · split
    · exact h.inject.updOp.paySurcharge fun _ h1 => by
          split
          · exact h1.raiseOp
          · split
            · exact h1.updOp
            · split
              · exact h1.beginExit
              · split
                · split
                  · exact h1.updOp.raiseOp
                  · exact h1.updOp.inject.updOp
                · split
                  · exact h1.updOp
                  · exact hgo _ h1.updOp.arrive.useRanges
    · exact h.paySurcharge fun _ h1 => by
          split
          · exact h1.raiseOp
          · split
            · exact h1.updOp
            · split
              · exact h1.beginExit
              · split
                · split
                  · exact h1.updOp.raiseOp
                  · exact h1.updOp.inject.updOp
                · split
                  · exact h1.updOp
                  · exact hgo _ h1.updOp.arrive.useRanges

theorem State.Sound.attempt {o : Op} {go : Task → State → State} (h : s.Sound) (hgo : ∀ x u, u.Sound → (go x u).Sound) :
    (s.attempt o go).Sound := by
  dsimp only [State.attempt]
  split
  · exact hgo _ _ h
  · split
    · exact h
    · split
      · split
        · exact h.beginExit.awaitExit
        · split
          · exact h
          · exact hgo _ _ h.arrive
      · exact h.virtAttempt fun a ha => hgo _ _ ha

/-! ### Sys2Proof/Machine/Loads.lean -/

theorem State.Sound.memFire {op : Nat} {f : Slot} {size step : Nat} {u : Use} {args : Fire → State → List Word}
    {more : Fire → State → Option AddrFault} (h : s.Sound) : (s.memFire op f size step u args more).Sound := by
  refine h.fire fun x _ h0 => ?_
  dsimp only
  split
  · exact h0.faultFire
  · split
    · exact h0.faultFire
    · exact h0.offer fun _ h1 => h1.postIncr.issue

theorem execAcq_lands {f : Slot} (h : s.Sound) : Lands (execAcq f s) := by
  refine State.Sound.lands (h.fire fun x _ h0 => ?_)
  dsimp only
  split
  · exact h0.faultFire
  · exact h0.offer fun _ h1 => h1.issue

theorem execPref_lands {f : Slot} (h : s.Sound) : Lands (execPref f s) := by
  refine State.Sound.lands (h.fire fun x _ h0 => h0.offer fun _ h1 => ?_)
  dsimp only
  split
  · exact h1.postIncr.finishEng
  · split
    · exact h1.postIncr.updRoom.finishEng
    · exact h1.postIncr.finishEng

theorem State.Sound.performLoad {o : Op} {t : Task} (h : s.Sound) : (s.performLoad o t).All State.Sound := by
  dsimp only [State.performLoad]
  split
  · trivial
  · split
    · exact h.watchRead
    · exact h

theorem State.Sound.performStore {o : Op} {t : Task} (h : s.Sound) : (s.performStore o t).All State.Sound := h.store

theorem State.Sound.spadWord {t : Task} {m w : Nat} {v : Word} {st : WordSt} {x : Out} (h : s.Sound) :
    (s.spadWord t m w v st x).All State.Sound := h.spadPut.andThen fun _ _ h1 => h1

theorem State.Sound.emptyWord {t : Task} {m w : Nat} {x : Out} (h : s.Sound) : (s.emptyWord t m w x).All State.Sound := by
  dsimp only [State.emptyWord]
  split
  · exact h.spadPut.andThen fun _ _ h1 => h1
  · exact h.spadWord

theorem State.Sound.performCtrinit {o : Op} {t : Task} {m w : Nat} {target : Word} (h : s.Sound) :
    (s.performCtrinit o t m w target).All State.Sound := by
  dsimp only [State.performCtrinit]
  split
  · trivial
  · split
    · trivial
    · split
      · trivial
      · exact h.spadPut.andThen fun _ _ h1 => h1

theorem State.Sound.performWord {o : Op} {t : Task} {m : Nat} (h : s.Sound) : (s.performWord o t m).All State.Sound := by
  dsimp only [State.performWord]
  split
  · split
    · trivial
    · split
      · trivial
      · exact h
  · split
    · trivial
    · split
      · trivial
      · exact h.emptyWord
  · split
    · trivial
    · split
      · trivial
      · split
        · split
          · trivial
          · trivial
        · exact h.spadWord
  · split
    · trivial
    · split
      · trivial
      · exact h.spadWord
  · split
    · trivial
    · exact h.emptyWord
  · split
    · trivial
    · exact h
  · exact h.performCtrinit
  · split
    · trivial
    · split
      · trivial
      · split
        · trivial
        · exact h.spadWord

/-! ### Sys2Proof/Machine/Atomics.lean -/

theorem State.Sound.performRed {o : Op} {t : Task} (h : s.Sound) : (s.performRed o t).All State.Sound := h.takeRed

theorem State.Sound.atomDone {o : Op} {old : Word} {swapped : Bool} (h : s.Sound) : (s.atomDone o old swapped).Sound := by
  dsimp only [State.atomDone]
  split
  · split
    · exact h.delOp
    · exact h.fresh.frame.delOp
  · split
    · exact h.perform
    · exact h.fresh.frame.perform

theorem State.Sound.performAtom {o : Op} (h : s.Sound) : (s.performAtom o).Sound := by
  dsimp only [State.performAtom]
  split
  · split
    · exact h.delOp
    · exact h.raiseOp
  · exact h.putBytes.homeWatch.atomDone

theorem State.Sound.performOrphan {o : Op} {k : Orphan} (h : s.Sound) : (s.performOrphan o k).Sound := by
  dsimp only [State.performOrphan]
  split
  · exact h.performAtom
  · exact (h.foldState fun p _ ht => by
        split
        · exact ht.putBytes.putTag.homeWatch
        · exact ht.putBytes.homeWatch).delOp

theorem State.Sound.nameParts {red : Bool} {id : Nat} {parts : List (Nat × Nat)} (h : s.Sound) :
    (s.nameParts red id parts).Sound := by
  refine h.foldState fun p _ ht => ?_
  split
  · exact ht.updCell
  · exact ht.updOp

theorem execRouterCombine_lands {first second : Request} (h : s.Sound) : Lands (execRouterCombine first second s) := by
  refine State.Sound.lands ?_
  dsimp only
  split
  · split
    · exact h.fresh.nameParts.countXovf.frame
    · exact h
  · exact h

theorem State.Sound.performCombo {k : Combo} (h : s.Sound) : (s.performCombo k).Sound := by
  dsimp only [State.performCombo]
  split
  · exact h
  · split
    · exact (h.foldState fun p _ ht => by
          split
          · split
            · exact ht.delOp
            · exact ht.updOp.raiseOp
          · exact ht).frame
    · exact h.putBytes.homeWatch.frame

theorem State.Sound.splitParts {op : Nat} {old : Word} {parts : List (Nat × Nat)} (h : s.Sound) :
    (s.splitParts op old parts).Sound := by
  induction parts generalizing s old with
  | nil => exact h
  | cons p ps ih =>
    refine ih ?_
    split
    · exact h.atomDone
    · exact h

theorem execReplySplit_lands {combo : Nat} (h : s.Sound) : Lands (execReplySplit combo s) := by
  refine State.Sound.lands ?_
  dsimp only
  split
  · exact h
  · split
    · exact h
    · exact h.splitParts.frame

theorem State.Sound.logLost {w : Word} {kind : Nat} (h : s.Sound) : (s.logLost w kind).Sound := h.updRoom

/-! ### Sys2Proof/Machine/Matrix.lean -/

theorem State.Sound.mxLater {x : Fire} {vres : BitVec 1024} (h : s.Sound) : (s.mxLater x vres).Sound := h.issue

theorem State.Sound.updMx {c : Nat} {f : Mx → Mx} (h : s.Sound) : (s.updMx c f).Sound := h.updCell

theorem execMxcfg_lands {f : Slot} (h : s.Sound) : Lands (execMxcfg f s) := by
  refine State.Sound.lands (h.fire fun x _ h0 => ?_)
  dsimp only
  split
  · exact h0.faultFire
  · exact h0.offer fun _ h1 => h1.updMx.mxLater

theorem execMxldb_lands {f : Slot} (h : s.Sound) : Lands (execMxldb f s) := by
  refine State.Sound.lands (h.fire fun x _ h0 => ?_)
  dsimp only
  split
  · exact h0.faultFire
  · exact h0.offer fun _ h1 => h1.updMx.issue

theorem execMxldbComplete_lands (h : s.Sound) : Lands (execMxldbComplete s) := by
  refine State.Sound.lands ?_
  dsimp only
  split
  · exact h
  · split
    · exact h
    · split
      · exact h
      · exact h.updMx.writeback

theorem execMxrule_lands {f : Slot} (h : s.Sound) : Lands (execMxrule f s) := by
  refine State.Sound.lands (h.fire fun x _ h0 => ?_)
  split
  · exact h0.faultFire
  · exact h0.offer fun _ h1 => h1.updMx.updCell.mxLater

theorem execRowFire_lands (h : s.Sound) : Lands (execRowFire s) := by
  refine State.Sound.lands ?_
  dsimp only
  split
  · split
    · exact h.raiseNode
    · exact h.payEngine.step fun _ h1 => h1.endStep.updCell
  · exact h

theorem execMxclr_lands {f : Slot} (h : s.Sound) : Lands (execMxclr f s) := by
  refine State.Sound.lands (h.fire fun x _ h0 => ?_)
  split
  · exact h0.faultFire
  · exact h0.offer fun _ h1 => h1.updMx.mxLater

theorem execMxrd_lands {f : Slot} (h : s.Sound) : Lands (execMxrd f s) := by
  refine State.Sound.lands (h.fire fun x _ h0 => ?_)
  dsimp only
  split
  · exact h0.faultFire
  · exact h0.offer fun _ h1 => h1.mxLater

theorem execMxdrn_lands {f : Slot} (h : s.Sound) : Lands (execMxdrn f s) := by
  refine State.Sound.lands (h.fire fun x _ h0 => ?_)
  dsimp only
  split
  · exact h0.faultFire
  · split
    · exact h0.faultFire
    · exact h0.offer fun _ h1 => h1.updCell.issue

theorem execDrainRow_lands (h : s.Sound) : Lands (execDrainRow s) := by
  refine State.Sound.lands ?_
  dsimp only
  split
  · split
    · exact h
    · split
      · exact h
      · split
        · split
          · exact h.endStep.updCell.writeback
          · exact h.endStep.updCell
        · exact h.payEngine.step fun _ ht => by
            split
            · exact ht.endStep.updCell.writeback
            · exact ht.endStep.updCell
  · exact h

theorem execMxsort_lands {f : Slot} (h : s.Sound) : Lands (execMxsort f s) := by
  refine State.Sound.lands (h.fire fun x _ h0 => ?_)
  dsimp only
  split
  · exact h0.faultFire
  · split
    · exact h0.faultFire
    · exact h0.offer fun _ h1 => h1.updMx.issue

theorem execSortKeyEnter_lands (h : s.Sound) : Lands (execSortKeyEnter s) := by
  refine State.Sound.lands ?_
  dsimp only
  split
  · split
    · exact h
    · exact h.payEngine.step fun _ h1 => h1.updMx
  · exact h

theorem execSortEmit_lands (h : s.Sound) : Lands (execSortEmit s) := by
  refine State.Sound.lands ?_
  dsimp only
  split
  · split
    · exact h
    · split
      · exact h
      · exact h.payEngine.step fun _ h1 => by
          split
          · exact h1.send.send.updMx
          · exact h1.send.send.updMx.writeback
  · exact h

theorem execMatrixOpComplete_lands {id : Nat} (h : s.Sound) : Lands (execMatrixOpComplete id s) := by
  refine State.Sound.lands ?_
  split
  · exact h
  · split
    · exact h.writeback
    · exact h

/-! ### Sys2Proof/Machine/Convert.lean -/

theorem State.Sound.updConv {c : Nat} {f : Conv → Conv} (h : s.Sound) : (s.updConv c f).Sound := h.updCell

theorem State.Sound.convStart {x : Fire} {bs : List Block} {n : Nat} {memMode : Bool} {ea : Nat} (h : s.Sound) :
    (s.convStart x bs n memMode ea).Sound := by
  dsimp only [State.convStart]
  split
  · exact h.updConv.issue
  · exact h.updConv.updCell.issue

theorem execCvcfg_lands {f : Slot} (h : s.Sound) : Lands (execCvcfg f s) := by
  refine State.Sound.lands (h.fire fun x _ h0 => ?_)
  dsimp only
  split
  · exact h0.faultFire
  · split
    · exact h0.faultFire
    · split
      · split
        · exact h0.faultFire
        · exact h0.offer fun _ h1 => h1.convStart
      · split
        · exact h0.faultFire
        · exact h0.offer fun _ h1 => h1.convStart

theorem State.Sound.convWrite {t : Task} {o : Op} {j : ConvJob} (h : s.Sound) : (s.convWrite t o j).Sound := by
  unfold State.convWrite
  dsimp only
  split
  · refine h.virtAttempt fun s1 h1 => ?_
    split
    next s2 _ hs => exact (h1.storePieces.of_ok hs).updConv
    next s2 hs => exact h1.storePieces.of_stop hs
    next => exact h1
  · exact h.endStep.updCell.updConv

theorem execConvertBlock_lands (h : s.Sound) : Lands (execConvertBlock s) := by
  refine State.Sound.lands ?_
  dsimp only
  split
  · exact h
  · split
    · exact h
    · split
      · exact h
      · split
        · split
          · exact h
          · exact h.payEngine.step fun _ h1 => h1.send.updConv
        · split
          · exact h.convWrite
          · exact h

theorem execConvertComplete_lands (h : s.Sound) : Lands (execConvertComplete s) := by
  refine State.Sound.lands ?_
  dsimp only
  split
  · exact h
  · split
    · exact h
    · split
      · exact h
      · exact h.updConv.sendControl.writeback

theorem execCvq_lands {f : Slot} (h : s.Sound) : Lands (execCvq f s) := by
  refine State.Sound.lands (h.fire fun x _ h0 => h0.offer fun _ h1 => ?_)
  dsimp only
  split
  · exact h1.updConv.finishEng
  · exact h1.finishEng

/-! ### Sys2Proof/Machine/Scan.lean -/

theorem State.Sound.updScan {c : Nat} {f : Scan → Scan} (h : s.Sound) : (s.updScan c f).Sound := h.updCell

theorem execZscan_lands {f : Slot} (h : s.Sound) : Lands (execZscan f s) := by
  refine State.Sound.lands (h.fire fun x _ h0 => ?_)
  dsimp only
  split
  · exact h0.faultFire
  · split
    · exact h0.faultFire
    · exact h0.offer fun _ h1 => h1.updScan.finishEng

theorem State.Sound.scanBegin {t : Task} {c : Nat} {k : Scan} (h : s.Sound) : (s.scanBegin t c k).Sound := by
  dsimp only [State.scanBegin]
  split
  · exact h.raiseNode
  · split
    · exact h.raiseNode
    · exact h.fresh.frame.updScan

theorem State.Sound.performScan {o : Op} {t : Task} (h : s.Sound) : (s.performScan o t).All State.Sound := by
  dsimp only [State.performScan]
  split
  · exact h.watchRead
  · exact h

theorem State.Sound.scanBlock {t : Task} {c : Nat} {k : Scan} {o : Op} (h : s.Sound) : (s.scanBlock t c k o).Sound := by
  dsimp only [State.scanBlock]
  split
  · exact h.delOp.updScan.raiseNode
  · split
    · exact h.delOp.updScan
    · split
      · exact h
      · exact h.payEngine.step fun _ h1 => by
            split
            · exact h1.send.delOp.updScan
            · exact h1.send.updScan

theorem State.Sound.scanEnd {t : Task} {c : Nat} {k : Scan} (h : s.Sound) : (s.scanEnd t c k).Sound := by
  dsimp only [State.scanEnd]
  split
  · exact h
  · exact h.payEngine.step fun _ h1 => h1.send.updScan

theorem execScanToken_lands (h : s.Sound) : Lands (execScanToken s) := by
  refine State.Sound.lands ?_
  dsimp only
  split
  · exact h
  · split
    · exact h
    · split
      · split
        · exact h.scanBegin
        · exact h.scanEnd
      · split
        · exact h.updScan
        · split
          · exact h.scanBlock
          · exact h

theorem execTagq_lands {f : Slot} (h : s.Sound) : Lands (execTagq f s) := by
  refine State.Sound.lands (h.fire fun x _ h0 => ?_)
  dsimp only
  split
  · exact h0.faultFire
  · exact h0.offer fun _ h1 => h1.issue

theorem State.Sound.performTagq {o : Op} {t : Task} (h : s.Sound) : (s.performTagq o t).All State.Sound := h

/-! ### Sys2Proof/Machine/Dda.lean -/

theorem State.Sound.updDda {c : Nat} {f : Dda → Dda} (h : s.Sound) : (s.updDda c f).Sound := h.updCell

theorem State.Sound.ddaIssue {x : Fire} {r : Word} {vres : BitVec 1024} {idle : Bool} (h : s.Sound) :
    (s.ddaIssue x r vres idle).Sound := h.issue

theorem execDpatch_lands {f : Slot} (h : s.Sound) : Lands (execDpatch f s) := by
  refine State.Sound.lands (h.fire fun x _ h0 => ?_)
  dsimp only
  split
  · exact h0.faultFire
  · exact h0.offer fun _ h1 => h1.updDda.ddaIssue

theorem execDgety_lands {f : Slot} (h : s.Sound) : Lands (execDgety f s) := by
  refine State.Sound.lands (h.fire fun x _ h0 => h0.offer fun _ h1 => ?_)
  dsimp only
  split
  · exact h1.ddaIssue
  · exact h1.ddaIssue

theorem execDinj_lands {f : Slot} (h : s.Sound) : Lands (execDinj f s) := by
  refine State.Sound.lands (h.fire fun x _ h0 => h0.offer fun _ h1 => ?_)
  dsimp only
  split
  · exact h1.ddaIssue
  · exact h1.updDda.ddaIssue

theorem execDdom_lands {f : Slot} (h : s.Sound) : Lands (execDdom f s) := by
  refine State.Sound.lands (h.fire fun x _ h0 => ?_)
  dsimp only
  split
  · exact h0.faultFire
  · exact h0.offer fun _ h1 => h1.updDda.ddaIssue

theorem execDrun_lands {f : Slot} (h : s.Sound) : Lands (execDrun f s) := by
  refine State.Sound.lands (h.fire fun x _ h0 => ?_)
  dsimp only
  split
  · exact h0.faultFire
  · exact h0.offer fun _ h1 => by
      split
      · exact h1.updDda.ddaIssue
      · exact h1.updDda.ddaIssue
      · exact h1.ddaIssue

theorem execDstop_lands {f : Slot} (h : s.Sound) : Lands (execDstop f s) := by
  refine State.Sound.lands (h.fire fun x _ h0 => h0.offer fun _ h1 => ?_)
  dsimp only
  split
  · exact h1.updDda.ddaIssue
  · exact h1.ddaIssue

theorem State.Sound.transferFault {x : Fire} {a : AddrFault} (h : s.Sound) : (s.transferFault x a).Sound := by
  unfold State.transferFault
  split
  · exact h.offer fun _ h1 => h1.updElem.raiseNode
  · exact h.faultFire

theorem State.Sound.transfer {op : Nat} {f : Slot} (h : s.Sound) : (s.transfer op f).Sound := by
  refine h.fire fun x _ h0 => ?_
  dsimp only
  split
  · split
    · exact h0.faultFire
    · exact h0.offer fun _ h1 => by
        split
        · exact h1.updCell.issue
        · exact h1.issue
  · split
    · exact h0.transferFault
    · exact h0.offer fun _ h1 => h1.issue

theorem State.Sound.saveSpad {o : Op} {t : Task} {m : Nat} {bs : List Block} (h : s.Sound) :
    (s.saveSpad o t m bs).All State.Sound := by
  dsimp only [State.saveSpad]
  split
  · trivial
  · split
    · trivial
    · exact h.spadPut

theorem State.Sound.performTransfer {o : Op} {t : Task} (h : s.Sound) : (s.performTransfer o t).All State.Sound := by
  dsimp only [State.performTransfer]
  split
  · split
    · exact h.saveSpad
    · exact h.updCell
  · split
    · trivial
    · split
      · exact h.updDda
      · split
        · trivial
        · exact h.updDda

theorem State.Sound.domDone {t : Task} {c n : Nat} (h : s.Sound) : (s.domDone t c n).Sound := h.updDda.sendControl

theorem State.Sound.domStep {t : Task} {c n : Nat} (h : s.Sound) : (s.domStep t c n).Sound := by
  dsimp only [State.domStep]
  split
  · exact h.updDda.updDda.raiseNode.updTask
  · split
    · exact h.updDda.domDone
    · exact h.updDda

theorem State.Sound.tokenStep {t : Task} {c n cost : Nat} (h : s.Sound) : (s.tokenStep t c n cost).Sound := by
  dsimp only [State.tokenStep]
  split
  · split
    · exact h
    · exact h.updDda
  · split
    · split
      · exact h
      · exact h.updDda
    · split
      · exact h.updElem.domDone
      · exact h.payEngine.step fun _ h1 => h1.updElem.domStep

theorem execDdaDomainStep_lands {cell domain : Nat} (h : s.Sound) : Lands (execDdaDomainStep cell domain s) := by
  refine State.Sound.lands ?_
  dsimp only
  split
  · exact h
  · split
    · exact h
    · split
      · exact h.tokenStep
      · split
        · exact h.updDda
        · split
          · exact h
          · exact h.payEngine.step fun _ h1 => h1.domStep
      · split
        · exact h.updDda
        · exact h.payEngine.step fun _ h1 => h1.domStep

/-! ### Sys2Proof/Machine/Queues.lean -/

theorem State.Sound.setTable {c : Nat} {t : AMap TagEnt} (h : s.Sound) : (s.setTable c t).Sound := h.updCell

theorem execTlook_lands {f : Slot} (h : s.Sound) : Lands (execTlook f s) := by
  refine State.Sound.lands (h.fire fun x _ h0 => h0.offer fun _ h1 => ?_)
  split
  · exact h1.finishEng
  · exact h1.finishEng

theorem execTins_lands {f : Slot} (h : s.Sound) : Lands (execTins f s) := by
  refine State.Sound.lands (h.fire fun x _ h0 => ?_)
  dsimp only
  split
  · exact h0.faultFire
  · exact h0.offer fun _ h1 => h1.setTable.finishEng

theorem State.Sound.queueFire {op : Nat} {f : Slot} {args : Fire → State → List Word} (h : s.Sound) :
    (s.queueFire op f args).Sound := by
  refine h.fire fun x _ h0 => ?_
  dsimp only
  split
  · exact h0.faultFire
  · exact h0.offer fun _ h1 => h1.issue

theorem State.Sound.queueWrite {t : Task} {m : Nat} {ws : List (Nat × Word)} {x : Out} (h : s.Sound) :
    (s.queueWrite t m ws x).All State.Sound := h.spadPut.andThen fun _ _ h1 => h1

theorem State.Sound.entryRead {t : Task} {o : Op} {m w : Nat} {go : Perf} (_ : s.Sound) (hgo : go.All State.Sound) :
    (s.entryRead t o m w go).All State.Sound := by
  unfold State.entryRead
  split
  · trivial
  · exact hgo

theorem State.Sound.performQueue {o : Op} {t : Task} {m : Nat} (h : s.Sound) : (s.performQueue o t m).All State.Sound := by
  dsimp only [State.performQueue]
  split
  · trivial
  · split
    · trivial
    · split
      · split
        · trivial
        · exact h.queueWrite
      · split
        · trivial
        · exact h.entryRead h.queueWrite
      · split
        · exact h
        · split
          · trivial
          · exact h.queueWrite
      · split
        · exact h
        · split
          · trivial
          · exact h.entryRead h.queueWrite
      · split
        · split
          · exact h
          · split
            · trivial
            · exact h.entryRead h.queueWrite
        · split
          · exact h
          · split
            · trivial
            · exact h.entryRead h.queueWrite

/-! ### Sys2Proof/Machine/System.lean -/

theorem execArg_lands {f : Slot} (h : s.Sound) : Lands (execArg f s) := by
  refine State.Sound.lands (h.fire fun x _ h0 => ?_)
  dsimp only
  split
  · exact h0.faultFire
  · exact h0.offer fun _ h1 => h1.finish

theorem State.Sound.pair {op : Nat} {f : Slot} {lo hi : Fire → State → Nat} (h : s.Sound) : (s.pair op f lo hi).Sound :=
  h.fire fun _ _ h0 => h0.offer fun _ h1 => h1.updElem.finish

theorem execTopup_lands {f : Slot} (h : s.Sound) : Lands (execTopup f s) := by
  refine State.Sound.lands (h.fire fun x _ h0 => ?_)
  dsimp only
  split
  · exact h0.offer fun _ h1 => h1.finish
  · split
    · exact h0.offer fun _ h1 => h1.finish.updMeter
    · split
      · exact h0.updMeter.offer fun _ h1 => h1.finish.requestTopup
      · exact h0.offer fun _ h1 => h1.finish.requestTopup

theorem State.Sound.takeBack {t : Task} {o : Op} {u : SpawnUndo} (h : s.Sound) : (s.takeBack t o u).Sound :=
  h.updElem.updMeter.delOp.preempt.barSpawn

theorem State.Sound.holdSpawns (h : s.Sound) : s.holdSpawns.Sound := by
  refine State.Sound.lateTopups (h.foldState fun _ _ ht => ?_)
  split
  · split
    · exact ht.takeBack
    · exact ht.updElem.updOp
  · exact ht

theorem execSpawn_lands {f : Slot} (h : s.Sound) : Lands (execSpawn f s) := by
  refine State.Sound.lands (h.fire fun x _ h0 => ?_)
  dsimp only
  split
  · exact h0.faultFire
  · split
    · exact h0.faultFire
    · split
      · exact h0.preempt.barSpawn
      · split
        · exact h0.faultFire
        · split
          · exact h0.faultFire
          · split
            · exact h0.updElem.offer fun _ h1 => h1.finish.updElem.fresh.frame
            · exact h0.offer fun _ h1 => h1.finish.updElem.fresh.frame

theorem State.Sound.performSpawn {o : Op} {t : Task} (h : s.Sound) : (s.performSpawn o t).Sound := by
  unfold State.performSpawn
  dsimp only
  split
  · exact h.raiseOp
  · have hread := State.Sound.ite (c := o.spad.isNone = true) (h.watchRead (t := t) (kind := 0) (c := o.cell) (e := o.elem)
      (ea := o.ea) (n := o.len)) h
    have hplace : ∀ (u : State) (f : Cell → Cell), u.Sound →
        (Perf.ok (u.updCell (vestCell t o.cell) f) {}).All State.Sound := fun u _ hu => hu.updCell
    split
    next s1 _ hs => exact ((hread.allocLines fun u hu => hplace u _ hu).of_ok hs).delOp
    next s1 hs => exact (hread.allocLines fun u hu => hplace u _ hu).of_stop hs
    next => exact h

theorem execCtrset_lands {f : Slot} (h : s.Sound) : Lands (execCtrset f s) := by
  refine State.Sound.lands (h.fire fun x _ h0 => h0.offer fun _ h1 => ?_)
  dsimp only
  split
  · exact h1.updCtr.finish.updTask
  · exact h1.updCtr.finish

theorem execCtrstep_lands {f : Slot} (h : s.Sound) : Lands (execCtrstep f s) := by
  refine State.Sound.lands (h.fire fun x _ h0 => h0.offer fun _ h1 => ?_)
  dsimp only
  split
  · exact h1.finish
  · split
    · exact h1.finish.advanceCtr
    · exact h1.updCtr.finish.advanceCtr

/-! ### Sys2Proof/Machine/Tiles.lean -/

theorem State.Sound.tileFill {op : Nat} {f : Slot} (h : s.Sound) : (s.tileFill op f).Sound := by
  refine h.fire fun x _ h0 => ?_
  dsimp only
  split
  · exact h0.faultFire
  · split
    · exact h0.faultFire
    · exact h0.offer fun _ h1 => ((h1.foldState fun _ _ ht => ht.updCell).postIncr).issue

theorem execTstore_lands {f : Slot} (h : s.Sound) : Lands (execTstore f s) := by
  refine State.Sound.lands (h.fire fun x _ h0 => ?_)
  dsimp only
  split
  · exact h0.faultFire
  · exact h0.offer fun _ h1 => h1.updCell.postIncr.issue

theorem execTstatq_lands {f : Slot} (h : s.Sound) : Lands (execTstatq f s) := by
  refine State.Sound.lands (h.fire fun x _ h0 => ?_)
  split
  · exact h0.faultFire
  · exact h0.offer fun _ h1 => h1.finishEng

/-! ### Sys2Proof/Machine/Vector.lean -/

theorem State.Sound.vecFire {op : Nat} {f : Slot} {cost : Nat} {g : Fire → State → VOut} (h : s.Sound) :
    (s.vecFire op f cost g).Sound := h.fire fun _ _ h0 => h0.offer fun _ h1 => h1.issue

theorem State.Sound.vecLanes {op : Nat} {f : Slot} {g : Nat → Nat → Nat → Nat → FRes} (h : s.Sound) :
    (s.vecLanes op f g).Sound := h.vecFire

theorem State.Sound.vecFn {op : Nat} {f : Slot} {g : FFmt → Nat → FRes} (h : s.Sound) : (s.vecFn op f g).Sound := h.vecFire

theorem execVpark_lands {f : Slot} (h : s.Sound) : Lands (execVpark f s) := by
  refine State.Sound.lands (h.fire fun x _ h0 => ?_)
  dsimp only
  split
  · exact h0.faultFire
  · exact h0.offer fun _ h1 => h1.updCell.issue

theorem execVunpark_lands {f : Slot} (h : s.Sound) : Lands (execVunpark f s) := by
  refine State.Sound.lands (h.fire fun x _ h0 => ?_)
  dsimp only
  split
  · exact h0.faultFire
  · exact h0.offer fun _ h1 => h1.updCell.issue

theorem State.Sound.vecMem {op : Nat} {f : Slot} {u : Use} (h : s.Sound) : (s.vecMem op f u).Sound := by
  refine h.fire fun x _ h0 => ?_
  dsimp only
  split
  · exact h0.faultFire
  · exact h0.offer fun _ h1 => h1.postIncr.issue

theorem State.Sound.vecIndexed {op : Nat} {f : Slot} {u : Use} (h : s.Sound) : (s.vecIndexed op f u).Sound := by
  refine h.fire fun x _ h0 => ?_
  dsimp only
  split
  · exact h0.faultFire
  · exact h0.offer fun _ h1 => h1.issue

theorem State.Sound.performVld {o : Op} {t : Task} (h : s.Sound) : (s.performVld o t).All State.Sound := by
  dsimp only [State.performVld]
  split
  · trivial
  · split
    · exact h.watchRead
    · exact h

theorem State.Sound.performVst {o : Op} {t : Task} (h : s.Sound) : (s.performVst o t).All State.Sound := by
  unfold State.performVst
  split
  · exact h.spadStore
  · exact h.storePieces

theorem State.Sound.performVgath {o : Op} {t : Task} (h : s.Sound) : (s.performVgath o t).All State.Sound := by
  dsimp only [State.performVgath]
  split
  · trivial
  · split
    · exact h.foldState fun _ _ ht => ht.watchRead
    · exact h

/-! ### Sys2Proof/Machine/Serve.lean -/

theorem State.Sound.performEdgeRead {o : Op} {t : Task} (h : s.Sound) : (s.performEdgeRead o t).All State.Sound := by
  dsimp only [State.performEdgeRead]
  split
  · trivial
  · split
    · trivial
    · exact h.watchRead

theorem State.Sound.performEdgeWrite {o : Op} {t : Task} (h : s.Sound) : (s.performEdgeWrite o t).All State.Sound :=
  h.storeVirt

theorem State.Sound.performOp {o : Op} {t : Task} (h : s.Sound) : (s.performOp o t).All State.Sound :=
  .ite h.performLoad <| .ite h.performStore <| .ite (.ite h trivial) <| .ite h <| .ite h.performWord <| .ite h.performQueue <|
    .ite h.performRed <| .ite h.performVld <| .ite h.performVst <| .ite h.performVgath <| .ite h.performTagq <|
    .ite h.performTransfer <| .ite h.performScan <| .ite h.performEdgeWrite <| .ite h.performEdgeRead trivial

theorem State.Sound.payBlock {t : Task} {o : Op} {i : Nat} {go : State → State} (h : s.Sound)
    (hgo : ∀ u, u.Sound → (go u).Sound) : (s.payBlock t o i go).Sound := by
  unfold State.payBlock
  dsimp only
  split
  · exact hgo s h
  · split
    · split
      next s1 hs => exact hgo _ (h.payEngine.of_paid hs).updOp
      next s1 hs => exact h.payEngine.of_stalled hs
      next s1 hs => exact h.payEngine.of_stopped hs
    · exact hgo _ h.updOp

theorem State.Sound.blockAttempt {o : Op} {i : Nat} {go : Task → State → State} (h : s.Sound)
    (hgo : ∀ x u, u.Sound → (go x u).Sound) : (s.blockAttempt o i go).Sound := by
  dsimp only [State.blockAttempt]
  split
  · exact h
  · split
    · exact h
    · split
      · split
        · exact h.beginExit
        · split
          · exact h
          · split
            · exact h.arrive
            · exact hgo _ _ h.arrive
      · exact h.virtAttempt fun _ h1 => h1.payBlock fun a ha => hgo _ _ ha

theorem State.Sound.blockDone {o : Op} {i : Nat} {last : State → State} (h : s.Sound)
    (hlast : ∀ u, u.Sound → (last u).Sound) : (s.blockDone o i last).Sound := by
  dsimp only [State.blockDone]
  split
  · exact hlast _ h.updOp.perform
  · exact h.updOp

theorem execTileBlockArrive_lands {id block : Nat} (h : s.Sound) : Lands (execTileBlockArrive id block s) := by
  refine State.Sound.lands ?_
  dsimp only
  split
  · exact h
  · split
    · exact h
    · exact h.blockAttempt fun t _ h0 => by
        split
        · exact ((h0.foldState fun _ _ ht => ht.updCell).watchRead).blockDone fun _ ht => ht.foldState fun _ _ h3 => h3.endStep.updCell
        · exact (h0.foldState fun _ _ ht => ht.updCell).blockDone fun _ ht => ht.foldState fun _ _ h3 => h3.endStep.updCell

theorem State.Sound.storeBlock {o : Op} {t : Task} {i : Nat} (h : s.Sound) : (s.storeBlock o t i).All State.Sound := by
  dsimp only [State.storeBlock]
  split
  · split
    · trivial
    · split
      · trivial
      · exact h.spadPut
  · exact h.storePieces

theorem State.Sound.storeTile {o : Op} {block : Nat} (h : s.Sound) : (s.storeTile o block).Sound := by
  refine h.blockAttempt fun t s0 h0 => ?_
  dsimp only
  split
  next s1 _ hs => exact (h0.storeBlock.of_ok hs).blockDone fun u hu => hu.endStep.updCell
  next => exact h0.await
  next => exact h0.raiseOp
  next s1 hs => exact h0.storeBlock.of_stop hs

theorem execTileBlockPerformed_lands {id block : Nat} (h : s.Sound) : Lands (execTileBlockPerformed id block s) := by
  refine State.Sound.lands ?_
  split
  · exact h
  · split
    · exact h
    · exact h.storeTile

/-! ### Sys2Proof/Machine/Home.lean -/

theorem State.Sound.updEdge {c p : Nat} {f : Edge → Edge} (h : s.Sound) : (s.updEdge c p f).Sound := h.updCell

theorem State.Sound.edgeStart {t : Task} {c p : Nat} (h : s.Sound) : (s.edgeStart t c p).Sound := by
  dsimp only [State.edgeStart]
  split
  · exact h.raiseNode
  · exact h.payEngine.step fun _ h1 => h1.reserve.updEdge.advanceCtr.fresh.frame.updEdge

theorem State.Sound.edgeFinish {t : Task} {c p : Nat} {o : Op} (h : s.Sound) : (s.edgeFinish t c p o).Sound :=
  h.unreserve.send.delOp.updEdge

theorem State.Sound.edgeEnd {t : Task} {c p : Nat} (h : s.Sound) : (s.edgeEnd t c p).Sound := by
  dsimp only [State.edgeEnd]
  split
  · exact h
  · exact h.payEngine.step fun _ h1 => h1.send.updEdge

theorem execEdgePortAdvance_lands {cell port : Nat} (h : s.Sound) : Lands (execEdgePortAdvance cell port s) := by
  refine State.Sound.lands ?_
  split
  · exact h
  · split
    · exact h
    · split
      · split
        · exact h.updEdge
        · split
          · exact h.edgeFinish
          · exact h
      · split
        · split
          · exact h.edgeEnd
          · exact h
        · split
          · exact h.edgeStart
          · exact h

theorem State.Sound.arriveAt {pieces : List (Nat × Nat)} {key : Nat} {go : State → State} (h : s.Sound)
    (hgo : ∀ u, u.Sound → (go u).Sound) : (s.arriveAt pieces key go).Sound := by
  dsimp only [State.arriveAt]
  split
  · exact h
  · split
    · exact h.beginExit
    · split
      · exact h
      · exact hgo _ h.arrive.useRanges

theorem State.Sound.sendTo {ways : List Leg} {pieces : List (Nat × Nat)} {key : Nat} {go : State → State} (h : s.Sound)
    (hgo : ∀ u, u.Sound → (go u).Sound) : (s.sendTo ways pieces key go).Sound := by
  unfold State.sendTo
  split
  · exact h
  · exact h.arriveAt hgo

theorem State.Sound.performGhost {o : Op} {k : Orphan} {m : Nat} (h : s.Sound) : (s.performGhost o k m).Sound := by
  unfold State.performGhost
  dsimp only
  split
  · split
    · exact h.updOp
    · split
      · exact h.delOp
      · exact h.setSpad.delOp.wakeParks
  · split
    next s1 _ hs => exact (h.performOp.of_ok hs).updCell.delOp.wakeParks
    next => exact h.updOp
    next => exact h.delOp

theorem State.Sound.homeOrphan {o : Op} {k : Orphan} (h : s.Sound) : (s.homeOrphan o k).Sound := by
  dsimp only [State.homeOrphan]
  split
  · split
    · exact h.beginExit
    · split
      · exact h
      · split
        · exact h.arrive
        · exact h.arrive.performGhost
  · split
    · exact h
    · exact h.arriveAt fun _ h1 => h1.performOrphan

theorem State.Sound.homeOp {o : Op} (h : s.Sound) : (s.homeOp o).Sound := by
  dsimp only [State.homeOp]
  split
  · exact h
  · split
    · split
      · exact h.arriveAt fun _ h1 => h1.performCombo
      · exact h
    · exact h.homeOrphan
    · split
      · exact h
      · split
        · exact h.attempt fun _ _ h1 => h1.performAtom
        · split
          · split
            · split
              · exact h
              · exact h.settle h.performOp
            · exact h
          · exact h.attempt fun t _ h1 => by
                split
                · exact h1.performSpawn
                · split
                  · exact h1
                  · exact h1.settle h1.performOp

theorem State.Sound.fillWord {k : Fill} (h : s.Sound) : (s.fillWord k).Sound := by
  dsimp only [State.fillWord]
  split
  · exact h.logLost
  · exact h.setSpad.wakeWord.wakeParks

theorem State.Sound.arriveWord {k : Fill} (h : s.Sound) : (s.arriveWord k).Sound := by
  dsimp only [State.arriveWord]
  split
  · exact h.logLost
  · exact h.setSpad.wakeParks

theorem State.Sound.updFill {id : Nat} {f : Fill → Fill} (h : s.Sound) : (s.updFill id f).Sound := h.frame

theorem State.Sound.fillDone {k : Fill} (h : s.Sound) : (s.fillDone k).Sound := by
  dsimp only [State.fillDone]
  split
  · exact h.frame
  · exact h.fresh.updFill

theorem State.Sound.fillAt {k : Fill} (h : s.Sound) : (s.fillAt k).Sound := by
  dsimp only [State.fillAt]
  split
  · exact h.updFill
  · split
    · exact h
    · split
      · exact h.arriveWord.fillDone
      · exact h.fillWord.fillDone

theorem execAtomxFill_lands {fill : Nat} (h : s.Sound) : Lands (execAtomxFill fill s) := by
  refine State.Sound.lands ?_
  dsimp only
  split
  · exact h
  · split
    · exact h.beginExit
    · split
      · exact h
      · exact h.arrive.fillAt

theorem State.Sound.poisonBlock {pa : Nat} (h : s.Sound) : (s.poisonBlock pa).Sound := h.putTag

theorem State.Sound.drainAt {pa : Nat} {op : BitVec 3} {val : Nat} {ag : Agent} (h : s.Sound) :
    (s.drainAt pa op val ag).Sound := by
  dsimp only [State.drainAt]
  split
  · exact h.logError
  · exact h.putBytes.countXovf.homeWatch

theorem State.Sound.drainRed {r : Red} {ag : Agent} (h : s.Sound) : (s.drainRed r ag).Sound := by
  dsimp only [State.drainRed]
  split
  · exact h.drainAt
  · split
    · exact h
    · exact h.drainAt.frame

theorem State.Sound.updPower {f : Power → Power} (h : s.Sound)
    (hf : ∀ p, p.railsOk = true → (f p).railsOk = true) : (s.updPower f).Sound := ⟨h.1, h.2.1, hf _ h.2.2⟩

theorem State.Sound.retirePage {pa : Nat} (h : s.Sound) : (s.retirePage pa).Sound := by
  dsimp only [State.retirePage]
  split
  · exact h
  · exact h.frame

theorem State.Sound.drainError {pa : Nat} (h : s.Sound) : (s.drainError pa).Sound := h.poisonBlock.logError

theorem State.Sound.drainErrorLow {pa : Nat} (h : s.Sound) : (s.drainErrorLow pa).Sound := by
  have hb : ({ s with power := s.power.rollback } : State).free.2.Sound :=
    State.Sound.free (h.updPower fun _ => Power.rollback_railsOk)
  unfold State.drainErrorLow
  dsimp only
  split
  · exact hb.drainError.retirePage
  · exact hb

theorem State.Sound.drainErrors {e : VEntry} {ue : List Nat} (h : s.Sound) : (s.drainErrors e ue).Sound := by
  refine h.foldState fun p _ ht => ?_
  split
  · exact ht.drainErrorLow
  · exact ht.drainError

theorem State.Sound.drainEntry {t : Task} {c : Nat} {ue : List Nat} {e : VEntry} (h : s.Sound) :
    (s.drainEntry t c ue e).Sound := by
  dsimp only [State.drainEntry]
  split
  · split
    · exact h.putMasked.putTag.homeWatch.drainErrors
    · exact h.putMasked.homeWatch.drainErrors
  · exact (h.foldState fun r _ ht => ht.drainRed).drainErrors
  · exact h.drainErrors

theorem State.Sound.drain {c : Nat} {ue : List Nat} (h : s.Sound) : (s.drain c ue).Sound := by
  unfold State.drain
  split
  · exact h
  · split
    · exact h
    · split
      · exact h
      · split
        · exact h
        · exact h.arriveAt fun _ h1 => h1.updCell.drainEntry

theorem execHomeAccess_lands {target : AccessTarget} (h : s.Sound) : Lands (execHomeAccess target s) := by
  refine State.Sound.lands ?_
  split
  · split
    · exact h.homeOp
    · exact h
  · exact h.drain

theorem execWaitRetry_lands {id : Nat} (h : s.Sound) : Lands (execWaitRetry id s) := by
  refine State.Sound.lands ?_
  split
  · exact h
  · split
    · exact h
    · split
      · exact h.storeTile
      · exact h.homeOp

theorem execMemOpComplete_lands {id : Nat} (h : s.Sound) : Lands (execMemOpComplete id s) := by
  refine State.Sound.lands ?_
  split
  · exact h
  · split
    · exact h.writeback
    · exact h

theorem execEngineWriteback_lands {id : Nat} (h : s.Sound) : Lands (execEngineWriteback id s) := by
  refine State.Sound.lands ?_
  split
  · exact h
  · split
    · exact h.writeback
    · exact h

theorem State.Sound.startWalks (h : s.Sound) : s.startWalks.Sound := by
  refine h.foldState fun o _ ht => ?_
  split
  · exact ht.updRoom
  · exact ht

theorem execWalkComplete_lands {room asid va : Nat} (h : s.Sound) : Lands (execWalkComplete room asid va s) := by
  refine State.Sound.lands ?_
  dsimp only
  split
  · exact h
  · split
    · exact h.beginExit
    · split
      · exact (h.walkUse.updRoom.foldState fun _ _ ht => ht.raiseOp).startWalks
      · split
        · exact h.walkUse.updRoom.frame.startWalks
        · split
          · exact h.walkUse.updRoom.frame.startWalks
          · exact h.walkUse.updRoom.pageReport.frame.startWalks
      · split
        · exact h.walkUse.updRoom.updRoom.frame.startWalks
        · split
          · exact h.walkUse.updRoom.updRoom.frame.startWalks
          · exact h.walkUse.updRoom.updRoom.pageReport.frame.startWalks

theorem execPageTimeout_lands (h : s.Sound) : Lands (execPageTimeout s) := by
  refine State.Sound.lands ?_
  dsimp only
  split
  · exact h
  · split
    · exact h.vanish
    · split
      · exact h.argFail
      · exact h

theorem execLinkTimeout_lands {id : Nat} (h : s.Sound) : Lands (execLinkTimeout id s) := by
  refine State.Sound.lands ?_
  split
  · split
    · exact h.vanish
    · exact h
  · split
    · exact h
    · split
      · exact h.vanish
      · exact h

theorem State.Sound.waitInSet {t : Task} {o : Op} {k : Nat × Nat} (h : s.Sound) : (s.waitInSet t o k).Sound := by
  dsimp only [State.waitInSet]
  split
  · exact h.updOp
  · exact h.updRoom.frame

theorem State.Sound.setRequest {o : Op} (h : s.Sound) : (s.setRequest o).Sound := by
  dsimp only [State.setRequest]
  split
  · exact h
  · split
    · exact h.updOp
    · split
      · exact h.beginExit
      · split
        · split
          · exact h
          · split
            · split
              · exact h.useRange.arrive.inject.updOp.grantSet
              · exact h.arrive.inject.updOp.grantSet
            · split
              · split
                · exact h.useRange.arrive.inject.updOp.grantSet
                · exact h.arrive.inject.updOp.grantSet
              · split
                · split
                  · exact h.useRange.arrive.frame.vanish
                  · exact h.arrive.frame.vanish
                · split
                  · exact h.useRange.arrive.waitInSet
                  · exact h.arrive.waitInSet
        · split
          · exact h
          · split
            · split
              · exact h.useRange.arrive.inject.updOp.grantSet
              · exact h.arrive.inject.updOp.grantSet
            · split
              · split
                · exact h.useRange.arrive.inject.updOp.grantSet
                · exact h.arrive.inject.updOp.grantSet
              · split
                · split
                  · exact h.useRange.arrive.frame.vanish
                  · exact h.arrive.frame.vanish
                · split
                  · exact h.useRange.arrive.waitInSet
                  · exact h.arrive.waitInSet

theorem execSetRequestArrive_lands {id : Nat} (h : s.Sound) : Lands (execSetRequestArrive id s) := by
  refine State.Sound.lands ?_
  split
  · exact h
  · split
    · exact h.setRequest
    · exact h

theorem execSetRetry_lands {id : Nat} (h : s.Sound) : Lands (execSetRetry id s) := by
  refine State.Sound.lands ?_
  split
  · exact h
  · split
    · exact h.setRequest
    · exact h

theorem execControlTokenArrive_lands {cell elem input : Nat} (h : s.Sound) :
    Lands (execControlTokenArrive cell elem input s) := by
  refine State.Sound.lands ?_
  dsimp only
  split
  · exact h
  · exact h.updElem.controlArrive

theorem State.Sound.lastTry {o : Op} (h : s.Sound) : (s.lastTry o).Sound := by
  dsimp only [State.lastTry]
  split
  · split
    · exact h.homeOp.await.updOp
    · exact h.homeOp
  · exact h.homeOp

theorem State.Sound.view {k : Ctx} {t : Task} {m : Nat} (h : s.Sound) : (k.view s t m).Sound := by
  dsimp only [Ctx.view]
  split
  · exact h.setSpad
  · exact h

theorem State.Sound.endWaits (h : s.Sound) : s.endWaits.Sound := (h.foldState fun _ _ ht => ht.lastTry).frame

theorem State.Sound.waitExpires {o : Op} (h : s.Sound) : (s.waitExpires o).Sound := h.raiseOp

theorem execWaitLimitExpire_lands {id : Nat} (h : s.Sound) : Lands (execWaitLimitExpire id s) := by
  refine State.Sound.lands ?_
  dsimp only
  split
  · split
    · exact h.waitExpires
    · exact h
  · split
    · exact h
    · exact h.updTask.dropPark

/-! ### Sys2Proof/Machine/Lifecycle.lean -/

theorem State.Sound.stillStalled {t : Task} {c : Nat} {grant : Bool} (h : s.Sound) : (s.stillStalled t c grant).Sound := by
  dsimp only [State.stillStalled]
  split
  · exact h
  · split
    · exact h.updMeter.requestTopup
    · exact h.meterStop

theorem State.Sound.moveMu {q : TopReq} {dest : Nat} (h : s.Sound) : (s.moveMu q dest).Sound := h.updAcct.updAcct.updRoom

theorem State.Sound.settleTopup {q : TopReq} (h : s.Sound) : (s.settleTopup q).Sound := by
  dsimp only [State.settleTopup]
  split
  · exact h
  · split
    · exact h
    · split
      · exact h.updAcct.updMeter.endStep.stillStalled
      · exact h.updMeter.endStep.stillStalled

theorem State.Sound.settleNext {acct : Nat} (h : s.Sound) : (s.settleNext acct).Sound := by
  dsimp only [State.settleNext]
  split
  · exact h
  · split
    · exact h.frame.settleTopup
    · split
      · split
        · exact h.frame.moveMu
        · exact h
      · split
        · exact h.frame.moveMu
        · exact h

theorem State.Sound.settleOverdue (h : s.Sound) : s.settleOverdue.Sound := h.foldState fun _ _ ht => ht.settleNext

theorem State.Sound.settleEarlier {acct : Nat} (h : s.Sound) : (s.settleEarlier acct).Sound :=
  h.foldState fun _ _ ht => ht.settleNext

theorem execBrownout_lands (h : s.Sound) : Lands (execBrownout s) := by
  refine State.Sound.lands ?_
  dsimp only
  split
  · exact h
  · split
    · exact h.logError.frame.vanish
    · exact h

theorem execPhysicalStop_lands (h : s.Sound) : Lands (execPhysicalStop s) := by
  refine State.Sound.lands ?_
  dsimp only
  split
  · exact h
  · split
    · exact h
    · split
      · exact h.updMeter
      · split
        · exact h.meterStop
        · exact h

theorem State.Sound.releaseSpawn {t : Task} {p : Packet} (h : s.Sound) : ∀ u ∈ s.releaseSpawn t p, u.Sound := by
  unfold State.releaseSpawn
  dsimp only
  split
  · split
    · rintro _ ⟨⟩
      exact h
    · rintro _ ⟨⟩
  · split
    · split
      · rintro _ ⟨⟩
        exact h.emitRecord.touchWm
      · rintro _ ⟨⟩
    · split
      · rintro _ ⟨⟩
        exact h.report
      · split
        · rintro _ ⟨⟩
        · rintro _ ⟨⟩
          exact h.enqueue

theorem State.Sound.releaseCell {t : Task} {c : Nat} {es : List VEntry} (h : s.Sound) :
    (s.releaseCell t c es).Sound := by
  induction es generalizing s with
  | nil => exact h.updCell
  | cons e es ih =>
    cases e with
    | line => exact ih h
    | reds => exact ih h
    | spawn n p =>
      unfold State.releaseCell
      split
      next s1 hs => exact ih (h.releaseSpawn s1 hs)
      next => exact h.updCell

theorem State.Sound.releaseAll {t : Task} {cs : List Nat} (h : s.Sound) : (s.releaseAll t cs).1.Sound := by
  induction cs generalizing s with
  | nil => exact h
  | cons c cs ih =>
    unfold State.releaseAll
    dsimp only
    split
    · exact ih h.releaseCell
    · exact h.releaseCell

theorem State.Sound.afterHandler {t : Task} (h : s.Sound) : (s.afterHandler t).Sound := by
  unfold State.afterHandler
  split
  · exact h
  · split
    · split
      · exact h.trapReturn
      · exact h
    · exact h

theorem execCommitPoint_lands (h : s.Sound) : Lands (execCommitPoint s) := by
  refine State.Sound.lands ?_
  dsimp only
  split
  · exact h
  · split
    · exact h
    · split
      · exact h.allSpads.releaseSets.wakeParks.updTask.releaseAll
      · exact h.allSpads.releaseSets.wakeParks.updTask.releaseAll.settleTask.dropOps.freeCells.releaseTicket.endTask.afterHandler

theorem State.Sound.trapWhenAwake {t : Task} {p : PendFault} {withMap : Bool} (h : s.Sound) :
    (s.trapWhenAwake t p withMap).Sound := h.hearthWrites fun _ h1 => h1.enterTrap

theorem execFaultReachHearth_lands (h : s.Sound) : Lands (execFaultReachHearth s) := by
  refine State.Sound.lands ?_
  split
  · exact h
  · split
    · exact h
    · split
      · exact h
      · exact h.trapWhenAwake

theorem State.Sound.dlockTick {t : Task} (h : s.Sound) : (s.dlockTick t).Sound := by
  unfold State.dlockTick
  split
  · exact h.updTask
  · exact h

theorem execDeadlockExpire_lands (h : s.Sound) : Lands (execDeadlockExpire s) := by
  refine State.Sound.lands ?_
  dsimp only
  split
  · exact h
  · split
    · exact h.trapWhenAwake
    · exact h

theorem execPark_lands {id : Nat} (h : s.Sound) : Lands (execPark id s) := by
  refine State.Sound.lands ?_
  dsimp only
  split
  · exact h
  · split
    · split
      · exact h.updRoom.gateTask.updTask
      · exact h
    · exact h

theorem State.Sound.withdrawAll {t : Task} (h : s.Sound) : (s.withdrawAll t).Sound := h.frame.updGang

theorem State.Sound.beginSave {t : Task} (h : s.Sound) : (s.beginSave t).Sound := by
  dsimp only [State.beginSave]
  split
  · split
    · exact h.withdrawAll.updTask.dropPark
    · exact h.withdrawAll.updTask
  · exact h.withdrawAll.updTask

theorem execPreemptQuiescent_lands (h : s.Sound) : Lands (execPreemptQuiescent s) := by
  refine State.Sound.lands ?_
  split
  · exact h
  · split
    · exact h.beginSave
    · exact h

theorem execContextSaveComplete_lands (h : s.Sound) : Lands (execContextSaveComplete s) := by
  refine State.Sound.lands ?_
  dsimp only
  split
  · exact h
  · split
    · exact h
    · exact h.frame.updTask.freeCells.houseDebit.touchWm

theorem State.Sound.ageLaunch {l : Launch} (h : s.Sound) : (s.ageLaunch l).Sound := by
  dsimp only [State.ageLaunch]
  split
  · exact h
  · split
    · exact h.frame.report.releaseTicket.launchEnd.touchWm
    · exact h

theorem execAgeHorizon_lands (h : s.Sound) : Lands (execAgeHorizon s) := by
  refine State.Sound.lands ?_
  dsimp only
  split
  · split
    · exact h.ageLaunch
    · exact h
  · split
    · exact h
    · split
      · exact h.report.endTask
      · exact h.vanish

/-! ### Sys2Proof/Machine/Stage.lean -/

theorem State.Sound.stageAt {t : Task} {r x y : Nat} (h : s.Sound) : (s.stageAt t r x y).Sound :=
  ((((h.updAcct.foldState fun _ _ ht => ht.updCell).beginExit).updTask).frame).touchWm

theorem State.Sound.settleFor {tag : Nat} (h : s.Sound) : (s.settleFor tag).Sound := by
  unfold State.settleFor
  split
  · exact h.settleEarlier
  · exact h

theorem State.Sound.dispatch {w : Nat} (h : s.Sound) : (s.dispatch w).Sound := by
  dsimp only [State.dispatch]
  split
  · exact h
  · split
    · split
      · exact h.touchAllWm
      · exact h.touchAllWm.frame
    · split
      · split
        · exact h.touchAllWm.settleFor.frame.stageAt
        · exact h.touchAllWm.frame.settleFor.frame.stageAt
      · split
        · exact h.touchAllWm.settleFor
        · exact h.touchAllWm.frame.settleFor

theorem State.Sound.dispatchTick (h : s.Sound) : s.dispatchTick.Sound := h.foldState fun _ _ ht => ht.dispatch

theorem State.Sound.expand {l : Launch} (h : s.Sound) : (s.expand l).Sound := by
  dsimp only [State.expand]
  split
  · exact h.fresh.frame
  · exact h.issueAge.fresh.frame

theorem execLaunchExpand_lands {launch : Nat} (h : s.Sound) : Lands (execLaunchExpand launch s) := by
  refine State.Sound.lands ?_
  dsimp only
  split
  · exact h
  · split
    · exact h.expand.touchWm
    · exact h

theorem State.Sound.walksUse {asid : Nat} {pages : List Nat} (h : s.Sound) : (s.walksUse asid pages).Sound :=
  h.foldState fun _ _ ht => ht.walkUse

theorem State.Sound.blocksRead {ag : Agent} {pas : List Nat} (h : s.Sound) : (s.blocksRead ag pas).Sound :=
  h.foldState fun _ _ ht => ht.homeWatch

theorem State.Sound.reportPages {t : Task} {x y : Nat} {pages : List Nat} (h : s.Sound) :
    (s.reportPages t x y pages).Sound := by
  refine State.Sound.updTask (h.foldState fun p _ ht => ?_)
  split
  · exact ht
  · exact ht.pageReport

theorem State.Sound.reportArgPages {t : Task} {pages : List Nat} (h : s.Sound) : (s.reportArgPages t pages).Sound :=
  h.free.reportPages

theorem execArgReadComplete_lands (h : s.Sound) : Lands (execArgReadComplete s) := by
  refine State.Sound.lands ?_
  dsimp only
  split
  · exact h
  · split
    · split
      · exact h
      · split
        · exact h
        · split
          · exact h.beginExit
          · split
            · exact h.argFail
            · split
              · exact h.walksUse.reportArgPages.updTask
              · split
                · exact h.beginExit
                · split
                  · exact h
                  · split
                    · exact h.walksUse.arrive.blocksRead.argFail
                    · exact h.walksUse.arrive.blocksRead.updTask
    · exact h

theorem execStandbyFillComplete_lands (h : s.Sound) : Lands (execStandbyFillComplete s) := by
  refine State.Sound.lands ?_
  dsimp only
  split
  · exact h
  · split
    · exact h
    · exact h.updCell.houseDebit

theorem State.Sound.prefetchRead {t : Task} {ps : List Prefetch} (h : s.Sound) : (s.prefetchRead t ps).Sound :=
  h.foldState fun _ _ ht => ht.blocksRead

theorem State.Sound.prefetch {t : Task} (h : s.Sound) : (s.prefetch t).Sound := by
  dsimp only [State.prefetch]
  split
  · exact h
  · split
    · exact h.beginExit
    · split
      · exact (h.walksUse.foldState fun p _ ht => ht.reportPages).updTask
      · split
        · exact h.beginExit
        · split
          · exact h.updTask
          · split
            · exact h
            · exact h.walksUse.arrive.prefetchRead.updTask

theorem execPrefetchComplete_lands (h : s.Sound) : Lands (execPrefetchComplete s) := by
  refine State.Sound.lands ?_
  split
  · exact h
  · split
    · exact h
    · split
      · exact h.updTask.houseDebit
      · exact h.prefetch

theorem State.Sound.enterCell {t : Task} {c : Nat} (h : s.Sound) : (s.enterCell t c).Sound := h.updCell

theorem State.Sound.restoreCell {from_ t : Task} {c : Nat} {k : Cell} (h : s.Sound) :
    (s.restoreCell from_ t c k).Sound := h.updCell

theorem State.Sound.entryDebits {tid : Nat} {cs : List Nat} (h : s.Sound) : (s.entryDebits tid cs).Sound := by
  induction cs generalizing s with
  | nil => exact h
  | cons c cs ih =>
    unfold State.entryDebits
    dsimp only
    split
    · exact h
    · split
      · exact ih h.updMeter.autoTopup
      · exact h.meterStop

theorem execTaskEnterRunning_lands (h : s.Sound) : Lands (execTaskEnterRunning s) := by
  refine State.Sound.lands ?_
  dsimp only
  split
  · exact h
  · split
    · exact h
    · split
      · exact h.beginExit
      · split
        · exact (((h.foldState fun _ st ht => ht.restoreCell).updTask).frame).injectAll
        · split
          · exact ((h.foldState fun _ _ ht => ht.enterCell).updTask).updTask
          · exact (((h.foldState fun _ _ ht => ht.enterCell).updTask).entryDebits).updTask

/-! ### Sys2Proof/Machine/Hearth.lean -/

theorem State.Sound.updHearth {r : Nat} {f : Hearth → Hearth} (h : s.Sound) : (s.updHearth r f).Sound := h.updRoom

theorem State.Sound.endCmd {r : Nat} {c : HCmd} {pos : Nat} (h : s.Sound) : (s.endCmd r c pos).Sound := h.updRoom

theorem State.Sound.finishCmd {r : Nat} {c : HCmd} (h : s.Sound) : (s.finishCmd r c).Sound := h.endCmd

theorem State.Sound.refuseCmd {r cmd : Nat} {c : HCmd} {reason : Nat} (h : s.Sound) :
    (s.refuseCmd r cmd c reason).Sound := h.updRoom.finishCmd

theorem State.Sound.command {body : Nat → State → State} (h : s.Sound) (hbody : ∀ x u, u.Sound → (body x u).Sound) :
    (s.command body).Sound := by
  dsimp only [State.command]
  split
  · exact hbody _ _ h.houseDebit
  · exact h

theorem State.Sound.beginCmd {r : Nat} {i : Instr} {task : Nat} (h : s.Sound) : (s.beginCmd r i task).Sound := h.updHearth

theorem State.Sound.unitDone {r : Nat} (h : s.Sound) : (s.unitDone r).Sound := h.updHearth

theorem State.Sound.withRegion {r cmd : Nat} {c : HCmd} {go : Nat × Nat × Nat × Nat → State} (h : s.Sound)
    (hgo : ∀ x, (go x).Sound) : (s.withRegion r cmd c go).Sound := by
  unfold State.withRegion
  split
  · exact h.refuseCmd
  · exact hgo _

theorem execRepeat_lands {c : HCmd} (h : s.Sound) : Lands (execRepeat c s) := by
  refine State.Sound.lands (h.command fun r _ h1 => ?_)
  dsimp only
  split
  · split
    · exact h1.endCmd
    · exact h1.updHearth.endCmd
  · exact h1.updHearth.finishCmd

theorem execSkipif_lands {c : HCmd} (h : s.Sound) : Lands (execSkipif c s) := by
  refine State.Sound.lands (h.command fun _ _ h1 => ?_)
  dsimp only
  split
  · exact h1.updRoom.endCmd
  · exact h1.endCmd

theorem execWatch_lands {c : HCmd} (h : s.Sound) : Lands (execWatch c s) := by
  refine State.Sound.lands (h.command fun r _ h1 => ?_)
  dsimp only
  split
  · exact h1.updRoom.finishCmd
  · exact h1.refuseCmd

theorem State.Sound.hearthSend {r : Nat} {reads writes : List (HAddr × Nat × Nat)} {go : State → State} (h : s.Sound)
    (hgo : ∀ u, u.Sound → (go u).Sound) : (s.hearthSend r reads writes go).Sound := by
  dsimp only [State.hearthSend]
  split
  · exact h.beginExit
  · split
    · exact h
    · exact h.sendTo fun _ h1 => hgo _ h1.arrive

theorem State.Sound.hearthRead {r : Nat} {a : HAddr} {off n : Nat} (h : s.Sound) : (s.hearthRead r a off n).Sound := by
  unfold State.hearthRead
  split
  · exact h
  · exact h.homeWatch

theorem State.Sound.trapretStep {r : Nat} {c : HCmd} (h : s.Sound) : (s.trapretStep r c).Sound := by
  dsimp only [State.trapretStep]
  split
  · exact h.refuseCmd
  · split
    · exact h.refuseCmd
    · exact h.hearthSend fun _ h0 => by
          split
          · exact h0.hearthRead.refuseCmd
          · split
            · exact h0.hearthRead.trapAct.finishCmd
            · exact h0.hearthRead.finishCmd

theorem State.Sound.hearthPut {r : Nat} {a : HAddr} {i : Nat} {b : Block} (h : s.Sound) :
    ∀ u ∈ s.hearthPut r a i b, u.Sound := by
  cases a with
  | spad c off =>
    intro u hu
    unfold State.hearthPut at hu
    dsimp only at hu
    split at hu
    · cases hu
    · obtain ⟨q, -, rfl⟩ := Option.map_eq_some_iff.1 hu
      exact h.setSpad.wakeParks
  | phys q =>
    rintro _ ⟨⟩
    exact h.putBlock.homeWatch

theorem State.Sound.copyStep {r : Nat} {c : HCmd} {x : HExec} (h : s.Sound) : (s.copyStep r c x).Sound := by
  unfold State.copyStep
  dsimp only
  split
  · split
    · exact h.finishCmd
    · refine h.hearthSend fun s0 h0 => ?_
      split
      next => exact h0.updHearth
      next s1 hs =>
        have h1 := h0.hearthRead.hearthPut s1 hs
        split
        · exact h1.houseDebit.unitDone.finishCmd
        · exact h1.houseDebit.unitDone
  · exact h.refuseCmd

theorem execHcopy_lands {c : HCmd} (h : s.Sound) : Lands (execHcopy c s) := by
  refine State.Sound.lands (h.command fun r _ h1 => ?_)
  dsimp only
  split
  · split
    · split
      · exact h1.refuseCmd
      · exact h1.beginCmd
    · split
      · exact h1.refuseCmd
      · exact h1.beginCmd
  · exact h1.refuseCmd

theorem State.Sound.loadStep {r : Nat} {c : HCmd} {x : HExec} (h : s.Sound) : (s.loadStep r c x).Sound := by
  dsimp only [State.loadStep]
  split
  · split
    · exact h.finishCmd
    · split
      · exact h
      · split
        · split
          · exact h.unitDone.finishCmd
          · exact h.updCell.houseDebit.unitDone.finishCmd
        · split
          · exact h.unitDone
          · exact h.updCell.houseDebit.unitDone
  · exact h.refuseCmd

theorem execCfgload_lands {c : HCmd} (h : s.Sound) : Lands (execCfgload c s) := by
  refine State.Sound.lands (h.command fun r _ h1 => h1.withRegion fun g => ?_)
  split
  · exact h1.refuseCmd
  · split
    · exact h1.beginCmd
    · exact h1.refuseCmd

theorem State.Sound.forwardMark {t : Task} {c e : Nat} (h : s.Sound) : (s.forwardMark t c e).Sound := by
  dsimp only [State.forwardMark]
  split
  · exact h
  · exact h.foldState fun _ _ ht => by
        split
        · exact ht
        · exact ht.updElem.send

theorem State.Sound.forwardPorts {t : Task} (h : s.Sound) : (s.forwardPorts t).Sound := by
  refine h.foldState fun c _ ht => ht.foldState fun p q hq => ?_
  dsimp only
  split
  · exact hq
  · exact hq.updCell.send

theorem State.Sound.switchOver {t : Task} (h : s.Sound) : (s.switchOver t).Sound := by
  refine State.Sound.updTask (State.Sound.ungateTask (h.clearSwitch.foldState fun c _ ht => ?_))
  split
  · exact ht.updCell
  · exact ht

theorem State.Sound.beginSwitch {t : Task} (h : s.Sound) : (s.beginSwitch t).Sound := by
  refine State.Sound.forwardPorts (h.gateTask.foldState fun c _ ht => ht.foldState fun e q hq => ?_)
  split
  · exact hq.updElem
  · exact hq

theorem State.Sound.reissueAll {t : Task} (h : s.Sound) : (s.reissueAll t).Sound := h.frame

theorem execCfgswitch_lands {c : HCmd} (h : s.Sound) : Lands (execCfgswitch c s) := by
  refine State.Sound.lands (h.command fun r _ h1 => h1.withRegion fun g => ?_)
  dsimp only
  split
  · exact h1.refuseCmd
  · split
    · exact h1.refuseCmd
    · split
      · exact h1.beginSwitch.beginCmd
      · exact h1.reissueAll.beginSwitch.beginCmd
      · exact h1.beginCmd

theorem State.Sound.switchStep {r : Nat} {c : HCmd} {x : HExec} (h : s.Sound) : (s.switchStep r c x).Sound := by
  dsimp only [State.switchStep]
  split
  · exact h.refuseCmd
  · split
    · exact h.refuseCmd
    · split
      · exact h
      · split
        · exact h.beginSwitch
        · split
          · exact h
          · split
            · exact h.forwardPorts.switchOver.finishCmd
            · exact h.forwardPorts

theorem execSwitchStuck_lands (h : s.Sound) : Lands (execSwitchStuck s) := by
  refine State.Sound.lands ?_
  dsimp only
  split
  · exact h
  · split
    · split
      · exact h
      · split
        · exact h.switchOver.finishCmd
        · exact h.hearthWrites fun _ h0 => by
            split
            · exact h0.updHearth.putMap.countFault
            · exact h0.updHearth.enterTrap
    · exact h

theorem State.Sound.gangrunJoin {r : Nat} {c : HCmd} {g : Nat × Nat × Nat × Nat} {body : List Byte} (h : s.Sound) :
    (s.gangrunJoin r c g body).Sound := by
  dsimp only [State.gangrunJoin]
  split
  · exact h
  · exact h.enqueue.finishCmd

theorem State.Sound.gangrunStep {r : Nat} {c : HCmd} {g : Nat × Nat × Nat × Nat} {body : Option HAddr} (h : s.Sound) :
    (s.gangrunStep r c g body).Sound := by
  dsimp only [State.gangrunStep]
  split
  · exact h.gangrunJoin
  · split
    · exact h
    · exact h.hearthSend fun _ h1 => by
          split
          · exact h1.hearthRead.refuseCmd
          · exact h1.hearthRead.gangrunJoin

theorem execGangrun_lands {c : HCmd} (h : s.Sound) : Lands (execGangrun c s) := by
  refine State.Sound.lands (h.command fun r _ h1 => ?_)
  split
  · exact h1.refuseCmd
  · exact h1.beginCmd.gangrunStep

theorem State.Sound.quiesced {r : Nat} {c : HCmd} {t : Task} (h : s.Sound) : (s.quiesced r c t).Sound :=
  h.withdrawAll.finishCmd

theorem execQuiesce_lands {c : HCmd} (h : s.Sound) : Lands (execQuiesce c s) := by
  refine State.Sound.lands (h.command fun r _ h1 => h1.withRegion fun g => ?_)
  split
  · exact h1.refuseCmd
  · split
    · split
      · exact h1.reissueAll.ungateTask.finishCmd
      · exact h1.refuseCmd
    · split
      · exact h1.gateTask.beginCmd
      · exact h1.beginCmd

theorem State.Sound.quiesceStep {r : Nat} {c : HCmd} {x : HExec} (h : s.Sound) : (s.quiesceStep r c x).Sound := by
  unfold State.quiesceStep
  split
  · exact h.refuseCmd
  · split
    · exact h.refuseCmd
    · split
      · exact h
      · split
        · exact h.gateTask
        · split
          · exact h.quiesced
          · exact h

theorem State.Sound.quiesceEnds (h : s.Sound) : s.quiesceEnds.Sound := by
  refine h.foldState fun r _ ht => ?_
  split
  · exact ht
  · split
    · split
      · exact ht.refuseCmd
      · exact ht
    · exact ht

theorem execQuiesceLimitExpire_lands (h : s.Sound) : Lands (execQuiesceLimitExpire s) := by
  refine State.Sound.lands ?_
  dsimp only
  split
  · exact h
  · split
    · split
      · exact h
      · split
        · exact h.quiesceStep
        · split
          · split
            · exact h.ungateTask.refuseCmd
            · exact h.refuseCmd
          · exact h.quiesceStep
    · exact h

theorem State.Sound.ctxsaveStep {r : Nat} {c : HCmd} {x : HExec} (h : s.Sound) : (s.ctxsaveStep r c x).Sound := by
  unfold State.ctxsaveStep
  split
  · split
    · exact h.refuseCmd
    · exact h.finishCmd
  · split
    · split
      · exact h.refuseCmd
      · split
        · exact h
        · split
          · exact h.refuseCmd
          · exact h.beginSave.unitDone
    · split
      · exact h
      · exact h.finishCmd

theorem execCtxsave_lands {c : HCmd} (h : s.Sound) : Lands (execCtxsave c s) := by
  refine State.Sound.lands (h.command fun r _ h1 => h1.withRegion fun g => ?_)
  split
  · exact h1.refuseCmd
  · split
    · exact h1.refuseCmd
    · split
      · exact h1.refuseCmd
      · exact h1.beginCmd

theorem State.Sound.ctxloadStep {r : Nat} {c : HCmd} {g : Nat × Nat × Nat × Nat} (h : s.Sound) :
    (s.ctxloadStep r c g).Sound := by
  dsimp only [State.ctxloadStep]
  split
  · exact h.refuseCmd
  · split
    · exact h.refuseCmd
    · exact h.stageAt.finishCmd

theorem execTopacct_lands {c : HCmd} (h : s.Sound) : Lands (execTopacct c s) := by
  refine State.Sound.lands (h.command fun r _ h1 => ?_)
  dsimp only
  split
  · exact h1.refuseCmd
  · exact h1.fresh.frame.beginCmd

theorem execHearthCmdComplete_lands (h : s.Sound) : Lands (execHearthCmdComplete s) := by
  refine State.Sound.lands ?_
  dsimp only
  split
  · exact h
  · split
    · exact h
    · split
      · exact h.endCmd
      · split
        · exact h.copyStep
        · exact h.loadStep
        · exact h.switchStep
        · exact h.trapretStep
        · split
          · exact h.refuseCmd
          · exact h.gangrunStep
        · exact h.quiesceStep
        · exact h.ctxsaveStep
        · exact h.withRegion fun _ => h.ctxloadStep
        · split
          · exact h.finishCmd
          · exact h
        · exact h

theorem execHearthCont_lands {room : Nat} {v : BitVec 64} (h : s.Sound) : Lands (execHearthCont room v s) := by
  refine State.Sound.lands ?_
  dsimp only
  split
  · exact h.updHearth
  · exact h

/-! ### Sys2Proof/Machine/Intake.lean -/

theorem State.Sound.updIntake {n : Nat} {f : IntakeRing → IntakeRing} (h : s.Sound) : (s.updIntake n f).Sound := h.frame

theorem State.Sound.intakePiece {p : Nat × List Byte} (h : s.Sound) : (s.intakePiece p).1.Sound := by
  dsimp only [State.intakePiece]
  split
  · exact h
  · exact h.updIntake

theorem State.Sound.intakeAll {lost : List Nat} {ps : List (Nat × List Byte)} (h : s.Sound) :
    (s.intakeAll lost ps).1.Sound := by
  induction ps generalizing s lost with
  | nil => exact h
  | cons p ps ih => exact ih h.intakePiece

theorem State.Sound.returns {bytes : List Byte} (h : s.Sound) : (s.returns bytes).Sound := h.frame

theorem State.Sound.intakeRead {off n : Nat} (h : s.Sound) : (s.intakeRead off n).Sound := h.returns

theorem State.Sound.cancelTask {anyMode : Bool} {id : Nat} (h : s.Sound) : (s.cancelTask anyMode id).Sound := by
  unfold State.cancelTask
  split
  · exact h
  · split
    · exact h.report.endTask
    · split
      · exact h.vanish
      · exact h.report

theorem State.Sound.releaseLaunch {l : Launch} (h : s.Sound) : (s.releaseLaunch l).Sound := by
  dsimp only [State.releaseLaunch]
  split
  · exact h
  · exact h.updRtag.openGate

theorem State.Sound.cancelLaunch {l : Launch} (h : s.Sound) : (s.cancelLaunch l).Sound :=
  h.frame.report.releaseLaunch.launchEnd

theorem State.Sound.cancel {p : Packet} (h : s.Sound) : (s.cancel p).Sound := by
  dsimp only [State.cancel]
  split
  · exact h.dispatchTick.frame.report
  · exact ((h.dispatchTick.frame.foldState fun l _ ht => ht.cancelLaunch).foldState fun _ _ ht => ht.cancelTask).touchWm

theorem execCancel_lands {p : Packet} (h : s.Sound) : Lands (execCancel p s) := by
  refine State.Sound.lands ?_
  split
  · exact h
  · split
    · exact h.report
    · exact h.cancel

theorem State.Sound.acceptPacket {p : Packet} {guard time : Nat} {slot : Option (Nat × Nat)} (h : s.Sound) :
    ∀ u ∈ s.acceptPacket p guard time slot, u.Sound := by
  unfold State.acceptPacket
  split
  · rintro _ ⟨⟩
    exact h.report.freeSlot
  · split
    · rintro _ ⟨⟩
      exact h.cancel
    · split
      · rintro _ ⟨⟩
      · rintro _ ⟨⟩
        exact h.enqueue

theorem execIntakeTakeSlot_lands {ring : Nat} (h : s.Sound) : Lands (execIntakeTakeSlot ring s) := by
  refine State.Sound.lands ?_
  dsimp only
  split
  · exact h
  next g _ =>
    split
    · exact h
    · split
      · exact h
      next s1 hs =>
        refine State.Sound.updIntake ?_
        split at hs
        · exact h.acceptPacket s1 hs
        · split at hs
          · cases hs
            exact h
          · cases hs

theorem State.Sound.attDone (h : s.Sound) : s.attDone.Sound := h.frame

theorem State.Sound.drainNotices {ns kept : List Notice} (h : s.Sound) : (s.drainNotices ns kept).Sound := by
  induction ns generalizing s kept with
  | nil => exact h
  | cons n ns ih =>
    unfold State.drainNotices
    dsimp only
    split
    · exact ih h
    · exact ih (.ite h.putRecord.attDone h.putRecord)

theorem State.Sound.drainRings (h : s.Sound) : s.drainRings.Sound :=
  h.drainNotices.touchAllWm.foldState fun _ _ ht => ht.launchRecord

theorem execHostRingWrite_lands {ring word : Nat} {v : BitVec 64} (h : s.Sound) :
    Lands (execHostRingWrite ring word v s) := by
  refine State.Sound.lands ?_
  dsimp only
  split
  · exact h
  · exact h.frame.drainRings

theorem execRingInterrupt_lands {ring : Nat} (h : s.Sound) : Lands (execRingInterrupt ring s) := by
  refine State.Sound.lands ?_
  dsimp only
  split
  · exact h.frame
  · exact h

theorem State.Sound.rtDone {tag status : Nat} (h : s.Sound) : (s.rtDone tag status).Sound := h.frame

theorem State.Sound.rtIdle {v : BitVec 64} (h : s.Sound) : (s.rtIdle v).Sound := by
  unfold State.rtIdle
  split
  · exact h.rtDone
  · exact h

theorem State.Sound.rtWrite {tag : Nat} (h : s.Sound) : (s.rtWrite tag).Sound := by
  unfold State.rtWrite
  split
  · exact h.rtDone
  · split
    · exact h.rtDone
    · exact h.updRtag.touchWm.rtDone

theorem State.Sound.rtHeld (h : s.Sound) : s.rtHeld.Sound := (h.frame.foldState fun _ _ h1 => h1.frame.rtWrite).frame

theorem execRtWrite_lands {v : BitVec 64} (h : s.Sound) : Lands (execRtWrite v s) := by
  refine State.Sound.lands ?_
  dsimp only
  split
  · exact h.rtIdle
  · split
    · exact h.frame
    · exact h.rtWrite

theorem execRtRead_lands {v : BitVec 64} (h : s.Sound) : Lands (execRtRead v s) := by
  refine State.Sound.lands ?_
  dsimp only
  split
  · exact h.rtIdle
  · exact h.frame.rtDone

theorem State.Sound.updPort {p : Nat} {f : EthPort → EthPort} (h : s.Sound) : (s.updPort p f).Sound := h.frame

theorem State.Sound.updStream {n : Nat} {f : Stream → Stream} (h : s.Sound) : (s.updStream n f).Sound := h.frame

theorem State.Sound.framePacket {p : Packet} {time st slot : Nat} (h : s.Sound) :
    (s.framePacket p time st slot).Sound := by
  unfold State.framePacket
  split
  · exact h
  · split
    next s1 hs => exact h.acceptPacket s1 hs
    next => exact h

theorem State.Sound.flushFront {ws : List (Packet × Nat × Nat × Nat)} (h : s.Sound) : (s.flushFront ws).Sound := by
  induction ws generalizing s with
  | nil => exact h
  | cons w ws ih =>
    unfold State.flushFront
    split
    next s1 hs => exact ih (h.acceptPacket s1 hs)
    next => exact h

theorem State.Sound.landingWaits {f : EthFrame} {rule : Nat} (h : s.Sound) : ∀ u ∈ s.landingWaits f rule, u.Sound := by
  intro u hu
  obtain ⟨a, -, ha⟩ := Option.bind_eq_some_iff.1 hu
  dsimp only at ha
  split at ha
  · cases ha
    exact h.beginExit
  · split at ha
    · cases ha
      exact h
    · cases ha

theorem State.Sound.landFrame {f : EthFrame} {rule : Nat} (h : s.Sound) : (s.landFrame f rule).Sound := by
  dsimp only [State.landFrame]
  split
  · exact h.updPort
  · split
    · exact h.updStream.updStream
    · split
      · exact h.updStream.updStream
      · exact h.updStream.arrive.putBytes.homeWatch.updStream.framePacket

theorem State.Sound.takeFrame {f : EthFrame} (h : s.Sound) : (s.takeFrame f).Sound := by
  unfold State.takeFrame
  dsimp only
  split
  · exact h.updPort
  · split
    · exact h.updStream
    · split
      next s1 hs => exact (h.landingWaits s1 hs).updStream
      next => exact h.landFrame

theorem execEthFrameReceive_lands {frame : EthFrame} (h : s.Sound) : Lands (execEthFrameReceive frame s) := by
  refine State.Sound.lands ?_
  dsimp only
  split
  · exact h
  · split
    · exact h.updPort
    · split
      · exact h.updPort
      · split
        · exact h.updPort
        · split
          · exact h
          · exact h.updPort.takeFrame

theorem execEthFrameRelease_lands {stream : Nat} (h : s.Sound) : Lands (execEthFrameRelease stream s) := by
  refine State.Sound.lands ?_
  split
  · exact h
  · split
    · exact h
    · split
      next s1 hs => exact h.landingWaits s1 hs
      next => exact h.updStream.landFrame

/-! ### Sys2Proof/Machine/Registers.lean -/

theorem State.Sound.readClears {off : Nat} (h : s.Sound) : (s.readClears off).Sound := by
  dsimp only [State.readClears]
  split
  · exact h.updIntake
  · split
    · exact h.updAcct
    · exact h
  · exact h.frame
  · split
    · exact h.updRoom
    · split
      · exact h.updRoom
      · exact h
  · split
    · exact h.frame
    · split
      · exact h.updStream
      · exact h
    · split
      · exact h.updPort
      · exact h

theorem State.Sound.putLow {off v : Nat} (h : s.Sound) : (s.putLow off v).Sound := by
  unfold State.putLow
  dsimp only
  split <;> exact h

theorem State.Sound.putSched {off v : Nat} (h : s.Sound) : (s.putSched off v).Sound := by
  dsimp only [State.putSched]
  split
  · exact h.rtIdle
  · split
    · exact h.frame
    · split
      · exact h.updIntake
      · exact h.frame
      · split
        · exact h.updAcct
        · exact h
      · exact h

theorem State.Sound.putDebug {off v : Nat} (h : s.Sound) : (s.putDebug off v).Sound := by
  dsimp only [State.putDebug]
  split
  · exact h.frame
  · exact h.frame
  · exact h.frame
  · exact h.frame
  · split
    · exact h.frame
    · exact h.frame
    · exact h.updRoom
    · exact h

theorem State.Sound.putLink {off v : Nat} (h : s.Sound) : (s.putLink off v).Sound := by
  dsimp only [State.putLink]
  split
  · exact h.updStream
  · split
    · exact h.updPort
    · exact h

theorem execRegisterWrite_lands {off : Nat} {v : BitVec 64} (h : s.Sound) : Lands (execRegisterWrite off v s) := by
  refine State.Sound.lands ?_
  split
  · exact h.putLow
  · split
    · exact h.putSched
    · split
      · exact h.putDebug
      · exact h.putLink

theorem State.Sound.oddRead {off n : Nat} (h : s.Sound) : (s.oddRead off n).Sound := by
  unfold State.oddRead
  split
  · exact h
  · exact h.returns

theorem State.Sound.windowBytes {a n : Nat} (h : s.Sound) : (s.windowBytes a n).2.Sound := by
  induction n generalizing s a with
  | zero => exact h
  | succ n ih =>
    refine ih ?_
    split
    · exact h.free
    · exact h

theorem execHostMemoryWindow_lands {write : Bool} {addr : Nat} {bytes : List Byte} (h : s.Sound) :
    Lands (execHostMemoryWindow write addr bytes s) := by
  refine State.Sound.lands ?_
  dsimp only
  split
  · split
    · exact h
    · exact h.returns
  · split
    · exact h.beginExit
    · split
      · exact h
      · split
        · exact h.arrive.putBytes.homeWatch
        · exact h.arrive.homeWatch.windowBytes.returns

theorem execAcctBalanceWrite_lands {acct : Nat} {v : BitVec 64} (h : s.Sound) : Lands (execAcctBalanceWrite acct v s) := by
  refine State.Sound.lands ?_
  split
  · exact h
  · exact h.updAcct

theorem execLodgeEpochWrite_lands {v : BitVec 64} (h : s.Sound) : Lands (execLodgeEpochWrite v s) := by
  refine State.Sound.lands ?_
  dsimp only
  split
  · exact h.frame
  · exact h

theorem execLodgePtpWrite_lands {v : BitVec 64} (h : s.Sound) : Lands (execLodgePtpWrite v s) := by
  refine State.Sound.lands ?_
  dsimp only
  split
  · exact h
  · exact h.frame

theorem execPtpMessage_lands {report : PtpReport} (h : s.Sound) : Lands (execPtpMessage report s) := by
  refine State.Sound.lands ?_
  dsimp only
  split
  · exact h.frame
  · exact h

theorem execRollbackAdvance_lands {cls : Nat} {v : BitVec 64} (h : s.Sound) : Lands (execRollbackAdvance cls v s) := by
  refine State.Sound.lands ?_
  dsimp only
  split
  · exact h.frame
  · exact h

theorem State.Sound.attRecord {len : Nat} (h : s.Sound) : (s.attRecord len).Sound := by
  dsimp only [State.attRecord]
  split
  · exact h.putRecord.attDone
  · split
    · exact h.frame
    · exact h.attDone.frame

theorem State.Sound.attest (h : s.Sound) : s.attest.Sound := by
  unfold State.attest
  dsimp only
  split
  · exact h
  · refine State.Sound.attRecord ?_
    unfold State.Sound
    dsimp only
    exact ⟨h.1, Mem.writeBytes_wf _ _ _ h.2.1, h.2.2⟩

theorem execAttestationRequest_lands {v : BitVec 64} (h : s.Sound) : Lands (execAttestationRequest v s) := by
  refine State.Sound.lands ?_
  dsimp only
  split
  · exact h
  · split
    · exact h.frame
    · exact h.frame.attest

/-! ### Sys2Proof/Machine/Power.lean -/

theorem execRailRequest_lands {rail : Nat} {v : BitVec 64} (h : s.Sound) : Lands (execRailRequest rail v s) := by
  refine State.Sound.lands ?_
  dsimp only
  split
  · exact h
  · split
    · exact h.updPower fun p hp => Power.updRail_railsOk hp fun hr => hr
    next hd => exact h.updPower fun p hp => Power.updRail_railsOk hp fun hr => Rail.ok_request hr (Power.denies_none hd)

theorem execRailStepComplete_lands {rail : Nat} (h : s.Sound) : Lands (execRailStepComplete rail s) := by
  refine State.Sound.lands ?_
  dsimp only
  split
  · exact h
  · split
    next p hp =>
      have hdone : (s.power.updRail rail fun k => k.finish p.1 p.2).railsOk = true :=
        Power.updRail_railsOk h.2.2 fun hr => Rail.ok_finish hr hp
      refine h.framePower ?_
      split
      · exact hdone
      · exact hdone
    next =>
      split
      next p hp =>
        split
        · exact h
        · exact h.framePower (Power.updRail_railsOk h.2.2 fun hr => Rail.ok_begin hr hp)
      next => exact h

theorem execDroopDetect_lands (h : s.Sound) : Lands (execDroopDetect s) := by
  refine State.Sound.lands ?_
  split
  · exact h.updPower fun _ hp => hp
  · exact h

theorem execDroopHoldExpire_lands (h : s.Sound) : Lands (execDroopHoldExpire s) := by
  refine State.Sound.lands ?_
  split
  · split
    · exact h.updPower fun _ hp => hp
    · exact h
  · exact h

theorem execCurrentLimit_lands {wing : Nat} {on : Bool} (h : s.Sound) : Lands (execCurrentLimit wing on s) := by
  refine State.Sound.lands ?_
  split
  · exact h.updPower fun _ hp => hp
  · exact h

theorem execPwrStallWindow_lands {wing matrix vector sram fabric : Nat} (h : s.Sound) :
    Lands (execPwrStallWindow wing matrix vector sram fabric s) := by
  refine State.Sound.lands ?_
  dsimp only
  split
  · exact h.updPower fun _ hp => hp
  · exact h

theorem execRoomTempSample_lands {room : Nat} {temp : BitVec 16} (h : s.Sound) :
    Lands (execRoomTempSample room temp s) := by
  refine State.Sound.lands ?_
  split
  · exact h.updRoom
  · exact h

theorem execSramEccWindow_lands {errs : Nat} (h : s.Sound) : Lands (execSramEccWindow errs s) := by
  obtain ⟨hrail, hsafe⟩ := Power.railsOk_iff.1 h.2.2
  refine State.Sound.lands ?_
  dsimp only
  split
  · exact h
  · split
    · refine h.framePower ?_
      split
      · exact Power.railsOk_iff.2 ⟨hrail, (Rail.ok_iff.1 (hrail 2 (by decide))).1⟩
      · exact Power.railsOk_congr rfl rfl h.2.2
    · split
      · have hback := Power.updRail_railsOk (i := 2) (f := fun r => { r with volt := s.power.safe }) h.2.2 fun hr =>
          Rail.ok_setVolt hr hsafe
        exact h.framePower (Power.railsOk_congr rfl rfl hback)
      · exact h.framePower (Power.railsOk_congr rfl rfl h.2.2)

theorem execEcclimWrite_lands {v : BitVec 64} (h : s.Sound) : Lands (execEcclimWrite v s) :=
  State.Sound.lands (h.framePower h.2.2)

theorem State.Sound.disableRoom {r : Nat} (h : s.Sound) : (s.disableRoom r).Sound := by
  dsimp only [State.disableRoom]
  split
  · exact h.foldState fun i _ ht => ht.vanish
  · exact h.updRoom.frame.foldState fun i _ ht => ht.vanish

theorem State.Sound.vanishCells {cs : List Nat} {c : Cause} (h : s.Sound) : (s.vanishCells cs c).Sound := by
  refine h.foldState fun x _ ht => ?_
  split
  · exact ht.vanish
  · exact ht

theorem State.Sound.testDue {c : Nat} (h : s.Sound) : (s.testDue c).Sound := h.logError.frame

theorem State.Sound.ueAt {site : UeSite} {cause : Cause} {undervolt : Bool} (h : s.Sound) :
    (s.ueAt site cause undervolt).Sound := by
  dsimp only [State.ueAt]
  split
  · split
    · exact h.vanishCells
    · exact h.testDue.vanishCells
  · split
    · exact h.vanishCells.poisonBlock.logError.retirePage
    · split
      · exact h.vanishCells
      · exact h.vanishCells.logError
  · split
    · split
      · exact h.vanishCells.updCell
      · exact h.testDue.vanishCells.updCell
    · split
      · exact h.vanishCells
      · exact h.testDue.vanishCells

theorem State.Sound.ueLow {site : UeSite} (h : s.Sound) : (s.ueLow site).Sound :=
  State.Sound.ueAt (h.updPower fun _ => Power.rollback_railsOk)

theorem execUeDetect_lands {site : UeSite} (h : s.Sound) : Lands (execUeDetect site s) := by
  refine State.Sound.lands ?_
  split
  · exact h.ueLow
  · exact h.ueAt

theorem execUeUndervolt_lands {site : UeSite} (h : s.Sound) : Lands (execUeUndervolt site s) := by
  refine State.Sound.lands ?_
  split
  · exact h.ueLow
  · exact h

theorem execLodgeSelfTest_lands {cell : Nat} {ok : Bool} (h : s.Sound) : Lands (execLodgeSelfTest cell ok s) := by
  refine State.Sound.lands ?_
  dsimp only
  split
  · split
    · exact h.frame
    · exact h.frame.disableRoom
  · exact h

theorem execRetentionEnter_lands {arr : RetArray} (h : s.Sound) : Lands (execRetentionEnter arr s) := by
  refine State.Sound.lands ?_
  split
  · exact h.updPower fun _ hp => hp
  · exact h

theorem execRetentionExit_lands {arr : RetArray} (h : s.Sound) : Lands (execRetentionExit arr s) := by
  refine State.Sound.lands ?_
  split
  · exact h.updPower fun _ hp => hp
  · exact h

theorem execPwrWatchdog_lands (h : s.Sound) : Lands (execPwrWatchdog s) := by
  refine State.Sound.lands ?_
  split
  · exact h.updPower fun _ hp => hp
  · exact h

theorem execPowerFirmwareUpdate_lands {image : List Byte} {version : Nat} (h : s.Sound) :
    Lands (execPowerFirmwareUpdate image version s) := by
  refine State.Sound.lands ?_
  dsimp only
  split
  · exact h.frame.updPower fun _ hp => hp
  · exact h.frame

theorem State.Sound.firmwareActs (h : s.Sound) : s.firmwareActs.Sound := by
  dsimp only [State.firmwareActs]
  split
  · exact h.free.updPower fun _ hp => hp
  · exact h.free

/-! ### Sys2Proof/Machine/Links.lean -/

theorem State.Sound.updEwj {p : Nat} {f : EwjPort → EwjPort} (h : s.Sound) : (s.updEwj p f).Sound := h.frame

theorem execEwjFlitReceive_lands {port lane : Nat} {crcOk resent : Bool} (h : s.Sound) :
    Lands (execEwjFlitReceive port lane crcOk resent s) := by
  refine State.Sound.lands ?_
  split
  · exact h
  · split
    · exact h
    · split
      · exact h.updEwj
      · exact h.updEwj

theorem execEwjPortFail_lands {port : Nat} (h : s.Sound) : Lands (execEwjPortFail port s) := by
  refine State.Sound.lands ?_
  split
  · exact h
  · exact h.updEwj

theorem State.Sound.ewjMark {m : EwjMsg} (h : s.Sound) : (s.ewjMark m).Sound := h.frame

theorem State.Sound.remoteAt {port pa n : Nat} {go : State → State} (h : s.Sound) (hgo : ∀ u, u.Sound → (go u).Sound) :
    (s.remoteAt port pa n go).1.Sound := by
  dsimp only [State.remoteAt]
  split
  · exact h
  · split
    · exact h.beginExit
    · split
      · exact h
      · exact hgo _ h.arrive.useRange

theorem State.Sound.deliver {m : EwjMsg} (h : s.Sound) : (s.deliver m).1.Sound := by
  unfold State.deliver
  dsimp only
  split
  · exact h.remoteAt fun s1 h1 => h1.homeWatch
  · exact h.remoteAt fun s1 h1 => h1.putBytes.homeWatch
  · refine h.remoteAt fun s1 h1 => ?_
    exact .ite h1.homeWatch h1.putBytes.homeWatch
  · exact h.remoteAt fun s1 h1 => h1.drainAt
  · split
    · split
      next s1 hs => exact h.acceptPacket s1 hs
      next => exact h
    · exact h
  · exact h.updOp

theorem State.Sound.ewjFlush {ms kept : List EwjMsg} (h : s.Sound) : (s.ewjFlush ms kept).Sound := by
  induction ms generalizing s kept with
  | nil => exact h
  | cons m ms ih =>
    unfold State.ewjFlush
    dsimp only
    split
    · exact ih h
    · split
      · exact ih h.deliver.ewjMark
      · exact ih h.deliver

theorem execEwjMessageReceive_lands {msg : EwjMsg} (h : s.Sound) : Lands (execEwjMessageReceive msg s) := by
  refine State.Sound.lands ?_
  split
  · exact h
  · exact h.ewjFlush

theorem State.Sound.renumber {m : AMap Nat} (h : s.Sound) : (s.renumber m).Sound := h

theorem State.Sound.lost (h : s.Sound) : s.lost.Sound :=
  ⟨Mem.filter_wf _ _ h.1, h.2.1, reset_railsOk⟩

theorem State.Sound.trainPort {p : Nat} (h : s.Sound) : (s.trainPort p).Sound := by
  dsimp only [State.trainPort]
  split
  · exact h.free.updEwj
  · exact h

theorem State.Sound.trainPorts (h : s.Sound) : s.trainPorts.Sound := by
  dsimp only [State.trainPorts]
  split
  · exact (h.foldState fun _ _ ht => ht.trainPort).frame
  · exact h.foldState fun _ _ ht => ht.trainPort

theorem State.Sound.testRooms (h : s.Sound) : s.testRooms.Sound :=
  h.frame.foldState fun _ _ ht => (ht.free.foldState fun _ _ ht1 => ht1.updRoom).frame

theorem State.Sound.testPages (h : s.Sound) : s.testPages.Sound := h.free.foldState fun _ _ ht => ht.free.retirePage

theorem State.Sound.calibrate (h : s.Sound) : s.calibrate.Sound := h.foldState fun _ _ ht => ht.free.updPort

theorem State.Sound.formDomain (h : s.Sound) : s.formDomain.Sound := h.free.frame

theorem State.Sound.enterLodge {st : Nat} (h : s.Sound) : (s.enterLodge st).Sound := by
  dsimp only [State.enterLodge]
  split
  · exact (h.testRooms.testPages.foldState fun p q hq => hq.updEwj).frame
  · split
    · exact h.trainPorts.calibrate.formDomain.free.frame.frame
    · exact h.frame

theorem State.Sound.lodgeTick (h : s.Sound) : s.lodgeTick.Sound := by
  dsimp only [State.lodgeTick]
  split
  · split
    · exact h.free.enterLodge
    · split
      · exact h.free.enterLodge
      · exact h.free
  · split
    · split
      · exact h.free.trainPorts
      · exact h.free
    · exact h

theorem State.Sound.boot (h : s.Sound) : s.boot.Sound := h.frame

theorem State.Sound.recordCause {cause wing room : Nat} (h : s.Sound) : (s.recordCause cause wing room).Sound := h.frame

theorem execReset_lands {cause : BitVec 8} (h : s.Sound) : Lands (execReset cause s) := by
  refine State.Sound.lands ?_
  split
  · exact h
  · split
    · exact h.lost.boot
    · exact h.lost.recordCause.boot

theorem execThermalCut_lands {room : Nat} (h : s.Sound) : Lands (execThermalCut room s) :=
  State.Sound.lands h.lost

theorem execConverterFault_lands (h : s.Sound) : Lands (execConverterFault s) :=
  State.Sound.lands h.lost

theorem State.Sound.lodgeBack (h : s.Sound) : s.lodgeBack.Sound := by
  dsimp only [State.lodgeBack]
  split
  · exact h.frame.rtHeld.attest
  · exact h.frame.rtHeld

theorem execLodgeUpdate_lands {image : List Byte} {version : Nat} (h : s.Sound) :
    Lands (execLodgeUpdate image version s) := by
  refine State.Sound.lands ?_
  dsimp only
  split
  · exact h.lodgeBack
  · split
    · split
      · exact h.frame.frame
      · exact h.frame
    · exact h

theorem State.Sound.haltTasks {pick : Task → Bool} (h : s.Sound) : (s.haltTasks pick).Sound := h.frame

theorem execDbgHalt_lands {v : BitVec 64} (h : s.Sound) : Lands (execDbgHalt v s) := by
  refine State.Sound.lands ?_
  dsimp only
  split
  · exact h
  · split
    · exact h.frame.haltTasks
    · split
      · exact h.frame.haltTasks.frame
      · exact h.frame.haltTasks
    · exact h.frame.haltTasks.frame
    · exact h.frame.updCell

theorem execDbgGo_lands {v : BitVec 64} (h : s.Sound) : Lands (execDbgGo v s) := by
  refine State.Sound.lands ?_
  dsimp only
  split
  · exact h
  · exact h.frame

/-! ### Sys2Proof/Machine/Load.lean -/

theorem State.Sound.loadReaches {asid : Nat} {data : List Segment} (h : s.Sound) : (s.loadReaches asid data).Sound :=
  h.arrive.useRanges

theorem State.Sound.putData {asid va : Nat} {b : List Byte × Nat} (h : s.Sound) : (s.putData asid va b).Sound :=
  h.putBytes.putTag.homeWatch

theorem State.Sound.writeData {asid : Nat} {data : List Segment} (h : s.Sound) : (s.writeData asid data).Sound :=
  h.foldState fun _ _ ht => ht.foldState fun _ _ ht1 => ht1.putData

theorem State.Sound.loadApply {asid desc : Nat} {x : Loadable} (h : s.Sound) : (s.loadApply asid desc x).Sound := by
  have hrooms := State.Sound.foldState (l := upTo 64) (f := fun r (st : State) => st.updRoom r fun y =>
    y.receive r x.rooms s.freeCtn x.ims.length x.k.seqs) (h.writeData (asid := asid) (data := x.k.data))
    fun _ _ hu => hu.updRoom
  unfold State.loadApply State.Sound
  dsimp only
  exact ⟨hrooms.1, Mem.writeBytes_wf _ _ _ hrooms.2.1, hrooms.2.2⟩

theorem State.Sound.loadWaits {asid desc : Nat} (h : s.Sound) : ∀ u ∈ s.loadWaits asid desc, u.Sound := by
  unfold State.loadWaits
  dsimp only
  split
  · rintro _ ⟨⟩
  · split
    · rintro _ ⟨⟩
      exact h.beginExit
    · split
      · rintro _ ⟨⟩
        exact h
      · rintro _ ⟨⟩

theorem State.Sound.keepLoad {go : Bool} {v : BitVec 64} (h : s.Sound) : (s.keepLoad go v).Sound := h.frame

theorem State.Sound.loadStatus {st : BitVec 64} (h : s.Sound) : (s.loadStatus st).Sound := h.frame

theorem State.Sound.loadDone {v st : BitVec 64} (h : s.Sound) : (s.loadDone v st).Sound := h.keepLoad.loadStatus

theorem State.Sound.loadGo {v : BitVec 64} (h : s.Sound) : (s.loadGo v).Sound := by
  unfold State.loadGo
  dsimp only
  split
  next s1 hs => exact (h.loadWaits s1 hs).keepLoad
  next => exact h.loadDone
  next => exact .ite h.loadReaches.loadApply.loadDone h.loadReaches.loadDone

theorem State.Sound.loadTick (h : s.Sound) : s.loadTick.Sound := by
  unfold State.loadTick
  split
  · exact h.loadGo
  · exact h

theorem execCfgLoad_lands {v : BitVec 64} (h : s.Sound) : Lands (execCfgLoad v s) := by
  refine State.Sound.lands ?_
  split
  · exact h
  · split
    · split
      · exact h.loadStatus
      · exact h
    · split
      · exact h.loadGo
      · exact h.keepLoad

theorem execCfgUnload_lands {v : BitVec 64} (h : s.Sound) : Lands (execCfgUnload v s) := by
  refine State.Sound.lands ?_
  dsimp only
  split
  · exact h
  · split
    · split
      · exact h.loadStatus
      · exact h
    · split
      · exact h.keepLoad
      · split
        · exact h.loadDone
        · split
          · exact h.loadDone
          · exact h.frame.loadDone

/-! ### Sys2Proof/Machine/Moves.lean -/

theorem State.Sound.letGo {t : Task} {c e : Nat} (h : s.Sound) : (s.letGo t c e).Sound := by
  unfold State.letGo
  split
  · exact h.updElem
  · exact h

theorem State.Sound.idleTurn {c e : Nat} (h : s.Sound) : (s.idleTurn c e).Sound := by
  dsimp only [State.idleTurn]
  split
  · exact h
  · split
    · exact h.letGo.forwardMark
    · exact h.letGo

theorem State.Sound.elementTurn {c e : Nat} (h : s.Sound) : (s.elementTurn c e).All State.Sound := by
  dsimp only [State.elementTurn]
  split
  · exact h
  · split
    · exact h.beginTurn.noteTurn.idleTurn
    · split
      · exact h.beginTurn.noteTurn.atSite
      · exact h.beginTurn

theorem State.Sound.hearthTurn {r : Nat} (h : s.Sound) : (s.hearthTurn r).All State.Sound := by
  dsimp only [State.hearthTurn]
  split
  · exact h
  · split
    · exact h.frame
    · split
      · exact h
      · split
        · exact h.frame.updRoom
        · exact h

theorem State.Sound.countStalls (h : s.Sound) : s.countStalls.Sound := h

theorem State.Sound.endTick (h : s.Sound) : s.endTick.Sound :=
  (((h.endWaits.holdSpawns.settleOverdue.foldState fun _ _ ht => ht.tryCommit).foldState
    fun _ _ ht => ht.sendTrap).quiesceEnds).countStalls

theorem State.Sound.nextTick (h : s.Sound) : s.nextTick.Sound := h.frame

theorem State.Sound.framesDue (h : s.Sound) : s.framesDue.Sound := by
  refine h.foldState fun i _ ht => ?_
  split
  · exact ht.frameDue
  · exact ht

theorem State.Sound.tick (h : s.Sound) : s.tick.Sound := by
  have hlocks := h.endTick.nextTick.framesDue.foldState (l := s.endTick.nextTick.framesDue.tasks) fun t _ hu =>
    hu.dlockTick (t := t)
  exact hlocks.flushFront.ewjFlush.loadTick.lodgeTick

theorem State.Sound.timePasses {q : Nat} (h : s.Sound) : (s.timePasses q).Sound := h.frame.firmwareActs

theorem State.Sound.turn {m : Move} (h : s.Sound) : (s.turn m).All State.Sound := by
  cases m with
  | element c e => exact .ite h h.elementTurn
  | hearth r => exact .ite h h.hearthTurn
  | event subject i => exact .ite h h.frame
  | tick => exact h.tick
  | time q => exact h.timePasses
  | intakeRead off n => exact h.intakeRead
  | oddRead off n => exact h.oddRead
  | hostStore a bs => exact h.putHost
  | remoteStore a bs => exact .ite ⟨Mem.writeBytes_wf _ _ _ h.1, h.2⟩ h

theorem State.Sound.nextMove (h : s.Sound) : s.nextMove.2.Sound := by
  dsimp only [State.nextMove]
  split
  · exact h.frame
  · exact h.frame

/-! ### Sys2Proof/Machine/Step.lean -/

/-- Every instruction, event and placed word goes on to a sound state. -/
theorem exec_lands {s : State} (h : s.Sound) (i : Instr) : Lands (exec i s) := by
  cases i with
  | nop | mov | add | addc | sub | subb | mul | mulh | mulhu | div | divu | rem | remu | and_ | or_ | xor_ | andn
  | shl | shr | sra | rot | clz | popc | bfx | bfi | min_ | max_ | minu | maxu | sel | icmp | fadd | fsub | fmul
  | ffma | fmin | fmax | fcmp | fcvt | coord | semq | ctrq => exact h.plain.lands
  | plog | done => exact (h.fire fun _ _ h0 => h0.offer fun _ h1 => h1.finish.updElem).lands
  | ld | ldc | ldwf | ldtk | st | stfl | stsf | feclr | feq | ctrinit | arrive | atom | red | atomx => exact h.memFire.lands
  | fence => exact (h.fire fun _ _ h0 => h0.offer fun _ h1 => h1.issue).lands
  | acq => exact execAcq_lands h
  | tlook => exact execTlook_lands h
  | tins => exact execTins_lands h
  | tinv => exact (h.fire fun _ _ h0 => h0.offer fun _ h1 => h1.setTable.finishEng).lands
  | tload | tmcast => exact h.tileFill.lands
  | tstore => exact execTstore_lands h
  | tfree => exact (h.fire fun _ _ h0 => h0.offer fun _ h1 => h1.updCell.finishEng).lands
  | tstatq => exact execTstatq_lands h
  | qpush | qpop | dqpush | dqpop | dqsteal => exact h.queueFire.lands
  | pref => exact execPref_lands h
  | vadd | vsub | vmul | vfma | vfms | vmin | vmax | vabs | vneg | vand | vor | vxor | vshl | vshr | vsra | viadd
  | vimul => exact h.vecLanes.lands
  | vcmp | vsel | vcvt | vscl | vreds | vredm | vscan | vperm | vbcast | vext | vins | vmovm => exact h.vecFire.lands
  | vrcp | vrsq | vexp2 | vlog2 => exact h.vecFn.lands
  | vld | vst => exact h.vecMem.lands
  | vgath | vscat => exact h.vecIndexed.lands
  | vpark => exact execVpark_lands h
  | vunpark => exact execVunpark_lands h
  | mxcfg => exact execMxcfg_lands h
  | mxldb => exact execMxldb_lands h
  | mxrule => exact execMxrule_lands h
  | mxclr => exact execMxclr_lands h
  | mxrd => exact execMxrd_lands h
  | mxdrn => exact execMxdrn_lands h
  | mxsort => exact execMxsort_lands h
  | mxq | zsq | statq => exact (h.fire fun _ _ h0 => h0.offer fun _ h1 => h1.finishEng).lands
  | cvcfg => exact execCvcfg_lands h
  | cvq => exact execCvq_lands h
  | zscan => exact execZscan_lands h
  | tagq => exact execTagq_lands h
  | dpatch => exact execDpatch_lands h
  | dpload | dsave | drest => exact h.transfer.lands
  | dsety | dsetr | dgetn => exact (h.fire fun _ _ h0 => h0.offer fun _ h1 => h1.updDda.ddaIssue).lands
  | ddom => exact execDdom_lands h
  | drun => exact execDrun_lands h
  | dstop => exact execDstop_lands h
  | dgety => exact execDgety_lands h
  | dinj => exact execDinj_lands h
  | dstat => exact (h.fire fun _ _ h0 => h0.offer fun _ h1 => h1.ddaIssue).lands
  | arg => exact execArg_lands h
  | ageq | timeq => exact h.pair.lands
  | meterq => exact (h.fire fun _ _ h0 => h0.offer fun _ h1 => h1.finish).lands
  | topup => exact execTopup_lands h
  | spawn => exact execSpawn_lands h
  | semsig => exact (h.fire fun _ _ h0 => h0.offer fun _ h1 => h1.finish.updRoom).lands
  | wset => exact (h.fire fun _ _ h0 => h0.offer fun _ h1 => h1.updElem.finish).lands
  | ctrset => exact execCtrset_lands h
  | ctrstep => exact execCtrstep_lands h
  | ctok => exact (h.fire fun _ _ h0 => h0.offer fun _ h1 => h1.finish.sendControl).lands
  | trap => exact (h.fire fun _ _ h0 => h0.offer fun _ h1 => h1.finish.raise).lands
  | memOpComplete => exact execMemOpComplete_lands h
  | engineWriteback => exact execEngineWriteback_lands h
  | waitRetry => exact execWaitRetry_lands h
  | walkComplete => exact execWalkComplete_lands h
  | homeAccess => exact execHomeAccess_lands h
  | routerCombine => exact execRouterCombine_lands h
  | replySplit => exact execReplySplit_lands h
  | atomxFill => exact execAtomxFill_lands h
  | tileBlockArrive => exact execTileBlockArrive_lands h
  | tileBlockPerformed => exact execTileBlockPerformed_lands h
  | setRequestArrive => exact execSetRequestArrive_lands h
  | setRetry => exact execSetRetry_lands h
  | ddaDomainStep => exact execDdaDomainStep_lands h
  | edgePortAdvance => exact execEdgePortAdvance_lands h
  | channelTokenArrive => exact h.updInputAt.lands
  | controlTokenArrive => exact execControlTokenArrive_lands h
  | hostIntakeWrite => exact (h.intakeAll.foldState fun n _ ht => ht.updIntake).lands
  | intakeTakeSlot => exact execIntakeTakeSlot_lands h
  | cancel => exact execCancel_lands h
  | launchExpand => exact execLaunchExpand_lands h
  | topupSettle => exact h.settleNext.lands
  | park => exact execPark_lands h
  | waitLimitExpire => exact execWaitLimitExpire_lands h
  | ueDetect => exact execUeDetect_lands h
  | lodgeSelfTest => exact execLodgeSelfTest_lands h
  | currentLimit => exact execCurrentLimit_lands h
  | sramEccWindow => exact execSramEccWindow_lands h
  | ueUndervolt => exact execUeUndervolt_lands h
  | pwrStallWindow => exact execPwrStallWindow_lands h
  | roomTempSample => exact execRoomTempSample_lands h
  | thermalCut => exact execThermalCut_lands h
  | railStepComplete => exact execRailStepComplete_lands h
  | retentionEnter => exact execRetentionEnter_lands h
  | retentionExit => exact execRetentionExit_lands h
  | reset => exact execReset_lands h
  | lodgeUpdate => exact execLodgeUpdate_lands h
  | ewjFlitReceive => exact execEwjFlitReceive_lands h
  | ewjMessageReceive => exact execEwjMessageReceive_lands h
  | ewjPortFail => exact execEwjPortFail_lands h
  | linkTimeout => exact execLinkTimeout_lands h
  | domainRecovery =>
    exact ((((h.foldState fun _ _ ht => ht.updEwj).foldState fun _ _ ht => ht.retirePage).foldState
      fun _ _ ht => ht.disableRoom).renumber).lands
  | ethFrameReceive => exact execEthFrameReceive_lands h
  | ethFrameRelease => exact execEthFrameRelease_lands h
  | ptpMessage => exact execPtpMessage_lands h
  | ringInterrupt => exact execRingInterrupt_lands h
  | hostRingWrite => exact execHostRingWrite_lands h
  | rtWrite => exact execRtWrite_lands h
  | rtRead => exact execRtRead_lands h
  | attestationRequest => exact execAttestationRequest_lands h
  | lodgeEpochWrite => exact execLodgeEpochWrite_lands h
  | lodgePtpWrite => exact execLodgePtpWrite_lands h
  | rollbackAdvance => exact execRollbackAdvance_lands h
  | railRequest => exact execRailRequest_lands h
  | ecclimWrite => exact execEcclimWrite_lands h
  | acctBalanceWrite => exact execAcctBalanceWrite_lands h
  | cfgLoad => exact execCfgLoad_lands h
  | cfgUnload => exact execCfgUnload_lands h
  | xlatInv => exact h.frame.lands
  | xlatWake => exact (h.frame.foldState fun _ _ ht => ht.updRoom).lands
  | dbgHalt => exact execDbgHalt_lands h
  | dbgGo => exact execDbgGo_lands h
  | hearthCont => exact execHearthCont_lands h
  | hostMemoryWindow => exact execHostMemoryWindow_lands h
  | counterReadClear => exact h.readClears.frame.lands
  | registerWrite => exact execRegisterWrite_lands h
  | hnop => exact (h.command fun _ _ h1 => h1.finishCmd).lands
  | hset => exact (h.command fun r _ h1 => h1.updHearth.finishCmd).lands
  | cfgload => exact execCfgload_lands h
  | cfgswitch => exact execCfgswitch_lands h
  | hcopy => exact execHcopy_lands h
  | gangrun => exact execGangrun_lands h
  | tagctl => exact (h.command fun _ _ h1 => h1.updRtag.finishCmd).lands
  | quiesce => exact execQuiesce_lands h
  | ctxsave => exact execCtxsave_lands h
  | ctxload => exact (h.command fun _ _ h1 => h1.withRegion fun g => h1.beginCmd.ctxloadStep).lands
  | trapret => exact (h.command fun r _ h1 => h1.beginCmd.trapretStep).lands
  | repeat_ => exact execRepeat_lands h
  | skipif => exact execSkipif_lands h
  | semset => exact (h.command fun _ _ h1 => h1.updRoom.finishCmd).lands
  | topacct => exact execTopacct_lands h
  | watch => exact execWatch_lands h
  | hend => exact (h.command fun r _ h1 => h1.updHearth).lands
  | powerFirmwareUpdate => exact execPowerFirmwareUpdate_lands h
  | matrixOpComplete => exact execMatrixOpComplete_lands h
  | pageTimeout => exact execPageTimeout_lands h
  | rowFire => exact execRowFire_lands h
  | mxldbComplete => exact execMxldbComplete_lands h
  | drainRow => exact execDrainRow_lands h
  | sortKeyEnter => exact execSortKeyEnter_lands h
  | sortEmit => exact execSortEmit_lands h
  | convertBlock => exact execConvertBlock_lands h
  | convertComplete => exact execConvertComplete_lands h
  | scanToken => exact execScanToken_lands h
  | commitPoint => exact execCommitPoint_lands h
  | argReadComplete => exact execArgReadComplete_lands h
  | dispatchStage => exact h.dispatch.lands
  | prefetchComplete => exact execPrefetchComplete_lands h
  | standbyFillComplete => exact execStandbyFillComplete_lands h
  | taskEnterRunning => exact execTaskEnterRunning_lands h
  | brownout => exact execBrownout_lands h
  | physicalStop => exact execPhysicalStop_lands h
  | ageHorizon => exact execAgeHorizon_lands h
  | deadlockExpire => exact execDeadlockExpire_lands h
  | preemptQuiescent => exact execPreemptQuiescent_lands h
  | faultReachHearth => exact execFaultReachHearth_lands h
  | droopDetect => exact execDroopDetect_lands h
  | droopHoldExpire => exact execDroopHoldExpire_lands h
  | pwrWatchdog => exact execPwrWatchdog_lands h
  | switchStuck => exact execSwitchStuck_lands h
  | quiesceLimitExpire => exact execQuiesceLimitExpire_lands h
  | hearthCmdComplete => exact execHearthCmdComplete_lands h
  | lodgeWatchdog => exact h.lost.recordCause.boot.lands
  | converterFault => exact execConverterFault_lands h
  | contextSaveComplete => exact execContextSaveComplete_lands h

theorem State.Sound.step (h : s.Sound) : Lands (step s) := by
  have ht := h.nextMove.turn (m := s.nextMove.1)
  unfold Machine.step
  dsimp only
  split
  next i s1 hs => exact exec_lands (ht.of_run hs) i
  next s1 hs => exact (ht.of_done hs).lands

end Sys2Proof.Machine
end

section
namespace Sys2Proof.Proofs
open Sys2Proof.Machine

/-- Settles O60: a step is a move, or an instruction, an event or a placed word, and each function that it calls keeps the canonical
form of both memories and the voltages that the clocks need. -/
theorem stepKeepsSound : Obligations.StepKeepsSound := fun _ h => h.step

end Sys2Proof.Proofs
end

section
/-! SUPPORT. The registers after reset that the manual gives a value for. -/

namespace Sys2Proof.Machine

/-- The power registers at reset (R36, R42, R47). -/
theorem reset_powerWords : State.reset.regWord 0x100000 = 900 ∧ State.reset.regWord 0x100008 = 900
    ∧ State.reset.regWord 0x100010 = 750 ∧ State.reset.regWord 0x100018 = 1250 * 2 ^ 16 + 800
    ∧ State.reset.regWord 0x100040 = 256 ∧ State.reset.regWord 0x100048 = 16 ∧ State.reset.regWord 0x100050 = 65536
    ∧ State.reset.regWord 0x100058 = 750 := by decide +kernel

theorem reset_room (r : Nat) : State.reset.room r = {} := rfl

/-- The parked tasks' threshold of each room at reset (R126). -/
theorem reset_parkWord {r : Nat} (hr : r < 64) : State.reset.regWord (0x700000 + 256 * r + 0x18) = 16384 := by
  rw [regWord_room (s := State.reset) r 3 hr (by decide), reset_room]
  rfl

/-- The deadlock limit of each room at reset (R264). -/
theorem reset_dlockWord {r : Nat} (hr : r < 64) : State.reset.regWord (0x700000 + 256 * r + 0x20) = 65536 := by
  rw [regWord_room (s := State.reset) r 4 hr (by decide), reset_room]
  rfl

theorem reset_sound : State.reset.Sound := ⟨rfl, rfl, reset_railsOk⟩

end Sys2Proof.Machine

namespace Sys2Proof.Proofs
open Sys2Proof.Machine

/-- Settles O59: the reset state lists nothing, so each part has its default, and the registers are read out. -/
theorem resetState : Obligations.ResetState := by
  unfold Obligations.ResetState
  obtain ⟨hmatrix, hvector, hsram, hfabric, hdroop, hecc, hidle, hsafe⟩ := reset_powerWords
  exact ⟨rfl, rfl, fun _ => rfl, fun _ => rfl, fun _ => rfl, fun _ => rfl, hmatrix, hvector, hsram, hfabric, hdroop, hecc, hidle,
    hsafe, rfl, fun _ => reset_parkWord, fun _ => reset_dlockWord, fun _ => rfl, reset_sound⟩

end Sys2Proof.Proofs
end

section
/-! SUPPORT. What the power events do: requests and steps of a rail, the windows of 10 µs, the droop hold, retention and the
firmware. -/

namespace Sys2Proof.Machine

variable (s : State)

/-! ### Requests and steps of a rail (R33, R36 to R38) -/

theorem railFloor_eq {i : Nat} (hi : i < 4) (f : Nat) : railFloor i f = floor33 i f := by
  unfold railFloor floor33
  split_ifs <;> omega

theorem railTop_eq {i : Nat} (hi : i < 4) : railTop i = top33 i := by
  unfold railTop top33
  split_ifs <;> omega

theorem exec_railRequest_denied {i st : Nat} (v : BitVec 64) (hi : i < 4)
    (h : s.power.denies i (v.toNat % 65536) (if i = 3 then v.toNat / 65536 % 65536 else 0) = some st) :
    exec (.railRequest i v) s = .next { s with power := s.power.updRail i fun r => { r with status := st } } := by
  have hvolt : natField v.toNat 0 16 = v.toNat % 65536 := by simp [natField]
  have hfreq : natField v.toNat 16 16 = v.toNat / 65536 % 65536 := rfl
  refine congrArg Host.Outcome.next ?_
  dsimp only
  rw [if_neg (by omega), hvolt, hfreq, h]
  rfl

theorem exec_railRequest_taken {i : Nat} (v : BitVec 64) (hi : i < 4)
    (h : s.power.denies i (v.toNat % 65536) (if i = 3 then v.toNat / 65536 % 65536 else 0) = none) :
    exec (.railRequest i v) s = .next { s with power := s.power.updRail i fun r =>
      { r with status := if r.pending = none then 0x01 else 0x04,
               pending := some (v.toNat % 65536, if i = 3 then v.toNat / 65536 % 65536 else 0) } } := by
  have hvolt : natField v.toNat 0 16 = v.toNat % 65536 := by simp [natField]
  have hfreq : natField v.toNat 16 16 = v.toNat / 65536 % 65536 := rfl
  refine congrArg Host.Outcome.next ?_
  dsimp only
  rw [if_neg (by omega), hvolt, hfreq, h]
  refine congrArg s.updPower (funext fun p => congrArg (p.updRail i) (funext fun r => ?_))
  cases hr : r.pending with
  | none => simp
  | some q => simp

theorem denies_low {p : Power} {i volt freq : Nat} (hi : i < 4)
    (h : volt < floor33 i freq ∨ (i = 2 ∧ p.locked = true ∧ volt < 750)) : p.denies i volt freq = some 0x02 := by
  rw [← railFloor_eq hi] at h
  exact if_pos h

theorem denies_high {p : Power} {i volt freq : Nat} (hi : i < 4)
    (hlow : ¬ (volt < floor33 i freq ∨ (i = 2 ∧ p.locked = true ∧ volt < 750)))
    (h : top33 i < volt ∨ (i = 3 ∧ (freq < 800 ∨ 1600 < freq))) : p.denies i volt freq = some 0x03 := by
  rw [← railFloor_eq hi] at hlow
  rw [← railTop_eq hi] at h
  exact (if_neg hlow).trans (if_pos h)

theorem denies_not {p : Power} {i volt freq : Nat} (hi : i < 4)
    (hlow : ¬ (volt < floor33 i freq ∨ (i = 2 ∧ p.locked = true ∧ volt < 750)))
    (hhigh : ¬ (top33 i < volt ∨ (i = 3 ∧ (freq < 800 ∨ 1600 < freq)))) : p.denies i volt freq = none := by
  rw [← railFloor_eq hi] at hlow
  rw [← railTop_eq hi] at hhigh
  exact (if_neg hlow).trans (if_neg hhigh)

theorem rail_updRail (p : Power) (i : Nat) (f : Rail → Rail) (hp : p.rails = s.power.rails) :
    ({ s with power := p.updRail i f } : State).rail i = f (s.rail i) := by
  unfold State.rail Power.updRail
  rw [hp, mget_mset_self]

theorem rail_updRail_ne (p : Power) {i j : Nat} (f : Rail → Rail) (hp : p.rails = s.power.rails) (h : j ≠ i) :
    ({ s with power := p.updRail i f } : State).rail j = s.rail j := by
  unfold State.rail Power.updRail
  rw [hp, mget_mset_ne _ _ _ h]

theorem Rail.begin_eq (r : Rail) (v f : Nat) : r.begin v f =
    { r with volt := if f < r.freq then r.volt else if r.freq < f then v else r.volt, freq := if f < r.freq then f else r.freq,
             pending := none, step := some (v, f), status := if r.status = 0x04 then 0x01 else r.status } := by
  unfold Rail.begin
  dsimp only
  by_cases hup : r.freq < f
  · simp [hup, hup.le.not_gt]
  · by_cases hdown : f < r.freq
    · simp [hup, hdown]
    · simp [hup, hdown]

theorem Rail.finish_status (r : Rail) (v f : Nat) :
    (r.finish v f).status = if r.status = 0x01 ∧ r.pending = none then 0x00 else r.status := by
  unfold Rail.finish
  simp only [Option.isNone_iff_eq_none]

/-- A pending request begins where the firmware runs (R38, R49). -/
theorem exec_railStep_begins {i v f : Nat} (hi : i < 4) (hstep : (s.rail i).step = none)
    (hpend : (s.rail i).pending = some (v, f)) (hfw : s.power.fwHung = false) : exec (.railStepComplete i) s =
    .next { s with power := s.power.updRail i fun r => r.begin v f } := by
  refine congrArg Host.Outcome.next ?_
  dsimp only
  simp only [if_neg (show ¬ 3 < i by omega), hstep, hpend, hfw]
  rfl

theorem exec_railStep_hung {i : Nat} (hi : i < 4) (hstep : (s.rail i).step = none) (hpend : (s.rail i).pending ≠ none)
    (hfw : s.power.fwHung = true) : exec (.railStepComplete i) s = .next s := by
  obtain ⟨p, hp⟩ := Option.ne_none_iff_exists'.1 hpend
  refine congrArg Host.Outcome.next ?_
  dsimp only
  simp only [if_neg (show ¬ 3 < i by omega), hstep, hp, hfw, if_true]

/-- A step that has begun completes; a new voltage of the SRAM rail ends the window that it would be held for (R37, R42). -/
theorem exec_railStep_ends {i v f : Nat} (hi : i < 4) (hstep : (s.rail i).step = some (v, f)) :
    ∃ p : Power, exec (.railStepComplete i) s = .next { s with power := p.updRail i fun r => r.finish v f }
      ∧ p.rails = s.power.rails := by
  by_cases hv : i = 2 ∧ v ≠ (s.rail i).volt
  · refine ⟨{ s.power with steady := false }, congrArg Host.Outcome.next ?_, rfl⟩
    dsimp only
    simp only [if_neg (show ¬ 3 < i by omega), hstep, if_pos hv]
    rfl
  · refine ⟨s.power, congrArg Host.Outcome.next ?_, rfl⟩
    dsimp only
    simp only [if_neg (show ¬ 3 < i by omega), hstep, if_neg hv]
    rfl

/-! ### Windows of 10 µs (R40, R42, R46) -/

theorem State.windowDue_iff {last : Nat} : s.windowDue last = true ↔ last + 40000 ≤ s.clock.tbase := decide_eq_true_iff

theorem State.windowDue_false {last : Nat} (h : s.clock.tbase < last + 40000) : s.windowDue last = false :=
  decide_eq_false (not_le.2 h)

/-- The stall counts of a wing (R40). -/
theorem regWord_stall {w : Nat} (hw : w < 4) : s.regWord (0x100020 + 8 * w) = (mget s.power.stall w 0).toNat := by
  have h1 : regIndex (0x100020 + 8 * w) 0x100000 4 8 = none := regIndex_eq_none (.inr (by omega))
  have h2 : regIndex (0x100020 + 8 * w) 0x100020 4 8 = some w := (regIndex_eq_some (by decide)).2 ⟨by omega, hw⟩
  unfold State.regWord
  rw [if_neg (by omega), if_pos (by omega)]
  unfold State.powerWord
  split
  case h_5 => simp only [h1, h2]
  all_goals omega

theorem exec_stallWindow_due {w a b c d : Nat} (hw : w < 4) (hdue : mget s.power.stallAt w 0 + 40000 ≤ s.clock.tbase) :
    exec (.pwrStallWindow w a b c d) s = .next { s with power := { s.power with
      stall := mset s.power.stall w (BitVec.ofNat 64 (min a 0xFFFF * 2 ^ 48 + min b 0xFFFF * 2 ^ 32 + min c 0xFFFF * 2 ^ 16
        + min (max d (mget s.power.fabTicks w 0)) 0xFFFF)),
      stallAt := mset s.power.stallAt w s.clock.tbase, fabTicks := mdel s.power.fabTicks w } } :=
  congrArg Host.Outcome.next (if_pos ⟨hw, s.windowDue_iff.2 hdue⟩)

theorem exec_stallWindow_early {w a b c d : Nat} (hdue : s.clock.tbase < mget s.power.stallAt w 0 + 40000) :
    exec (.pwrStallWindow w a b c d) s = .next s := by
  refine congrArg Host.Outcome.next (if_neg ?_)
  rw [s.windowDue_false hdue]
  exact fun h => absurd h.2 (by decide)

theorem exec_tempSample_due {r : Nat} (v : BitVec 16) (hr : r < 64) (hdue : (s.room r).tempAt + 40000 ≤ s.clock.tbase) :
    exec (.roomTempSample r v) s = .next (s.updRoom r fun x => { x with
      temp := v, tempAt := s.clock.tbase,
      capHalved := if 460 ≤ v.toInt then true else if v.toInt < 440 then false else x.capHalved }) :=
  congrArg Host.Outcome.next (if_pos ⟨hr, s.windowDue_iff.2 hdue⟩)

theorem exec_tempSample_early {r : Nat} (v : BitVec 16) (hdue : s.clock.tbase < (s.room r).tempAt + 40000) :
    exec (.roomTempSample r v) s = .next s := by
  refine congrArg Host.Outcome.next (if_neg ?_)
  rw [s.windowDue_false hdue]
  exact fun h => absurd h.2 (by decide)

theorem exec_eccWindow_early {n : Nat} (hdue : s.clock.tbase < s.power.eccAt + 40000) : exec (.sramEccWindow n) s = .next s := by
  refine congrArg Host.Outcome.next (if_pos ?_)
  rw [s.windowDue_false hdue]
  rfl

/-- The window within the limit: the safe point falls to the voltage that was held (R42). -/
theorem exec_eccWindow_within {n : Nat} (hdue : s.power.eccAt + 40000 ≤ s.clock.tbase) (hn : n ≤ s.power.eccLim) :
    exec (.sramEccWindow n) s = .next { s with power := { s.power with
      errs := min n 0xFFFF, steady := true, eccAt := s.clock.tbase,
      safe := if s.power.steady = true then min s.power.safe (s.rail 2).volt else s.power.safe } } := by
  refine congrArg Host.Outcome.next ?_
  dsimp only
  rw [s.windowDue_iff.2 hdue, if_neg (by decide), if_pos hn]
  cases hsteady : s.power.steady with
  | false => simp
  | true =>
    by_cases hv : (s.rail 2).volt < s.power.safe
    · simp [hv, hv.le]
    · simp [hv, not_lt.1 hv]

/-- The window over the limit: the rail rises to the safe point (R42). -/
theorem exec_eccWindow_over {n : Nat} (hdue : s.power.eccAt + 40000 ≤ s.clock.tbase) (hn : s.power.eccLim < n) :
    ∃ p : Power, exec (.sramEccWindow n) s = .next { s with power := p } ∧ p.errs = min n 0xFFFF ∧ p.eccAt = s.clock.tbase
      ∧ p.safe = s.power.safe ∧ ({ s with power := p } : State).rail 2 = { s.rail 2 with volt := max s.power.safe (s.rail 2).volt } := by
  have hwin : (!s.windowDue s.power.eccAt) = false := by rw [s.windowDue_iff.2 hdue]; rfl
  have hover : ¬ n ≤ s.power.eccLim := not_le.2 hn
  by_cases hv : (s.rail 2).volt < s.power.safe
  · refine ⟨_, congrArg Host.Outcome.next ((if_neg (ne_true_of_eq_false hwin)).trans ((if_neg hover).trans (if_pos hv))),
      rfl, rfl, rfl, ?_⟩
    rw [max_eq_left hv.le]
    exact mget_mset_self _ _ _ _
  · refine ⟨_, congrArg Host.Outcome.next ((if_neg (ne_true_of_eq_false hwin)).trans ((if_neg hover).trans (if_neg hv))),
      rfl, rfl, rfl, ?_⟩
    rw [max_eq_right (not_lt.1 hv)]
    rfl

/-! ### Droop, retention and images -/

theorem exec_droopExpire {u : Nat} (h : mfind s.power.droopUntil s.cur.subject = some u) (hu : u ≤ s.clock.tick) :
    exec .droopHoldExpire s =
      .next { s with power := { s.power with droopUntil := mdel s.power.droopUntil s.cur.subject } } := by
  refine congrArg Host.Outcome.next ?_
  simp only [h, if_pos hu]
  rfl

theorem exec_retentionEnter_idle {a : RetArray} (hidle : s.arrayIdle a = true) (hret : s.power.retained.contains a = false) :
    exec (.retentionEnter a) s = .next { s with power := { s.power with retained := s.power.retained ++ [a] } } := by
  refine congrArg Host.Outcome.next (if_pos ?_)
  rw [hidle, State.retained, hret]
  rfl

theorem exec_retentionEnter_busy {a : RetArray} (hidle : s.arrayIdle a = false) : exec (.retentionEnter a) s = .next s := by
  refine congrArg Host.Outcome.next (if_neg ?_)
  rw [hidle]
  exact Bool.false_ne_true

theorem exec_retentionExit {a : RetArray} (h : a ∈ s.power.exiting) : exec (.retentionExit a) s =
    .next { s with power := { s.power with retained := s.power.retained.filter fun b => b != a,
                                           exiting := s.power.exiting.filter fun b => b != a } } :=
  congrArg Host.Outcome.next (if_pos (List.contains_iff_mem.2 h))

/-- What an update of the power firmware does with the idle image (R49). -/
theorem exec_firmwareUpdate (image : List Byte) (ver : Nat) : ∃ t, exec (.powerFirmwareUpdate image ver) s = .next t
    ∧ t.lodge = s.lodge.putImage (2 + (1 - s.power.fwImg)) ver image
    ∧ t.power.fwImg = (if s.imageOk 1 image ver = true then 1 - s.power.fwImg else s.power.fwImg)
    ∧ t.power.fwHung = (s.imageOk 1 image ver || s.power.fwHung) ∧ t.power.rails = s.power.rails ∧ t.mem = s.mem
    ∧ t.tasks = s.tasks := by
  cases hok : s.imageOk 1 image ver with
  | true => exact ⟨_, congrArg Host.Outcome.next (if_pos hok), rfl, rfl, rfl, rfl, rfl, rfl⟩
  | false => exact ⟨_, congrArg Host.Outcome.next (if_neg (ne_true_of_eq_false hok)), rfl, rfl, rfl, rfl, rfl, rfl⟩

/-- What an update of the lodge does with the idle image while it runs (R77, R81). -/
theorem exec_lodgeUpdate_runs (image : List Byte) (ver : Nat) (hst : s.lodge.st = 5) :
    ∃ l : Lodge, exec (.lodgeUpdate image ver) s = .next { s with lodge := l } ∧ mget l.images (1 - s.lodge.img) [] = image
      ∧ l.st = (if s.imageOk 0 image ver = true then 6 else 5)
      ∧ l.img = (if s.imageOk 0 image ver = true then 1 - s.lodge.img else s.lodge.img) := by
  have hrun : ¬ s.lodge.st = 6 := by omega
  cases hok : s.imageOk 0 image ver with
  | true =>
    exact ⟨_, congrArg Host.Outcome.next ((if_neg hrun).trans ((if_pos hst).trans (if_pos hok))), mget_mset_self _ _ _ _, rfl, rfl⟩
  | false =>
    exact ⟨_, congrArg Host.Outcome.next ((if_neg hrun).trans ((if_pos hst).trans (if_neg (ne_true_of_eq_false hok)))),
      mget_mset_self _ _ _ _, hst, rfl⟩

theorem rtHeld_none (h : s.lodge.heldWrites = []) : s.rtHeld = s := by
  have hkeep : ({ s with lodge := { s.lodge with heldWrites := [] } } : State) = s := by
    rw [← h]
  unfold State.rtHeld
  simp only [h]
  exact hkeep

/-- The end of a restart of the lodge with nothing that waited (R81). -/
theorem exec_lodgeUpdate_ends (image : List Byte) (ver : Nat) (hst : s.lodge.st = 6) (hatt : s.lodge.attGo = false)
    (hheld : s.lodge.heldWrites = []) : exec (.lodgeUpdate image ver) s =
      .next { s with lodge := { s.lodge with st := 5, errLog := s.lodge.errLog ++ s.lodge.errBuf, errBuf := [] } } := by
  have hback := rtHeld_none
    { s with lodge := { s.lodge with st := 5, errLog := s.lodge.errLog ++ s.lodge.errBuf, errBuf := [] } } hheld
  refine congrArg Host.Outcome.next ((if_pos hst).trans ?_)
  unfold State.lodgeBack
  dsimp only
  rw [hback]
  dsimp only
  rw [hatt, Bool.false_and, if_neg Bool.false_ne_true]

end Sys2Proof.Machine

namespace Sys2Proof.Proofs
open Sys2Proof.Machine

/-- Settles O52: one clause after the other, from what each event does. -/
theorem powerCompletes : Obligations.PowerCompletes := by
  unfold Obligations.PowerCompletes
  intro s
  refine ⟨fun i v hi => ⟨fun hlow => ?_, fun hlow hhigh => ?_, fun hlow hhigh => ?_⟩,
    fun i v f hi => ⟨fun hstep hpend hfw => ?_, exec_railStep_hung s hi, fun hstep => ?_⟩,
    ⟨fun hw => congrArg Host.Outcome.next (if_pos hw), fun u hu hle => ?_⟩,
    fun w on hw => congrArg Host.Outcome.next (if_pos hw),
    fun w a b c d hw => ⟨fun hdue => ?_, exec_stallWindow_early s⟩,
    fun r v => exec_tempSample_early s v, fun r v hr hdue => ?_,
    fun n => exec_eccWindow_early s, fun n hdue => ?_,
    fun a => ⟨exec_retentionEnter_idle s, exec_retentionEnter_busy s, fun ha => ?_⟩,
    fun hdue => congrArg Host.Outcome.next (if_pos hdue), fun hdue => congrArg Host.Outcome.next (if_neg (not_le.2 hdue)),
    fun image ver => ?_, fun image ver => ⟨fun hst => ?_, fun hst hatt hheld => ?_⟩⟩
  · exact exec_railRequest_denied s v hi (denies_low hi hlow)
  · exact exec_railRequest_denied s v hi (denies_high hi hlow hhigh)
  · exact exec_railRequest_taken s v hi (denies_not hi hlow hhigh)
  · refine ⟨_, exec_railStep_begins s hi hstep hpend hfw, ?_, fun j => rail_updRail_ne s s.power _ rfl⟩
    rw [rail_updRail s _ _ _ rfl, Rail.begin_eq]
  · obtain ⟨p, hexec, hp⟩ := exec_railStep_ends s hi hstep
    have hrail := rail_updRail s p i (fun r => r.finish v f) hp
    refine ⟨_, hexec, ?_, ?_, ?_, ?_, ?_, fun j => rail_updRail_ne s p _ hp⟩
    all_goals rw [hrail]
    · rfl
    · rfl
    · rfl
    · rfl
    · exact Rail.finish_status _ _ _
  · exact ⟨_, exec_droopExpire s hu hle, by simp [mfind_mdel], rfl⟩
  · refine ⟨_, exec_stallWindow_due s hw hdue, ?_, mget_mset_self _ _ _ _, ?_, rfl⟩
    · rw [regWord_stall _ hw, mget_mset_self, BitVec.toNat_ofNat, Nat.mod_eq_of_lt]
      omega
    · simp [mget, mfind_mdel]
  · refine ⟨_, exec_tempSample_due s v hr hdue, ?_⟩
    simp only [State.room_updRoom, if_true]
    refine ⟨trivial, trivial, fun hhot => if_pos hhot, fun hcool => ?_, fun hlo hhi => ?_, fun q hq => if_neg hq, rfl⟩
    · rw [if_neg (by omega), if_pos hcool]
    · rw [if_neg (by omega), if_neg (by omega)]
  · by_cases hn : n ≤ s.power.eccLim
    · exact ⟨_, exec_eccWindow_within s hdue hn, rfl, rfl, fun _ => ⟨rfl, rfl⟩, fun h => absurd hn (not_le.2 h), rfl⟩
    · obtain ⟨p, hexec, herrs, heccAt, hsafe, hrail⟩ := exec_eccWindow_over s hdue (not_le.1 hn)
      exact ⟨_, hexec, herrs, heccAt, fun h => absurd h hn, fun _ => ⟨hsafe, congrArg Rail.volt hrail⟩, rfl⟩
  · refine ⟨_, exec_retentionExit s ha, ?_, ?_, fun b hb => ⟨?_, ?_⟩, rfl⟩
    all_goals simp_all
  · obtain ⟨t, hexec, hlodge, hrest⟩ := exec_firmwareUpdate s image ver
    refine ⟨t, hexec, ?_, ?_, hrest⟩
    · rw [hlodge]
      exact mget_mset_self _ _ _ _
    · rw [hlodge]
      exact mget_mset_self _ _ _ _
  · obtain ⟨l, hexec, himages, hstate, himg⟩ := exec_lodgeUpdate_runs s image ver hst
    exact ⟨_, hexec, himages, hstate, himg, rfl⟩
  · exact exec_lodgeUpdate_ends s image ver hst hatt hheld

end Sys2Proof.Proofs
end

section
/-! SUPPORT. The registers of the lodge with a row of their own: accounts, epoch, time protocol, rollback counters, and the
attestation report with its record. -/

namespace Sys2Proof.Machine

variable (s : State) (v : BitVec 64)

/-! ### Accounts, epoch, time protocol and rollback counters -/

/-- A balance moves by a signed amount of 48 bits, held within its field (R142). -/
theorem balance_moved (old n : Nat) :
    (max 0 (min ((old : Int) + natToInt 48 n) ((2 ^ 48 - 1 : Nat) : Int))).toNat =
      if n % 2 ^ 48 < 2 ^ 47 then min (old + n % 2 ^ 48) (2 ^ 48 - 1) else min (old - (2 ^ 48 - n % 2 ^ 48)) (2 ^ 48 - 1) := by
  have hlt : n % 2 ^ 48 < 2 ^ 48 := Nat.mod_lt _ (by decide)
  unfold natToInt
  dsimp only
  generalize n % 2 ^ 48 = m at hlt
  by_cases h : m < 2 ^ 47
  · rw [if_pos h, if_pos h]
    omega
  · rw [if_neg h, if_neg h]
    omega

theorem exec_balanceWrite {a : Nat} (ha : a < 65536) : exec (.acctBalanceWrite a v) s = .next (s.updAcct a fun x =>
    { x with balance := (max 0 (min ((x.balance : Int) + natToInt 48 v.toNat) ((2 ^ 48 - 1 : Nat) : Int))).toNat }) :=
  congrArg Host.Outcome.next (if_neg (not_le.2 ha))

theorem anyLive_of_expanded (htasks : s.tasks = []) (hl : ∀ l ∈ s.launches, l.nx * l.ny ≤ l.next) : s.anyLive = false := by
  unfold State.anyLive Launch.unexpanded
  rw [htasks, List.isEmpty_nil, Bool.not_true, Bool.false_or, List.any_eq_false]
  intro l hmem
  have := hl l hmem
  simp only [decide_eq_true_eq]
  omega

theorem anyLive_of_tasks (h : s.tasks ≠ []) : s.anyLive = true := by
  unfold State.anyLive
  rw [List.isEmpty_eq_false_iff.2 h]
  rfl

theorem exec_epochWrite (hhold : s.sched.hold = true) (hidle : s.anyLive = false) : exec (.lodgeEpochWrite v) s =
    .next { s with lodge := { s.lodge with epochSec := v.toNat / 2 ^ 32, epochNs := v.toNat % 2 ^ 30 } } := by
  have hsec : natField v.toNat 32 32 = v.toNat / 2 ^ 32 := Nat.mod_eq_of_lt (by omega)
  have hns : natField v.toNat 0 30 = v.toNat % 2 ^ 30 := by simp [natField]
  rw [← hsec, ← hns]
  refine congrArg Host.Outcome.next (if_pos ?_)
  rw [hhold, hidle]
  rfl

theorem exec_epochWrite_live (h : s.sched.hold = false ∨ s.tasks ≠ []) : exec (.lodgeEpochWrite v) s = .next s := by
  refine congrArg Host.Outcome.next (if_neg ?_)
  obtain h | h := h
  · rw [h]
    exact Bool.false_ne_true
  · rw [anyLive_of_tasks s h, Bool.not_true, Bool.and_false]
    exact Bool.false_ne_true

/-- The bits of LODGE_PTP that are held (R75). -/
theorem ptp_held : BitVec.ofNat 64 (natField v.toNat 8 8 * 2 ^ 8 + natField v.toNat 2 4 * 2 ^ 2 + natField v.toNat 0 1) = v &&& 0xFF3D := by
  refine BitVec.eq_of_toNat_eq (toNat_ofNat64 v _ _ ?_)
  rw [toNat_and_three v _ 8 8 2 4 0 1 (by decide) (by decide) (by decide), pow_zero, mul_one]

/-- The state of the client after a write of LODGE_PTP (R75). -/
def ptpAfter : PtpReport :=
  if v.getLsbD 0 = false then { s.lodge.ptpst with port := natField v.toNat 2 2, state := 0 }
  else if s.lodge.ptp.getLsbD 0 = false ∨ natField v.toNat 2 4 ≠ natField s.lodge.ptp.toNat 2 4 then
    { port := natField v.toNat 2 2, step := 15, state := 1 }
  else s.lodge.ptpst

theorem exec_ptpWrite (h : natField v.toNat 4 2 ≠ 3) : exec (.lodgePtpWrite v) s =
    .next { s with lodge := { s.lodge with ptp := v &&& 0xFF3D, ptpst := ptpAfter s v } } := by
  rw [← ptp_held]
  refine congrArg Host.Outcome.next ((if_neg h).trans ?_)
  simp only [natBit_toNat, Bool.not_eq_true', ptpAfter, or_comm]

/-- A class's counter advances to a version that has been verified (R80). -/
theorem exec_rollback {c : Nat} (hc : c < 3) (hgo : v.getLsbD 63 = true) (hup : mget s.lodge.rb c 0 < v.toNat % 2 ^ 32)
    (hver : v.toNat % 2 ^ 32 ≤ s.verifiedVersion c) : exec (.rollbackAdvance c v) s =
      .next { s with lodge := { s.lodge with rb := mset s.lodge.rb c (v.toNat % 2 ^ 32) } } := by
  have hfield : natField v.toNat 0 32 = v.toNat % 2 ^ 32 := by simp [natField]
  rw [← hfield] at hup hver ⊢
  exact congrArg Host.Outcome.next (if_pos ⟨hc, hgo, hup, hver⟩)

theorem exec_rollback_not {c : Nat} (h : v.getLsbD 63 = false ∨ v.toNat % 2 ^ 32 ≤ mget s.lodge.rb c 0
    ∨ s.verifiedVersion c < v.toNat % 2 ^ 32) : exec (.rollbackAdvance c v) s = .next s := by
  have hfield : natField v.toNat 0 32 = v.toNat % 2 ^ 32 := by simp [natField]
  rw [← hfield] at h
  refine congrArg Host.Outcome.next (if_neg ?_)
  rintro ⟨-, hgo, hup, hver⟩
  rw [natBit_toNat] at hgo
  obtain h | h | h := h
  · rw [hgo] at h
    cases h
  · omega
  · omega

/-! ### Attestation (R78, R79) -/

theorem length_recordBytes (dev tag status : Nat) (pid : BitVec 64) (body : List Byte) :
    (recordBytes dev tag status pid body).length = 256 := by
  unfold recordBytes
  simp only [List.length_append, length_natToBytes, List.length_take, List.length_replicate]
  omega

/-- A record of 256 bytes that a ring takes (R59). -/
theorem State.putRecord_recorded (n : Nat) {bytes : List Byte} (h : bytes.length = 256) : Recorded s (s.putRecord n bytes) n bytes := by
  refine ⟨?_, mget_mset_self _ _ _ _⟩
  have hread := Mem.readBytes_writeBytes s.hostMem ((s.ring n).base + 256 * ((s.ring n).prod % ringSize (s.ring n).sz)) bytes
  rwa [h] at hread

theorem recorded_congr {s t s' t' : State} {n : Nat} {bytes : List Byte} (h : Recorded s t n bytes) (hs : s'.ring n = s.ring n)
    (hmem : t'.hostMem = t.hostMem) (ht : t'.ring n = t.ring n) : Recorded s' t' n bytes := by
  unfold Recorded at *
  rwa [hs, hmem, ht]

theorem Mem.readBytes_writeBytes_disjoint (m : Mem) {a b n : Nat} {bs : List Byte} (h : b + bs.length ≤ a ∨ a + n ≤ b) :
    (m.writeBytes b bs).readBytes a n = m.readBytes a n := by
  rw [Mem.readBytes_eq, Mem.readBytes_eq]
  refine List.map_congr_left fun i hi => ?_
  rw [List.mem_range] at hi
  rw [Mem.read_writeBytes, if_neg (by omega)]

theorem length_thirtyTwo (b : List Byte) : (thirtyTwo b).length = 32 := by
  unfold thirtyTwo
  simp only [List.length_take, List.length_append, List.length_replicate]
  omega

/-- The bytes of the report between its first nonce word and the lodge's own word. -/
def State.attMid : List Byte :=
  ([1, 2, 3].flatMap fun i => natToBytes 8 (mget s.lodge.attNonce i 0).toNat)
    ++ ([0, 1, 2, 3].flatMap fun i => thirtyTwo (Config.shake256 (mget s.lodge.images i [])))
    ++ (natToBytes 1 (s.lodge.img + 2 * s.power.fwImg) ++ natToBytes 7 0) ++ thirtyTwo (Config.shake256 s.tagTable)

theorem State.length_attMid : s.attMid.length = 192 := by
  simp [State.attMid, length_thirtyTwo]

/-- The bytes of the report up to the lodge's own word (R78). -/
def State.attHead : List Byte :=
  natToBytes 4 0x54414A4C ++ (natToBytes 2 1 ++ natToBytes 2 s.ctns.length ++ thirtyTwo (Config.shake256 Config.identityKey)
    ++ (natToBytes 8 (mget s.lodge.attNonce 0 0).toNat ++ (s.attMid ++ natToBytes 8 (s.lodgeWord 0))))

theorem State.attBody_head : ∃ rest, s.attBody = s.attHead ++ rest := by
  have hfour : upTo 4 = [0, 1, 2, 3] := rfl
  unfold State.attBody State.attHead State.attMid
  dsimp only
  generalize List.filterMap s.ctn? (upTo 65536) = cs
  rw [hfour]
  simp only [recBytes, List.flatMap_cons, List.flatMap_nil, List.append_assoc, List.append_nil]
  exact ⟨_, rfl⟩

theorem State.attReport_head : ∃ rest, s.attReport = s.attHead ++ rest := by
  obtain ⟨rest, hbody⟩ := s.attBody_head
  unfold State.attReport
  dsimp only
  rw [hbody, List.append_assoc, List.append_assoc]
  exact ⟨_, rfl⟩

theorem drop_take_append {α : Type} (a b c : List α) {n m : Nat} (ha : a.length = n) (hb : b.length = m) :
    ((a ++ (b ++ c)).drop n).take m = b := by
  rw [List.drop_left' ha, List.take_left' hb]

/-- The magic number, the first word of the nonce and the lodge's own word in the report (R78). -/
theorem State.attReport_fields : s.attReport.take 4 = natToBytes 4 0x54414A4C
    ∧ (s.attReport.drop 40).take 8 = natToBytes 8 (mget s.lodge.attNonce 0 0).toNat
    ∧ (s.attReport.drop 240).take 8 = natToBytes 8 (s.lodgeWord 0) := by
  obtain ⟨rest, hr⟩ := s.attReport_head
  rw [hr]
  unfold State.attHead
  refine ⟨?_, ?_, ?_⟩
  · rw [List.append_assoc, List.take_left' (length_natToBytes _ _)]
  · rw [← List.append_assoc, List.append_assoc, List.append_assoc]
    exact drop_take_append _ _ _ (by simp [length_thirtyTwo]) (length_natToBytes _ _)
  · rw [← List.append_assoc, ← List.append_assoc, ← List.append_assoc, List.append_assoc]
    exact drop_take_append _ _ _ (by simp [length_thirtyTwo, State.length_attMid]) (length_natToBytes _ _)

/-- The request under way: GO reads 1 and the status 0x01 (R79). -/
def State.attBegun : State := { s with lodge := { s.lodge with attGo := true, attStatus := 0x01 } }

theorem exec_attestation (hidle : s.lodge.attGo = false) (hgo : v.getLsbD 63 = true) (hst : s.lodge.st ≠ 6) :
    exec (.attestationRequest v) s = .next s.attBegun.attest := by
  refine congrArg Host.Outcome.next ((if_neg ?_).trans (if_neg hst))
  rw [hidle, natBit_toNat, hgo]
  exact Bool.false_ne_true

theorem exec_attestation_waits (hidle : s.lodge.attGo = false) (hgo : v.getLsbD 63 = true) (hst : s.lodge.st = 6) :
    exec (.attestationRequest v) s = .next s.attBegun := by
  refine congrArg Host.Outcome.next ((if_neg ?_).trans (if_pos hst))
  rw [hidle, natBit_toNat, hgo]
  exact Bool.false_ne_true

theorem attest_misaligned (h : s.lodge.attAddr.toNat % 64 ≠ 0) :
    s.attest = { s with lodge := { s.lodge with attGo := false, attStatus := 0x02 } } := if_pos h

theorem attRecord_free (n : Nat) (h : s.ringBusy 16 = false) : s.attRecord n =
    (s.putRecord 16 (recordBytes s.devNum 0 0x00 (mget s.lodge.attNonce 0 0) (fullBody (natToBytes 4 n)))).attDone := by
  unfold State.attRecord
  dsimp only
  rw [h, Bool.not_false, if_pos rfl]

/-- The report in host memory and its length in the register, before the record (R78). -/
def State.attWritten (b : List Byte) : State :=
  { s with hostMem := s.hostMem.writeBytes s.lodge.attAddr.toNat b, lodge := { s.lodge with attLen := b.length % 2 ^ 16 } }

theorem attest_aligned (hal : s.lodge.attAddr.toNat % 64 = 0) :
    s.attest = (s.attWritten s.attReport).attRecord s.attReport.length := by
  unfold State.attest
  generalize s.attReport = b
  dsimp only
  rw [if_neg (not_not.2 hal)]
  rfl

/-- The state after the record of the report, which stands beside it (R78, R79). -/
def State.attAnswered (b bytes : List Byte) : State := ((s.attWritten b).putRecord 16 bytes).attDone

theorem attAnswered_holds {b bytes : List Byte} (h : bytes.length = 256)
    (hdis : (s.ring 16).base + 256 * ((s.ring 16).prod % ringSize (s.ring 16).sz) + 256 ≤ s.lodge.attAddr.toNat
      ∨ s.lodge.attAddr.toNat + b.length ≤ (s.ring 16).base + 256 * ((s.ring 16).prod % ringSize (s.ring 16).sz)) :
    (s.attAnswered b bytes).hostMem.readBytes s.lodge.attAddr.toNat b.length = b ∧ Recorded s (s.attAnswered b bytes) 16 bytes := by
  refine ⟨?_, recorded_congr ((s.attWritten b).putRecord_recorded 16 h) rfl rfl rfl⟩
  refine (Mem.readBytes_writeBytes_disjoint _ ?_).trans (Mem.readBytes_writeBytes _ _ _)
  rw [h]
  exact hdis

theorem attAnswered_lodge (b bytes : List Byte) : (s.attAnswered b bytes).lodge.attGo = false
    ∧ (s.attAnswered b bytes).lodge.attStatus = 0 ∧ (s.attAnswered b bytes).lodge.attLen = b.length % 2 ^ 16
    ∧ (s.attAnswered b bytes).mem = s.mem ∧ (s.attAnswered b bytes).tasks = s.tasks := ⟨rfl, rfl, rfl, rfl, rfl⟩

theorem attest_answered (hal : s.lodge.attAddr.toNat % 64 = 0) (hring : s.ringBusy 16 = false) : s.attest =
    s.attAnswered s.attReport (recordBytes s.devNum 0 0x00 (mget s.lodge.attNonce 0 0) (fullBody (natToBytes 4 s.attReport.length))) := by
  rw [attest_aligned s hal, attRecord_free (s.attWritten s.attReport) _ hring]
  generalize s.attReport = b
  rfl

end Sys2Proof.Machine

namespace Sys2Proof.Proofs
open Sys2Proof.Machine

/-- Settles O50: each register by what its write does; the report by its parts, and its record by the slot that it takes. -/
theorem lodgeRegistersComplete : Obligations.LodgeRegistersComplete := by
  unfold Obligations.LodgeRegistersComplete
  intro s v
  refine ⟨fun a ha => ?_, ?_, fun hhold htasks hl => exec_epochWrite s v hhold (anyLive_of_expanded s htasks hl),
    exec_epochWrite_live s v, fun h => congrArg Host.Outcome.next (if_pos h), fun h => ?_, fun c hc => ⟨fun hgo hup hver => ?_,
    exec_rollback_not s v⟩, fun hidle hgo => ⟨fun hst hal hring hdis => ?_, fun hst hal => ?_, exec_attestation_waits s v hidle hgo⟩⟩
  · refine ⟨_, exec_balanceWrite s v ha, ?_, fun b hb => mget_mset_ne _ _ _ hb, rfl⟩
    rw [← balance_moved]
    exact mget_mset_self _ _ _ _
  · have hfield : natField v.toNat 0 32 = v.toNat % 2 ^ 32 := by simp [natField]
    rw [← hfield]
    rfl
  · refine ⟨_, exec_ptpWrite s v h, rfl, fun hen => ?_, fun hen hnew => ?_, fun hen hold hsame => ?_, rfl⟩
    · exact congrArg PtpReport.state (if_pos hen)
    · exact (if_neg (ne_false_of_eq_true hen)).trans (if_pos hnew)
    · refine (if_neg (ne_false_of_eq_true hen)).trans (if_neg ?_)
      rintro (h0 | hne)
      · exact ne_false_of_eq_true hold h0
      · exact hne hsame
  · exact ⟨_, exec_rollback s v hc hgo hup hver, mget_mset_self _ _ _ _, fun d hd => mget_mset_ne _ _ _ hd, rfl⟩
  · obtain ⟨hmagic, hnonce, hlodge⟩ := s.attReport_fields
    have hexec := exec_attestation s v hidle hgo hst
    rw [attest_answered s.attBegun hal hring] at hexec
    obtain ⟨hread, hrec⟩ := attAnswered_holds s.attBegun (length_recordBytes s.devNum 0 0x00 (mget s.lodge.attNonce 0 0)
      (fullBody (natToBytes 4 s.attReport.length))) hdis
    exact ⟨_, hexec, hread, hmagic, hnonce, hlodge, hrec, attAnswered_lodge _ _ _⟩
  · rw [exec_attestation s v hidle hgo hst, attest_misaligned s.attBegun hal, ← hidle]
    rfl

end Sys2Proof.Proofs
end

section
/-! SUPPORT. The vanish of a task: what every vanish leaves unchanged, which cells it frees, and what becomes of the task. -/

namespace Sys2Proof.Machine

/-! ### What a vanish leaves unchanged (R162) -/

/-- What no vanish changes: memory and its tags, the ports, the rails, the lodge but for the reports it lost, which rooms are listed and
absent, and the entries of every tag; no cell gains an owner, and identifiers only rise. -/
structure VanishKeeps (s t : State) : Prop where
  devNum : t.devNum = s.devNum
  mem : t.mem = s.mem
  tags : t.tags = s.tags
  ewj : t.ewj = s.ewj
  rails : t.power.rails = s.power.rails
  safe : t.power.safe = s.power.safe
  locked : t.power.locked = s.power.locked
  lodge : ∃ n, t.lodge = { s.lodge with lost := n }
  rooms : (t.rooms.map fun p => (p.1, p.2.absent)) = s.rooms.map fun p => (p.1, p.2.absent)
  owner : ∀ d, (t.cell d).owner = (s.cell d).owner ∨ (t.cell d).owner = none
  nextId : s.clock.nextId ≤ t.clock.nextId
  entries : ∀ tag gen, (t.rtag tag).entry gen = (s.rtag tag).entry gen

/-- A cell after its task has left it (R88). -/
def Cell.freedFrom (i : Nat) (c : Cell) : Cell :=
  let d := if c.owner = some i then c.cleared else c
  { d with shadow := d.shadow.filter fun k => k != i }

theorem Cell.freedFrom_owner (i : Nat) (c : Cell) : (c.freedFrom i).owner = if c.owner = some i then none else c.owner := by
  show (if c.owner = some i then c.cleared else c).owner = _
  split <;> rfl

theorem State.freeCells_cell (s : State) (t : Task) (d : Nat) : (s.freeCells t).cell d = (s.cell d).freedFrom t.id :=
  mget_map (Cell.freedFrom t.id) s.cells d {}

namespace VanishKeeps
variable {s u : State}

theorem refl (s : State) : VanishKeeps s s :=
  ⟨rfl, rfl, rfl, rfl, rfl, rfl, rfl, ⟨_, rfl⟩, rfl, fun _ => .inl rfl, le_rfl, fun _ _ => rfl⟩

theorem trans {t : State} (h : VanishKeeps s u) (h' : VanishKeeps u t) : VanishKeeps s t := by
  obtain ⟨n, hn⟩ := h.lodge
  obtain ⟨m, hm⟩ := h'.lodge
  refine ⟨h'.devNum.trans h.devNum, h'.mem.trans h.mem, h'.tags.trans h.tags, h'.ewj.trans h.ewj, h'.rails.trans h.rails,
    h'.safe.trans h.safe, h'.locked.trans h.locked, ⟨m, by rw [hm, hn]⟩, h'.rooms.trans h.rooms, fun d => ?_, h.nextId.trans h'.nextId,
    fun tag gen => (h'.entries tag gen).trans (h.entries tag gen)⟩
  obtain hd | hd := h'.owner d
  · rw [hd]
    exact h.owner d
  · exact .inr hd

/-- What a vanish may change freely. -/
theorem frame (h : VanishKeeps s u) {agenda cur hostMem ops combos fills tasks launches accts locks ctns handlers intake rings
    notices eth ewjSeq ewjWait served logs sched rd rdBytes} : VanishKeeps s (State.mk u.clock agenda cur u.devNum u.mem u.tags hostMem
      u.cells u.rooms ops combos fills tasks launches u.rtags accts locks ctns handlers intake rings notices eth u.ewj ewjSeq ewjWait
      served u.lodge u.power logs sched rd rdBytes) :=
  ⟨h.devNum, h.mem, h.tags, h.ewj, h.rails, h.safe, h.locked, h.lodge, h.rooms, h.owner, h.nextId, h.entries⟩

theorem foldState {α : Type} {l : List α} {f : α → State → State} (h : VanishKeeps s u)
    (hf : ∀ x v, VanishKeeps s v → VanishKeeps s (f x v)) : VanishKeeps s (foldState l u f) := foldState_keeps (VanishKeeps s) f hf l u h

theorem ite {c : Prop} [Decidable c] {a b : State} (ha : VanishKeeps s a) (hb : VanishKeeps s b) :
    VanishKeeps s (if c then a else b) := by
  split
  · exact ha
  · exact hb

/-- A change of every room that keeps whether it is absent. -/
theorem rooms_mapped (m : AMap Room) (f : Nat × Room → Room) (hf : ∀ p, (f p).absent = p.2.absent) :
    ((m.map fun p => (p.1, f p)).map fun p => (p.1, p.2.absent)) = m.map fun p => (p.1, p.2.absent) := by
  rw [List.map_map]
  exact List.map_congr_left fun p _ => congrArg (Prod.mk p.1) (hf p)

/-- A change of every cell that gives none an owner. -/
theorem mapCells (h : VanishKeeps s u) {f : Cell → Cell} (hf : ∀ c, (f c).owner = c.owner ∨ (f c).owner = none) :
    VanishKeeps s { u with cells := u.cells.map fun p => (p.1, f p.2) } := by
  refine { h with owner := fun d => ?_ }
  have hd := h.owner d
  unfold State.cell mget at hd ⊢
  rw [mfind_map]
  cases hc : mfind u.cells d with
  | none => simp
  | some c =>
    simp only [hc] at hd
    obtain hown | hown := hf c
    · simpa [hown] using hd
    · exact .inr hown

theorem settleTask {t : Task} (h : VanishKeeps s u) : VanishKeeps s (u.settleTask t) := h.frame

theorem allSpads {f : Spad → Spad} (h : VanishKeeps s u) : VanishKeeps s (u.allSpads f) :=
  h.mapCells (f := fun c => { c with spad := f c.spad }) fun _ => .inl rfl

theorem freeCells {t : Task} (h : VanishKeeps s u) : VanishKeeps s (u.freeCells t) := by
  refine h.mapCells (f := Cell.freedFrom t.id) fun c => ?_
  rw [Cell.freedFrom_owner]
  split
  · exact .inr rfl
  · exact .inl rfl

theorem dropOps {i : Nat} (h : VanishKeeps s u) : VanishKeeps s (u.dropOps i) :=
  { h with rooms := h.rooms ▸ rooms_mapped _ _ fun _ => rfl }

theorem fresh (h : VanishKeeps s u) : VanishKeeps s u.fresh.2 := { h with nextId := h.nextId.trans (Nat.le_succ _) }

theorem inject {i : Nat} (h : VanishKeeps s u) : VanishKeeps s (u.inject i) := h.fresh.frame

theorem injectAll {is : List Nat} (h : VanishKeeps s u) : VanishKeeps s (u.injectAll is) := h.foldState fun _ _ hv => hv.inject

theorem grantSet {ctn set task : Nat} (h : VanishKeeps s u) : VanishKeeps s (u.grantSet ctn set task) :=
  injectAll { h with rooms := h.rooms ▸ rooms_mapped _ _ fun _ => rfl }

theorem releaseSet {k : Nat × Nat} (h : VanishKeeps s u) : VanishKeeps s (u.releaseSet k) := by
  unfold State.releaseSet
  split
  · exact h
  · split
    · exact h.grantSet
    · exact h.frame

theorem releaseSets {t : Task} (h : VanishKeeps s u) : VanishKeeps s (u.releaseSets t) := h.frame.foldState fun _ _ hv => hv.releaseSet

theorem wakeWhere {p : Nat → Nat → Nat → Bool} (h : VanishKeeps s u) : VanishKeeps s (u.wakeWhere p) :=
  { h with rooms := h.rooms ▸ rooms_mapped _ _ fun _ => rfl }

theorem wakeParks (h : VanishKeeps s u) : VanishKeeps s u.wakeParks := h.wakeWhere

theorem rollTask {t : Task} (h : VanishKeeps s u) : VanishKeeps s (u.rollTask t) := by
  unfold State.rollTask
  exact wakeParks (releaseSets (.ite h.settleTask.allSpads.dropOps.freeCells.frame h.settleTask.allSpads.dropOps.freeCells))

/-- A change of a route tag that keeps its entries. -/
theorem updRtag {tag : Nat} {f : RouteTag → RouteTag} (h : VanishKeeps s u) (hf : ∀ r gen, (f r).entry gen = r.entry gen) :
    VanishKeeps s (u.updRtag tag f) := by
  refine { h with entries := fun k gen => ?_ }
  rw [State.rtag_updRtag, ← h.entries k gen]
  split
  next hk => rw [hk, hf]
  next => rfl

theorem touchWm {tag : Nat} (h : VanishKeeps s u) : VanishKeeps s (u.touchWm tag) :=
  frame (u := u.updRtag tag fun r => { r with wm := u.nextWm tag }) (h.updRtag fun _ _ => rfl)

theorem openGate {tag : Nat} (h : VanishKeeps s u) : VanishKeeps s (u.openGate tag) := by
  refine { h with entries := fun k gen => ?_ }
  show (mget (mset u.rtags tag _) k {}).entry gen = _
  rw [mget_mset, ← h.entries k gen]
  split
  next hk =>
    rw [hk]
    rfl
  next => rfl

theorem emitRecord {n tag : Nat} {notice : Bool} {bytes : List Byte} (h : VanishKeeps s u) :
    VanishKeeps s (u.emitRecord n tag notice bytes) := by
  obtain ⟨m, hm⟩ := h.lodge
  exact .ite h.frame (.ite h.frame { h with lodge := ⟨min (u.lodge.lost + 1) 0xFFFF, by rw [hm]⟩ })

theorem report {tag status : Nat} {pid : BitVec 64} {body : List Byte} (h : VanishKeeps s u) :
    VanishKeeps s (u.report tag status pid body) := h.emitRecord

theorem freeSlot {slot : Option (Nat × Nat)} (h : VanishKeeps s u) : VanishKeeps s (u.freeSlot slot) := by
  cases slot with
  | none => exact h
  | some p => exact h.frame

theorem releaseTicket {tag : Nat} {ticket : Option Nat} (h : VanishKeeps s u) : VanishKeeps s (u.releaseTicket tag ticket) := by
  cases ticket with
  | none => exact h
  | some k => exact openGate (h.updRtag fun _ _ => rfl)

theorem launchRecord {l : Launch} (h : VanishKeeps s u) : VanishKeeps s (u.launchRecord l) :=
  .ite h (.ite h.frame (.ite h.frame.emitRecord h))

theorem launchEnd {id n k : Nat} {status : Option Nat} (h : VanishKeeps s u) : VanishKeeps s (u.launchEnd id n k status) := by
  unfold State.launchEnd
  dsimp only
  split
  · exact .ite h.frame h.frame.frame.launchRecord
  · exact h.frame

theorem endTask {t : Task} {status : Option Nat} (h : VanishKeeps s u) : VanishKeeps s (u.endTask t status) := by
  have hslot : VanishKeeps s ((u.delTask t.id).freeSlot t.frameSlot) := h.frame.freeSlot
  unfold State.endTask
  refine touchWm ?_
  split
  · refine launchEnd ?_
    split
    · exact hslot.releaseTicket
    · exact hslot
  · split
    · exact hslot.releaseTicket
    · exact hslot

theorem vanish1 {t : Task} {c : Cause} {noRestart : Bool} {short : Nat} (h : VanishKeeps s u) :
    VanishKeeps s (u.vanish1 t c noRestart short) :=
  .ite h.rollTask.fresh.frame.touchWm h.rollTask.report.endTask

theorem logFrame {t : Task} (h : VanishKeeps s u) : VanishKeeps s (u.logFrame t) := by
  unfold State.logFrame State.appendLog
  refine .ite h ?_
  dsimp only
  split
  · exact h.frame
  · exact h.frame

theorem awaitFrame {t : Task} {action : Nat} (h : VanishKeeps s u) : VanishKeeps s (u.awaitFrame t action) :=
  ⟨h.devNum, h.mem, h.tags, h.ewj, h.rails, h.safe, h.locked, h.lodge, h.rooms, h.owner, h.nextId, h.entries⟩

theorem vanishN {fuel id : Nat} {c : Cause} {noRestart : Bool} {short : Nat} (h : VanishKeeps s u) :
    VanishKeeps s (u.vanishN fuel id c noRestart short) := by
  induction fuel generalizing u id c noRestart short with
  | zero => exact h
  | succ fuel ih =>
    unfold State.vanishN
    split
    · exact h
    · refine .ite h (.ite h.vanish1 ?_)
      split
      · exact h.vanish1
      · split
        · exact .ite h.vanish1 (.ite h.vanish1.awaitFrame (ih h.vanish1.logFrame))
        · exact h.vanish1

theorem vanish {id : Nat} {c : Cause} (h : VanishKeeps s u) : VanishKeeps s (u.vanish id c) := h.vanishN

theorem vanishCells {cs : List Nat} {c : Cause} (h : VanishKeeps s u) : VanishKeeps s (u.vanishCells cs c) := by
  refine h.foldState fun x v hv => ?_
  split
  · exact hv.vanish
  · exact hv

end VanishKeeps

end Sys2Proof.Machine
end

section
namespace Sys2Proof.Machine

/-! ### Which cells a vanish frees (R162) -/

theorem VanishKeeps.owner_none {s t : State} (h : VanishKeeps s t) {d : Nat} (hd : (s.cell d).owner = none) : (t.cell d).owner = none := by
  obtain hown | hown := h.owner d
  · exact hown.trans hd
  · exact hown

/-- A cell that its task still owns, or that has been freed. -/
theorem VanishKeeps.owner_some {s t : State} (h : VanishKeeps s t) {d i : Nat} (hd : (s.cell d).owner = some i) :
    (t.cell d).owner = some i ∨ (t.cell d).owner = none := by
  rw [← hd]
  exact h.owner d

theorem freeCells_owner (s : State) (t : Task) {d : Nat} (h : (s.cell d).owner = some t.id) :
    ((s.freeCells t).cell d).owner = none := by
  rw [State.freeCells_cell, Cell.freedFrom_owner, if_pos h]

variable (s : State) (t : Task)

theorem rollTask_owner {d : Nat} (h : (s.cell d).owner = some t.id) : ((s.rollTask t).cell d).owner = none := by
  have hlast : ∀ u, VanishKeeps u (if t.halted || (s.logs.haltSt == 2 && t.holds s.logs.haltCell) then
      { u with logs := { u.logs with haltSt := 3 } } else u) := fun u => .ite (VanishKeeps.refl u).frame (.refl u)
  have hfirst := (VanishKeeps.refl s).settleTask (t := t) |>.allSpads (f := fun p => p.rollback t.id) |>.dropOps (i := t.id)
  obtain hd | hd := hfirst.owner_some h
  · exact ((hlast _).releaseSets.wakeParks).owner_none (freeCells_owner _ t hd)
  · exact ((VanishKeeps.refl _).freeCells.trans (hlast _)).releaseSets.wakeParks.owner_none hd

theorem vanish1_owner (c : Cause) (noRestart : Bool) (short : Nat) {d : Nat} (h : (s.cell d).owner = some t.id) :
    ((s.vanish1 t c noRestart short).cell d).owner = none := by
  have hroll := rollTask_owner s t h
  have hrest : VanishKeeps (s.rollTask t) (s.vanish1 t c noRestart short) :=
    .ite (VanishKeeps.refl _).fresh.frame.touchWm (VanishKeeps.refl _).report.endTask
  exact hrest.owner_none hroll

/-! ### The task that vanishes, and those that stand -/

/-- A running task of an identifier that answers for no other task. -/
def State.Stands (i : Nat) (s : State) : Prop := ∃ k, s.task? i = some k ∧ k.st = .running ∧ k.trapOf = none

namespace State.Stands
variable {i : Nat} {s : State}

/-- A change of the tasks that keeps what makes one stand. -/
theorem map (h : s.Stands i) {g : Task → Task} (hid : ∀ k, (g k).id = k.id) (hst : ∀ k, k.st = .running → (g k).st = .running)
    (htrap : ∀ k, (g k).trapOf = k.trapOf) : ({ s with tasks := s.tasks.map g } : State).Stands i := by
  obtain ⟨k, hk, hrun, hown⟩ := h
  refine ⟨g k, ?_, hst k hrun, (htrap k).trans hown⟩
  unfold State.task? at hk ⊢
  simp only [List.find?_map, Function.comp_def, hid, hk, Option.map_some]

/-- The removal of another task. -/
theorem filter (h : s.Stands i) {j : Nat} (hj : j ≠ i) :
    ({ s with tasks := s.tasks.filter fun k => k.id != j } : State).Stands i := by
  obtain ⟨k, hk, hrest⟩ := h
  refine ⟨k, ?_, hrest⟩
  unfold State.task? at hk ⊢
  rw [List.find?_filter, ← hk]
  congr 1
  funext a
  by_cases ha : a.id = i
  · simp [ha, hj.symm]
  · simp [ha]

theorem append (h : s.Stands i) (ts : List Task) : ({ s with tasks := s.tasks ++ ts } : State).Stands i := by
  obtain ⟨k, hk, hrest⟩ := h
  refine ⟨k, ?_, hrest⟩
  unfold State.task? at hk ⊢
  rw [List.find?_append, hk]
  rfl

theorem foldState {α : Type} {l : List α} {f : α → State → State} (h : s.Stands i) (hf : ∀ x v, v.Stands i → (f x v).Stands i) :
    (foldState l s f).Stands i := foldState_keeps (State.Stands i) f hf l s h

theorem ite {c : Prop} [Decidable c] {a b : State} (ha : a.Stands i) (hb : b.Stands i) : (if c then a else b).Stands i := by
  split
  · exact ha
  · exact hb

theorem grantSet {ctn set task : Nat} (h : s.Stands i) : (s.grantSet ctn set task).Stands i := by
  refine foldState ?_ fun _ _ hv => hv
  refine map h (fun k => ?_) (fun k hk => ?_) fun k => ?_
  all_goals split
  · rfl
  · rfl
  · exact hk
  · exact hk
  · rfl
  · rfl

theorem releaseSets {t : Task} (h : s.Stands i) : (s.releaseSets t).Stands i := by
  refine foldState h fun k v hv => ?_
  unfold State.releaseSet
  split
  · exact hv
  · split
    · exact hv.grantSet
    · exact hv

theorem wakeParks (h : s.Stands i) : s.wakeParks.Stands i := by
  refine map h (fun k => ?_) (fun k hk => ?_) fun k => ?_
  all_goals split
  · rfl
  · rfl
  · exact hk
  · exact hk
  · rfl
  · rfl

theorem rollTask {t : Task} (h : s.Stands i) : (s.rollTask t).Stands i := wakeParks (releaseSets (ite h h))

theorem emitRecord {n tag : Nat} {notice : Bool} {bytes : List Byte} (h : s.Stands i) : (s.emitRecord n tag notice bytes).Stands i :=
  ite h (ite h h)

theorem freeSlot {slot : Option (Nat × Nat)} (h : s.Stands i) : (s.freeSlot slot).Stands i := by
  cases slot with
  | none => exact h
  | some p => exact h

theorem releaseTicket {tag : Nat} {ticket : Option Nat} (h : s.Stands i) : (s.releaseTicket tag ticket).Stands i := by
  cases ticket with
  | none => exact h
  | some n =>
    refine map h (fun k => ?_) (fun k hk => ?_) fun k => ?_
    all_goals split
    · rfl
    · rfl
    next hgate => exact absurd (hk.symm.trans hgate.2.1) (by decide)
    · exact hk
    · rfl
    · rfl

theorem launchEnd {id n k : Nat} {status : Option Nat} (h : s.Stands i) : (s.launchEnd id n k status).Stands i := by
  unfold State.launchEnd
  dsimp only
  split
  · exact ite h (ite h (ite h (ite (emitRecord h) h)))
  · exact h

theorem endTask {t : Task} {status : Option Nat} (h : s.Stands i) (ht : t.id ≠ i) : (s.endTask t status).Stands i := by
  have hslot : ((s.delTask t.id).freeSlot t.frameSlot).Stands i := freeSlot (filter h ht)
  unfold State.endTask
  dsimp only
  split
  · refine launchEnd (s := ?_) ?_
    split
    · exact hslot.releaseTicket
    · exact hslot
  · split
    · exact hslot.releaseTicket
    · exact hslot

theorem vanish1 {t : Task} {c : Cause} {noRestart : Bool} {short : Nat} (h : s.Stands i) (ht : t.id ≠ i) :
    (s.vanish1 t c noRestart short).Stands i :=
  ite (append (filter h.rollTask ht) _) (endTask h.rollTask.emitRecord ht)

end State.Stands

end Sys2Proof.Machine
end

section
namespace Sys2Proof.Machine

/-! ### What becomes of a running task under the vanishes of others -/

/-- Task i stands, or the cells that it owned are free. -/
def State.Fate (i : Nat) (s t : State) : Prop := t.Stands i ∨ ∀ d, (s.cell d).owner = some i → (t.cell d).owner = none

section
variable {i : Nat} {s u t : State}

theorem State.Fate.trans (h : s.Fate i u) (hu : VanishKeeps s u) (h' : u.Stands i → u.Fate i t) (ht : VanishKeeps u t) : s.Fate i t := by
  obtain h | h := h
  · obtain h | h' := h' h
    · exact .inl h
    · refine .inr fun d hd => ?_
      obtain hown | hown := hu.owner_some hd
      · exact h' d hown
      · exact ht.owner_none hown
  · exact .inr fun d hd => ht.owner_none (h d hd)

theorem State.task?_id {k : Task} (h : s.task? i = some k) : k.id = i := by
  have hk := List.find?_some h
  simpa using hk

theorem vanish1_fate {k : Task} {c : Cause} {noRestart : Bool} {short : Nat} (h : s.Stands i) :
    s.Fate i (s.vanish1 k c noRestart short) := by
  by_cases hk : k.id = i
  · subst hk
    exact .inr fun _ => vanish1_owner s k c noRestart short
  · exact .inl (h.vanish1 hk)

theorem awaitFrame_stands {k : Task} {action : Nat} (h : s.Stands i) : (s.awaitFrame k action).Stands i := by
  refine State.Stands.map (s := s) h (fun j => ?_) (fun j hj => ?_) fun j => ?_
  all_goals split
  · rfl
  · rfl
  · exact hj
  · exact hj
  · rfl
  · rfl

theorem logFrame_stands {k : Task} (h : s.Stands i) : (s.logFrame k).Stands i := by
  unfold State.logFrame State.appendLog
  refine .ite h ?_
  dsimp only
  split
  · exact h
  · exact h

theorem vanishN_fate {fuel id : Nat} {c : Cause} {noRestart : Bool} {short : Nat} (h : s.Stands i) :
    s.Fate i (s.vanishN fuel id c noRestart short) := by
  induction fuel generalizing s id c noRestart short with
  | zero => exact .inl h
  | succ fuel ih =>
    unfold State.vanishN
    split
    · exact .inl h
    next k hk =>
      have hone : s.Fate i (s.vanish1 k c noRestart short) := vanish1_fate h
      have hkeeps : VanishKeeps s (s.vanish1 k c noRestart short) := (VanishKeeps.refl s).vanish1
      dsimp only
      split
      · exact .inl h
      · split
        · exact hone
        · split
          · exact hone
          · split
            · split
              · exact hone
              · split
                · exact hone.trans hkeeps (fun hs => .inl (awaitFrame_stands hs)) (VanishKeeps.refl _).awaitFrame
                · refine hone.trans hkeeps (fun hs => ?_) (VanishKeeps.refl _).logFrame.vanishN
                  exact State.Fate.trans (.inl (logFrame_stands hs)) (VanishKeeps.refl _).logFrame ih (VanishKeeps.refl _).vanishN
            · exact hone

/-- A task that stands vanishes alone. -/
theorem vanish_eq {k : Task} {c : Cause} (hk : s.task? i = some k) (hrun : k.st = .running) (htrap : k.trapOf = none) :
    s.vanish i c = s.vanish1 k c false 0 := by
  unfold State.vanish State.vanishN
  rw [hk]
  dsimp only
  rw [hrun, if_neg (by decide), htrap]
  split
  · rfl
  · rfl

theorem vanish_fate {j : Nat} {c : Cause} (h : s.Stands i) : s.Fate i (s.vanish j c) := vanishN_fate h

theorem vanish_frees {c : Cause} (h : s.Stands i) {d : Nat} (hd : (s.cell d).owner = some i) :
    ((s.vanish i c).cell d).owner = none := by
  obtain ⟨k, hk, hrun, htrap⟩ := h
  rw [vanish_eq hk hrun htrap]
  exact vanish1_owner s k c false 0 (by rw [hd, State.task?_id hk])

/-- Some tasks vanish one after another, task i among them. -/
theorem vanishAll_frees {is : List Nat} {c : Cause} (h : s.Stands i) (hi : i ∈ is) {d : Nat} (hd : (s.cell d).owner = some i) :
    ((foldState is s fun j st => st.vanish j c).cell d).owner = none := by
  have hrest : ∀ (js : List Nat) (v : State), VanishKeeps v (foldState js v fun j st => st.vanish j c) := fun js v =>
    (VanishKeeps.refl v).foldState fun _ _ hv => hv.vanish
  induction is generalizing s with
  | nil => cases hi
  | cons j js ih =>
    by_cases hj : j = i
    · subst hj
      exact (hrest js _).owner_none (vanish_frees h hd)
    · have hin : i ∈ js := by
        obtain hi | hi := List.mem_cons.1 hi
        · exact absurd hi.symm hj
        · exact hi
      obtain hown | hown := ((VanishKeeps.refl s).vanish (id := j) (c := c)).owner_some hd
      · obtain hs | hs := vanish_fate (j := j) (c := c) h
        · exact ih hs hin hown
        · exact (hrest js _).owner_none (hs d hd)
      · exact (hrest js _).owner_none hown

/-! ### The task that has vanished (R101) -/

variable {k : Task} {c : Cause}

theorem emitRecord_tasks (n tag : Nat) (notice : Bool) (bytes : List Byte) : (s.emitRecord n tag notice bytes).tasks = s.tasks := by
  unfold State.emitRecord
  split
  · rfl
  · split
    · rfl
    · rfl

theorem freeSlot_tasks (slot : Option (Nat × Nat)) : (s.freeSlot slot).tasks = s.tasks := by
  cases slot with
  | none => rfl
  | some p => rfl

theorem ite_tasks {c : Prop} [Decidable c] {a b : State} {ts : List Task} (ha : a.tasks = ts) (hb : b.tasks = ts) :
    (if c then a else b).tasks = ts := by
  split
  · exact ha
  · exact hb

theorem launchRecord_tasks (l : Launch) : (s.launchRecord l).tasks = s.tasks :=
  ite_tasks rfl (ite_tasks rfl (ite_tasks (emitRecord_tasks _ _ _ _) rfl))

theorem launchEnd_tasks (id n j : Nat) (status : Option Nat) : (s.launchEnd id n j status).tasks = s.tasks := by
  unfold State.launchEnd
  dsimp only
  split
  · exact ite_tasks rfl (launchRecord_tasks _)
  · rfl

theorem releaseTicket_noTask {i tag : Nat} {ticket : Option Nat} (h : ∀ u ∈ s.tasks, u.id ≠ i) :
    ∀ u ∈ (s.releaseTicket tag ticket).tasks, u.id ≠ i := by
  cases ticket with
  | none => exact h
  | some n =>
    intro u hu
    obtain ⟨x, hx, rfl⟩ := List.mem_map.1 hu
    split
    · exact h x hx
    · exact h x hx

theorem endTask_noTask (status : Option Nat) : ∀ u ∈ (s.endTask k status).tasks, u.id ≠ k.id := by
  have hdel : ∀ u ∈ ((s.delTask k.id).freeSlot k.frameSlot).tasks, u.id ≠ k.id := by
    rw [freeSlot_tasks]
    intro u hu
    simpa using (List.mem_filter.1 hu).2
  have hticket : ∀ u ∈ (((s.delTask k.id).freeSlot k.frameSlot).releaseTicket k.tag k.ticket).tasks, u.id ≠ k.id :=
    releaseTicket_noTask hdel
  unfold State.endTask
  intro u hu
  change u ∈ State.tasks _ at hu
  cases status with
  | none => cases hl : k.launch with
    | none => simp only [hl] at hu; exact hdel u hu
    | some l => simp only [hl] at hu; exact hdel u ((launchEnd_tasks _ _ _ _) ▸ hu)
  | some st => cases hl : k.launch with
    | none => simp only [hl] at hu; exact hticket u hu
    | some l => simp only [hl] at hu; exact hticket u ((launchEnd_tasks _ _ _ _) ▸ hu)

theorem vanish1_vanished : Vanished s (s.vanish1 k c false 0) k c := by
  have hkeeps : VanishKeeps s (s.vanish1 k c false 0) := (VanishKeeps.refl s).vanish1
  refine ⟨hkeeps.mem, hkeeps.tags, fun d => vanish1_owner s k c false 0, ?_⟩
  unfold State.vanish1
  rw [Bool.not_false, Bool.and_true]
  by_cases hm : s.mayRestart k c = true
  · rw [if_pos hm, if_pos hm]
    exact ⟨(s.rollTask k).clock.nextId, ((VanishKeeps.refl s).rollTask).nextId, List.mem_append_right _ (List.mem_singleton_self _)⟩
  · rw [if_neg hm, if_neg hm]
    exact endTask_noTask _

end

end Sys2Proof.Machine
end

section
/-! SUPPORT. Uncorrectable errors at their sites, the SRAM rail below 750 mV, and self-tests. -/

namespace Sys2Proof.Machine

section
variable {s : State} {k : Task} {c : Nat}

theorem owner?_eq_some (h : s.owner? c = some k) : (s.cell c).owner = some k.id ∧ s.task? k.id = some k := by
  obtain ⟨i, hi, hk⟩ := Option.bind_eq_some_iff.1 h
  rw [State.task?_id hk]
  exact ⟨hi, hk⟩

variable (hown : s.owner? c = some k) (hrun : k.st = .running) (htrap : k.trapOf = none)

section
include hown hrun htrap

/-- A cell whose task stands: that task vanishes alone (R162). -/
theorem vanishCells_one (cause : Cause) : s.vanishCells [c] cause = s.vanish1 k cause false 0 := by
  have hcell : s.vanishCells [c] cause = s.vanish k.id cause := by
    unfold State.vanishCells foldState
    simp only [List.foldl_cons, List.foldl_nil, hown]
  rw [hcell, vanish_eq (owner?_eq_some hown).2 hrun htrap]

theorem vanishCells_vanished (cause : Cause) : Vanished s (s.vanishCells [c] cause) k cause := by
  rw [vanishCells_one hown hrun htrap]
  exact vanish1_vanished

theorem vanishCells_frees (cs : List Nat) (cause : Cause) {d : Nat} (hd : (s.cell d).owner = some k.id) :
    ((s.vanishCells (c :: cs) cause).cell d).owner = none := by
  have hfirst : s.vanishCells (c :: cs) cause = (s.vanish1 k cause false 0).vanishCells cs cause := by
    rw [← vanishCells_one hown hrun htrap cause]
    rfl
  rw [hfirst]
  exact (VanishKeeps.refl _).vanishCells.owner_none (vanish1_owner s k cause false 0 hd)

end
end

section
variable (s : State)

/-! ### Where the SRAM rail stands (R43) -/

theorem lowSram_true (h : (s.rail 2).volt < 750) : s.lowSram = true := decide_eq_true h

theorem lowSram_false (h : 750 ≤ (s.rail 2).volt) : s.lowSram = false := decide_eq_false (not_lt.2 h)

theorem exec_ue_low (site : UeSite) (hlow : (s.rail 2).volt < 750) (hsram : s.ueSram site = true) :
    exec (.ueDetect site) s = .next (s.ueLow site) ∧ exec (.ueUndervolt site) s = .next (s.ueLow site) := by
  have hboth : (s.lowSram && s.ueSram site) = true := by rw [lowSram_true s hlow, hsram]; rfl
  exact ⟨congrArg Host.Outcome.next (if_pos hboth), congrArg Host.Outcome.next (if_pos hboth)⟩

theorem exec_ue_high (site : UeSite) (h : s.ueSram site = true → 750 ≤ (s.rail 2).volt) :
    exec (.ueDetect site) s = .next (s.ueAt site .ue false) ∧ exec (.ueUndervolt site) s = .next s := by
  have hnot : ¬ (s.lowSram && s.ueSram site) = true := by
    cases hs : s.ueSram site with
    | false => simp
    | true => simp [lowSram_false s (h hs)]
  exact ⟨congrArg Host.Outcome.next (if_neg hnot), congrArg Host.Outcome.next (if_neg hnot)⟩

theorem rollback_rail : ((s.updPower Power.rollback).rail 2) = (s.rail 2).rolledBack s.power.safe := mget_mset_self _ _ _ _

theorem rolledBack_refuses {r : Rail} {safe : Nat} {p : Nat × Nat} (hp : r.pending = some p) (hlow : p.1 < 750) :
    (r.rolledBack safe).pending = none ∧ (r.rolledBack safe).status = 0x02 := by
  have hkeep : keepAbove r.pending = none := by
    rw [hp]
    exact if_pos hlow
  refine ⟨hkeep, if_neg ?_⟩
  rw [hkeep, hp]
  exact nofun

/-! ### Tests that come due and pages that are retired (R272) -/

theorem testDue_pending (c : Nat) : c ∈ (s.testDue c).lodge.pendingTests := by
  have hp : (s.testDue c).lodge.pendingTests = if s.lodge.pendingTests.contains c then s.lodge.pendingTests
    else s.lodge.pendingTests ++ [c] := rfl
  rw [hp]
  split
  next h => exact List.contains_iff_mem.1 h
  next => exact List.mem_append_right _ (List.mem_singleton_self c)

theorem testDue_errLog (c : Nat) (h : s.lodge.st ≠ 6) : (s.testDue c).lodge.errLog = s.lodge.errLog ++ [(c, 2)] := by
  have hl : (s.testDue c).lodge.errLog = (s.logError c 2).lodge.errLog := rfl
  rw [hl]
  unfold State.logError
  dsimp only
  rw [if_neg h]

theorem logError_frame (pa kind : Nat) : (s.logError pa kind).lodge.retired = s.lodge.retired := by
  unfold State.logError
  dsimp only
  split
  · rfl
  · rfl

theorem retirePage_retired (pa : Nat) : pa / 65536 * 65536 ∈ (s.retirePage pa).lodge.retired := by
  unfold State.retirePage
  dsimp only
  split
  next h => exact List.contains_iff_mem.1 h
  next => exact List.mem_append_right _ (List.mem_singleton_self _)

/-- A page once retired stays so. -/
theorem retirePage_mono (pa : Nat) {q : Nat} (h : q ∈ s.lodge.retired) : q ∈ (s.retirePage pa).lodge.retired := by
  unfold State.retirePage
  dsimp only
  split
  · exact h
  · exact List.mem_append_left _ h

theorem retirePage_mem (pa : Nat) : (s.retirePage pa).mem = s.mem ∧ (s.retirePage pa).tags = s.tags ∧ (s.retirePage pa).ewj = s.ewj
    ∧ (s.retirePage pa).rooms = s.rooms ∧ (s.retirePage pa).cells = s.cells := by
  unfold State.retirePage
  dsimp only
  split
  · exact ⟨rfl, rfl, rfl, rfl, rfl⟩
  · exact ⟨rfl, rfl, rfl, rfl, rfl⟩

/-! ### Poisoned blocks (R220, R272) -/

/-- The tag of a poisoned block. -/
theorem poisoned_tag (t : BitVec 16) : tagPoison (BitVec.ofNat 16 (tagFmt t + 256 * 0x80)) = true
    ∧ tagFmt (BitVec.ofNat 16 (tagFmt t + 256 * 0x80)) = tagFmt t := by
  have hf : tagFmt t < 256 := natField_lt _ 0 8
  have hn : (BitVec.ofNat 16 (tagFmt t + 256 * 0x80)).toNat = tagFmt t + 32768 := by
    rw [BitVec.toNat_ofNat, Nat.mod_eq_of_lt (by omega)]
  constructor
  · unfold tagPoison natField
    rw [hn, beq_iff_eq]
    omega
  · have hfmt : tagFmt (BitVec.ofNat 16 (tagFmt t + 256 * 0x80)) = natField (tagFmt t + 32768) 0 8 :=
      congrArg (natField · 0 8) hn
    rw [hfmt]
    unfold natField
    omega

theorem poisonBlock_tags (pa : Nat) (h : s.level pa ≠ .host) :
    (s.poisonBlock pa).tags = mput s.tags (pa / 64) (BitVec.ofNat 16 (tagFmt (s.physTag pa) + 256 * 0x80)) 0 := by
  unfold State.poisonBlock State.putTag
  rw [if_neg h]

theorem poisonBlock_frame (pa : Nat) : (s.poisonBlock pa).mem = s.mem ∧ (s.poisonBlock pa).cells = s.cells
    ∧ (s.poisonBlock pa).lodge = s.lodge := by
  unfold State.poisonBlock State.putTag
  split
  · exact ⟨rfl, rfl, rfl⟩
  · exact ⟨rfl, rfl, rfl⟩

/-- What a lasting error at a home leaves (R272, R273). -/
theorem homeLost (pa : Nat) (h : s.level pa ≠ .host) : ∃ t, (((s.poisonBlock pa).logError pa 0).retirePage pa) = t
    ∧ t.mem = s.mem ∧ tagPoison (t.physTag pa) = true ∧ tagFmt (t.physTag pa) = tagFmt (s.physTag pa)
    ∧ (∀ b, b / 64 ≠ pa / 64 → t.physTag b = s.physTag b) ∧ pa / 65536 * 65536 ∈ t.lodge.retired ∧ t.cells = s.cells := by
  obtain ⟨hmem, htags, -, -, hcells⟩ := retirePage_mem ((s.poisonBlock pa).logError pa 0) pa
  obtain ⟨hpmem, hpcells, -⟩ := poisonBlock_frame s pa
  have htag : ∀ b, ((((s.poisonBlock pa).logError pa 0).retirePage pa)).physTag b = if b / 64 = pa / 64 then
      BitVec.ofNat 16 (tagFmt (s.physTag pa) + 256 * 0x80) else s.physTag b := fun b => by
    unfold State.physTag
    rw [htags]
    show mget (s.poisonBlock pa).tags (b / 64) 0 = _
    rw [poisonBlock_tags s pa h, mget_mput]
    rfl
  obtain ⟨hpoison, hfmt⟩ := poisoned_tag (s.physTag pa)
  refine ⟨_, rfl, hmem.trans hpmem, ?_, ?_, fun b hb => ?_, retirePage_retired _ _, hcells.trans hpcells⟩
  · rw [htag, if_pos rfl, hpoison]
  · rw [htag, if_pos rfl, hfmt]
  · rw [htag, if_neg hb]

/-! ### The sites at 750 mV and above (R272, R273) -/

theorem ueAt_spad (c m blk : Nat) (lasting : Bool) :
    s.ueAt (.spad c m blk lasting) .ue false = (s.testDue m).vanishCells [c, m] .ue := by
  cases lasting with
  | false => rfl
  | true => rfl

theorem ueAt_home_read (c : Nat) {pa : Nat} (h : s.readersOf pa = []) :
    s.ueAt (.home c pa false) .ue false = (s.vanishCells [c] .ue).logError pa 3 := by
  rw [← h]
  rfl

theorem ueAt_home_lasting (c : Nat) {pa : Nat} (h : s.readersOf pa = []) :
    s.ueAt (.home c pa true) .ue false = (((s.vanishCells [c] .ue).poisonBlock pa).logError pa 0).retirePage pa := by
  rw [← h]
  rfl

/-! ### The sites below 750 mV (R43) -/

/-- The state in which a site below 750 mV is met: the rail is back at its safe point, and a lasting error brings a test. -/
def State.ueBase (c : Nat) (lasting : Bool) : State :=
  if lasting then (s.updPower Power.rollback).testDue c else s.updPower Power.rollback

theorem ueBase_rail (c : Nat) (lasting : Bool) : (s.ueBase c lasting).rail 2 = (s.rail 2).rolledBack s.power.safe
    ∧ (s.ueBase c lasting).power.locked = true ∧ (s.ueBase c lasting).mem = s.mem ∧ (s.ueBase c lasting).cells = s.cells
    ∧ (s.ueBase c lasting).tasks = s.tasks := by
  cases lasting with
  | false => exact ⟨rollback_rail s, rfl, rfl, rfl, rfl⟩
  | true => exact ⟨rollback_rail s, rfl, rfl, rfl, rfl⟩

theorem ueLow_cell (c : Nat) (sram lasting : Bool) :
    s.ueLow (.cell c sram lasting) = (s.ueBase c lasting).vanishCells [c] .ueUndervolt := by
  cases lasting with
  | false => rfl
  | true => rfl

theorem VanishKeeps.rail_eq {s t : State} (h : VanishKeeps s t) (i : Nat) : t.rail i = s.rail i := by
  unfold State.rail
  rw [h.rails]

theorem VanishKeeps.updSpad {s u : State} (h : VanishKeeps s u) (m : Nat) (f : Spad → Spad) :
    VanishKeeps s (u.updCell m fun cl => { cl with spad := f cl.spad }) := by
  refine { h with owner := fun d => ?_ }
  rw [State.cell_updCell]
  split
  next hd =>
    rw [hd]
    exact h.owner m
  next => exact h.owner d

/-- A scratchpad's error below 750 mV: a lasting one poisons its block after the vanishes. -/
theorem ueLow_spad (c m blk : Nat) (lasting : Bool) :
    VanishKeeps ((s.ueBase m lasting).vanishCells [c, m] .ueUndervolt) (s.ueLow (.spad c m blk lasting)) := by
  cases lasting with
  | false => exact .refl _
  | true => exact (VanishKeeps.refl _).updSpad m fun p =>
      { p with tags := mset p.tags blk (BitVec.ofNat 16 (tagFmt (mget p.tags blk 0) + 256 * 0x80)) }

/-! ### Self-tests and rooms that are disabled (R102, R272) -/

/-- A test of a cell that was due has run. -/
def State.testDone (d : Nat) : State :=
  { s with lodge := { s.lodge with pendingTests := s.lodge.pendingTests.filter fun c => c != d } }

theorem testDone_pending (d : Nat) : d ∉ (s.testDone d).lodge.pendingTests := by
  simp [State.testDone]

theorem exec_selfTest_passes {d : Nat} (hd : d ∈ s.lodge.pendingTests) : exec (.lodgeSelfTest d true) s = .next (s.testDone d) :=
  congrArg Host.Outcome.next (if_pos (List.contains_iff_mem.2 hd))

theorem exec_selfTest_fails {d : Nat} (hd : d ∈ s.lodge.pendingTests) :
    exec (.lodgeSelfTest d false) s = .next ((s.testDone d).disableRoom (roomOf d)) :=
  congrArg Host.Outcome.next (if_pos (List.contains_iff_mem.2 hd))

/-- The tasks of a room that its disabling vanishes (R102). -/
def State.roomTasks (r : Nat) : List Nat :=
  (s.tasks.filter fun t => t.room == r && (t.st == .staged || t.st == .running || t.st == .gated || t.st == .parked)).map (·.id)

/-- The room is absent before its tasks vanish (R102). -/
def State.roomAbsent (r : Nat) : State :=
  if (s.room r).absent then s
  else { s.updRoom r fun k => { k with absent := true } with lodge := { s.lodge with roomsOff := s.lodge.roomsOff + 1 } }

theorem disableRoom_eq (r : Nat) : s.disableRoom r = foldState (s.roomTasks r) (s.roomAbsent r) fun i st => st.vanish i .ue := rfl

theorem roomAbsent_frame (r : Nat) : (s.roomAbsent r).mem = s.mem ∧ (s.roomAbsent r).tags = s.tags ∧ (s.roomAbsent r).ewj = s.ewj
    ∧ (s.roomAbsent r).cells = s.cells ∧ (s.roomAbsent r).tasks = s.tasks ∧ (s.roomAbsent r).lodge.retired = s.lodge.retired
    ∧ (s.roomAbsent r).lodge.pendingTests = s.lodge.pendingTests := by
  unfold State.roomAbsent
  split
  · exact ⟨rfl, rfl, rfl, rfl, rfl, rfl, rfl⟩
  · exact ⟨rfl, rfl, rfl, rfl, rfl, rfl, rfl⟩

theorem roomAbsent_absent (r : Nat) : ((s.roomAbsent r).room r).absent = true := by
  unfold State.roomAbsent
  split
  next h => exact h
  next =>
    have hroom := s.room_updRoom r r fun k => { k with absent := true }
    rw [if_pos rfl] at hroom
    exact congrArg Room.absent hroom

theorem disableRoom_keeps (r : Nat) : VanishKeeps (s.roomAbsent r) (s.disableRoom r) :=
  (VanishKeeps.refl _).foldState fun _ _ hv => hv.vanish

/-- Which room is absent is read from the list that every vanish keeps. -/
theorem VanishKeeps.absent {s t : State} (h : VanishKeeps s t) (r : Nat) : (t.room r).absent = (s.room r).absent := by
  have hread : ∀ m : AMap Room, (mget m r {}).absent = mget (m.map fun p => (p.1, p.2.absent)) r false := fun m =>
    (mget_map Room.absent m r {}).symm
  unfold State.room
  rw [hread, hread, h.rooms]

theorem disableRoom_frees {k : Task} {c r : Nat} (hown : s.owner? c = some k) (hrun : k.st = .running) (htrap : k.trapOf = none)
    (hr : k.room = r) {d : Nat} (hd : (s.cell d).owner = some k.id) : ((s.disableRoom r).cell d).owner = none := by
  obtain ⟨-, hk⟩ := owner?_eq_some hown
  obtain ⟨-, -, -, hcells, htasks, -, -⟩ := roomAbsent_frame s r
  have hstands : (s.roomAbsent r).Stands k.id := ⟨k, by unfold State.task?; rw [htasks]; exact hk, hrun, htrap⟩
  have hin : k.id ∈ s.roomTasks r := by
    refine List.mem_map.2 ⟨k, List.mem_filter.2 ⟨List.mem_of_find?_eq_some hk, ?_⟩, rfl⟩
    rw [hr, hrun]
    simp
  rw [disableRoom_eq]
  refine vanishAll_frees hstands hin ?_
  unfold State.cell at hd ⊢
  rwa [hcells]

end

end Sys2Proof.Machine

namespace Sys2Proof.Proofs
open Sys2Proof.Machine

/-- Settles O53: the task of the cell vanishes alone, whatever else the site brings; other tasks of a room that is disabled may vanish
first, and the task then stands or is gone already. -/
theorem errorsComplete : Obligations.ErrorsComplete := by
  unfold Obligations.ErrorsComplete
  intro s k c hown hrun htrap
  refine ⟨fun sram lasting => ⟨fun hhigh => ?_, fun hsram hlow => ?_⟩, fun m blk lasting => ⟨fun hhigh => ?_, fun hlow => ?_⟩,
    fun pa lasting hl hlow => ?_, fun pa hreaders hhigh => ⟨?_, fun hhost => ?_⟩,
    fun lasting => ⟨fun hlow => ?_, fun hhigh => ?_, ?_⟩, fun d hd => ⟨?_, ?_⟩⟩
  · obtain ⟨hexec, -⟩ := exec_ue_high s (.cell c sram lasting) hhigh
    obtain ⟨n, hn⟩ := ((VanishKeeps.refl (s.testDue c)).vanishCells (cs := [c]) (c := .ue)).lodge
    refine ⟨_, hexec, vanishCells_vanished (s := s.testDue c) hown hrun htrap .ue, ?_, fun hst => ?_⟩
    · exact congrArg Lodge.pendingTests hn ▸ testDue_pending s c
    · exact (congrArg Lodge.errLog hn).trans (testDue_errLog s c hst)
  · obtain ⟨h1, h2⟩ := exec_ue_low s (.cell c sram lasting) hlow hsram
    rw [h1, h2]
  · obtain ⟨hexec, -⟩ := exec_ue_high s (.spad c m blk lasting) fun _ => hhigh
    have hkeeps := (VanishKeeps.refl (s.testDue m)).vanishCells (cs := [c, m]) (c := .ue)
    obtain ⟨n, hn⟩ := hkeeps.lodge
    rw [ueAt_spad] at hexec
    refine ⟨_, hexec, congrArg Lodge.pendingTests hn ▸ testDue_pending s m, hkeeps.mem, fun d hd => ?_⟩
    exact vanishCells_frees (s := s.testDue m) hown hrun htrap [m] .ue hd
  · obtain ⟨h1, h2⟩ := exec_ue_low s (.spad c m blk lasting) hlow rfl
    obtain ⟨hrail, hlocked, hmem, hcells, htasks⟩ := ueBase_rail s m lasting
    have hlast := ueLow_spad s c m blk lasting
    have hkeeps := (VanishKeeps.refl _).vanishCells.trans hlast
    have hown' : (s.ueBase m lasting).owner? c = some k := by
      unfold State.owner? State.cell State.task? at hown ⊢
      rwa [hcells, htasks]
    refine ⟨h1.trans h2.symm, _, h2, ?_, hkeeps.locked.trans hlocked, hkeeps.mem.trans hmem, fun d hd => hlast.owner_none ?_⟩
    · rw [hkeeps.rail_eq, hrail]
      rfl
    · refine vanishCells_frees hown' hrun htrap [m] .ueUndervolt ?_
      unfold State.cell at hd ⊢
      rwa [hcells]
  · obtain ⟨h1, h2⟩ := exec_ue_low s (.home c pa lasting) hlow (beq_iff_eq.2 hl)
    rw [h1, h2]
  · obtain ⟨hexec, -⟩ := exec_ue_high s (.home c pa false) fun h => hhigh (beq_iff_eq.1 h)
    rw [ueAt_home_read s c hreaders] at hexec
    exact ⟨_, hexec, vanishCells_vanished hown hrun htrap .ue⟩
  · obtain ⟨hexec, -⟩ := exec_ue_high s (.home c pa true) fun h => hhigh (beq_iff_eq.1 h)
    rw [ueAt_home_lasting s c hreaders] at hexec
    have hkeeps := (VanishKeeps.refl s).vanishCells (cs := [c]) (c := .ue)
    have hlevel : (s.vanishCells [c] .ue).level pa = s.level pa := by
      unfold State.level
      rw [hkeeps.devNum]
    have htag : ∀ b, (s.vanishCells [c] .ue).physTag b = s.physTag b := fun b => by
      unfold State.physTag
      rw [hkeeps.tags]
    obtain ⟨t, ht, hmem, hpoison, hfmt, hother, hretired, hcells⟩ := homeLost (s.vanishCells [c] .ue) pa (hlevel ▸ hhost)
    refine ⟨t, hexec.trans (congrArg Host.Outcome.next ht), hmem.trans hkeeps.mem, hpoison, hfmt.trans (by rw [htag]),
      fun b hb => (hother b hb).trans (htag b), hretired, fun d hd => ?_⟩
    have hfree := vanishCells_frees hown hrun htrap [] .ue hd
    unfold State.cell at hfree ⊢
    rwa [hcells]
  · obtain ⟨-, hexec⟩ := exec_ue_low s (.cell c true lasting) hlow rfl
    obtain ⟨hrail, hlocked, hmem, hcells, htasks⟩ := ueBase_rail s c lasting
    have hkeeps := (VanishKeeps.refl (s.ueBase c lasting)).vanishCells (cs := [c]) (c := .ueUndervolt)
    obtain ⟨n, hn⟩ := hkeeps.lodge
    rw [ueLow_cell] at hexec
    refine ⟨_, hexec, ?_, ?_, hkeeps.locked.trans hlocked, fun p hp hp750 => ?_, fun hlast => ?_, fun hlast => ?_⟩
    · cases lasting with
      | false => exact vanishCells_vanished (s := s.ueBase c false) hown hrun htrap .ueUndervolt
      | true => exact vanishCells_vanished (s := s.ueBase c true) hown hrun htrap .ueUndervolt
    · rw [hkeeps.rail_eq, hrail]
      rfl
    · rw [hkeeps.rail_eq, hrail]
      exact rolledBack_refuses hp hp750
    · subst hlast
      exact congrArg Lodge.pendingTests hn ▸ testDue_pending (s.updPower Power.rollback) c
    · subst hlast
      have hpend := congrArg Lodge.pendingTests hn
      exact hpend
  · exact (exec_ue_high s (.cell c true lasting) fun _ => hhigh).2
  · exact (exec_ue_high s (.cell c false lasting) nofun).2
  · exact ⟨_, exec_selfTest_passes s hd, testDone_pending s d, rfl⟩
  · have hkeeps := disableRoom_keeps (s.testDone d) (roomOf d)
    obtain ⟨hmem, -, -, -, -, -, hpend⟩ := roomAbsent_frame (s.testDone d) (roomOf d)
    obtain ⟨n, hn⟩ := hkeeps.lodge
    have hgone := (congrArg Lodge.pendingTests hn).trans hpend
    refine ⟨_, exec_selfTest_fails s hd, ?_, ?_, hkeeps.mem.trans hmem,
      fun hr x hx => disableRoom_frees (s.testDone d) hown hrun htrap hr hx⟩
    · rw [hgone]
      exact testDone_pending s d
    · exact (hkeeps.absent (roomOf d)).trans (roomAbsent_absent _ _)

end Sys2Proof.Proofs
end

section
/-! SUPPORT. The logical numbers of rooms after a recovery, what is lost at a reset, and the lodge's bring-up. -/

namespace Sys2Proof.Machine

/-! ### Sparse data listed from pairs -/

section
variable {α β : Type}

theorem mfind_none_of_notMem {m : AMap α} {k : Nat} (h : k ∉ m.map Prod.fst) : mfind m k = none := by
  induction m with
  | nil => rfl
  | cons p t ih =>
    rw [List.map_cons, List.mem_cons, not_or] at h
    unfold mfind
    rw [if_neg (Ne.symm h.1), ih h.2]

theorem mfind_some_of_mem {m : AMap α} {k : Nat} {v : α} (hnd : (m.map Prod.fst).Nodup) (h : (k, v) ∈ m) : mfind m k = some v := by
  induction m with
  | nil => cases h
  | cons p t ih =>
    rw [List.map_cons, List.nodup_cons] at hnd
    unfold mfind
    obtain rfl | h := List.mem_cons.1 h
    · exact if_pos rfl
    · have hk : k ∈ t.map Prod.fst := List.mem_map_of_mem (f := Prod.fst) h
      have hne : ¬ p.1 = k := fun hp => hnd.1 (hp ▸ hk)
      rw [if_neg hne, ih hnd.2 h]

theorem mfind_listed (ps : AMap α) (hnd : (ps.map Prod.fst).Nodup) (acc : AMap α) (k : Nat) :
    mfind (ps.foldl (fun m p => mset m p.1 p.2) acc) k = (mfind ps k).or (mfind acc k) := by
  induction ps generalizing acc with
  | nil => rfl
  | cons p t ih =>
    rw [List.map_cons, List.nodup_cons] at hnd
    rw [List.foldl_cons, ih hnd.2, mfind_mset]
    obtain ⟨j, v⟩ := p
    by_cases hk : k = j
    · subst hk
      rw [mfind_none_of_notMem hnd.1]
      simp [mfind]
    · simp [mfind, hk, Ne.symm hk]

theorem mfind_mapKeys {f : Nat → Nat} (hf : Function.Injective f) (m : AMap α) (k : Nat) :
    mfind (m.map fun p => (f p.1, p.2)) (f k) = mfind m k := by
  induction m with
  | nil => rfl
  | cons p t ih =>
    simp only [List.map_cons, mfind, hf.eq_iff, ih]

/-- Renumbered keys, each found at its new number. -/
theorem mfind_rekey {f : Nat → Nat} (hf : Function.Injective f) {m : AMap α} (hnd : (m.map Prod.fst).Nodup) (k : Nat) :
    mfind (rekey f m) (f k) = mfind m k := by
  have hmap : rekey f m = (m.map fun p => (f p.1, p.2)).foldl (fun m p => mset m p.1 p.2) [] := by
    rw [List.foldl_map]
    rfl
  have hkeys : ((m.map fun p => (f p.1, p.2)).map Prod.fst).Nodup := by
    rw [List.map_map]
    have := hnd.map hf
    rwa [List.map_map] at this
  rw [hmap, mfind_listed _ hkeys, mfind_mapKeys hf]
  exact Option.or_none

theorem risingFrom_lt {m : AMap α} {lo k : Nat} (h : risingFrom lo m = true) (hk : k ∈ m.map Prod.fst) : lo ≤ k := by
  induction m generalizing lo with
  | nil => cases hk
  | cons p t ih =>
    obtain ⟨j, v⟩ := p
    rw [risingFrom, Bool.and_eq_true, decide_eq_true_eq] at h
    obtain rfl | hk := List.mem_cons.1 hk
    · exact h.1
    · exact h.1.trans (Nat.le_of_succ_le (ih h.2 hk))

theorem nodup_of_rising {m : AMap α} {lo : Nat} (h : risingFrom lo m = true) : (m.map Prod.fst).Nodup := by
  induction m generalizing lo with
  | nil => exact List.nodup_nil
  | cons p t ih =>
    obtain ⟨j, v⟩ := p
    rw [risingFrom, Bool.and_eq_true] at h
    exact List.nodup_cons.2 ⟨fun hj => absurd (risingFrom_lt h.2 hj) (Nat.not_succ_le_self j), ih h.2⟩

theorem mfind_filterKeys (q : Nat → Bool) (m : AMap α) (k : Nat) :
    mfind (m.filter fun p => q p.1) k = if q k then mfind m k else none := by
  induction m with
  | nil => simp [mfind]
  | cons p t ih =>
    by_cases hk : p.1 = k
    · subst hk
      cases hq : q p.1 with
      | true => simp [hq, mfind]
      | false => simp [hq, ih]
    · cases hq : q p.1 with
      | true => simp [hq, mfind, hk, ih]
      | false => simp [hq, mfind, hk, ih]

end

/-! ### The order of the rooms (R103) -/

section
variable (absent : Nat → Bool)

/-- The rooms of a wing, those that are present first. -/
def wingOrder (w : Nat) : List Nat := ((wingRooms w).filter fun r => !absent r) ++ (wingRooms w).filter absent

/-- Each room with its new number. -/
def orderPairs : AMap Nat := (upTo 4).flatMap fun w => (wingOrder absent w).zip (wingRooms w)

theorem roomOrder_eq : roomOrder absent = (orderPairs absent).foldl (fun m p => mset m p.1 p.2) [] := by
  unfold orderPairs
  rw [List.foldl_flatMap]
  rfl

theorem wingOrder_perm (w : Nat) : (wingOrder absent w).Perm (wingRooms w) := by
  have h := List.filter_append_perm (fun r => !absent r) (wingRooms w)
  simpa [wingOrder] using h

theorem orderPairs_fst : (orderPairs absent).map Prod.fst = (upTo 4).flatMap (wingOrder absent) := by
  unfold orderPairs
  rw [List.map_flatMap]
  refine List.flatMap_congr fun w _ => ?_
  exact List.map_fst_zip (wingOrder_perm absent w).length_eq.le

theorem orderPairs_snd : (orderPairs absent).map Prod.snd = (upTo 4).flatMap wingRooms := by
  unfold orderPairs
  rw [List.map_flatMap]
  refine List.flatMap_congr fun w _ => ?_
  exact List.map_snd_zip (wingOrder_perm absent w).length_eq.ge

theorem wings_nodup : ((upTo 4).flatMap wingRooms).Nodup := by decide +kernel

theorem mem_wings {r : Nat} : r ∈ (upTo 4).flatMap wingRooms ↔ r < 64 := by
  simp only [List.mem_flatMap, upTo, List.mem_range, wingRooms, List.mem_filter, beq_iff_eq]
  constructor
  · rintro ⟨w, -, hr, -⟩
    exact hr
  · intro hr
    refine ⟨wingOfRoom r, ?_, hr, rfl⟩
    unfold wingOfRoom
    omega

theorem order_perm : ((upTo 4).flatMap (wingOrder absent)).Perm ((upTo 4).flatMap wingRooms) :=
  List.Perm.flatMap_left _ fun w _ => wingOrder_perm absent w

theorem orderPairs_nodup : ((orderPairs absent).map Prod.fst).Nodup := by
  rw [orderPairs_fst]
  exact (order_perm absent).nodup_iff.2 wings_nodup

theorem newRoom_of_pair {a b : Nat} (h : (a, b) ∈ orderPairs absent) : newRoom (roomOrder absent) a = b := by
  unfold newRoom mget
  rw [roomOrder_eq, mfind_listed _ (orderPairs_nodup absent), mfind_some_of_mem (orderPairs_nodup absent) h]
  rfl

theorem newRoom_beyond {a : Nat} (h : 64 ≤ a) : newRoom (roomOrder absent) a = a := by
  have hnone : mfind (orderPairs absent) a = none := by
    refine mfind_none_of_notMem ?_
    rw [orderPairs_fst, (order_perm absent).mem_iff, mem_wings]
    omega
  unfold newRoom mget
  rw [roomOrder_eq, mfind_listed _ (orderPairs_nodup absent), hnone]
  rfl

theorem exists_pair {a : Nat} (h : a < 64) : ∃ b < 64, (a, b) ∈ orderPairs absent := by
  have ha : a ∈ (orderPairs absent).map Prod.fst := by
    rw [orderPairs_fst, (order_perm absent).mem_iff, mem_wings]
    exact h
  obtain ⟨⟨x, b⟩, hp, rfl⟩ := List.mem_map.1 ha
  refine ⟨b, ?_, hp⟩
  have hb : b ∈ (orderPairs absent).map Prod.snd := List.mem_map_of_mem (f := Prod.snd) hp
  rwa [orderPairs_snd, mem_wings] at hb

/-- No two rooms get one number (R103). -/
theorem newRoom_injective : Function.Injective (newRoom (roomOrder absent)) := by
  intro a b hab
  by_cases ha : a < 64
  · obtain ⟨x, hx, hax⟩ := exists_pair absent ha
    by_cases hb : b < 64
    · obtain ⟨y, hy, hby⟩ := exists_pair absent hb
      rw [newRoom_of_pair absent hax, newRoom_of_pair absent hby] at hab
      subst hab
      have hnd : ((orderPairs absent).map Prod.snd).Nodup := by
        rw [orderPairs_snd]
        exact wings_nodup
      exact congrArg Prod.fst (List.inj_on_of_nodup_map hnd hax hby rfl)
    · rw [newRoom_of_pair absent hax, newRoom_beyond absent (not_lt.1 hb)] at hab
      omega
  · by_cases hb : b < 64
    · obtain ⟨y, hy, hby⟩ := exists_pair absent hb
      rw [newRoom_beyond absent (not_lt.1 ha), newRoom_of_pair absent hby] at hab
      omega
    · rwa [newRoom_beyond absent (not_lt.1 ha), newRoom_beyond absent (not_lt.1 hb)] at hab

/-- In the order of a wing nothing present follows an absent room. -/
theorem wingOrder_absent {w i j : Nat} (hij : i ≤ j) (hi : i < (wingOrder absent w).length) (hj : j < (wingOrder absent w).length)
    (h : absent ((wingOrder absent w)[i]) = true) : absent ((wingOrder absent w)[j]) = true := by
  have hpre : ((wingRooms w).filter fun r => !absent r).length ≤ i := by
    by_contra hlt
    rw [not_le] at hlt
    have hmem := List.getElem_mem (l := (wingRooms w).filter fun r => !absent r) hlt
    have hnot := (List.mem_filter.1 hmem).2
    have hget : (wingOrder absent w)[i] = ((wingRooms w).filter fun r => !absent r)[i] := List.getElem_append_left hlt
    rw [← hget, h] at hnot
    cases hnot
  have hmem : (wingOrder absent w)[j] ∈ (wingRooms w).filter absent := by
    have hget : (wingOrder absent w)[j] = ((wingRooms w).filter absent)[j - ((wingRooms w).filter fun r => !absent r).length]'_ :=
      List.getElem_append_right (hpre.trans hij)
    rw [hget]
    exact List.getElem_mem _
  exact (List.mem_filter.1 hmem).2

theorem wingRooms_sorted (w : Nat) : (wingRooms w).Pairwise (· < ·) := List.Pairwise.filter _ List.pairwise_lt_range

/-- Of two rooms of a wing the higher number goes to one that is absent if the lower one does (R103). -/
theorem newRoom_order {q r : Nat} (hqr : q < r) (hr : r < 64) (hw : wingOfRoom q = wingOfRoom r) :
    ∃ a b, newRoom (roomOrder absent) a = q ∧ newRoom (roomOrder absent) b = r ∧ (absent a = true → absent b = true) := by
  have hin : ∀ x < 64, wingOfRoom x = wingOfRoom r → x ∈ wingRooms (wingOfRoom r) := fun x hx hxw =>
    List.mem_filter.2 ⟨List.mem_range.2 hx, beq_iff_eq.2 hxw⟩
  have hw4 : wingOfRoom r ∈ upTo 4 := List.mem_range.2 (by unfold wingOfRoom; omega)
  obtain ⟨i, hi, hqi⟩ := List.getElem_of_mem (hin q (by omega) hw)
  obtain ⟨j, hj, hrj⟩ := List.getElem_of_mem (hin r hr rfl)
  have hlen := (wingOrder_perm absent (wingOfRoom r)).length_eq
  have hij : i ≤ j := by
    by_contra hlt
    rw [not_le] at hlt
    have := List.pairwise_iff_getElem.1 (wingRooms_sorted (wingOfRoom r)) j i hj hi hlt
    omega
  have hpair : ∀ n (hn : n < (wingRooms (wingOfRoom r)).length),
      ((wingOrder absent (wingOfRoom r))[n]'(by omega), (wingRooms (wingOfRoom r))[n]) ∈ orderPairs absent := fun n hn => by
    refine List.mem_flatMap.2 ⟨_, hw4, ?_⟩
    have hz : n < ((wingOrder absent (wingOfRoom r)).zip (wingRooms (wingOfRoom r))).length := by
      rw [List.length_zip]
      omega
    have := List.getElem_mem hz
    rwa [List.getElem_zip] at this
  refine ⟨_, _, (newRoom_of_pair absent (hpair i hi)).trans hqi, (newRoom_of_pair absent (hpair j hj)).trans hrj, ?_⟩
  exact wingOrder_absent absent hij _ _

end

/-! ### What is lost (R48, R76, R80) -/

variable (s : State)

theorem lost_read (a : Nat) : s.lost.mem.read a = if devOf a = s.devNum then 0 else s.mem.read a := by
  have hfind : mfind s.lost.mem a = if (devOf a != s.devNum) = true then mfind s.mem a else none :=
    mfind_filterKeys (fun k => devOf k != s.devNum) s.mem a
  unfold Mem.read mget
  rw [hfind]
  by_cases h : devOf a = s.devNum
  · simp [h]
  · simp [h]

theorem lost_idle (r : Nat) : (s.lost.room r).hearth.st = .idle := by
  have hfind : mfind s.lost.rooms r = _ :=
    mfind_map (fun _ : Room => ({ absent := true, tempAt := s.clock.tbase } : Room)) (s.rooms.filter fun p => p.2.absent) r
  unfold State.room mget
  rw [hfind]
  cases mfind (s.rooms.filter fun p => p.2.absent) r with
  | none => rfl
  | some k => rfl

theorem lost_stateLost : StateLost s s.lost :=
  ⟨rfl, rfl, rfl, rfl, rfl, rfl, rfl, rfl, rfl, rfl, lost_idle s, lost_read s, rfl, rfl, rfl, rfl⟩

/-! ### Ports under a change of each (R24, R76) -/

theorem ewjPort_updEwj (p q : Nat) (f : EwjPort → EwjPort) :
    (s.updEwj p f).ewjPort q = if q = p then f (s.ewjPort p) else s.ewjPort q := mget_mset _ _ _ _ _

/-- The port as training begins anew: only its RETRIES are kept (R24). -/
def EwjPort.anew (e : EwjPort) : EwjPort := { st := 1, retries := e.retries }

/-- Ports that begin training: each has STATE 1 and its RETRIES (R24, R76). -/
theorem trainAnew (ps : List Nat) (q : Nat) :
    (foldState ps s fun p st => st.updEwj p EwjPort.anew).ewjPort q = if q ∈ ps then (s.ewjPort q).anew else s.ewjPort q := by
  induction ps generalizing s with
  | nil => rfl
  | cons p ps ih =>
    have hfirst := ih (s.updEwj p EwjPort.anew)
    refine hfirst.trans ?_
    rw [ewjPort_updEwj]
    by_cases hp : q = p
    · subst hp
      simp [EwjPort.anew]
    · simp [hp]

theorem trainedPort_st (w : BitVec 64) (n : Nat) : (trainedPort w n).st ∈ [0, 2, 3] := by
  unfold trainedPort
  dsimp only
  split
  · decide
  · split
    · decide
    · decide

theorem trainPort_other (p : Nat) {q : Nat} (h : q ≠ p) : (s.trainPort p).ewjPort q = s.ewjPort q := by
  unfold State.trainPort
  split
  · exact (ewjPort_updEwj _ _ _ _).trans (if_neg h)
  · rfl

theorem trainPort_self (p : Nat) : ((s.ewjPort p).st = 1 → ((s.trainPort p).ewjPort p).st ∈ [0, 2, 3])
    ∧ ((s.trainPort p).ewjPort p).retries = (s.ewjPort p).retries := by
  unfold State.trainPort
  split
  next =>
    have hport := ewjPort_updEwj s.free.2 p p fun e => trainedPort s.free.1 e.retries
    rw [if_pos rfl] at hport
    dsimp only
    rw [hport]
    exact ⟨fun _ => trainedPort_st _ _, rfl⟩
  next h => exact ⟨fun h1 => absurd h1 h, rfl⟩

theorem trainPorts_fold (ps : List Nat) (hnd : ps.Nodup) (q : Nat) :
    (q ∈ ps → (s.ewjPort q).st = 1 → ((foldState ps s fun p st => st.trainPort p).ewjPort q).st ∈ [0, 2, 3])
    ∧ ((foldState ps s fun p st => st.trainPort p).ewjPort q).retries = (s.ewjPort q).retries
    ∧ (q ∉ ps → (foldState ps s fun p st => st.trainPort p).ewjPort q = s.ewjPort q) := by
  induction ps generalizing s with
  | nil => exact ⟨nofun, rfl, fun _ => rfl⟩
  | cons p ps ih =>
    obtain ⟨hin, hret, hout⟩ := ih (s.trainPort p) (List.nodup_cons.1 hnd).2
    obtain ⟨hself, hselfret⟩ := trainPort_self s p
    by_cases hq : q = p
    · subst hq
      have hkeep := hout (List.nodup_cons.1 hnd).1
      exact ⟨fun _ h1 => (congrArg EwjPort.st hkeep) ▸ hself h1, hret.trans hselfret, fun h => absurd List.mem_cons_self h⟩
    · have hother := trainPort_other s p hq
      refine ⟨fun hmem h1 => hin ?_ (hother ▸ h1), hret.trans (congrArg EwjPort.retries hother),
        fun h => (hout fun hm => h (List.mem_cons_of_mem _ hm)).trans hother⟩
      exact (List.mem_cons.1 hmem).resolve_left hq

theorem trainPorts_ewj : s.trainPorts.ewj = (foldState (upTo 96) s fun p st => st.trainPort p).ewj := by
  unfold State.trainPorts
  generalize (foldState (upTo 96) s fun p st => st.trainPort p) = u
  dsimp only
  split
  · rfl
  · rfl

theorem trainPorts_ports (q : Nat) : (q < 96 → (s.ewjPort q).st = 1 → (s.trainPorts.ewjPort q).st ∈ [0, 2, 3])
    ∧ (s.trainPorts.ewjPort q).retries = (s.ewjPort q).retries := by
  obtain ⟨hin, hret, -⟩ := trainPorts_fold s (upTo 96) List.nodup_range q
  have hport : s.trainPorts.ewjPort q = (foldState (upTo 96) s fun p st => st.trainPort p).ewjPort q := by
    unfold State.ewjPort
    rw [trainPorts_ewj]
  rw [hport]
  exact ⟨fun hq => hin (List.mem_range.2 hq), hret⟩

/-! ### The lodge's bring-up (R76) -/

theorem retirePage_ewj (pa : Nat) : (s.retirePage pa).ewj = s.ewj := (retirePage_mem s pa).2.2.1

theorem foldState_ewj {α : Type} {l : List α} {f : α → State → State} {m : AMap EwjPort} {u : State}
    (hf : ∀ x v, v.ewj = m → (f x v).ewj = m) (h : u.ewj = m) : (foldState l u f).ewj = m :=
  foldState_keeps (fun t => t.ewj = m) f hf l u h

theorem testRooms_ewj : s.testRooms.ewj = s.ewj := by
  unfold State.testRooms
  dsimp only
  refine foldState_ewj (fun w u hu => ?_) rfl
  dsimp only
  exact foldState_ewj (fun _ _ hv => hv) hu

theorem testPages_ewj : s.testPages.ewj = s.ewj := by
  unfold State.testPages
  dsimp only
  exact foldState_ewj (fun _ u hu => (retirePage_ewj u.free.2 _).trans hu) rfl

theorem calibrate_ewj : s.calibrate.ewj = s.ewj := by
  unfold State.calibrate
  dsimp only
  exact foldState_ewj (fun _ _ hu => hu) rfl

/-- The device as link training begins: memory tested, every port in training (R76). -/
def State.trained : State :=
  foldState (upTo 96) s.testRooms.testPages fun p q => q.updEwj p fun e => { st := 1, retries := e.retries }

/-- The device as the lodge enters READY, its ports trained (R76). -/
def State.readied : State :=
  let f := s.trainPorts.calibrate.formDomain.free
  { f.2 with lodge := { f.2.lodge with nxw := 8 * 2 ^ (f.1.toNat % 3) } }

theorem formDomain_free_ewj : s.formDomain.free.2.ewj = s.ewj := rfl

theorem readied_ewj : s.readied.ewj = s.trainPorts.ewj := by
  unfold State.readied
  dsimp only
  rw [formDomain_free_ewj, calibrate_ewj]

theorem enterLodge_eq (n : Nat) : s.enterLodge n =
    let s1 := if n = 4 then s.trained else if n = 5 then s.readied else s
    { s1 with lodge := { s1.lodge with st := n } } := rfl

theorem enterLodge_ewj (n : Nat) :
    (s.enterLodge n).ewj = if n = 4 then s.trained.ewj else if n = 5 then s.trainPorts.ewj else s.ewj := by
  rw [← readied_ewj, enterLodge_eq]
  dsimp only
  split
  · rfl
  · split
    · rfl
    · rfl

theorem trained_port (q : Nat) : s.trained.ewjPort q = if q < 96 then (s.ewjPort q).anew else s.ewjPort q := by
  have hewj : s.testRooms.testPages.ewjPort q = s.ewjPort q := by
    unfold State.ewjPort
    rw [testPages_ewj, testRooms_ewj]
  have hmem : q ∈ upTo 96 ↔ q < 96 := List.mem_range
  have h := trainAnew s.testRooms.testPages (upTo 96) q
  rw [hewj] at h
  simp only [hmem] at h
  exact h

theorem readied_nxw : s.readied.lodge.nxw ∈ [8, 16, 32] := by
  unfold State.readied
  dsimp only
  generalize (s.trainPorts.calibrate.formDomain.free).1.toNat = n
  have h3 : n % 3 = 0 ∨ n % 3 = 1 ∨ n % 3 = 2 := by omega
  obtain h | h | h := h3
  all_goals rw [h]; decide

theorem enterLodge_five_nxw : (s.enterLodge 5).lodge.nxw ∈ [8, 16, 32] := by
  have h := readied_nxw s
  rw [enterLodge_eq]
  generalize s.readied = u at h
  generalize s.trained = v
  exact h

/-- Link training begins on every port (R76). -/
theorem enterLodge_four (q : Nat) : (s.enterLodge 4).ewjPort q = s.trained.ewjPort q := by
  unfold State.ewjPort
  rw [enterLodge_ewj, if_pos rfl]

theorem enterLodge_five (q : Nat) : (s.enterLodge 5).ewjPort q = s.trainPorts.ewjPort q := by
  unfold State.ewjPort
  rw [enterLodge_ewj, if_neg (by decide), if_pos rfl]

theorem enterLodge_st (n : Nat) : (s.enterLodge n).lodge.st = n := rfl

theorem enterLodge_retries (n q : Nat) : ((s.enterLodge n).ewjPort q).retries = (s.ewjPort q).retries := by
  unfold State.ewjPort
  rw [enterLodge_ewj]
  split
  · refine (congrArg EwjPort.retries (trained_port s q)).trans ?_
    split
    · rfl
    · rfl
  · split
    · exact (trainPorts_ports s q).2
    · rfl

/-- A tick of the bring-up by its free value (R76). -/
theorem lodgeTick_eq (h1 : 1 ≤ s.lodge.st) (h4 : s.lodge.st ≤ 4) : s.lodgeTick =
    if s.free.1.toNat % 4 = 1 then s.free.2.enterLodge (s.lodge.st + 1)
    else if s.free.1.toNat % 4 = 2 then s.free.2.enterLodge 7 else s.free.2 := if_pos ⟨h1, h4⟩

/-! ### A recovery (R23, R102, R103) -/

/-- What a recovery has done to ports and pages before rooms are disabled. -/
def State.recovered (m : Recovery) : State :=
  foldState m.pages (foldState (m.ports.filter fun p => decide (p < 96)) s fun p st => st.updEwj p EwjPort.anew)
    fun pa st => st.retirePage pa

/-- Rooms disabled one after another. -/
def State.disableAll (rs : List Nat) : State := foldState rs s fun r st => st.disableRoom r

theorem exec_recovery (m : Recovery) : exec (.domainRecovery m) s = .next
    (let s3 := (s.recovered m).disableAll ((upTo 64).filter fun r => m.absent.getLsbD r)
     s3.renumber (roomOrder fun r => (s3.room r).absent)) := rfl

theorem portsAnew_frame (ps : List Nat) : (foldState ps s fun p st => st.updEwj p EwjPort.anew).mem = s.mem
    ∧ (foldState ps s fun p st => st.updEwj p EwjPort.anew).tags = s.tags
    ∧ (foldState ps s fun p st => st.updEwj p EwjPort.anew).rooms = s.rooms :=
  foldState_keeps (fun t => t.mem = s.mem ∧ t.tags = s.tags ∧ t.rooms = s.rooms) (fun p st => st.updEwj p EwjPort.anew)
    (fun _ _ h => h) ps s ⟨rfl, rfl, rfl⟩

theorem pagesRetired_frame (pas : List Nat) : (foldState pas s fun pa st => st.retirePage pa).mem = s.mem
    ∧ (foldState pas s fun pa st => st.retirePage pa).tags = s.tags ∧ (foldState pas s fun pa st => st.retirePage pa).ewj = s.ewj
    ∧ (foldState pas s fun pa st => st.retirePage pa).rooms = s.rooms := by
  refine foldState_keeps (fun t => t.mem = s.mem ∧ t.tags = s.tags ∧ t.ewj = s.ewj ∧ t.rooms = s.rooms) _ (fun pa t h => ?_) _ _
    ⟨rfl, rfl, rfl, rfl⟩
  obtain ⟨hmem, htags, hewj, hrooms, -⟩ := retirePage_mem t pa
  exact ⟨hmem.trans h.1, htags.trans h.2.1, hewj.trans h.2.2.1, hrooms.trans h.2.2.2⟩

theorem pagesRetired_retired (pas : List Nat) : (∀ q ∈ s.lodge.retired, q ∈ (foldState pas s fun pa st => st.retirePage pa).lodge.retired)
    ∧ ∀ pa ∈ pas, pa / 65536 * 65536 ∈ (foldState pas s fun pa st => st.retirePage pa).lodge.retired := by
  induction pas generalizing s with
  | nil => exact ⟨fun _ h => h, nofun⟩
  | cons p pas ih =>
    obtain ⟨hkeep, hnew⟩ := ih (s.retirePage p)
    refine ⟨fun q hq => hkeep q (retirePage_mono s p hq), fun pa hpa => ?_⟩
    obtain rfl | hpa := List.mem_cons.1 hpa
    · exact hkeep _ (retirePage_retired s pa)
    · exact hnew pa hpa

theorem risingFrom_map {α β : Type} (g : α → β) (m : AMap α) (lo : Nat) :
    risingFrom lo (m.map fun p => (p.1, g p.2)) = risingFrom lo m := by
  induction m generalizing lo with
  | nil => rfl
  | cons p t ih =>
    obtain ⟨j, v⟩ := p
    rw [List.map_cons, risingFrom, risingFrom, ih]

theorem VanishKeeps.rising {s t : State} (h : VanishKeeps s t) : risingFrom 0 t.rooms = risingFrom 0 s.rooms := by
  rw [← risingFrom_map Room.absent t.rooms, ← risingFrom_map Room.absent s.rooms, h.rooms]

theorem roomAbsent_rising (r : Nat) (h : risingFrom 0 s.rooms = true) : risingFrom 0 (s.roomAbsent r).rooms = true := by
  unfold State.roomAbsent
  split
  · exact h
  · exact risingFrom_mset _ _ _ _ h (Nat.zero_le r)

/-- What disabling rooms leaves as it was. -/
theorem disableAll_frame (rs : List Nat) : (s.disableAll rs).mem = s.mem ∧ (s.disableAll rs).tags = s.tags
    ∧ (s.disableAll rs).ewj = s.ewj ∧ (s.disableAll rs).lodge.retired = s.lodge.retired := by
  unfold State.disableAll
  refine foldState_keeps (fun t => t.mem = s.mem ∧ t.tags = s.tags ∧ t.ewj = s.ewj ∧ t.lodge.retired = s.lodge.retired) _
    (fun r t h => ?_) rs s ⟨rfl, rfl, rfl, rfl⟩
  obtain ⟨hmem, htags, hewj, hret⟩ := h
  have hkeeps := disableRoom_keeps t r
  obtain ⟨n, hn⟩ := hkeeps.lodge
  obtain ⟨hmem', htags', hewj', -, -, hret', -⟩ := roomAbsent_frame t r
  exact ⟨hkeeps.mem.trans (hmem'.trans hmem), hkeeps.tags.trans (htags'.trans htags), hkeeps.ewj.trans (hewj'.trans hewj),
    (congrArg Lodge.retired hn).trans (hret'.trans hret)⟩

theorem disableAll_rising (rs : List Nat) (h : risingFrom 0 s.rooms = true) : risingFrom 0 (s.disableAll rs).rooms = true :=
  foldState_keeps (fun t => risingFrom 0 t.rooms = true) (fun r st => st.disableRoom r)
    (fun r t ht => (disableRoom_keeps t r).rising.trans (roomAbsent_rising t r ht)) rs s h

/-- A room behind another number (R103). -/
def Room.renumbered (m : AMap Nat) (r : Room) : Room :=
  { r with waitTab := r.waitTab.map (WaitEnt.renumber m), hearth := r.hearth.renumber m }

theorem renumber_absent (m : AMap Nat) (hm : Function.Injective (newRoom m)) (hnd : (s.rooms.map Prod.fst).Nodup) (a : Nat) :
    ((s.renumber m).room (newRoom m a)).absent = (s.room a).absent := by
  have hfind : mfind (s.renumber m).rooms (newRoom m a) = (mfind s.rooms a).map (Room.renumbered m) := by
    rw [← mfind_rekey hm hnd]
    exact mfind_map (Room.renumbered m) _ _
  unfold State.room mget
  rw [hfind]
  cases mfind s.rooms a with
  | none => rfl
  | some r => rfl

/-- What a recovery leaves (R23, R24, R102). -/
theorem recovered_frame (m : Recovery) : (s.recovered m).mem = s.mem ∧ (s.recovered m).tags = s.tags
    ∧ (s.recovered m).rooms = s.rooms
    ∧ (∀ q, (s.recovered m).ewjPort q = if q ∈ m.ports ∧ q < 96 then (s.ewjPort q).anew else s.ewjPort q)
    ∧ (∀ pa ∈ m.pages, pa / 65536 * 65536 ∈ (s.recovered m).lodge.retired) := by
  obtain ⟨hmem, htags, hrooms⟩ := portsAnew_frame s (m.ports.filter fun p => decide (p < 96))
  obtain ⟨hmem', htags', hewj', hrooms'⟩ :=
    pagesRetired_frame (foldState (m.ports.filter fun p => decide (p < 96)) s fun p st => st.updEwj p EwjPort.anew) m.pages
  refine ⟨hmem'.trans hmem, htags'.trans htags, hrooms'.trans hrooms, fun q => ?_, (pagesRetired_retired _ m.pages).2⟩
  have hport := trainAnew s (m.ports.filter fun p => decide (p < 96)) q
  simp only [List.mem_filter, decide_eq_true_eq] at hport
  rw [← hport]
  unfold State.recovered State.ewjPort
  rw [hewj']

end Sys2Proof.Machine

namespace Sys2Proof.Proofs
open Sys2Proof.Machine

/-- Settles O54: what is lost, the bring-up by its states, and a recovery, whose new numbers put the absent rooms of a wing last. -/
theorem resetsComplete : Obligations.ResetsComplete := by
  unfold Obligations.ResetsComplete
  intro s
  refine ⟨fun c hc => ?_, fun h1 h4 => ?_, ?_, fun r hr => ?_, ?_, fun m => ?_⟩
  · have hexec : exec (.reset c) s = .next ((if s.power.off then s.lost else s.lost.recordCause c.toNat 0 0).boot) := by
      refine congrArg Host.Outcome.next (if_neg ?_)
      obtain rfl | rfl := hc
      · decide
      · decide
    refine ⟨_, hexec, ?_⟩
    cases hoff : s.power.off with
    | false => exact ⟨lost_stateLost s, rfl, rfl, rfl⟩
    | true => exact ⟨lost_stateLost s, rfl, rfl, rfl⟩
  · intro n t
    have ht : t = if n = 1 then s.free.2.enterLodge (s.lodge.st + 1) else if n = 2 then s.free.2.enterLodge 7 else s.free.2 :=
      lodgeTick_eq s h1 h4
    clear_value t
    subst ht
    refine ⟨?_, fun hn h3 p hp => ?_, fun hn h3 => ?_, fun p => ?_⟩
    · split
      · rfl
      · split
        · rfl
        · rfl
    · rw [if_pos hn, h3, enterLodge_four, trained_port, if_pos hp]
      rfl
    · rw [if_pos hn, h3]
      refine ⟨enterLodge_five_nxw s.free.2, fun p hp hst => ?_⟩
      rw [enterLodge_five]
      exact (trainPorts_ports s.free.2 p).1 hp hst
    · split
      · exact enterLodge_retries s.free.2 _ p
      · split
        · exact enterLodge_retries s.free.2 _ p
        · rfl
  · exact ⟨_, rfl, lost_stateLost s, rfl, rfl⟩
  · refine ⟨_, rfl, lost_stateLost s, rfl, rfl, rfl, ?_, rfl⟩
    show r / 8 % 4 * 4 + r % 8 % 4 = _
    omega
  · exact ⟨_, rfl, lost_stateLost s, rfl, rfl⟩
  · obtain ⟨hmem, htags, hrooms, hport, hpages⟩ := recovered_frame s m
    obtain ⟨hmem', htags', hewj', hret'⟩ := disableAll_frame (s.recovered m) ((upTo 64).filter fun r => m.absent.getLsbD r)
    have hrising := disableAll_rising (s.recovered m) ((upTo 64).filter fun r => m.absent.getLsbD r)
    have hexec := exec_recovery s m
    generalize (s.recovered m).disableAll ((upTo 64).filter fun r => m.absent.getLsbD r) = u at *
    have hports : ∀ q, (u.renumber (roomOrder fun r => (u.room r).absent)).ewjPort q = (s.recovered m).ewjPort q := fun q =>
      congrArg (fun ports : AMap EwjPort => mget ports q ({} : EwjPort)) hewj'
    refine ⟨_, hexec, hmem'.trans hmem, htags'.trans htags, fun p hp hlt => ?_, fun p => ?_, fun pa hpa => ?_, fun hr q r hqr hr64 hw hq => ?_⟩
    · rw [hports, hport, if_pos ⟨hp, hlt⟩]
      rfl
    · rw [hports, hport]
      split
      · rfl
      · rfl
    · show _ ∈ u.lodge.retired
      rw [hret']
      exact hpages pa hpa
    · have hnd := nodup_of_rising (hrising (hrooms ▸ hr))
      obtain ⟨a, b, rfl, rfl, hab⟩ := newRoom_order (fun r => (u.room r).absent) hqr hr64 hw
      rw [renumber_absent u _ (newRoom_injective _) hnd] at hq ⊢
      exact hab hq

end Sys2Proof.Proofs
end

section
/-! SUPPORT. Staging: changes of the cells of a gang, reads that leave the device as it was, and the entry debits. -/

namespace Sys2Proof.Machine

/-! ### Sparse data changed key by key -/

section
variable {α : Type} (g : Nat → α → α) (d : α)

/-- The values of a list of keys, changed one after another. -/
def mchange (l : List Nat) (m : AMap α) : AMap α := l.foldl (fun m k => mset m k (g k (mget m k d))) m

theorem mchange_cons (j : Nat) (l : List Nat) (m : AMap α) : mchange g d (j :: l) m = mchange g d l (mset m j (g j (mget m j d))) := rfl

theorem mget_mchange_notMem {k : Nat} {l : List Nat} (h : k ∉ l) (m : AMap α) : mget (mchange g d l m) k d = mget m k d := by
  induction l generalizing m with
  | nil => rfl
  | cons j l ih =>
    rw [List.mem_cons, not_or] at h
    rw [mchange_cons, ih h.2, mget_mset_ne _ _ _ h.1]

theorem mget_mchange_mem {k : Nat} {l : List Nat} (hnd : l.Nodup) (h : k ∈ l) (m : AMap α) :
    mget (mchange g d l m) k d = g k (mget m k d) := by
  induction l generalizing m with
  | nil => cases h
  | cons j l ih =>
    obtain ⟨hj, hnd⟩ := List.nodup_cons.1 hnd
    rw [mchange_cons]
    obtain rfl | h := List.mem_cons.1 h
    · rw [mget_mchange_notMem g d hj, mget_mset_self]
    · have hkj : k ≠ j := fun he => hj (he ▸ h)
      rw [ih hnd h, mget_mset_ne _ _ _ hkj]

/-- What each change of a key establishes holds at the end, also where a key is changed more than once. -/
theorem mget_mchange_establishes {k : Nat} {P : α → Prop} (hg : ∀ x, P (g k x)) {l : List Nat} (h : k ∈ l) (m : AMap α) :
    P (mget (mchange g d l m) k d) := by
  induction l generalizing m with
  | nil => cases h
  | cons j l ih =>
    rw [mchange_cons]
    by_cases hk : k ∈ l
    · exact ih hk _
    · obtain rfl | h := List.mem_cons.1 h
      · rw [mget_mchange_notMem g d hk, mget_mset_self]
        exact hg _
      · exact absurd h hk

/-- What stands at a key after sums are booked one after another. -/
theorem mget_foldl_add {β : Type} (key v : β → Nat) (l : List β) (m : AMap Nat) (n : Nat) :
    mget (l.foldl (fun m p => mset m (key p) (mget m (key p) 0 + v p)) m) n 0
      = mget m n 0 + ((l.filter fun p => key p == n).map v).sum := by
  induction l generalizing m with
  | nil => rfl
  | cons p l ih =>
    rw [List.foldl_cons, ih, mget_mset, List.filter_cons]
    by_cases h : n = key p
    · subst h
      simp [Nat.add_assoc]
    · simp [h, Ne.symm h]

/-- What stands at a key after entries with different keys are written one after another. -/
theorem mfind_foldl_mset {β : Type} (key : β → Nat) (v : β → α) {l : List β} (hnd : (l.map key).Nodup) {p : β} (hp : p ∈ l) :
    mfind (l.foldl (fun m p => mset m (key p) (v p)) []) (key p) = some (v p) := by
  have hkeys : ((l.map fun p => (key p, v p)).map Prod.fst).Nodup := by rwa [List.map_map]
  have hlist := mfind_listed (l.map fun p => (key p, v p)) hkeys [] (key p)
  rw [List.foldl_map] at hlist
  rw [hlist, mfind_some_of_mem hkeys (List.mem_map_of_mem (f := fun p => (key p, v p)) hp)]
  rfl

end

/-! ### The cells of a gang changed one after another -/

/-- Changes some cells. -/
def State.updCells (s : State) (l : List Nat) (g : Nat → Cell → Cell) : State := { s with cells := mchange g {} l s.cells }

section
variable {s : State} {l : List Nat} {g : Nat → Cell → Cell} {c : Nat}

/-- A fold that changes each cell by what the rest of the state says. -/
theorem foldState_updCell (F : State → Nat → Cell → Cell) (hF : ∀ u m, F { u with cells := m } = F u) (s : State) (l : List Nat) :
    (foldState l s fun c st => st.updCell c (F st c)) = s.updCells l (F s) := by
  induction l generalizing s with
  | nil => rfl
  | cons c l ih =>
    have hs : F (s.updCell c (F s c)) = F s := hF s _
    show (foldState l (s.updCell c (F s c)) fun c st => st.updCell c (F st c)) = _
    rw [ih, hs]
    rfl

theorem cell_updCells_mem (hnd : l.Nodup) (hc : c ∈ l) : (s.updCells l g).cell c = g c (s.cell c) := mget_mchange_mem g {} hnd hc s.cells

theorem cell_updCells_establishes {P : Cell → Prop} (hg : ∀ x, P (g c x)) (hc : c ∈ l) : P ((s.updCells l g).cell c) :=
  mget_mchange_establishes g {} hg hc s.cells

end

/-! ### A task found after a change -/

section
variable {s : State} {i : Nat}

/-- A task that is put in the place of one. -/
theorem State.task?_put {u : Task} (hu : u.id = i) (h : ∃ t ∈ s.tasks, t.id = i) : (s.updTask i fun _ => u).task? i = some u := by
  obtain ⟨t, ht, hid⟩ := h
  show (s.tasks.map fun k => if k.id = i then u else k).find? (fun k => k.id == i) = some u
  generalize s.tasks = ts at ht ⊢
  induction ts with
  | nil => cases ht
  | cons k ks ih =>
    rw [List.map_cons]
    by_cases hk : k.id = i
    · rw [if_pos hk, List.find?_cons_of_pos (by simpa using hu)]
    · rw [if_neg hk, List.find?_cons_of_neg (by simpa using hk)]
      obtain rfl | ht := List.mem_cons.1 ht
      · exact absurd hid hk
      · exact ih ht

/-- A task found after a change that keeps identifiers. -/
theorem State.task?_changed {k : Task} (h : s.task? i = some k) {f : Task → Task} (hf : ∀ t, (f t).id = t.id) :
    (s.updTask i f).task? i = some (f k) := by
  rw [State.task?_updTask s i i f hf, if_pos rfl, h]
  rfl

theorem State.task?_other {j : Nat} (hj : j ≠ i) {f : Task → Task} (hf : ∀ t, (f t).id = t.id) :
    (s.updTask i f).task? j = s.task? j := by
  rw [State.task?_updTask s i j f hf, if_neg hj]

end

/-! ### Reads at their homes (R44, R279) -/

/-- Reads leave the tasks, and all but the traces of a read, as they were. -/
def JustReads (s t : State) : Prop := ReadsOnly s t ∧ t.tasks = s.tasks

namespace JustReads
variable {s u : State}

theorem refl (s : State) : JustReads s s := ⟨rfl, rfl⟩

theorem foldState {α : Type} {l : List α} {f : α → State → State} (h : JustReads s u)
    (hf : ∀ x v, JustReads s v → JustReads s (f x v)) :
    JustReads s (foldState l u f) := foldState_keeps (JustReads s) f hf l u h

theorem useRange {pa n : Nat} (h : JustReads s u) : JustReads s (u.useRange pa n) := h

theorem arrive {as : List Served} (h : JustReads s u) : JustReads s (u.arrive as) := h

theorem walksUse {asid : Nat} {pages : List Nat} (h : JustReads s u) : JustReads s (u.walksUse asid pages) :=
  h.foldState fun _ _ hv => hv.foldState fun _ _ hw => hw.useRange

theorem homeWatch {pa n : Nat} {wr : Bool} {ag : Agent} (h : JustReads s u) : JustReads s (u.homeWatch pa n wr ag) := by
  unfold State.homeWatch
  split
  · exact h
  · refine h.useRange.foldState fun i v hv => ?_
    split
    · unfold State.appendLog
      split
      · exact hv
      · exact hv
    · exact hv

theorem blocksRead {ag : Agent} {pas : List Nat} (h : JustReads s u) : JustReads s (u.blocksRead ag pas) :=
  h.foldState fun _ _ hv => hv.homeWatch

theorem prefetchRead {t : Task} {ps : List Prefetch} (h : JustReads s u) : JustReads s (u.prefetchRead t ps) :=
  h.foldState fun _ _ hv => hv.blocksRead

theorem task? (h : JustReads s u) (i : Nat) : u.task? i = s.task? i := congrArg (List.find? fun (k : Task) => k.id == i) h.2

/-- A task that takes what was read. -/
theorem updTask (h : JustReads s u) (i : Nat) (f : Task → Task) : ReadsOnly s (u.updTask i f) := h.1

end JustReads

end Sys2Proof.Machine
end

section
namespace Sys2Proof.Machine

/-! ### The expansion of a launch (R92) -/

section
variable {s : State} {l : Launch}

/-- The task that an expansion queues, and what else it changes. -/
theorem expand_tasks (s : State) (l : Launch) : ∃ u : Task, (s.expand l).tasks = s.tasks ++ [u] ∧ u.tag = l.tag ∧ u.pid = l.pid
    ∧ u.st = .queued ∧ u.launch = some { launch := l.id, i := l.next % l.nx, j := l.next / l.nx, nx := l.nx, ny := l.ny }
    ∧ u.argWait = some s.clock.tbase := by
  unfold State.expand
  dsimp only
  split
  · exact ⟨_, rfl, rfl, rfl, rfl, rfl, rfl⟩
  · exact ⟨_, rfl, rfl, rfl, rfl, rfl, rfl⟩

theorem expand_frame (s : State) (l : Launch) :
    (s.expand l).launches = s.launches.map (fun m => if m.id = l.id then { m with next := m.next + 1 } else m)
      ∧ (s.expand l).mem = s.mem ∧ (s.expand l).cells = s.cells := by
  unfold State.expand
  dsimp only
  split
  · exact ⟨rfl, rfl, rfl⟩
  · exact ⟨rfl, rfl, rfl⟩

/-- A launch at the head of its queue for which a wing has a place is expanded. -/
theorem exec_launchExpand (hfind : s.launches.find? (fun m => m.id == l.id) = some l) (hhead : s.queueHead l.tag = some (.launch l))
    (hen : (s.rtag l.tag).en = true) (hhold : s.sched.hold = false) (hhalt : l.halted = false) (hfree : 1024 < s.qfree)
    (hwm : s.withheld { tag := l.tag, gen := l.gen } = false)
    (hplace : ∃ w < 4, (s.placeIn { tag := l.tag, gen := l.gen } w).isSome = true) :
    exec (.launchExpand l.id) s = .next ((s.expand l).touchWm l.tag) := by
  have hany : ((upTo 4).any fun w => (s.placeIn { tag := l.tag, gen := l.gen } w).isSome) = true := by
    obtain ⟨w, hw, hp⟩ := hplace
    exact List.any_eq_true.2 ⟨w, List.mem_range.2 hw, hp⟩
  show execLaunchExpand l.id s = _
  unfold execLaunchExpand
  rw [hfind]
  exact congrArg Host.Outcome.next (if_pos ⟨hhead, hen, hhold, hhalt, hfree, hwm, hany⟩)

end

/-! ### The read of pages and blocks that are present (R45, R267, R488) -/

theorem heldFor_eq_false {t : Task} {pages : List Nat} (h : ∀ p ∈ pages, p ∉ t.argReported) : t.heldFor pages = false := by
  refine List.any_eq_false.2 fun p hp hc => h p hp ?_
  simpa using hc

theorem walkPoison_none {s : State} {asid : Nat} {rs : List (Nat × Nat)} (h : s.absentPages asid rs = []) {p : Nat}
    (hp : p ∈ pagesIn rs) :
    s.walkPoison asid p = none := by
  have hno := List.filter_eq_nil_iff.1 h p hp
  simp only [Bool.or_eq_true, not_or, Bool.not_eq_true, Option.isSome_eq_false_iff, Option.isNone_iff_eq_none] at hno
  exact hno.2

/-- A task whose argument block has been read (R488). -/
def Task.withArg (t : Task) (bytes : List Byte) : Task := { t with arg := bytes, argWait := none, argHeld := none, argReported := [] }

/-- An argument block whose pages are present, whose slices are awake and whose homes have served no later requester is read. -/
theorem exec_argReadComplete {s : State} {k : Task} {ref : LaunchRef} {l : Launch} (hk : s.task? s.cur.subject = some k)
    (href : k.launch = some ref) (hwait : k.argWait ≠ none) (hst : k.st = .queued)
    (hl : s.launches.find? (fun m => m.id == ref.launch) = some l) (hrep : ∀ p ∈ pagesIn [l.argRange ref], p ∉ k.argReported)
    (htab : s.walksAsleep (s.asidOf k) (pagesIn [l.argRange ref]) = [])
    (hbind : s.bindCheck k { ea := (l.argRange ref).1 } (l.argRange ref).2 .load = none)
    (habs : s.absentPages (s.asidOf k) [l.argRange ref] = []) (hsleep : s.blocksAsleep (s.blocksAt (s.asidOf k) [l.argRange ref]) = [])
    (hok : ∀ pa ∈ s.blocksAt (s.asidOf k) [l.argRange ref], s.routed pa = true ∧ tagPoison (s.physTag pa) = false)
    (hlate : s.tooLate (s.memArrivals ((s.blocksAt (s.asidOf k) [l.argRange ref]).map fun pa => (pa, 64)) argKey) = false) :
    ∃ u, JustReads s u ∧ exec .argReadComplete s = .next (u.updTask k.id fun q =>
      q.withArg ((s.blocksAt (s.asidOf k) [l.argRange ref]).flatMap fun pa => s.physBytes pa 64)) := by
  have hreads := ((JustReads.refl s).walksUse (asid := s.asidOf k) (pages := pagesIn [l.argRange ref])).arrive
    (as := s.memArrivals ((s.blocksAt (s.asidOf k) [l.argRange ref]).map fun pa => (pa, 64)) argKey)
  refine ⟨_, hreads.blocksRead (ag := s.argAgent k) (pas := s.blocksAt (s.asidOf k) [l.argRange ref]), ?_⟩
  obtain ⟨q, hq⟩ := Option.ne_none_iff_exists'.1 hwait
  have hpoison : ((pagesIn [l.argRange ref]).any fun p => (s.walkPoison (s.asidOf k) p).isSome) = false :=
    List.any_eq_false.2 fun p hp => by rw [walkPoison_none habs hp]; decide
  have hrouted : (s.blocksAt (s.asidOf k) [l.argRange ref]).all s.routed = true := List.all_eq_true.2 fun pa hpa => (hok pa hpa).1
  have hclean : ((s.blocksAt (s.asidOf k) [l.argRange ref]).any fun pa => tagPoison (s.physTag pa)) = false :=
    List.any_eq_false.2 fun pa hpa => by rw [(hok pa hpa).2]; decide
  show execArgReadComplete s = _
  unfold execArgReadComplete
  rw [hk]
  dsimp only
  rw [href, hq]
  dsimp only
  rw [hl]
  dsimp only
  rw [hst, heldFor_eq_false hrep, htab, hbind, hpoison, habs, hsleep, hrouted, hlate, hclean]
  rfl

/-! ### The choice of a dispatcher (R105, R109, R141, R143) -/

section
variable {s : State}

/-- A fold that keeps the best of a list so far ends with an entry of the list. -/
theorem foldl_best_mem {α : Type} {f : Option α → α → Option α} (hf : ∀ best a, f best a = some a ∨ f best a = best)
    {l : List α} {b : α}
    {best : Option α} (h : l.foldl f best = some b) : b ∈ l ∨ best = some b := by
  induction l generalizing best with
  | nil => exact .inr h
  | cons a l ih =>
    obtain hl | hl := ih h
    · exact .inl (List.mem_cons_of_mem _ hl)
    · obtain ha | ha := hf best a
      · exact .inl (Option.some.inj (hl.symm.trans ha) ▸ List.mem_cons_self)
      · exact .inr (ha.symm.trans hl)

/-- The head of a list of entries is one of them. -/
theorem firstItem_mem {qs : List QItem} {q : QItem} (h : s.firstItem qs = some q) : q ∈ qs := by
  unfold State.firstItem at h
  refine (foldl_best_mem (fun best a => ?_) h).resolve_right fun hq => nomatch hq
  cases best with
  | none => exact .inl rfl
  | some b =>
    dsimp only
    split
    · exact .inl rfl
    · exact .inr rfl

theorem queueHead_task {tag : Nat} {t : Task} (h : s.queueHead tag = some (.task t)) : t ∈ s.tasks := by
  obtain hm | hm := List.mem_append.1 (firstItem_mem h)
  · obtain ⟨x, hx, heq⟩ := List.mem_map.1 hm
    exact QItem.task.inj heq ▸ List.mem_of_mem_filter hx
  · obtain ⟨x, -, heq⟩ := List.mem_map.1 hm
    exact nomatch heq

theorem eligible_task {w tag r x y : Nat} {t : Task} (h : s.eligible w tag = some (t, r, x, y)) : t ∈ s.tasks := by
  unfold State.eligible at h
  split at h
  · exact nomatch h
  · split at h
    next u hu =>
      split at h
      · obtain ⟨p, -, hp⟩ := Option.map_eq_some_iff.1 h
        obtain ⟨rfl, -⟩ := Prod.mk.inj hp
        exact queueHead_task hu
      · exact nomatch h
    next => exact nomatch h

/-! #### Settlements before a draw keep the entries of every tag -/

/-- The entries of every tag are as before. -/
def EntriesKept (s t : State) : Prop := ∀ tag gen, (t.rtag tag).entry gen = (s.rtag tag).entry gen

theorem EntriesKept.refl (s : State) : EntriesKept s s := fun _ _ => rfl

theorem EntriesKept.ite {c : Prop} [Decidable c] {a b : State} (ha : EntriesKept s a) (hb : EntriesKept s b) :
    EntriesKept s (if c then a else b) := by
  split
  · exact ha
  · exact hb

theorem EntriesKept.meterStop {u : State} (h : EntriesKept s u) (t : Task) (c cost : Nat) (atEntry : Bool) :
    EntriesKept s (u.meterStop t c cost atEntry) := by
  unfold State.meterStop State.appendLog
  split
  · exact fun tag gen => ((VanishKeeps.refl _).vanishN.entries tag gen).trans (h tag gen)
  · exact fun tag gen => ((VanishKeeps.refl _).vanishN.entries tag gen).trans (h tag gen)

theorem EntriesKept.stillStalled {u : State} (h : EntriesKept s u) (t : Task) (c : Nat) (grant : Bool) :
    EntriesKept s (u.stillStalled t c grant) := .ite h (.ite h (h.meterStop _ _ _ _))

theorem EntriesKept.settleTopup {u : State} (h : EntriesKept s u) (q : TopReq) : EntriesKept s (u.settleTopup q) := by
  unfold State.settleTopup
  split
  · exact h
  · refine .ite h (.ite ?_ ?_)
    · refine EntriesKept.stillStalled ?_ _ _ _
      exact h
    · refine EntriesKept.stillStalled ?_ _ _ _
      exact h

theorem EntriesKept.settleNext {u : State} (h : EntriesKept s u) (acct : Nat) : EntriesKept s (u.settleNext acct) := by
  unfold State.settleNext
  split
  · exact h
  · dsimp only
    split
    · refine EntriesKept.settleTopup ?_ _
      exact h
    · refine .ite ?_ h
      exact h

theorem settleFor_entries (s : State) (tag : Nat) : EntriesKept s (s.settleFor tag) := by
  unfold State.settleFor
  split
  · exact foldState_keeps (EntriesKept s) _ (fun q _ hu => hu.settleNext q.acct) _ _ (.refl s)
  · exact .refl s

theorem settleFor_entryOf (s : State) (tag : Nat) (k : Task) : (s.settleFor tag).entryOf k = s.entryOf k := settleFor_entries s tag _ _

/-! #### Staging (R45, R113) -/

/-- A task as it stands once it is staged. -/
def State.stagedTask (s : State) (t : Task) (r x y : Nat) : Task :=
  { s.placed t r x y with
    st := .staged, runnable := false, stageNo := s.sched.stageNo, prefetched := [], pfCellar := [], pfHeld := none,
    pfNoRoute := none, argReported := [], wake := false, decl := if t.ctx.isSome then t.decl else s.declareAll t }

/-- A task is put in the place of one that waited, with the next number of staging. -/
def State.putStaged (s : State) (t u : Task) : State :=
  ({ s.updTask t.id (fun _ => u) with sched := { s.sched with stageNo := s.sched.stageNo + 1 } }).touchWm t.tag

theorem putStaged_task {t u : Task} (hu : u.id = t.id) (ht : t ∈ s.tasks) : (s.putStaged t u).task? t.id = some u :=
  State.task?_put hu ⟨t, ht, rfl⟩

theorem putStaged_frame (t u : Task) : (s.putStaged t u).sched.lastStage = s.sched.lastStage ∧ (s.putStaged t u).mem = s.mem
    ∧ (s.putStaged t u).ops = s.ops ∧ (s.putStaged t u).accts = s.accts ∧ (s.putStaged t u).cells = s.cells :=
  ⟨rfl, rfl, rfl, rfl, rfl⟩

/-- A cell with a task in its next shadow slot. -/
def Cell.withShadow (i : Nat) (cl : Cell) : Cell := { cl with shadow := cl.shadow ++ [i] }

/-- A task's declaration is drawn, it stands in the shadow slots of some cells, and some arrays leave retention. -/
def State.draws (s : State) (acct mu i : Nat) (cs : List Nat) (as : List RetArray) : State :=
  ((s.updAcct acct fun a => a.draw mu).updCells cs fun _ => Cell.withShadow i).beginExit as

theorem draws_frame (acct mu i : Nat) (cs : List Nat) (as : List RetArray) : (s.draws acct mu i cs as).sched = s.sched
    ∧ (s.draws acct mu i cs as).mem = s.mem ∧ (s.draws acct mu i cs as).ops = s.ops ∧ (s.draws acct mu i cs as).tasks = s.tasks :=
  ⟨rfl, rfl, rfl, rfl⟩

theorem draws_acct (acct mu i : Nat) (cs : List Nat) (as : List RetArray) :
    (s.draws acct mu i cs as).acct acct = (s.acct acct).draw mu := mget_mset_self _ _ _ _

theorem draws_cell (acct mu i : Nat) {cs : List Nat} (as : List RetArray) (hnd : cs.Nodup) {c : Nat} (hc : c ∈ cs) :
    (s.draws acct mu i cs as).cell c = (s.cell c).withShadow i :=
  cell_updCells_mem (s := s.updAcct acct fun a => a.draw mu) (g := fun _ => Cell.withShadow i) hnd hc

variable (s) (t : Task) (r x y : Nat)

theorem stageAt_eq : s.stageAt t r x y = (s.draws (s.entryOf t).acct (s.drawOf t) t.id (s.stagedTask t r x y).gang
    (s.stagedTask t r x y).spads).putStaged t (s.stagedTask t r x y) := by
  unfold State.draws
  rw [← foldState_updCell (fun _ _ => Cell.withShadow t.id) fun _ _ => rfl]
  rfl

/-- What a task that is staged at a position draws and takes. -/
theorem stageAt_facts (ht : t ∈ s.tasks) (hnd : (s.stagedTask t r x y).gang.Nodup) :
    (s.stageAt t r x y).task? t.id = some (s.stagedTask t r x y)
      ∧ (s.stageAt t r x y).acct (s.entryOf t).acct = (s.acct (s.entryOf t).acct).draw (s.drawOf t)
      ∧ (∀ c ∈ (s.stagedTask t r x y).gang, ((s.stageAt t r x y).cell c).shadow = (s.cell c).shadow ++ [t.id])
      ∧ (s.stageAt t r x y).sched.lastStage = s.sched.lastStage ∧ (s.stageAt t r x y).mem = s.mem
      ∧ (s.stageAt t r x y).ops = s.ops := by
  rw [stageAt_eq]
  have hu : (s.stagedTask t r x y).id = t.id := rfl
  generalize s.stagedTask t r x y = u at hnd hu ⊢
  obtain ⟨hsched, hmem, hops, htasks⟩ := draws_frame (s := s) (s.entryOf t).acct (s.drawOf t) t.id u.gang u.spads
  have hacct := draws_acct (s := s) (s.entryOf t).acct (s.drawOf t) t.id u.gang u.spads
  have hcell := fun c (hc : c ∈ u.gang) => draws_cell (s := s) (s.entryOf t).acct (s.drawOf t) t.id u.spads hnd hc
  generalize s.draws (s.entryOf t).acct (s.drawOf t) t.id u.gang u.spads = v at *
  obtain ⟨hlast', hmem', hops', haccts', hcells'⟩ := putStaged_frame (s := v) t u
  refine ⟨putStaged_task hu (htasks ▸ ht), ?_, fun c hc => ?_, ?_, hmem'.trans hmem, hops'.trans hops⟩
  · rw [← hacct]
    exact congrArg (fun m : AMap Acct => mget m (s.entryOf t).acct {}) haccts'
  · have hshadow : (v.cell c).shadow = (s.cell c).shadow ++ [t.id] := congrArg Cell.shadow (hcell c hc)
    rw [← hshadow]
    exact congrArg (fun m : AMap Cell => (mget m c {}).shadow) hcells'
  · rw [hlast', hsched]

end

/-- The turn of a dispatcher that stages the task which its wing has chosen. -/
theorem exec_dispatchStage {s : State} {k : Task} {tag r x y : Nat} (hsub : s.cur.subject < 4) (hhold : s.sched.hold = false)
    (hturn : ∀ v < 4, s.cur.subject ≤ v → mfind s.sched.lastStage v ≠ some s.clock.tick) (hwm : s.touchAllWm = s)
    (hat : s.sched.chosenAt = some s.clock.tick) (hchosen : mfind s.sched.chosen s.cur.subject = some tag)
    (hel : (s.settleFor tag).eligible s.cur.subject tag = some (k, r, x, y)) :
    exec .dispatchStage s = .next (({ s.settleFor tag with sched := { (s.settleFor tag).sched with
      lastStage := mset (s.settleFor tag).sched.lastStage s.cur.subject s.clock.tick } } : State).stageAt k r x y) := by
  have hnot : ¬ (4 ≤ s.cur.subject ∨ s.sched.hold = true
      ∨ ((upTo 4).any fun v => decide (s.cur.subject ≤ v) && mfind s.sched.lastStage v == some s.clock.tick) = true) := by
    rw [hhold]
    rintro (h | h | h)
    · exact absurd hsub (by omega)
    · exact nomatch h
    · obtain ⟨v, hv, h⟩ := List.any_eq_true.1 h
      rw [Bool.and_eq_true, decide_eq_true_eq, beq_iff_eq] at h
      exact hturn v (List.mem_range.1 hv) h.1 h.2
  refine congrArg Host.Outcome.next ?_
  unfold State.dispatch
  dsimp only
  rw [if_neg hnot, hwm, if_pos hat, hchosen]
  dsimp only
  rw [hel]

end Sys2Proof.Machine
end

section
namespace Sys2Proof.Machine

/-! ### The loads of a prefetch list (R113, R170) -/

section
variable {s : State} {k : Task}

/-- A task whose prefetch list has been loaded. -/
def State.loadedTask (s : State) (t : Task) (ps : List Prefetch) (k : Task) : Task :=
  { k with
    runnable := true, pfHeld := none, pfNoRoute := none, argReported := []
    prefetched := ps.foldl (fun m p => mset m (2 * p.pos t + p.slot) (s.prefetchTile t p)) []
    pfCellar := ps.foldl (fun m p => mset m (p.pos t) (mget m (p.pos t) 0 + s.cellarBlocks t p)) [] }

/-- The state in which the loads of a task have read their blocks. -/
def State.prefetchReads (s : State) (t : Task) : State :=
  let ps := (s.handlerOf t).prefetch
  ((s.walksUse (s.asidOf t) (pagesIn (ps.map fun p => p.range t))).arrive (s.prefetchArrivals t ps)).prefetchRead t ps

theorem prefetchReads_justReads (s : State) (t : Task) : JustReads s (s.prefetchReads t) :=
  (JustReads.refl s).walksUse.arrive.prefetchRead

theorem prefetchReads_nil (h : (s.handlerOf k).prefetch = []) : s.prefetchReads k = s := by
  unfold State.prefetchReads
  rw [h]
  exact congrArg (fun as => { s with served := as }) (List.append_nil s.served)

/-- Loads whose pages are present, whose slices are awake, which have a route and follow no other message complete. -/
theorem prefetch_ready (hrep : ∀ q ∈ pagesIn ((s.handlerOf k).prefetch.map fun p => p.range k), q ∉ k.argReported)
    (htab : s.walksAsleep (s.asidOf k) (pagesIn ((s.handlerOf k).prefetch.map fun p => p.range k)) = [])
    (habs : s.absentPages (s.asidOf k) ((s.handlerOf k).prefetch.map fun p => p.range k) = [])
    (hsleep : s.blocksAsleep (s.blocksAt (s.asidOf k) ((s.handlerOf k).prefetch.map fun p => p.range k)) = [])
    (hroute : ∀ pa ∈ s.blocksAt (s.asidOf k) ((s.handlerOf k).prefetch.map fun p => p.range k), s.routed pa = true)
    (hbehind : s.prefetchBehind k (s.handlerOf k).prefetch = false)
    (hlate : s.tooLate (s.prefetchArrivals k (s.handlerOf k).prefetch) = false) :
    s.prefetch k = (s.prefetchReads k).updTask k.id (s.loadedTask k (s.handlerOf k).prefetch) := by
  have hrouted := List.all_eq_true.2 hroute
  unfold State.prefetch
  dsimp only
  rw [heldFor_eq_false hrep, htab, habs, hsleep, hrouted, hbehind, hlate]
  rfl

/-- The loads of a staged task whose planes are filled. -/
theorem exec_prefetchComplete (hk : s.task? s.cur.subject = some k) (hst : k.st = .staged) (hrun : k.runnable = false)
    (hplanes : s.planesHeld k = true) (hctx : k.ctx = none) : exec .prefetchComplete s = .next (s.prefetch k) := by
  have hnot : ¬ (k.st ≠ .staged ∨ k.runnable = true ∨ s.planesHeld k = false) := by
    rw [hst, hrun, hplanes]
    decide
  show execPrefetchComplete s = _
  unfold execPrefetchComplete
  rw [hk]
  dsimp only
  rw [if_neg hnot, hctx]
  rfl

theorem prefetch_empty (h : (s.handlerOf k).prefetch = []) : s.prefetch k = s.updTask k.id (s.loadedTask k []) := by
  have hready := prefetch_ready (s := s) (k := k)
  rw [prefetchReads_nil h] at hready
  rw [h] at hready
  exact hready (fun _ hq => nomatch hq) rfl rfl rfl (fun _ hpa => nomatch hpa) rfl rfl

end

/-! ### A standby plane (R139, R170) -/

section
variable {s : State} {k : Task}

/-- The standby plane of a cell receives the image of the first task staged there. -/
theorem exec_standbyFillComplete {c : Nat} (hc : s.cur.subject = c) (hk : (s.cell c).shadow.head?.bind s.task? = some k)
    (hold : (s.cell c).standby ≠ some (s.wantImg k c)) (hres : s.resident k.room (s.wantImg k c).ctn (s.wantImg k c).img = true) :
    exec .standbyFillComplete s = .next ((s.updCell c fun cl => { cl with standby := some (s.wantImg k c) }).houseDebit k.room
      (8 * (s.imgCell (s.wantImg k c)).blocks)) := by
  subst hc
  have hnot : ¬ ((s.cell s.cur.subject).standby = some (s.wantImg k s.cur.subject)
      ∨ s.resident k.room (s.wantImg k s.cur.subject).ctn (s.wantImg k s.cur.subject).img = false) := by
    rw [hres]
    exact fun h => h.elim hold fun h => nomatch h
  show execStandbyFillComplete s = _
  unfold execStandbyFillComplete
  dsimp only
  rw [hk]
  exact congrArg Host.Outcome.next (if_neg hnot)

/-- A cell with another standby plane. -/
theorem updStandby_facts (s : State) (c : Nat) (i : ImgRef) :
    let t := s.updCell c fun cl => { cl with standby := some i }
    (t.cell c).standby = some i ∧ Cell.engines { t.cell c with standby := (s.cell c).standby } = (s.cell c).engines
      ∧ ∀ d, d ≠ c → t.cell d = s.cell d := by
  intro t
  have hcell : ∀ d, t.cell d = if d = c then { s.cell c with standby := some i } else s.cell d := fun d =>
    State.cell_updCell s c d fun cl => { cl with standby := some i }
  refine ⟨?_, ?_, fun d hd => (hcell d).trans (if_neg hd)⟩
  · rw [hcell, if_pos rfl]
  · rw [hcell, if_pos rfl]

theorem houseDebit_pays {u : State} (hrooms : u.rooms = s.rooms) (haccts : u.accts = s.accts) (r mu : Nat) :
    HearthPays s (u.houseDebit r mu) r mu := by
  intro n
  have hroom : u.room r = s.room r := congrArg (fun m : AMap Room => mget m r {}) hrooms
  have hacct : ∀ j, u.acct j = s.acct j := fun j => congrArg (fun m : AMap Acct => mget m j {}) haccts
  unfold State.houseDebit
  rw [State.acct_updAcct, hroom, hacct, hacct]
  split
  next hn => rw [hn]
  next => rfl

end

end Sys2Proof.Machine
end

section
namespace Sys2Proof.Machine

/-! ### The cells of a task that enters (R114, R175, R271) -/

/-- A cell at the first entry of a run. -/
def State.enteredCell (s : State) (t : Task) (c : Nat) (old : Cell) : Cell :=
  (Cell.withImage { spad := { old.spad with table := [] }, tiles := t.entryTiles (t.posOf c),
                    meter := freshMeter ((s.handlerOf t).fig (t.posOf c)) (mget t.decl (t.posOf c) 0) }
    (s.imgCell (s.wantImg t c)) t).taken old t

/-- A cell that a saved context is loaded over. -/
def State.restoredCell (s : State) (from_ t : Task) (c : Nat) (k old : Cell) : Cell :=
  Cell.taken { k with
    spad := if kindOf c = .memory then k.spad.loaded t.id else old.spad, turned := none
    dda := { k.dda with doms := k.dda.doms.map fun p => (p.1, p.2.restored s.clock.tick) }
    scan := { k.scan with spad := k.scan.spad.map (from_.movedCell t) }
    elems := k.elems.map fun p => (p.1, { p.2 with barred := 0 }) } old t

section
variable {s : State} {k : Task}

theorem foldState_enterCell (s : State) (k : Task) (l : List Nat) :
    (foldState l s fun c st => st.enterCell k c) = s.updCells l (s.enteredCell k) :=
  foldState_updCell (fun u c => u.enteredCell k c) (fun _ _ => rfl) s l

theorem foldState_restoreCell (s : State) (old k : Task) (cells : AMap Cell) (l : List Nat) :
    (foldState l s fun c st => st.restoreCell old k c (mget cells (k.posOf c) {}))
      = s.updCells l fun c => s.restoredCell old k c (mget cells (k.posOf c) {}) :=
  foldState_updCell (fun u c => u.restoredCell old k c (mget cells (k.posOf c) {})) (fun _ _ => rfl) s l

/-! ### The entry debits (R114, R136) -/

/-- A cell with another meter. -/
def Cell.metered (cl : Cell) (m : Meter) : Cell := { cl with meter := m }

@[simp] theorem Cell.metered_meter (cl : Cell) (m : Meter) : (cl.metered m).meter = m := rfl

@[simp] theorem Cell.metered_metered (cl : Cell) (m n : Meter) : (cl.metered m).metered n = cl.metered n := rfl

@[simp] theorem Cell.metered_self (cl : Cell) : cl.metered cl.meter = cl := rfl

/-- Some cells have paid for the entry; nothing but their meters, and the top-up requests, differs. -/
structure EntryPaid (s t : State) (cost : Nat → Nat) (cs : List Nat) : Prop where
  tasks : t.tasks = s.tasks
  mem : t.mem = s.mem
  ops : t.ops = s.ops
  cell : ∀ d, ∃ m : Meter, t.cell d = (s.cell d).metered m
    ∧ m.bal = (s.cell d).meter.bal - if d ∈ cs then cost d else 0

theorem EntryPaid.nil (s : State) (cost : Nat → Nat) : EntryPaid s s cost [] :=
  ⟨rfl, rfl, rfl, fun d => ⟨(s.cell d).meter, rfl, rfl⟩⟩

theorem EntryPaid.cons {u t : State} {cost : Nat → Nat} {c : Nat} {cs : List Nat} (hc : c ∉ cs) (h : EntryPaid s u cost [c])
    (h' : EntryPaid u t cost cs) : EntryPaid s t cost (c :: cs) := by
  refine ⟨h'.tasks.trans h.tasks, h'.mem.trans h.mem, h'.ops.trans h.ops, fun d => ?_⟩
  obtain ⟨m, hm, hbal⟩ := h.cell d
  obtain ⟨m', hm', hbal'⟩ := h'.cell d
  refine ⟨m', by rw [hm', hm, Cell.metered_metered], ?_⟩
  rw [hbal', hm, Cell.metered_meter, hbal]
  by_cases hd : d = c
  · subst hd
    simp [hc]
  · simp [hd]

/-- A change of one meter, and of the requests. -/
theorem EntryPaid.of_meter (s : State) (c : Nat) (f : Meter → Meter) (q : Sched) {cost : Nat → Nat}
    (hf : (f (s.cell c).meter).bal = (s.cell c).meter.bal - cost c) :
    EntryPaid s { s.updMeter c f with sched := q } cost [c] := by
  refine ⟨rfl, rfl, rfl, fun d => ?_⟩
  have hcell : ({ s.updMeter c f with sched := q } : State).cell d
      = if d = c then (s.cell c).metered (f (s.cell c).meter) else s.cell d := State.cell_updMeter s c d f
  rw [hcell]
  by_cases hd : d = c
  · subst hd
    exact ⟨f (s.cell d).meter, by rw [if_pos rfl], by rw [if_pos (List.mem_singleton_self d), hf]⟩
  · exact ⟨(s.cell d).meter, by rw [if_neg hd, Cell.metered_self], by rw [if_neg (by simpa using hd), Nat.sub_zero]⟩

theorem EntryPaid.then {u t : State} {cost : Nat → Nat} {c : Nat} (h : EntryPaid s u cost [c]) (h' : EntryPaid u t (fun _ => 0) [c]) :
    EntryPaid s t cost [c] := by
  refine ⟨h'.tasks.trans h.tasks, h'.mem.trans h.mem, h'.ops.trans h.ops, fun d => ?_⟩
  obtain ⟨m, hm, hbal⟩ := h.cell d
  obtain ⟨m', hm', hbal'⟩ := h'.cell d
  refine ⟨m', by rw [hm', hm, Cell.metered_metered], ?_⟩
  rw [hbal', ite_self, hm, Nat.sub_zero, Cell.metered_meter, hbal]

theorem autoTopup_entryPaid (s : State) (t : Task) (c : Nat) : EntryPaid s (s.autoTopup t c) (fun _ => 0) [c] := by
  unfold State.autoTopup
  split
  · exact ⟨rfl, rfl, rfl, fun d => ⟨(s.cell d).meter, rfl, by rw [ite_self]; rfl⟩⟩
  · split
    · exact EntryPaid.of_meter s c (fun m => { m with autoLate := true }) s.sched rfl
    · have hcount := EntryPaid.of_meter s c (fun m => { m with acnt := m.acnt + 1 }) s.sched (cost := fun _ => 0) rfl
      exact hcount.then (EntryPaid.of_meter _ c
        (fun m => { m with pend := true, st := if m.st = .stalled then .stalled else .pending }) _ rfl)

/-- A gang that covers its entry debits pays them. -/
theorem entryDebits_paid {q : Task} {cs : List Nat} (hq : s.task? q.id = some q) (hnd : cs.Nodup)
    (hbal : ∀ c ∈ cs, q.entryCost (q.posOf c) ≤ (s.cell c).meter.bal) :
    EntryPaid s (s.entryDebits q.id cs) (fun c => q.entryCost (q.posOf c)) cs := by
  induction cs generalizing s with
  | nil => exact .nil s _
  | cons c cs ih =>
    obtain ⟨hc, hnd⟩ := List.nodup_cons.1 hnd
    have hpay : EntryPaid s ((s.updMeter c fun m => m.entryDebit (q.entryCost (q.posOf c))).autoTopup q c)
        (fun c => q.entryCost (q.posOf c)) [c] :=
      (EntryPaid.of_meter s c (fun m => m.entryDebit (q.entryCost (q.posOf c))) s.sched rfl).then (autoTopup_entryPaid _ q c)
    unfold State.entryDebits
    rw [hq]
    dsimp only
    rw [if_pos (hbal c List.mem_cons_self)]
    refine hpay.cons hc (ih ?_ hnd fun d hd => ?_)
    · rw [← hq]
      exact congrArg (List.find? fun (t : Task) => t.id == q.id) hpay.tasks
    · obtain ⟨m, hm, hmb⟩ := hpay.cell d
      have hne : d ∉ [c] := fun he => hc (List.mem_singleton.1 he ▸ hd)
      rw [if_neg hne, Nat.sub_zero] at hmb
      rw [hm, Cell.metered_meter, hmb]
      exact hbal d (List.mem_cons_of_mem _ hd)

/-! ### The task enters -/

/-- A task that runs from its beginning. -/
def Task.begun (t : Task) : Task := { t with st := .running, runnable := false, iters := 0, dcount := 0 }

/-- A gang enters anew: its cells are taken, and its entry debits are paid. -/
def State.enterFresh (s : State) (t : Task) : State :=
  if (s.entryOf t).mmode then (s.updCells t.gang (s.enteredCell t)).updTask t.id Task.begun
  else ((s.updCells t.gang (s.enteredCell t)).updTask t.id Task.begun).entryDebits t.id t.gang

/-- A task that runs on from its saved context. -/
def Task.resumed (t : Task) : Task :=
  { t with st := .running, runnable := false, ctx := none, wake := false, parkWord := none, parkOp := 0, parkId := 0, gate := .none }

/-- A task as it stood where its context was saved. -/
def Task.savedAt (t : Task) (x : Ctx) : Task := { t with room := x.room, x0 := x.x0, y0 := x.y0 }

/-- A gang enters from its saved context: its cells are loaded, and its operations are issued again. -/
def State.enterRestored (s : State) (t : Task) (x : Ctx) : State :=
  let u := (s.updCells t.gang fun c => s.restoredCell (t.savedAt x) t c (mget x.cells (t.posOf c) {})).updTask t.id Task.resumed
  ({ u with ops := u.ops ++ x.ops.map (s.reissue (t.savedAt x) t) }).injectAll (x.ops.map Op.id)

/-- The cells of a gang are free, and it is the first staged in each. -/
theorem gang_free (hfree : ∀ c ∈ k.gang, (s.cell c).owner = none ∧ (s.cell c).shadow.head? = some k.id) :
    (k.gang.all fun c => (s.cell c).owner.isNone && (s.cell c).shadow.head? == some k.id) = true := by
  refine List.all_eq_true.2 fun c hc => ?_
  obtain ⟨howner, hhead⟩ := hfree c hc
  rw [howner, hhead, beq_self_eq_true]
  rfl

/-- A runnable task without a context whose planes are held and whose cells are free enters anew. -/
theorem exec_taskEnterRunning_fresh (hk : s.task? s.cur.subject = some k) (hst : k.st = .staged) (hrun : k.runnable = true)
    (hplanes : s.planesHeld k = true) (hfree : ∀ c ∈ k.gang, (s.cell c).owner = none ∧ (s.cell c).shadow.head? = some k.id)
    (hctx : k.ctx = none) :
    exec .taskEnterRunning s = .next ((s.enterFresh k).updTask k.id fun q => { q with prefetched := [], pfCellar := [] }) := by
  unfold State.enterFresh
  rw [← foldState_enterCell]
  show execTaskEnterRunning s = _
  unfold execTaskEnterRunning
  rw [hk]
  dsimp only
  rw [gang_free hfree, hst, hrun, hplanes, hctx]
  rfl

/-- One with a context, where its scratchpads are awake, enters from it. -/
theorem exec_taskEnterRunning_restored {x : Ctx} (hk : s.task? s.cur.subject = some k) (hst : k.st = .staged)
    (hrun : k.runnable = true) (hplanes : s.planesHeld k = true)
    (hfree : ∀ c ∈ k.gang, (s.cell c).owner = none ∧ (s.cell c).shadow.head? = some k.id) (hctx : k.ctx = some x)
    (hawake : ∀ a ∈ k.spads, s.retained a = false) : exec .taskEnterRunning s = .next (s.enterRestored k x) := by
  have hnone : k.spads.any s.retained = false := List.any_eq_false.2 fun a ha => by rw [hawake a ha]; decide
  unfold State.enterRestored
  rw [← foldState_restoreCell]
  show execTaskEnterRunning s = _
  unfold execTaskEnterRunning
  rw [hk]
  dsimp only
  rw [gang_free hfree, hst, hrun, hplanes, hnone, hctx]
  rfl

/-- A gang that enters anew: its cells, and what their meters hold after the entry debits. -/
theorem enterFresh_facts (hk : s.task? k.id = some k) (hnd : k.gang.Nodup)
    (hpay : (s.entryOf k).mmode = true ∨ ∀ c ∈ k.gang, k.entryCost (k.posOf c) ≤ mget k.decl (k.posOf c) 0) :
    (s.enterFresh k).task? k.id = some k.begun ∧ (s.enterFresh k).mem = s.mem ∧ (s.enterFresh k).ops = s.ops
      ∧ ∀ c ∈ k.gang, ∃ m : Meter, (s.enterFresh k).cell c = (s.enteredCell k c (s.cell c)).metered m
        ∧ m.bal = mget k.decl (k.posOf c) 0 - if (s.entryOf k).mmode then 0 else k.entryCost (k.posOf c) := by
  have hq : ((s.updCells k.gang (s.enteredCell k)).updTask k.id Task.begun).task? k.id = some k.begun :=
    State.task?_changed (s := s.updCells k.gang (s.enteredCell k)) hk fun _ => rfl
  have hcell : ∀ c ∈ k.gang, ((s.updCells k.gang (s.enteredCell k)).updTask k.id Task.begun).cell c = s.enteredCell k c (s.cell c) :=
    fun c hc => cell_updCells_mem hnd hc
  unfold State.enterFresh
  cases hm : (s.entryOf k).mmode with
  | true => exact ⟨hq, rfl, rfl, fun c hc => ⟨_, hcell c hc, rfl⟩⟩
  | false =>
    have hcost : ∀ c ∈ k.gang, k.entryCost (k.posOf c) ≤ mget k.decl (k.posOf c) 0 := hpay.resolve_left (by rw [hm]; decide)
    have hpaid := entryDebits_paid (q := k.begun) hq hnd fun c hc => by rw [hcell c hc]; exact hcost c hc
    refine ⟨?_, hpaid.mem, hpaid.ops, fun c hc => ?_⟩
    · rw [← hq]
      exact congrArg (List.find? fun (t : Task) => t.id == k.id) hpaid.tasks
    · obtain ⟨m, hmc, hbal⟩ := hpaid.cell c
      rw [if_pos hc, hcell c hc] at hbal
      rw [hcell c hc] at hmc
      exact ⟨m, hmc, hbal⟩

theorem injectAll_frame (s : State) (is : List Nat) :
    (s.injectAll is).tasks = s.tasks ∧ (s.injectAll is).mem = s.mem ∧ (s.injectAll is).cells = s.cells :=
  ⟨foldState_frame State.tasks (fun i st => st.inject i) (fun _ _ => rfl) is s,
    foldState_frame State.mem (fun i st => st.inject i) (fun _ _ => rfl) is s,
    foldState_frame State.cells (fun i st => st.inject i) (fun _ _ => rfl) is s⟩

/-- A gang that enters from its saved context: its task, memory, and what each of its cells is loaded with. -/
theorem enterRestored_facts (hk : s.task? k.id = some k) (x : Ctx) : (s.enterRestored k x).task? k.id = some k.resumed
    ∧ (s.enterRestored k x).mem = s.mem ∧ ∀ c ∈ k.gang, ∃ old,
      (s.enterRestored k x).cell c = s.restoredCell (k.savedAt x) k c (mget x.cells (k.posOf c) {}) old := by
  have hq : ((s.updCells k.gang fun c => s.restoredCell (k.savedAt x) k c (mget x.cells (k.posOf c) {})).updTask k.id
      Task.resumed).task? k.id = some k.resumed :=
    State.task?_changed (s := s.updCells k.gang _) hk fun _ => rfl
  unfold State.enterRestored
  obtain ⟨htasks, hmem, hcells⟩ := injectAll_frame _ (x.ops.map Op.id)
  refine ⟨?_, hmem, fun c hc => ?_⟩
  · rw [← hq]
    exact congrArg (List.find? fun (t : Task) => t.id == k.id) htasks
  · have hcell := cell_updCells_establishes (s := s) (l := k.gang)
      (g := fun c => s.restoredCell (k.savedAt x) k c (mget x.cells (k.posOf c) {}))
      (P := fun cl => ∃ old, cl = s.restoredCell (k.savedAt x) k c (mget x.cells (k.posOf c) {}) old) (fun y => ⟨y, rfl⟩) hc
    obtain ⟨old, hold⟩ := hcell
    exact ⟨old, (congrArg (fun m : AMap Cell => mget m c {}) hcells).trans hold⟩

end

end Sys2Proof.Machine

namespace Sys2Proof.Proofs
open Sys2Proof.Machine

/-- Settles O46: each event's guard holds by the clause's premises, and what it changes is read back by the rules above. -/
theorem stagingProceeds : Obligations.StagingProceeds := by
  unfold Obligations.StagingProceeds
  refine fun s k => ⟨fun l hfind hhead hen hhold hhalt hfree hwm hplace => ?_, ?_, ?_, ?_, ?_⟩
  · obtain ⟨u, htasks, htag, hpid, hst, hlaunch, hwait⟩ := expand_tasks s l
    obtain ⟨hlaunches, hmem, hcells⟩ := expand_frame s l
    exact ⟨_, u, exec_launchExpand hfind hhead hen hhold hhalt hfree hwm hplace, htasks, htag, hpid, hst, hlaunch, hwait, hlaunches,
      hmem, hcells⟩
  · intro ref l hk href hwait hst hl rg pas hrep htab hbind habs hsleep hok hlate
    obtain ⟨u, hu, hexec⟩ := exec_argReadComplete hk href hwait hst hl hrep htab hbind habs hsleep hok hlate
    have hfound : u.task? k.id = some k := by
      rw [hu.task?, State.task?_id hk]
      exact hk
    exact ⟨_, _, hexec, State.task?_changed hfound fun _ => rfl, rfl, rfl,
      fun n hn => (State.task?_other hn (f := fun q => q.withArg _) fun _ => rfl).trans (hu.task? n), hu.updTask _ _⟩
  · intro tag r x y hsub hhold hturn hwm hat hchosen s0 hel hnd
    have hexec := exec_dispatchStage hsub hhold hturn hwm hat hchosen hel
    have hentry : s0.entryOf k = s.entryOf k := settleFor_entryOf s tag k
    have hin : k ∈ s0.tasks := eligible_task hel
    change exec .dispatchStage s = .next (({ s0 with sched := { s0.sched with
      lastStage := mset s0.sched.lastStage s.cur.subject s.clock.tick } } : State).stageAt k r x y) at hexec
    clear_value s0
    obtain ⟨htask, hacct, hshadow, hlast, hmem, hops⟩ := stageAt_facts ({ s0 with sched := { s0.sched with
      lastStage := mset s0.sched.lastStage s.cur.subject s.clock.tick } } : State) k r x y hin hnd
    refine ⟨_, _, hexec, htask, rfl, rfl, rfl, rfl, congrArg RtEntry.gw hentry, congrArg RtEntry.gh hentry, hacct, hshadow, ?_,
      hmem, hops⟩
    rw [hlast]
    exact (mfind_mset _ _ _ _).trans (if_pos rfl)
  · intro c hk hold hres
    obtain ⟨hplane, hengines, hothers⟩ := updStandby_facts s c (s.wantImg k c)
    exact ⟨_, exec_standbyFillComplete rfl hk hold hres, hplane, hengines, hothers, houseDebit_pays (s := s) rfl rfl _ _, rfl⟩
  · intro hk hst
    have hid : s.task? k.id = some k := by
      rw [State.task?_id hk]
      exact hk
    refine ⟨fun hrun hplanes hctx => ⟨?_, fun hps => ?_⟩,
      fun hrun hplanes hfree => ⟨fun hctx hnd hpay => ?_, fun x hctx hawake => ?_⟩⟩
    · intro ps rs pas at_ hrep htab habs hsleep hroute hbehind hlate
      have hexec := (exec_prefetchComplete hk hst hrun hplanes hctx).trans
        (congrArg Host.Outcome.next (prefetch_ready hrep htab habs hsleep hroute hbehind hlate))
      have hu := prefetchReads_justReads s k
      refine ⟨_, _, hexec, State.task?_changed ((hu.task? k.id).trans hid) fun _ => rfl, rfl, fun hnodup p hp => ?_, fun n => ?_,
        hu.updTask _ _⟩
      · exact mfind_foldl_mset (fun p : Prefetch => 2 * p.pos k + p.slot) (s.prefetchTile k) hnodup hp
      · exact (mget_foldl_add (fun p : Prefetch => p.pos k) (s.cellarBlocks k) ps [] n).trans (Nat.zero_add _)
    · have hexec := (exec_prefetchComplete hk hst hrun hplanes hctx).trans (congrArg Host.Outcome.next (prefetch_empty hps))
      exact ⟨_, _, hexec, State.task?_changed hid fun _ => rfl, rfl, rfl⟩
    · obtain ⟨htask, hmem, hops, hcell⟩ := enterFresh_facts hid hnd hpay
      refine ⟨_, _, exec_taskEnterRunning_fresh hk hst hrun hplanes hfree hctx, State.task?_changed htask fun _ => rfl, rfl, hmem, hops,
        fun c hc => ?_⟩
      obtain ⟨m, hm, hbal⟩ := hcell c hc
      exact ⟨congrArg Cell.owner hm, congrArg Cell.elems hm, congrArg Cell.vest hm, congrArg Cell.active hm,
        (congrArg (fun cl : Cell => cl.spad.bytes) hm).trans rfl, (congrArg (fun cl : Cell => cl.meter.bal) hm).trans hbal⟩
    · obtain ⟨htask, hmem, hcell⟩ := enterRestored_facts hid x
      refine ⟨_, _, exec_taskEnterRunning_restored hk hst hrun hplanes hfree hctx hawake, htask, rfl, rfl, hmem, fun c hc => ?_⟩
      obtain ⟨old, hold⟩ := hcell c hc
      exact ⟨congrArg Cell.owner hold, congrArg Cell.elems hold, (congrArg Cell.vec hold).trans rfl,
        (congrArg Cell.vest hold).trans rfl⟩

end Sys2Proof.Proofs
end

section
/-! SUPPORT. Host writes of the intake rings, the engine that takes a slot, a cancel, and the interrupt of a ring (R54 to R56, R63,
R67); and O47. -/

namespace Sys2Proof.Machine

/-! ### Host writes of window 1 (R54) -/

section
variable (s : State)

@[simp] theorem State.intakeRing_updIntake (n m : Nat) (f : IntakeRing → IntakeRing) :
    (s.updIntake n f).intakeRing m = if m = n then f (s.intakeRing n) else s.intakeRing m := mget_mset _ _ _ _ _

/-- A ring has discarded a write (R54). -/
def State.discardIntake (n : Nat) : State := s.updIntake n fun k => { k with discards := min (k.discards + 1) (2 ^ 32 - 1) }

/-- What a write of one slot or of one guard word does to its ring, and whether it is discarded (R54). -/
def IntakeRing.put (r : IntakeRing) (o : Nat) (bytes : List Byte) : IntakeRing × Bool :=
  if o < guardBase then r.putSlot o bytes else r.putGuard o bytes

/-- The bytes of a slot, or of a guard word. -/
def intakeUnit (o : Nat) : Nat := if o < guardBase then 256 else 4

/-- A write that one slot or one guard word holds is of one part. -/
theorem intakePieces_one {off : Nat} {bytes : List Byte} (hne : bytes ≠ [])
    (hfit : off % intakeUnit (off % ringSpan) + bytes.length ≤ intakeUnit (off % ringSpan)) :
    intakePieces off (bytes.length + 1) bytes = [(off, bytes)] := by
  have hlen : bytes.length ≤ intakeUnit (off % ringSpan) - off % intakeUnit (off % ringSpan) := by omega
  unfold intakeUnit at hlen
  cases bytes with
  | nil => exact absurd rfl hne
  | cons b bs =>
    unfold intakePieces
    dsimp only
    rw [List.take_of_length_le hlen, List.drop_of_length_le hlen]
    rfl

/-- A host write that one slot or one guard word of a ring holds (R54). -/
theorem exec_hostIntakeWrite {n o off : Nat} {bytes : List Byte} (hoff : off = ringSpan * n + o) (hn : n < 8)
    (ho : o < guardBase + 4096) (hne : bytes ≠ []) (hfit : o % intakeUnit o + bytes.length ≤ intakeUnit o) :
    exec (.hostIntakeWrite off bytes) s =
      .next (if ((s.intakeRing n).put o bytes).2 then (s.updIntake n fun _ => ((s.intakeRing n).put o bytes).1).discardIntake n
        else s.updIntake n fun _ => ((s.intakeRing n).put o bytes).1) := by
  subst hoff
  have hlt : o < ringSpan := Nat.lt_trans ho (by decide)
  have hdiv : (ringSpan * n + o) / ringSpan = n := by
    rw [Nat.mul_add_div (by decide), Nat.div_eq_of_lt hlt, Nat.add_zero]
  have hmod : (ringSpan * n + o) % ringSpan = o := by rw [Nat.mul_add_mod, Nat.mod_eq_of_lt hlt]
  have hunit : (ringSpan * n + o) % intakeUnit o = o % intakeUnit o := by
    have hd : intakeUnit o ∣ ringSpan := by
      unfold intakeUnit
      split <;> decide
    rw [Nat.add_mod, Nat.mod_eq_zero_of_dvd (hd.mul_right n), Nat.zero_add, Nat.mod_mod]
  have hpiece : s.intakePiece (ringSpan * n + o, bytes) = (s.updIntake n fun _ => ((s.intakeRing n).put o bytes).1,
      if ((s.intakeRing n).put o bytes).2 then some n else none) := by
    unfold State.intakePiece
    dsimp only
    rw [hdiv, hmod, if_neg (by omega)]
    rfl
  refine congrArg Host.Outcome.next ?_
  rw [intakePieces_one hne (by rw [hmod, hunit]; exact hfit)]
  simp only [State.intakeAll, hpiece]
  cases ((s.intakeRing n).put o bytes).2
  · rfl
  · rfl

variable {s} {n o off : Nat} {bytes : List Byte}

/-- A write that its slot or guard word takes. -/
theorem hostIntakeWrite_taken (hoff : off = ringSpan * n + o) (hn : n < 8) (ho : o < guardBase + 4096) (hne : bytes ≠ [])
    (hfit : o % intakeUnit o + bytes.length ≤ intakeUnit o) {r : IntakeRing} (hr : (s.intakeRing n).put o bytes = (r, false)) :
    exec (.hostIntakeWrite off bytes) s = .next (s.updIntake n fun _ => r) := by
  rw [exec_hostIntakeWrite s hoff hn ho hne hfit, hr]
  rfl

/-- A write that is discarded: its ring counts it, and nothing else changes. -/
theorem hostIntakeWrite_discarded (hoff : off = ringSpan * n + o) (hn : n < 8) (ho : o < guardBase + 4096) (hne : bytes ≠ [])
    (hfit : o % intakeUnit o + bytes.length ≤ intakeUnit o) (hr : (s.intakeRing n).put o bytes = (s.intakeRing n, true)) :
    ∃ t, exec (.hostIntakeWrite off bytes) s = .next t
      ∧ t.intakeRing n = { s.intakeRing n with discards := min ((s.intakeRing n).discards + 1) (2 ^ 32 - 1) }
      ∧ (∀ m, m ≠ n → t.intakeRing m = s.intakeRing m) ∧ { t with intake := s.intake } = s := by
  refine ⟨(s.updIntake n fun _ => s.intakeRing n).discardIntake n, ?_, ?_, fun m hm => ?_, rfl⟩
  · rw [exec_hostIntakeWrite s hoff hn ho hne hfit, hr]
    rfl
  · simp [State.discardIntake]
  · simp [State.discardIntake, hm]

end

section
variable (r : IntakeRing) {k j : Nat} {bytes : List Byte}

/-- The bytes of a write inside a slot. -/
theorem slotWrite_fits (hk : k < 1024) (hne : bytes ≠ []) (hj : j + bytes.length ≤ 256) :
    256 * k + j < guardBase ∧ (256 * k + j) / 256 = k
      ∧ (256 * k + j) % intakeUnit (256 * k + j) + bytes.length ≤ intakeUnit (256 * k + j) := by
  have hpos : 0 < bytes.length := List.length_pos_iff.2 hne
  have hlt : 256 * k + j < guardBase := by
    unfold guardBase
    omega
  refine ⟨hlt, by omega, ?_⟩
  rw [intakeUnit, if_pos hlt]
  omega

/-- The bytes of a write inside a guard word. -/
theorem guardWrite_fits (hk : k < 1024) (hne : bytes ≠ []) (hj : j + bytes.length ≤ 4) :
    ¬ guardBase + 4 * k + j < guardBase ∧ guardBase + 4 * k + j < guardBase + 4096 ∧ (guardBase + 4 * k + j - guardBase) / 4 = k
      ∧ (guardBase + 4 * k + j) % intakeUnit (guardBase + 4 * k + j) + bytes.length ≤ intakeUnit (guardBase + 4 * k + j) := by
  have hpos : 0 < bytes.length := List.length_pos_iff.2 hne
  have hge : ¬ guardBase + 4 * k + j < guardBase := by omega
  refine ⟨hge, by omega, by omega, ?_⟩
  rw [intakeUnit, if_neg hge]
  unfold guardBase
  omega

/-- A slot whose guard is empty takes bytes, and one whose guard is full discards them (R54). -/
theorem put_slot (hlt : 256 * k + j < guardBase) (hdiv : (256 * k + j) / 256 = k) :
    (mfind r.guards k = none → r.put (256 * k + j) bytes = ({ r with slots := r.slots.writeBytes (256 * k + j) bytes }, false))
    ∧ (mfind r.guards k ≠ none → r.put (256 * k + j) bytes = (r, true)) := by
  unfold IntakeRing.put IntakeRing.putSlot
  rw [if_pos hlt, hdiv]
  refine ⟨fun h => ?_, fun h => if_pos (Option.isSome_iff_ne_none.2 h)⟩
  rw [h]
  rfl

/-- An empty guard word takes four bytes; one that is full, or a part of one, discards them (R54). -/
theorem put_guard (hge : ¬ guardBase + 4 * k + j < guardBase) (hdiv : (guardBase + 4 * k + j - guardBase) / 4 = k) :
    (bytes.length = 4 → mfind r.guards k = none →
      r.put (guardBase + 4 * k + j) bytes = ({ r with guards := mset r.guards k (bytesToNat bytes) }, false))
    ∧ (bytes.length ≠ 4 ∨ mfind r.guards k ≠ none → r.put (guardBase + 4 * k + j) bytes = (r, true)) := by
  unfold IntakeRing.put IntakeRing.putGuard
  rw [if_neg hge, hdiv]
  refine ⟨fun hlen h => if_neg ?_, fun h => if_pos (h.imp_right Option.isSome_iff_ne_none.2)⟩
  rw [h]
  exact not_or.2 ⟨not_not.2 hlen, Bool.false_ne_true⟩

end

/-! ### Records on ring 16 (R60) -/

section
variable {s : State} (h : s.ringBusy 16 = false) (tag status : Nat) (pid : BitVec 64) (body : List Byte)
include h

theorem State.report_free : s.report tag status pid body =
    s.putRecord 16 (recordBytes s.devNum tag status pid (fullBody body)) := by
  unfold State.report State.emitRecord
  rw [h]
  rfl

theorem State.report_recorded : Recorded s (s.report tag status pid body) 16 (recordBytes s.devNum tag status pid (fullBody body))
    ∧ (s.report tag status pid body).tasks = s.tasks ∧ (s.report tag status pid body).mem = s.mem
    ∧ (s.report tag status pid body).intake = s.intake := by
  rw [State.report_free h]
  exact ⟨s.putRecord_recorded 16 (length_recordBytes _ _ _ _ _), rfl, rfl, rfl⟩

end

/-! ### The engine of a ring takes a slot (R55, R56) -/

section
variable {s u : State} {n g : Nat}

/-- The packet that the next slot of a ring holds (R50, R55). -/
def IntakeRing.packet (r : IntakeRing) : Packet := packetOf (r.slots.readBytes (256 * r.next) 256)

/-- A ring whose engine has taken its next slot (R55). -/
def IntakeRing.advanced (r : IntakeRing) (i : Nat) : IntakeRing := { r with guards := mdel r.guards i, next := (i + 1) % 1024 }

/-- The engine takes the slot of a packet of this device, or of one whose length its guard belies. -/
theorem exec_intakeTakeSlot (hg : mfind (s.intakeRing n).guards (s.intakeRing n).next = some g) (hen : (s.intakeRing n).en = true)
    (hhere : (s.intakeRing n).packet.dev = s.devNum ∨ g ≠ 16 + (s.intakeRing n).packet.len ∨ 256 < g)
    (hacc : s.acceptPacket (s.intakeRing n).packet g s.domainTime none = some u) :
    exec (.intakeTakeSlot n) s = .next (u.updIntake n fun k => k.advanced (s.intakeRing n).next) := by
  refine congrArg Host.Outcome.next ?_
  dsimp only
  rw [hg]
  dsimp only
  unfold IntakeRing.packet at hhere hacc
  rw [hen, Bool.not_true, if_neg Bool.false_ne_true, if_pos hhere, hacc]
  rfl

/-- The slot is empty again and the next one is due. -/
theorem slot_taken (hu : u.intake = s.intake) : let t := u.updIntake n fun k => k.advanced (s.intakeRing n).next
    mfind (t.intakeRing n).guards (s.intakeRing n).next = none ∧ (t.intakeRing n).next = ((s.intakeRing n).next + 1) % 1024
      ∧ (t.intakeRing n).slots = (s.intakeRing n).slots := by
  have hring : u.intakeRing n = s.intakeRing n := congrArg (fun m : AMap IntakeRing => mget m n {}) hu
  dsimp only
  rw [State.intakeRing_updIntake, if_pos rfl, hring]
  exact ⟨(mfind_mdel _ _ _).trans (if_pos rfl), rfl, rfl⟩

theorem packet_body_take (r : IntakeRing) : r.packet.body.take r.packet.len = r.packet.body := by
  unfold IntakeRing.packet packetOf
  rw [List.take_take, Nat.min_self]

/-- A packet that is rejected is recorded (R56). -/
theorem acceptPacket_rejected {p : Packet} {st : Nat} (hr : s.rejectStatus p g = some st) (time : Nat) :
    s.acceptPacket p g time none = some (s.report p.tag st p.pid []) := by
  unfold State.acceptPacket
  rw [hr]
  rfl

end

/-! ### Cancel (R67) -/

section
variable {s : State} {p : Packet}

/-- The cancel of the tick is known, for a GANGRUN of its PID (R461). -/
def State.withCancel (s : State) (p : Packet) : State :=
  { s with sched := { s.sched with cancels := s.sched.cancels ++ [cancelTarget p] } }

/-- A record written once the cancel is known stands as one written before (R60). -/
theorem withCancel_recorded (h : s.ringBusy 16 = false) (tag status : Nat) (pid : BitVec 64) (body : List Byte) :
    Recorded s ((s.withCancel p).report tag status pid body) 16 (recordBytes s.devNum tag status pid (fullBody body))
      ∧ ((s.withCancel p).report tag status pid body).tasks = s.tasks
      ∧ ((s.withCancel p).report tag status pid body).mem = s.mem := by
  obtain ⟨hrec, htasks, hmem, -⟩ := State.report_recorded (s := s.withCancel p) h tag status pid body
  exact ⟨recorded_congr hrec rfl rfl rfl, htasks, hmem⟩

theorem exec_cancel (hk : p.kind = 1) (hr : s.rejectStatus p (16 + p.len) = none) : exec (.cancel p) s = .next (s.cancel p) := by
  refine congrArg Host.Outcome.next ((if_neg (not_not.2 hk)).trans ?_)
  rw [hr]

/-- A cancel in whose tick no dispatcher's turn is left, and that no launch concerns. -/
theorem cancel_eq (hd : s.dispatchTick = s) (hl : ∀ l ∈ s.launches, ¬ (l.tag = p.tag ∧ l.pid = cancelTarget p)) :
    s.cancel p =
      let ts := (s.tasks.filter fun k => k.tag == p.tag && k.pid == cancelTarget p).map Task.id
      if ts.isEmpty then (s.withCancel p).report p.tag 0x08 (cancelTarget p) []
      else (foldState ts (s.withCancel p) fun i st => st.cancelTask p.cmode i).touchWm p.tag := by
  have hnone : (s.launches.filter fun l => l.tag == p.tag && l.pid == cancelTarget p && decide (0 < l.unexpanded)) = [] := by
    rw [List.filter_eq_nil_iff]
    intro l hmem
    simp only [Bool.and_eq_true, beq_iff_eq, decide_eq_true_eq]
    exact fun h => hl l hmem h.1
  unfold State.cancel
  rw [hd]
  dsimp only
  rw [hnone, List.isEmpty_nil, Bool.and_true]
  rfl

/-- A cancel that finds nothing gives a record. -/
theorem cancel_none (hd : s.dispatchTick = s) (hl : ∀ l ∈ s.launches, ¬ (l.tag = p.tag ∧ l.pid = cancelTarget p))
    (hts : ∀ k ∈ s.tasks, ¬ (k.tag = p.tag ∧ k.pid = cancelTarget p)) :
    s.cancel p = (s.withCancel p).report p.tag 0x08 (cancelTarget p) [] := by
  have hnone : (s.tasks.filter fun k => k.tag == p.tag && k.pid == cancelTarget p) = [] := by
    rw [List.filter_eq_nil_iff]
    intro k hmem
    simp only [Bool.and_eq_true, beq_iff_eq]
    exact hts k hmem
  rw [cancel_eq hd hl, hnone]
  rfl

/-- A task that a cancel names is of its tag. -/
theorem cancel_tag {k : Task} (hts : (s.tasks.filter fun k => k.tag == p.tag && k.pid == cancelTarget p) = [k]) : k.tag = p.tag := by
  have hmem : k ∈ s.tasks.filter fun k => k.tag == p.tag && k.pid == cancelTarget p := hts ▸ List.mem_singleton_self k
  have hnamed := (List.mem_filter.1 hmem).2
  simp only [Bool.and_eq_true, beq_iff_eq] at hnamed
  exact hnamed.1

/-- A cancel that finds one queued task removes it with a record. -/
theorem cancel_queued (hd : s.dispatchTick = s) (hl : ∀ l ∈ s.launches, ¬ (l.tag = p.tag ∧ l.pid = cancelTarget p)) {k : Task}
    (hts : (s.tasks.filter fun k => k.tag == p.tag && k.pid == cancelTarget p) = [k]) (hk : s.task? k.id = some k)
    (hst : k.st = .queued) : s.cancel p =
      ((((s.withCancel p).report k.tag 0x02 k.pid (reportBody k.age 0 0 0 0 k.restarts 0)).endTask k (some 0x02)).touchWm p.tag) := by
  have hfound : (s.withCancel p).task? k.id = some k := hk
  rw [cancel_eq hd hl, hts]
  change (State.cancelTask (s.withCancel p) p.cmode k.id).touchWm p.tag = _
  unfold State.cancelTask
  rw [hfound]
  dsimp only
  rw [if_pos hst]

/-- The end of a task that belongs to no launch changes the tasks, its tag, the scheduler and its stream slot alone (R72, R100). -/
theorem State.endTask_frame {β : Type} (g : State → β)
    (hg : ∀ (t : State) ts rt sc e, g { t with tasks := ts, rtags := rt, sched := sc, eth := e } = g t)
    (s : State) {k : Task} (hl : k.launch = none) (status : Option Nat) : g (s.endTask k status) = g s := by
  have hslot : g ((s.delTask k.id).freeSlot k.frameSlot) = g s := by
    cases k.frameSlot with
    | none => exact hg s _ _ _ _
    | some q => exact hg s _ _ _ _
  unfold State.endTask
  rw [hl]
  dsimp only
  refine (State.touchWm_frame g (fun t _ _ => hg t _ _ _ _) _ _).trans ?_
  cases status with
  | none => exact hslot
  | some st =>
    refine Eq.trans ?_ hslot
    cases k.ticket with
    | none => rfl
    | some i => exact hg ((s.delTask k.id).freeSlot k.frameSlot) _ _ _ _

end

/-! ### The interrupt of a ring (R63) -/

theorem exec_ringInterrupt {s : State} {n : Nat} (hdue : (s.ring n).irqDue = true)
    (hlast : ∀ q, (s.ring n).irqLast = some q → q + 4000 ≤ s.clock.tbase) : exec (.ringInterrupt n) s = .next { s with
      rings := mset s.rings n { s.ring n with irqDue := false, irqLast := some s.clock.tbase, irqSent := (s.ring n).irqSent + 1 } } := by
  have hold : ((s.ring n).irqLast.any fun q => decide (s.clock.tbase < q + 4000)) = false := by
    cases hq : (s.ring n).irqLast with
    | none => rfl
    | some q =>
      have := hlast q hq
      rw [Option.any_some, decide_eq_false_iff_not]
      omega
  refine congrArg Host.Outcome.next (if_pos ?_)
  rw [hdue, hold]
  rfl

end Sys2Proof.Machine

namespace Sys2Proof.Proofs
open Sys2Proof.Machine

/-- Settles O47: writes by what the ring does with them, a taken slot and a cancel by the record or the queue they leave. -/
theorem intakeCompletes : Obligations.IntakeCompletes := by
  unfold Obligations.IntakeCompletes
  refine fun s => ⟨fun n k j bytes hn hk hne => ⟨fun hj => ?_, fun hlen hfree => ?_, fun hj hfull => ?_⟩, fun n g hg hen => ?_,
    fun p hk hr hd hfree hl => ⟨fun hts => ?_, fun k hts hin hst hlaunch => ?_⟩, fun n hdue hlast => ?_⟩
  · obtain ⟨hlt, hdiv, hfit⟩ := slotWrite_fits hk hne hj
    obtain ⟨htake, hdrop⟩ := put_slot (s.intakeRing n) (bytes := bytes) hlt hdiv
    have hoff : 0x80000 * n + 256 * k + j = ringSpan * n + (256 * k + j) := Nat.add_assoc _ _ _
    refine ⟨fun hfree => ⟨_, hostIntakeWrite_taken hoff hn (Nat.lt_add_right _ hlt) hne hfit (htake hfree), ?_, fun m hm => ?_, rfl⟩,
      fun hfull => hostIntakeWrite_discarded hoff hn (Nat.lt_add_right _ hlt) hne hfit (hdrop hfull)⟩
    · rw [State.intakeRing_updIntake, if_pos rfl]
    · rw [State.intakeRing_updIntake, if_neg hm]
  · obtain ⟨hge, hlt, hdiv, hfit⟩ := guardWrite_fits (j := 0) hk hne (by omega)
    obtain ⟨htake, -⟩ := put_guard (s.intakeRing n) (bytes := bytes) hge hdiv
    have hoff : 0x80000 * n + 0x40000 + 4 * k = ringSpan * n + (guardBase + 4 * k + 0) := Nat.add_assoc _ _ _
    refine ⟨_, hostIntakeWrite_taken hoff hn hlt hne hfit (htake hlen hfree), ?_⟩
    rw [State.intakeRing_updIntake, if_pos rfl]
    exact ⟨(mfind_mset _ _ _ _).trans (if_pos rfl), rfl, rfl, rfl⟩
  · obtain ⟨hge, hlt, hdiv, hfit⟩ := guardWrite_fits hk hne hj
    obtain ⟨-, hdrop⟩ := put_guard (s.intakeRing n) (bytes := bytes) hge hdiv
    have hoff : 0x80000 * n + 0x40000 + 4 * k + j = ringSpan * n + (guardBase + 4 * k + j) := by
      unfold ringSpan guardBase
      omega
    exact hostIntakeWrite_discarded hoff hn hlt hne hfit (hdrop hfull)
  · refine ⟨fun st hrej hhere hfree => ?_, fun hdev hrej hkind hq hlaunch => ?_⟩
    · obtain ⟨hrec, htasks, -, hintake⟩ := State.report_recorded hfree (s.intakeRing n).packet.tag st (s.intakeRing n).packet.pid []
      exact ⟨_, exec_intakeTakeSlot hg hen hhere (acceptPacket_rejected hrej _), slot_taken hintake, recorded_congr hrec rfl rfl rfl,
        htasks⟩
    · have hacc := s.acceptPacket_joins _ g s.domainTime none hrej (by rw [hkind]; decide) hq
      obtain ⟨k, htasks, htag, hpid, harg, hst, hrun, hres, -⟩ := s.enqueue_tasks _ s.domainTime none none hlaunch
      have hframe {β : Type} (f : State → β) (hf : ∀ (t : State) rt ts c sc,
          f { t with rtags := rt, tasks := ts, clock := c, sched := sc } = f t) := s.enqueue_frame f hf _ s.domainTime none none hlaunch
      exact ⟨_, exec_intakeTakeSlot hg hen (.inl hdev) hacc, slot_taken (hframe State.intake fun _ _ _ _ _ => rfl),
        ⟨k, htasks, htag, hpid, harg.trans (packet_body_take _), hst, hrun, hres⟩, hframe State.mem fun _ _ _ _ _ => rfl,
        hframe State.hostMem fun _ _ _ _ _ => rfl⟩
  · refine ⟨_, exec_cancel hk hr, ?_⟩
    rw [cancel_none hd hl hts]
    exact withCancel_recorded hfree _ _ _ _
  · obtain ⟨hrec, -, hmem⟩ := withCancel_recorded (p := p) hfree k.tag 0x02 k.pid (reportBody k.age 0 0 0 0 k.restarts 0)
    refine ⟨_, exec_cancel hk hr, ?_⟩
    rw [cancel_queued hd hl hts hin hst]
    rw [cancel_tag hts] at hrec hmem ⊢
    generalize (s.withCancel p).report p.tag 0x02 k.pid (reportBody k.age 0 0 0 0 k.restarts 0) = u at hrec hmem ⊢
    have hframe {β : Type} (f : State → β) (hf : ∀ (t : State) ts rt sc e,
        f { t with tasks := ts, rtags := rt, sched := sc, eth := e } = f t) : f ((u.endTask k (some 0x02)).touchWm p.tag) = f u :=
      (State.touchWm_frame f (fun t _ _ => hf t _ _ _ _) _ _).trans (State.endTask_frame f hf u hlaunch _)
    exact ⟨recorded_congr hrec rfl (hframe State.hostMem fun _ _ _ _ _ => rfl) (hframe (State.ring · 16) fun _ _ _ _ _ => rfl),
      endTask_noTask (s := u) (some 0x02), (hframe State.mem fun _ _ _ _ _ => rfl).trans hmem⟩
  · exact ⟨_, exec_ringInterrupt hdue hlast, mget_mset_self _ _ _ _, fun m hm => mget_mset_ne _ _ _ hm, rfl⟩

end Sys2Proof.Proofs
end

section
/-! SUPPORT. Steps that may be refused, fields of bytes read from memory, and the free handler indices (R303, R329). -/

namespace Sys2Proof.Machine

/-! ### Steps that may be refused -/

/-- Two steps succeed where the first one does and the second one on its result. -/
theorem except_bind_ok {ε α β : Type} {x : Except ε α} {f : α → Except ε β} {b : β} :
    (x >>= f) = .ok b ↔ ∃ a, x = .ok a ∧ f a = .ok b := by
  cases x with
  | error e => exact ⟨fun h => (by cases h), fun ⟨_, h, _⟩ => (by cases h)⟩
  | ok a => exact ⟨fun h => ⟨a, rfl, h⟩, fun ⟨_, h, hf⟩ => (by cases h; exact hf)⟩

theorem require_ok {c : Bool} {r : Refused} {u : Unit} : require c r = .ok u ↔ c = true := by
  cases c with
  | false => exact ⟨fun h => (by cases h), fun h => (by cases h)⟩
  | true => exact ⟨fun _ => rfl, fun _ => rfl⟩

theorem format_ok {c : Bool} {kind : Nat} {u : Unit} : format c kind = .ok u ↔ c = true := require_ok

theorem sectionOr_ok {α : Type} {kind : Nat} {o : Option α} {a : α} : sectionOr kind o = .ok a ↔ o = some a := by
  cases o with
  | none => exact ⟨fun h => (by cases h), fun h => (by cases h)⟩
  | some b => exact ⟨fun h => (by cases h; rfl), fun h => (by cases h; rfl)⟩

/-! ### Fields of bytes -/

theorem bytesToNat_natToBytes (n : Nat) : ∀ v, bytesToNat (natToBytes n v) = v % 256 ^ n := by
  induction n with
  | zero => exact fun v => (Nat.mod_one v).symm
  | succ n ih =>
    intro v
    rw [natToBytes, bytesToNat, ih, BitVec.toNat_ofNat, Nat.pow_succ' (m := 256)]
    exact Nat.mod_mul.symm

/-- A field within bytes read from memory is the number at its address. -/
theorem bodyField_readBytes (m : Mem) (a : Nat) {n off len : Nat} (h : off + len ≤ n) :
    bodyField (m.readBytes a n) off len = m.readLE (a + off) len := by
  unfold bodyField Mem.readLE
  congr 1
  rw [Mem.readBytes_eq, Mem.readBytes_eq, ← List.map_drop, ← List.map_take]
  refine List.ext_getElem ?_ fun i h1 h2 => ?_
  · simp
    omega
  · simp [Nat.add_assoc]

/-- A field of bytes that have been written reads as in the bytes. -/
theorem readLE_writeBytes (m : Mem) (a : Nat) (bs : List Byte) {off len : Nat} (h : off + len ≤ bs.length) :
    (m.writeBytes a bs).readLE (a + off) len = bodyField bs off len := by
  rw [← bodyField_readBytes _ a h, Mem.readBytes_writeBytes]

/-- Three halfwords one after another. -/
theorem halfwords (a b c : Nat) : let bs := natToBytes 2 a ++ natToBytes 2 b ++ natToBytes 2 c
    bs.length = 6 ∧ bodyField bs 0 2 = a % 65536 ∧ bodyField bs 2 2 = b % 65536 ∧ bodyField bs 4 2 = c % 65536 := by
  have hword (v : Nat) : bytesToNat (natToBytes 2 v) = v % 65536 := bytesToNat_natToBytes 2 v
  refine ⟨by simp, ?_, ?_, ?_⟩
  · rw [← hword]
    rfl
  · rw [← hword]
    rfl
  · rw [← hword]
    rfl

/-! ### Free handler indices (R329 step 9) -/

theorem foldl_min_mem (l : List Nat) : ∀ a, l.foldl min a = a ∨ l.foldl min a ∈ l := by
  induction l with
  | nil => exact fun a => .inl rfl
  | cons b l ih =>
    intro a
    rw [List.foldl_cons, List.mem_cons]
    obtain h | h := ih (min a b)
    · rw [h]
      obtain hm | hm := min_choice a b
      · exact .inl hm
      · exact .inr (.inl hm)
    · exact .inr (.inr h)

/-- No handler has an index of the run that a container of n handlers is given. -/
theorem firstHandlerFor_free (s : State) {n : Nat} (h : s.firstHandlerFor n + n ≤ 65536) {i : Nat} (hi : i < n) :
    mfind s.handlers (s.firstHandlerFor n + i) = none := by
  refine mfind_none_of_notMem fun hmem => ?_
  have hfirst := foldl_min_mem (((0 :: (s.handlers.map (·.1)).map (· + 1)).filter fun f =>
    !((s.handlers.map (·.1)).any fun u => decide (f ≤ u ∧ u < f + n)))) (2 ^ 32)
  change s.firstHandlerFor n = _ ∨ s.firstHandlerFor n ∈ _ at hfirst
  obtain htop | hin := hfirst
  · omega
  · have hfree := (List.mem_filter.1 hin).2
    rw [Bool.not_eq_true', List.any_eq_false] at hfree
    exact hfree _ hmem (decide_eq_true ⟨Nat.le_add_right _ _, Nat.add_lt_add_left hi _⟩)

end Sys2Proof.Machine
end

section
/-! SUPPORT. What a container's checks say of its HEAD, and that relocation leaves HEAD as it was (R314, R315, R326, R329). -/

namespace Sys2Proof.Machine

/-! ### HEAD and the sections of a container whose format is right -/

/-- A section that is present lies at or after the place from which the sections are looked for. -/
theorem sectionsOk_place {b : List Byte} {ks : List Nat} : ∀ {at_ : Nat}, sectionsOk b at_ ks = true → ∀ k ∈ ks, (secAt b k).2 ≠ 0 →
    at_ ≤ (secAt b k).1 := by
  induction ks with
  | nil => exact fun _ k hk => (by cases hk)
  | cons j ks ih =>
    intro at_ h k hk hne
    unfold sectionsOk at h
    dsimp only at h
    rw [Bool.and_eq_true] at h
    obtain ⟨-, h⟩ := h
    split at h
    next hz =>
      obtain rfl | hk := List.mem_cons.1 hk
      · exact absurd hz hne
      · exact ih h k hk hne
    next =>
      simp only [Bool.and_eq_true, decide_eq_true_eq] at h
      obtain ⟨⟨⟨-, hat⟩, -⟩, hrest⟩ := h
      obtain rfl | hk := List.mem_cons.1 hk
      · exact hat
      · exact (hat.trans (Nat.le_add_right _ _)).trans (ih hrest k hk hne)

theorem headOk_facts {b : List Byte} (h : headOk b = true) :
    256 ≤ b.length ∧ sectionsOk b 256 [1, 2, 3, 4, 5, 6, 7, 8, 9, 10, 11, 12] = true := by
  simp only [headOk, Bool.and_eq_true, decide_eq_true_eq] at h
  tauto

theorem allTags_length {images : List RawImage} (n : Nat) : ∀ {b : List Byte} {ts : List TagsRec}, allTags images b n = some ts →
    ts.length = n := by
  induction n with
  | zero =>
    intro b ts h
    unfold allTags at h
    split at h
    · cases h
      rfl
    · cases h
  | succ n ih =>
    intro b ts h
    unfold allTags at h
    dsimp only at h
    split at h
    · cases h
    · split at h
      next t ts' _ hts =>
        cases h
        exact congrArg (· + 1) (ih hts)
      next => cases h

/-- A relocation that R326 permits aims at one of the sections 1 to 8, which is present. -/
def RelocAims (b : List Byte) (e : List Byte) : Prop :=
  1 ≤ bodyField e 1 1 ∧ bodyField e 1 1 ≤ 8 ∧ (secAt b (bodyField e 1 1)).2 ≠ 0

theorem tailOk_relocs {b : List Byte} {u : Unit} (h : tailOk b = .ok u) : ∀ e ∈ chunks 16 (secBytes b 10), RelocAims b e := by
  unfold tailOk at h
  simp only [except_bind_ok, format_ok, Bool.and_eq_true, List.all_eq_true, decide_eq_true_eq] at h
  obtain ⟨-, -, -, ⟨-, hgood⟩, -⟩ := h
  intro e he
  obtain ⟨⟨-, hkind⟩, hfits⟩ := hgood e he
  refine ⟨hkind.1, hkind.2, ?_⟩
  split at hfits
  · omega
  · omega

/-- What the format of a container says of its HEAD, of its handlers and of its relocations (R314, R322, R326). -/
theorem contentsOf_facts {b : List Byte} {k : Contents} (h : contentsOf b = .ok k) :
    headOk b = true ∧ k.tags.length = bodyField b 22 2 ∧ ∀ e ∈ chunks 16 (secBytes b 10), RelocAims b e := by
  unfold contentsOf at h
  simp only [except_bind_ok, format_ok, sectionOr_ok] at h
  obtain ⟨_, hhead, _, -, _, -, _, -, _, -, tags, htags, _, -, _, -, _, -, _, -, _, -, _, htail, hk⟩ := h
  cases hk
  exact ⟨hhead, allTags_length _ htags, tailOk_relocs htail⟩

/-! ### HEAD through relocation -/

/-- The 256 bytes of HEAD are those of another container. -/
def SameHead (b c : List Byte) : Prop := 256 ≤ c.length ∧ c.take 256 = b.take 256

section
variable {b c : List Byte}

theorem SameHead.field (h : SameHead b c) {off n : Nat} (hn : off + n ≤ 256) : bodyField c off n = bodyField b off n := by
  have hfield (d : List Byte) : (d.drop off).take n = ((d.take 256).drop off).take n := by
    rw [List.drop_take, List.take_take, Nat.min_eq_left (by omega)]
  unfold bodyField
  rw [hfield c, h.2, ← hfield b]

theorem SameHead.place (h : SameHead b c) {k : Nat} (hk : k ≤ 12) : secAt c k = secAt b k :=
  Prod.ext (h.field (by omega)) (h.field (by omega))

/-- Bytes replaced beyond HEAD. -/
theorem SameHead.put (h : SameHead b c) {off : Nat} (hoff : 256 ≤ off) (v : List Byte) : SameHead b (putAt c off v) := by
  obtain ⟨hlen, htake⟩ := h
  have hfirst : 256 ≤ (c.take off).length := by
    rw [List.length_take]
    omega
  unfold putAt
  constructor
  · simp only [List.length_append]
    omega
  · rw [List.append_assoc, List.take_append_of_le_length hfirst, List.take_take, Nat.min_eq_left hoff, htake]

/-- One relocation leaves HEAD as it was (R326). -/
theorem SameHead.relocated (h : SameHead b c) (hb : headOk b = true) {bias first : Nat} {tagMap : AMap Nat} {e : List Byte}
    (he : RelocAims b e) {d : List Byte} (hd : relocate bias tagMap first e c = .ok d) : SameHead b d := by
  obtain ⟨h1, h8, hne⟩ := he
  have hin : bodyField e 1 1 ∈ [1, 2, 3, 4, 5, 6, 7, 8, 9, 10, 11, 12] := by
    simp only [List.mem_cons, List.not_mem_nil, or_false]
    omega
  have hplace : 256 ≤ (secAt c (bodyField e 1 1)).1 + bodyField e 8 8 := by
    rw [h.place (by omega)]
    exact (sectionsOk_place (headOk_facts hb).2 _ hin hne).trans (Nat.le_add_right _ _)
  unfold relocate at hd
  dsimp only at hd
  split at hd
  · cases hd
    exact h.put hplace _
  · split at hd
    · cases hd
    · cases hd
      exact h.put hplace _
  · cases hd
    exact h.put hplace _

/-- Some relocations one after another, from a container whose HEAD stands or from a refusal. -/
theorem relocations_sameHead (hb : headOk b = true) {bias first : Nat} {tagMap : AMap Nat} {es : List (List Byte)}
    (hes : ∀ e ∈ es, RelocAims b e) : ∀ {r : Except Refused (List Byte)}, (∀ c, r = .ok c → SameHead b c) →
      ∀ {d}, es.foldl (fun r e => r.bind (relocate bias tagMap first e)) r = .ok d → SameHead b d := by
  induction es with
  | nil => exact fun hr d hd => hr d hd
  | cons e es ih =>
    intro r hr d hd
    refine ih (fun x hx => hes x (List.mem_cons_of_mem _ hx)) (fun c hc => ?_) hd
    obtain ⟨c0, hc0, hc1⟩ := except_bind_ok.1 hc
    exact (hr c0 hc0).relocated hb (hes e List.mem_cons_self) hc1

/-- Every relocation leaves HEAD as it was (R329 step 3). -/
theorem relocateAll_sameHead {k : Contents} (hk : contentsOf b = .ok k) {bias first : Nat} {tagMap : AMap Nat} {d : List Byte}
    (hd : relocateAll bias tagMap first b = .ok d) : SameHead b d := by
  obtain ⟨hb, -, haims⟩ := contentsOf_facts hk
  refine relocations_sameHead hb haims (fun c hc => ?_) hd
  cases hc
  exact ⟨(headOk_facts hb).1, rfl⟩

end

end Sys2Proof.Machine
end

section
/-! SUPPORT. The checks of a load and their refusals, what a load and an UNLOAD change (R77, R328, R329, R331); and O51. -/

namespace Sys2Proof.Machine

/-! ### The checks of R329 -/

section
variable (s : State) {desc : Nat} {x : Loadable}

/-- The bytes of the container that a descriptor names (R328). -/
def State.ctnBytes (desc : Nat) : List Byte := s.hostMem.readBytes (s.hostMem.readLE desc 8) (s.hostMem.readLE (desc + 8) 8)

/-- The descriptor's fields as the checks read them. -/
theorem descriptor_bytes (desc : Nat) : s.hostMem.readBytes (bodyField (s.hostMem.readBytes desc 64) 0 8)
    (bodyField (s.hostMem.readBytes desc 64) 8 8) = s.ctnBytes desc := by
  rw [bodyField_readBytes _ _ (by decide), bodyField_readBytes _ _ (by decide)]
  rfl

variable {s}

theorem checked_unsigned {r : Refused} (h : s.signedOk (s.ctnBytes desc) = .error r) : s.checked desc = .error r := by
  unfold State.checked
  dsimp only
  rw [descriptor_bytes, h]
  rfl

theorem checked_misformed (hs : s.signedOk (s.ctnBytes desc) = .ok ()) {r : Refused} (h : contentsOf (s.ctnBytes desc) = .error r) :
    s.checked desc = .error r := by
  unfold State.checked
  dsimp only
  rw [descriptor_bytes, hs, h]
  rfl

/-- A signature over another digest is refused (R77, R329 step 1). -/
theorem signedOk_digest {b : List Byte} (h : slice (secBytes b 11) 8 32 ≠ Config.shake256 (b.take (secAt b 11).1)) :
    s.signedOk b = .error { status := 0x02, index := 11 } := by
  unfold State.signedOk
  dsimp only
  rw [beq_eq_false_iff_ne.2 h]
  rfl

/-- What a container that passes the checks holds: its own bytes, and handlers whose indices are free. -/
theorem checked_facts (h : s.checked desc = .ok x) : x.b = s.ctnBytes desc
    ∧ ∀ i < x.k.tags.length, mfind s.handlers (x.first + i) = none := by
  unfold State.checked at h
  simp only [except_bind_ok, require_ok, descriptor_bytes] at h
  generalize s.ctnBytes desc = b at h ⊢
  generalize s.hostMem.readBytes desc 64 = d at h
  obtain ⟨_, -, k0, hk0, _, -, b1, hb1, k, hk, ims, -, _, hfits, _, -, hx⟩ := h
  have hx := Except.ok.inj hx
  have hbytes : b = x.b := congrArg Loadable.b hx
  have hcontents : k = x.k := congrArg Loadable.k hx
  have hfirst : s.firstHandlerFor k0.tags.length = x.first := congrArg Loadable.first hx
  have hlen : k.tags.length = k0.tags.length := by
    obtain ⟨-, hnew, -⟩ := contentsOf_facts hk
    obtain ⟨-, hold, -⟩ := contentsOf_facts hk0
    rw [hnew, hold]
    exact (relocateAll_sameHead hk0 hb1).field (by decide)
  rw [Bool.and_eq_true, decide_eq_true_eq] at hfits
  rw [hlen] at hfits
  rw [← hcontents, ← hfirst, hlen]
  exact ⟨hbytes.symm, fun i hi => firstHandlerFor_free s hfits.2 hi⟩

theorem loadWith_ok {asid : Nat} {t : State} (h : s.loadWith asid desc = .ok t) :
    ∃ x, s.checked desc = .ok x ∧ s.dataMapped asid x.k.data = true := by
  unfold State.loadWith State.loadable at h
  simp only [except_bind_ok, require_ok] at h
  obtain ⟨x, ⟨y, hy, _, hmapped, hx⟩, -⟩ := h
  exact ⟨y, hy, hmapped⟩

end

/-! ### CFG_LOAD and its status (R303, R328) -/

section
variable (s : State) (v : BitVec 64)

/-- CFG_LOAD after a write: UNLOAD, AS and DESC, with GO as it stands (R328). -/
theorem keepLoad_eq (go : Bool) : ∃ w : BitVec 64,
    w.toNat = bit go * 2 ^ 63 + ((if v.getLsbD 62 = true then 2 ^ 62 else 0) + v.toNat % 2 ^ 56)
      ∧ s.keepLoad go v = { s with logs := { s.logs with cfgLoad := w } } := by
  have hfield : natField v.toNat 0 56 = v.toNat % 2 ^ 56 := by simp [natField]
  refine ⟨_, ?_, rfl⟩
  rw [hfield, natBit_toNat, BitVec.toNat_ofNat]
  cases go
  all_goals cases v.getLsbD 62
  all_goals simp only [bit, if_true, if_false, Bool.false_eq_true]
  all_goals omega

theorem keepLoad_go (go : Bool) : ∃ w : BitVec 64,
    w.getLsbD 63 = go ∧ s.keepLoad go v = { s with logs := { s.logs with cfgLoad := w } } := by
  obtain ⟨w, hval, hkeep⟩ := keepLoad_eq s v go
  refine ⟨w, ?_, hkeep⟩
  rw [BitVec.getLsbD, hval, Nat.testBit_eq_decide_div_mod_eq]
  cases go
  all_goals cases v.getLsbD 62
  all_goals simp only [bit, if_true, if_false, Bool.false_eq_true, decide_eq_true_eq, decide_eq_false_iff_not]
  all_goals omega

/-- The register of CFG_LOAD (R26, R328). -/
theorem regWord_cfgLoad : s.regWord 0x600048 = s.logs.cfgLoad.toNat := (State.regWord_debug (by decide) (by decide)).trans rfl

/-- A write that keeps its fields changes CFG_LOAD alone, which reads as written (R328). -/
theorem keepLoad_word : (s.keepLoad false v).regWord 0x600048 = (if v.getLsbD 62 = true then 2 ^ 62 else 0) + v.toNat % 2 ^ 56
    ∧ { s.keepLoad false v with logs := { (s.keepLoad false v).logs with cfgLoad := s.logs.cfgLoad } } = s := by
  obtain ⟨w, hval, hkeep⟩ := keepLoad_eq s v false
  rw [bit, if_neg Bool.false_ne_true, Nat.zero_mul, Nat.zero_add] at hval
  rw [hkeep, regWord_cfgLoad]
  exact ⟨hval, rfl⟩

/-- A load or an UNLOAD that has ended: GO reads 0, the status stands, and nothing else changes (R303, R328). -/
theorem loadDone_eq (st : BitVec 64) : ∃ w : BitVec 64,
    w.getLsbD 63 = false ∧ s.loadDone v st = { s with logs := { s.logs with cfgLoad := w, cfgLoadSt := st } } := by
  obtain ⟨w, hgo, hkeep⟩ := keepLoad_go s v false
  refine ⟨w, hgo, ?_⟩
  rw [State.loadDone, hkeep]
  rfl

end

section
variable {s : State} {v : BitVec 64}

/-- What a write of CFG_LOAD does, by GO and whether a load waits (R328). -/
theorem exec_cfgLoad (hun : v.getLsbD 62 = false) : exec (.cfgLoad v) s = .next (
    if s.loading then (if v.getLsbD 63 then s.loadStatus ({ status := 0x09 : Refused }).word else s)
    else if v.getLsbD 63 then s.loadGo v else s.keepLoad false v) :=
  congrArg Host.Outcome.next (if_neg (ne_true_of_eq_false hun))

theorem exec_cfgLoad_go (hun : v.getLsbD 62 = false) (hgo : v.getLsbD 63 = true) (hidle : s.loading = false) :
    exec (.cfgLoad v) s = .next (s.loadGo v) := by
  rw [exec_cfgLoad hun, hidle, hgo, if_neg Bool.false_ne_true, if_pos rfl]

/-- A write without GO keeps its fields, whether it names a load or an UNLOAD (R328). -/
theorem exec_cfg_keep (hgo : v.getLsbD 63 = false) (hidle : s.loading = false) :
    exec (if v.getLsbD 62 = true then .cfgUnload v else .cfgLoad v) s = .next (s.keepLoad false v) := by
  cases hun : v.getLsbD 62 with
  | false =>
    rw [if_neg Bool.false_ne_true, exec_cfgLoad hun, hidle, hgo, if_neg Bool.false_ne_true, if_neg Bool.false_ne_true]
  | true =>
    refine congrArg Host.Outcome.next ?_
    rw [natBit_toNat, natBit_toNat, hun, hgo, hidle]
    rfl

/-- A write with GO while a load waits is answered BUSY, whether it names a load or an UNLOAD (R328). -/
theorem exec_cfg_busy (hgo : v.getLsbD 63 = true) (hload : s.loading = true) :
    exec (if v.getLsbD 62 = true then .cfgUnload v else .cfgLoad v) s =
      .next (s.loadStatus ({ status := 0x09 : Refused }).word) := by
  cases hun : v.getLsbD 62 with
  | false => rw [if_neg Bool.false_ne_true, exec_cfgLoad hun, hload, hgo, if_pos rfl, if_pos rfl]
  | true =>
    refine congrArg Host.Outcome.next ?_
    rw [natBit_toNat, natBit_toNat, hun, hgo, hload]
    rfl

/-- A write with GO of an UNLOAD of a container that does not exist, or that a route tag names, is refused (R331). -/
theorem exec_cfgUnload_refused (hun : v.getLsbD 62 = true) (hgo : v.getLsbD 63 = true) (hidle : s.loading = false)
    (h : ∀ k, s.ctn? (s.hostMem.readLE (natField v.toNat 0 48 + 34) 2) = some k → s.handlersNamed k = true) :
    exec (.cfgUnload v) s = .next (s.loadDone v ({ status := 0x09 : Refused }).word) := by
  refine congrArg Host.Outcome.next ?_
  rw [natBit_toNat, natBit_toNat, hun, hgo, hidle]
  simp only [Bool.not_true, Bool.false_eq_true, if_false]
  split
  · rfl
  next k hk => rw [h k hk, if_pos rfl]

/-- What is left when a container is removed (R331). -/
def State.unloaded (s : State) (id : Nat) : State :=
  { s with
    ctns := s.ctns.filter fun x => x.id != id
    handlers := s.handlers.filter fun h => h.2.ctn != id
    cells := s.cells.map fun c => (c.1, c.2.unload id)
    rooms := s.rooms.map fun r => (r.1, r.2.unload id) }

/-- A write with GO of an UNLOAD of a container that no route tag names removes it (R331). -/
theorem exec_cfgUnload_removes (hun : v.getLsbD 62 = true) (hgo : v.getLsbD 63 = true) (hidle : s.loading = false) {k : Container}
    (hk : s.ctn? (s.hostMem.readLE (natField v.toNat 0 48 + 34) 2) = some k) (hn : s.handlersNamed k = false) :
    exec (.cfgUnload v) s = .next ((s.unloaded k.id).loadDone v 0) := by
  have hid : k.id = s.hostMem.readLE (natField v.toNat 0 48 + 34) 2 := by simpa using List.find?_some hk
  refine congrArg Host.Outcome.next ?_
  rw [natBit_toNat, natBit_toNat, hun, hgo, hidle]
  simp only [Bool.not_true, Bool.false_eq_true, if_false, hk, hn]
  rw [hid]
  rfl

/-- A load or an UNLOAD that has ended with a status and changed its two registers alone. -/
theorem loadDone_refuses {i : Instr} {w : BitVec 64} (h : exec i s = .next (s.loadDone v w)) : ∃ t, exec i s = .next t
    ∧ (t.logs.cfgLoad.getLsbD 63 = false ∧ t.logs.cfgLoadSt = w) ∧ { t with logs := s.logs } = s := by
  obtain ⟨x, hgo, hdone⟩ := loadDone_eq s v w
  rw [hdone] at h
  exact ⟨_, h, ⟨hgo, rfl⟩, rfl⟩

/-! ### How a load goes on (R329) -/

theorem loadWaits_refused {desc : Nat} {r : Refused} (h : s.checked desc = .error r) (asid : Nat) : s.loadWaits asid desc = none := by
  unfold State.loadWaits
  rw [h]

theorem loadGo_refused {r : Refused} (h : s.checked (natField v.toNat 0 48) = .error r) : s.loadGo v = s.loadDone v r.word := by
  unfold State.loadGo
  dsimp only
  rw [loadWaits_refused h, h]

theorem loadGo_waits {u : State} (h : s.loadWaits (natField v.toNat 48 8) (natField v.toNat 0 48) = some u) :
    s.loadGo v = u.keepLoad true v := by
  unfold State.loadGo
  dsimp only
  rw [h]

/-- A load that comes to its DATA ends: refused where a page is absent, and else with its container added. -/
theorem loadGo_checked {x : Loadable} (hw : s.loadWaits (natField v.toNat 48 8) (natField v.toNat 0 48) = none)
    (hx : s.checked (natField v.toNat 0 48) = .ok x) : s.loadGo v =
      if s.dataMapped (natField v.toNat 48 8) x.k.data then
        ((s.loadReaches (natField v.toNat 48 8) x.k.data).loadApply (natField v.toNat 48 8) (natField v.toNat 0 48) x).loadDone v 0
      else (s.loadReaches (natField v.toNat 48 8) x.k.data).loadDone v dataAbsent.word := by
  unfold State.loadGo
  dsimp only
  rw [hw, hx]

/-- What a load that waits leaves: all but the exit of arrays from retention (R45). -/
theorem loadWaits_frame {β : Type} (g : State → β) (hg : ∀ (t : State) p, g { t with power := p } = g t) {asid desc : Nat} {u : State}
    (h : s.loadWaits asid desc = some u) : g u = g s := by
  unfold State.loadWaits at h
  split at h
  · cases h
  · dsimp only at h
    split at h
    · cases h
      exact hg _ _
    · split at h
      · cases h
        rfl
      · cases h

theorem loadWaits_keeps {asid desc : Nat} {u : State} (h : s.loadWaits asid desc = some u) : u.ctns = s.ctns
    ∧ u.handlers = s.handlers ∧ u.rooms = s.rooms ∧ u.mem = s.mem ∧ u.hostMem = s.hostMem :=
  ⟨loadWaits_frame State.ctns (fun _ _ => rfl) h, loadWaits_frame State.handlers (fun _ _ => rfl) h,
    loadWaits_frame State.rooms (fun _ _ => rfl) h, loadWaits_frame State.mem (fun _ _ => rfl) h,
    loadWaits_frame State.hostMem (fun _ _ => rfl) h⟩

/-- Only what was served in the tick and the use of the slices differ (R44, R240). -/
def OnlySlices (s t : State) : Prop :=
  { t with served := s.served, power := { t.power with sliceUse := s.power.sliceUse } } = s

theorem loadReaches_onlySlices (s : State) (asid : Nat) (data : List Segment) : OnlySlices s (s.loadReaches asid data) :=
  foldState_keeps (OnlySlices s) (fun (p : Nat × Nat) st => st.useRange p.1 p.2) (fun _ _ h => h) (s.loadPieces asid data)
    (s.arrive (s.memArrivals (s.loadPieces asid data) hostKey)) rfl

theorem loadReaches_frame {β : Type} (g : State → β) (hg : ∀ (t : State) a p, g { t with served := a, power := p } = g t) (s : State)
    (asid : Nat) (data : List Segment) : g (s.loadReaches asid data) = g s :=
  (hg _ _ _).symm.trans (congrArg g (loadReaches_onlySlices s asid data))

end

/-! ### What a load changes (R329 steps 7 to 9) -/

section
variable {β : Type} (g : State → β)

/-- The writes of DATA change the memories, the tags, the logs and the use of the slices. -/
theorem writeData_frame (hg : ∀ (t : State) m tg h p l, g { t with mem := m, tags := tg, hostMem := h, power := p, logs := l } = g t)
    (s : State) (asid : Nat) (data : List Segment) : g (s.writeData asid data) = g s := by
  have hdata (u : State) (va : Nat) (b : List Byte × Nat) : g (u.putData asid va b) = g u := by
    refine (State.homeWatch_frame g (fun t h l p => hg t t.mem t.tags h p l) _ _ _ _ _).trans ?_
    refine Eq.trans ?_ (State.putBytes_frame g (fun t m h => hg t m t.tags h t.power t.logs) b.1 u (u.walkPhys asid va))
    unfold State.putTag
    split
    · rfl
    · exact hg (u.putBytes (u.walkPhys asid va) b.1) _ _ _ _ _
  exact foldState_frame g _ (fun seg u => foldState_frame g _ (fun p w => hdata w _ _) _ _) _ _

/-- The writes of DATA and the images and programs that the rooms receive (R329 steps 7 and 8). -/
def State.loadRooms (s : State) (asid : Nat) (x : Loadable) : State :=
  foldState (upTo 64) (s.writeData asid x.k.data) fun r st => st.updRoom r fun y =>
    y.receive r x.rooms s.freeCtn x.ims.length x.k.seqs

theorem loadRooms_frame
    (hg : ∀ (t : State) m tg h rs p l, g { t with mem := m, tags := tg, hostMem := h, rooms := rs, power := p, logs := l } = g t)
    (s : State) (asid : Nat) (x : Loadable) : g (s.loadRooms asid x) = g s :=
  (foldState_frame g _ (fun _ u => hg u u.mem u.tags u.hostMem _ u.power u.logs) _ _).trans
    (writeData_frame g (fun t m tg h p l => hg t m tg h t.rooms p l) s asid x.k.data)

/-- A load changes the memories, the tags, the logs, the use of the slices, the rooms, and the containers with their handlers and the
version that is verified. -/
theorem loadApply_frame (hg : ∀ (t : State) m tg h rs cs hs e p l, g { t with
      mem := m, tags := tg, hostMem := h, rooms := rs, ctns := cs, handlers := hs, lodge := e, power := p, logs := l } = g t)
    (s : State) (asid desc : Nat) (x : Loadable) : g (s.loadApply asid desc x) = g s := by
  have hrooms := loadRooms_frame g (fun t m tg h rs p l => hg t m tg h rs t.ctns t.handlers t.lodge p l) s asid x
  unfold State.loadApply
  exact (hg (s.loadRooms asid x) _ _ _ _ _ _ _ _ _).trans hrooms

end

section
variable (s : State) (asid desc : Nat) (x : Loadable)

/-- The container that a load adds (R329). -/
def State.newCtn : Container := (loadedOf x.k x.ims x.b s.freeCtn asid x.bias x.rooms x.first).1

theorem newCtn_fields : (s.newCtn asid x).id = s.freeCtn ∧ (s.newCtn asid x).asid = asid ∧ (s.newCtn asid x).version = bodyField x.b 16 4
    ∧ (s.newCtn asid x).firstHandler = x.first ∧ (s.newCtn asid x).handlerCount = x.k.tags.length := by
  unfold State.newCtn loadedOf
  exact ⟨rfl, rfl, rfl, rfl, rfl⟩

/-- The container that the load adds comes after those that stand. -/
theorem loadApply_ctns : (s.loadApply asid desc x).ctns = s.ctns ++ [s.newCtn asid x] := by
  have hrooms : (s.loadRooms asid x).ctns = s.ctns := loadRooms_frame State.ctns (fun _ _ _ _ _ _ _ => rfl) s asid x
  unfold State.loadApply
  exact congrArg (· ++ [s.newCtn asid x]) hrooms

/-- The handlers of a container take consecutive indices (R329 step 9). -/
theorem loadApply_handler {i : Nat} (hi : i < x.k.tags.length) :
    ∃ h, mfind (s.loadApply asid desc x).handlers (x.first + i) = some h ∧ h.ctn = s.freeCtn := by
  obtain ⟨ps, hps⟩ : ∃ ps, ps = (loadedOf x.k x.ims x.b s.freeCtn asid x.bias x.rooms x.first).2 := ⟨_, rfl⟩
  have hkeys : ps.map Prod.fst = (List.range x.k.tags.length).map (x.first + ·) := by
    rw [hps, loadedOf, List.map_map]
    rfl
  have hnd : (ps.map Prod.fst).Nodup := by
    rw [hkeys]
    exact List.nodup_range.map fun a b h => Nat.add_left_cancel h
  obtain ⟨h, hmem, hctn⟩ : ∃ h, (x.first + i, h) ∈ ps ∧ h.ctn = s.freeCtn := by
    rw [hps]
    exact ⟨_, List.mem_map_of_mem (List.mem_range.2 hi), rfl⟩
  refine ⟨h, ?_, hctn⟩
  unfold State.loadApply
  dsimp only
  rw [← hps, mfind_listed _ hnd, mfind_some_of_mem hnd hmem]
  rfl

/-- The numbers that a load gives stand in the descriptor (R329 step 9). -/
theorem loadApply_descriptor : (s.loadApply asid desc x).hostMem.readLE (desc + 34) 2 = s.freeCtn % 65536
    ∧ (s.loadApply asid desc x).hostMem.readLE (desc + 36) 2 = x.first % 65536
    ∧ (s.loadApply asid desc x).hostMem.readLE (desc + 38) 2 = x.k.tags.length % 65536 := by
  obtain ⟨hlen, hid, hfirst, hcount⟩ := halfwords s.freeCtn x.first x.k.tags.length
  have hmem : (s.loadApply asid desc x).hostMem = (s.loadRooms asid x).hostMem.writeBytes (desc + 34)
      (natToBytes 2 s.freeCtn ++ natToBytes 2 x.first ++ natToBytes 2 x.k.tags.length) := by
    unfold State.loadApply
    rfl
  rw [hmem]
  refine ⟨(readLE_writeBytes _ (desc + 34) _ (off := 0) (by omega)).trans hid,
    (readLE_writeBytes _ (desc + 34) _ (off := 2) (by omega)).trans hfirst,
    (readLE_writeBytes _ (desc + 34) _ (off := 4) (by omega)).trans hcount⟩

end

/-- What a load that passes its checks adds: a container with its own handlers, whose numbers stand in its descriptor (R329). -/
structure LoadAdds (s t : State) (asid desc : Nat) (k : Container) : Prop where
  added : k ∈ t.ctns
  asid : k.asid = asid
  kept : ∀ c ∈ s.ctns, c ∈ t.ctns
  version : k.version = bodyField (s.ctnBytes desc) 16 4
  handlers : ∀ i < k.handlerCount, ∃ h, mfind t.handlers (k.firstHandler + i) = some h ∧ h.ctn = k.id
  free : ∀ i < k.handlerCount, mfind s.handlers (k.firstHandler + i) = none
  descriptor : t.hostMem.readLE (desc + 34) 2 = k.id % 65536 ∧ t.hostMem.readLE (desc + 36) 2 = k.firstHandler % 65536
    ∧ t.hostMem.readLE (desc + 38) 2 = k.handlerCount % 65536
  tasks : t.tasks = s.tasks
  cells : t.cells = s.cells

theorem loadApply_adds {s : State} {asid desc : Nat} {x : Loadable} (hx : s.checked desc = .ok x) :
    LoadAdds s ((s.loadReaches asid x.k.data).loadApply asid desc x) asid desc ((s.loadReaches asid x.k.data).newCtn asid x) := by
  obtain ⟨hbytes, hfree⟩ := checked_facts hx
  have hframe {β : Type} (g : State → β) (hg : ∀ (t : State) a p, g { t with served := a, power := p } = g t) :=
    loadReaches_frame g hg s asid x.k.data
  have hctns := hframe State.ctns fun _ _ _ => rfl
  have htasks := hframe State.tasks fun _ _ _ => rfl
  have hcells := hframe State.cells fun _ _ _ => rfl
  generalize s.loadReaches asid x.k.data = q at hctns htasks hcells ⊢
  obtain ⟨hid, hasid, hver, hfirst, hcount⟩ := newCtn_fields q asid x
  have hnew := loadApply_ctns q asid desc x
  rw [hctns] at hnew
  constructor
  case added => exact hnew ▸ List.mem_append_right _ (List.mem_singleton_self _)
  case asid => exact hasid
  case kept => exact fun c hc => hnew ▸ List.mem_append_left _ hc
  case version => rw [hver, hbytes]
  case handlers =>
    rw [hfirst, hcount, hid]
    exact fun i hi => loadApply_handler q asid desc x hi
  case free =>
    rw [hfirst, hcount]
    exact hfree
  case descriptor =>
    rw [hfirst, hcount, hid]
    exact loadApply_descriptor q asid desc x
  case tasks => exact (loadApply_frame State.tasks (fun _ _ _ _ _ _ _ _ _ _ => rfl) q asid desc x).trans htasks
  case cells => exact (loadApply_frame State.cells (fun _ _ _ _ _ _ _ _ _ _ => rfl) q asid desc x).trans hcells

/-! ### What an UNLOAD removes (R331) -/

section
variable (id : Nat)

theorem Room.unload_store (r : Room) : ∀ p ∈ (r.unload id).store, p.2.1 ≠ id := by
  have hstore : (r.unload id).store = r.store.filter fun p => p.2.1 != id := by
    unfold Room.unload
    dsimp only
    split
    · rfl
    · rfl
  intro p hp
  rw [hstore] at hp
  simpa using (List.mem_filter.1 hp).2

/-- A hearth that runs the program of the container becomes idle; any other stays. -/
theorem Room.unload_hearth (r : Room) : if r.hearth.owner = some id then (r.unload id).hearth.st = .idle ∧ (r.unload id).hearth.prog = []
    else (r.unload id).hearth = r.hearth := by
  unfold Room.unload
  dsimp only
  split
  · exact ⟨rfl, rfl⟩
  · rfl

theorem unloaded_room (s : State) (r : Nat) : (s.unloaded id).room r = (s.room r).unload id :=
  mget_map (fun y : Room => y.unload id) s.rooms r {}

theorem unloaded_gone (s : State) : (∀ c ∈ (s.unloaded id).ctns, c.id ≠ id) ∧ ∀ h ∈ (s.unloaded id).handlers, h.2.ctn ≠ id :=
  ⟨fun _ hc => by simpa using (List.mem_filter.1 hc).2, fun _ hh => by simpa using (List.mem_filter.1 hh).2⟩

end

end Sys2Proof.Machine

namespace Sys2Proof.Proofs
open Sys2Proof.Machine

/-- Settles O51: a load by the outcome of its checks, an UNLOAD by the container that its descriptor names. -/
theorem containersComplete : Obligations.ContainersComplete := by
  unfold Obligations.ContainersComplete
  intro s v
  refine ⟨fun hgo hidle => ⟨_, exec_cfg_keep hgo hidle, keepLoad_word s v⟩, exec_cfg_busy, fun hgo hidle => ⟨fun hun => ?_,
    fun hun hno => ?_, fun hun k hk => ⟨fun hn => ?_, fun hn => ?_⟩⟩⟩
  · have hexec := exec_cfgLoad_go hun hgo hidle
    have hrefuse {r : Refused} (h : s.checked (natField v.toNat 0 48) = .error r) := loadDone_refuses (s := s)
      (hexec.trans (congrArg Host.Outcome.next (loadGo_refused h)))
    refine ⟨fun r => hrefuse, fun x hx hw hm => ?_, fun hd => hrefuse (checked_unsigned (signedOk_digest hd)),
      fun hs r hr => hrefuse (checked_misformed hs hr), fun u hw => ?_, fun u hw hload => ?_⟩
    · rw [loadGo_checked hw hx, hm, if_neg Bool.false_ne_true] at hexec
      obtain ⟨w, hend, hdone⟩ := loadDone_eq (s.loadReaches (natField v.toNat 48 8) x.k.data) v dataAbsent.word
      rw [hdone] at hexec
      exact ⟨_, hexec, ⟨hend, rfl⟩, congrArg (fun t : State => { t with logs := s.logs }) (loadReaches_onlySlices s _ _)⟩
    · obtain ⟨w, hgoes, hkeep⟩ := keepLoad_go u v true
      obtain ⟨hctns, hhandlers, hrooms, hmem, hhost⟩ := loadWaits_keeps hw
      rw [loadGo_waits hw, hkeep] at hexec
      exact ⟨_, hexec, hgoes, hctns, hhandlers, hrooms, hmem, hhost⟩
    · obtain ⟨x, hx, hm⟩ := loadWith_ok hload
      have hadds := loadApply_adds (asid := natField v.toNat 48 8) hx
      rw [loadGo_checked hw hx, hm, if_pos rfl] at hexec
      generalize (s.loadReaches (natField v.toNat 48 8) x.k.data).loadApply (natField v.toNat 48 8) (natField v.toNat 0 48) x = t
        at hexec hadds
      obtain ⟨w, hend, hdone⟩ := loadDone_eq t v 0
      rw [hdone] at hexec
      obtain ⟨hadded, hasid, hkept, hver, hhandlers, hfree, ⟨hid, hfirst, hcount⟩, htasks, hcells⟩ := hadds
      exact ⟨_, _, hexec, ⟨hend, rfl⟩, hadded, hasid, hkept, hver, hhandlers, hfree, hid, hfirst, hcount, htasks, hcells⟩
  · exact loadDone_refuses (exec_cfgUnload_refused hun hgo hidle fun k hk => by rw [hno] at hk; cases hk)
  · exact loadDone_refuses (exec_cfgUnload_refused hun hgo hidle fun q hq => by rw [hk] at hq; cases hq; exact hn)
  · obtain ⟨hctns, hhandlers⟩ := unloaded_gone k.id s
    have hexec := exec_cfgUnload_removes hun hgo hidle hk hn
    obtain ⟨w, hend, hdone⟩ := loadDone_eq (s.unloaded k.id) v 0
    rw [hdone] at hexec
    refine ⟨_, hexec, ⟨hend, rfl⟩, hctns, hhandlers, fun r => ?_, fun r => ?_, rfl, rfl, rfl⟩
    · exact (unloaded_room k.id s r).symm ▸ Room.unload_store k.id (s.room r)
    · exact (unloaded_room k.id s r).symm ▸ Room.unload_hearth k.id (s.room r)

end Sys2Proof.Proofs
end

section
/-! SUPPORT. What the release of a task's sets and its end leave unchanged (R72, R93, R100, R166). -/

namespace Sys2Proof.Machine

/-! ### What the steps of a commit leave unchanged -/

section
variable {β : Type} (g : State → β)

/-- A change of what the release of sets touches leaves the rest of the state as it was (R166). -/
theorem releaseSets_frame
    (hg : ∀ (t : State) cl ts os rs ls, g { t with clock := cl, tasks := ts, ops := os, rooms := rs, locks := ls } = g t)
    (s : State) (k : Task) : g (s.releaseSets k) = g s := by
  have hinject : ∀ i (u : State), g (u.inject i) = g u := fun i u => hg u _ u.tasks _ u.rooms u.locks
  have hgrant : ∀ (u : State) ctn set i, g (u.grantSet ctn set i) = g u := fun u ctn set i =>
    (foldState_frame g _ hinject _ _).trans (hg u u.clock _ _ _ _)
  refine (foldState_frame g _ (fun p u => ?_) _ _).trans (hg s s.clock s.tasks s.ops s.rooms _)
  unfold State.releaseSet
  split
  · rfl
  · split
    · exact hgrant u _ _ _
    · exact hg u u.clock u.tasks u.ops u.rooms _

variable (hg : ∀ (t : State) ts rt sc e ls hm rg nt lo, g
  { t with tasks := ts, rtags := rt, sched := sc, eth := e, launches := ls, hostMem := hm, rings := rg, notices := nt, lodge := lo } = g t)
include hg

theorem emitRecord_frame (s : State) (n tag : Nat) (notice : Bool) (bytes : List Byte) : g (s.emitRecord n tag notice bytes) = g s := by
  unfold State.emitRecord
  split
  · exact hg s s.tasks s.rtags s.sched s.eth s.launches _ _ s.notices s.lodge
  · split
    · exact hg s s.tasks s.rtags s.sched s.eth s.launches s.hostMem s.rings _ s.lodge
    · exact hg s s.tasks s.rtags s.sched s.eth s.launches s.hostMem s.rings s.notices _

theorem launchEnd_frame (s : State) (id n j : Nat) (status : Option Nat) : g (s.launchEnd id n j status) = g s := by
  have hlaunches : ∀ (u : State) ls, g { u with launches := ls } = g u := fun u ls =>
    hg u u.tasks u.rtags u.sched u.eth ls u.hostMem u.rings u.notices u.lodge
  have hrecord : ∀ (u : State) l, g (u.launchRecord l) = g u := by
    intro u l
    unfold State.launchRecord
    split
    · rfl
    · split
      · exact hlaunches u _
      · split
        · exact (emitRecord_frame g hg _ _ _ _ _).trans (hlaunches u _)
        · rfl
  unfold State.launchEnd
  dsimp only
  split
  · split
    · exact hlaunches s _
    · exact (hrecord _ _).trans ((hlaunches _ _).trans (hlaunches s _))
  · exact hlaunches s _

theorem releaseTicket_frame (s : State) (tag : Nat) (ticket : Option Nat) : g (s.releaseTicket tag ticket) = g s := by
  cases ticket with
  | none => rfl
  | some n => exact hg s _ _ s.sched s.eth s.launches s.hostMem s.rings s.notices s.lodge

/-- The end of a task changes the tasks, its tag, the scheduler, its stream slot, and its launch with its record (R72, R93, R100). -/
theorem endTask_leaves (s : State) (k : Task) (status : Option Nat) : g (s.endTask k status) = g s := by
  have hslot : g ((s.delTask k.id).freeSlot k.frameSlot) = g s := by
    cases k.frameSlot with
    | none => exact hg s _ s.rtags s.sched s.eth s.launches s.hostMem s.rings s.notices s.lodge
    | some q => exact hg s _ s.rtags s.sched _ s.launches s.hostMem s.rings s.notices s.lodge
  have hticket := (releaseTicket_frame g hg ((s.delTask k.id).freeSlot k.frameSlot) k.tag k.ticket).trans hslot
  unfold State.endTask
  refine (State.touchWm_frame g (fun t rt sc => hg t t.tasks rt sc t.eth t.launches t.hostMem t.rings t.notices t.lodge) _ _).trans ?_
  cases status with
  | none => cases k.launch with
    | none => exact hslot
    | some l => exact (launchEnd_frame g hg _ _ _ _ _).trans hslot
  | some st => cases k.launch with
    | none => exact hticket
    | some l => exact (launchEnd_frame g hg _ _ _ _ _).trans hticket

end

end Sys2Proof.Machine
end

section
/-! SUPPORT. The commit point of a task: its marks, its meters and its cells (R153, R160). -/

namespace Sys2Proof.Machine

/-! ### Marks and vestibules at a commit point (R160) -/

theorem exists_mem_of_mfind {α : Type} {m : AMap α} {i : Nat} {v : α} (h : mfind m i = some v) : ∃ p ∈ m, p.2 = v := by
  induction m with
  | nil => cases h
  | cons p m ih =>
    obtain ⟨j, u⟩ := p
    by_cases hj : j = i
    · rw [mfind, if_pos hj] at h
      exact ⟨_, List.mem_cons_self, Option.some.inj h⟩
    · rw [mfind, if_neg hj] at h
      obtain ⟨p, hp, hv⟩ := ih h
      exact ⟨p, List.mem_cons_of_mem _ hp, hv⟩

theorem Spad.settle_unmarked (p : Spad) (i w : Nat) : (p.settle i).tentBy w ≠ some i := by
  intro h
  obtain ⟨q, hq, hv⟩ := exists_mem_of_mfind h
  simpa [hv] using (List.mem_filter.1 hq).2

theorem Spad.settle_word (p : Spad) (i w : Nat) : (p.settle i).word w = p.word w := rfl

/-- A cell that leaves a task keeps the words of its scratchpad with their marks (R229). -/
theorem Cell.freedFrom_spad (i : Nat) (c : Cell) (w : Nat) :
    (c.freedFrom i).spad.word w = c.spad.word w ∧ (c.freedFrom i).spad.tentBy w = c.spad.tentBy w := by
  unfold Cell.freedFrom
  dsimp only
  split
  · exact ⟨rfl, rfl⟩
  · exact ⟨rfl, rfl⟩

/-- Drained vestibules have nothing to release: the cells are as they were. -/
theorem releaseAll_drained (k : Task) (cs : List Nat) (s : State) (h : ∀ c ∈ cs, (s.cell c).vest = []) :
    ∃ m, s.releaseAll k cs = ({ s with cells := m }, true) ∧ ∀ d, mget m d {} = s.cell d := by
  induction cs generalizing s with
  | nil => exact ⟨s.cells, rfl, fun _ => rfl⟩
  | cons c cs ih =>
    have hvest := h c List.mem_cons_self
    have hrel : s.releaseCell k c (s.cell c).vest = s.updCell c fun cl => { cl with vest := [] } := by
      rw [hvest]
      rfl
    have hcell : ∀ d, (s.updCell c fun cl => { cl with vest := [] }).cell d = s.cell d := by
      intro d
      rw [State.cell_updCell]
      split
      next hd => rw [hd, ← hvest]
      next => rfl
    obtain ⟨m, hall, hm⟩ := ih (s.updCell c fun cl => { cl with vest := [] }) fun d hd =>
      (congrArg Cell.vest (hcell d)).trans (h d (List.mem_cons_of_mem _ hd))
    refine ⟨m, ?_, fun d => (hm d).trans (hcell d)⟩
    unfold State.releaseAll
    dsimp only
    rw [hrel, hcell, hvest, List.isEmpty_nil, if_pos rfl, hall]
    rfl

/-! ### The state at a commit point (R153, R160) -/

/-- A committing task has dropped its marks and released its sets. -/
def State.unmarked (s : State) (k : Task) : State :=
  (((s.allSpads fun p => p.settle k.id).releaseSets k).wakeParks).updTask k.id fun u => { u with sets := [] }

/-- A committed task is gone: its meters are booked, its operations dropped, its cells freed, its ticket released. -/
def State.retired (s : State) (k : Task) : State :=
  ((((s.settleTask k).dropOps k.id).freeCells k).releaseTicket k.tag k.ticket).endTask k none

section
variable (s : State) (k : Task)

theorem unmarked_keeps : VanishKeeps s (s.unmarked k) := (VanishKeeps.refl s).allSpads.releaseSets.wakeParks.frame

theorem unmarked_cell (d : Nat) : (s.unmarked k).cell d = { s.cell d with spad := (s.cell d).spad.settle k.id } := by
  have hcells : (s.unmarked k).cells = (s.allSpads fun p => p.settle k.id).cells :=
    releaseSets_frame State.cells (fun _ _ _ _ _ _ => rfl) _ k
  unfold State.cell
  rw [hcells]
  exact mget_map (fun c : Cell => { c with spad := c.spad.settle k.id }) s.cells d {}

theorem unmarked_accts : (s.unmarked k).accts = s.accts := releaseSets_frame State.accts (fun _ _ _ _ _ _ => rfl) _ k

theorem retired_keeps : VanishKeeps s (s.retired k) := (VanishKeeps.refl s).settleTask.dropOps.freeCells.releaseTicket.endTask

theorem retired_cell (d : Nat) : (s.retired k).cell d = (s.cell d).freedFrom k.id := by
  have hcells : (s.retired k).cells = (s.freeCells k).cells :=
    (endTask_leaves State.cells (fun _ _ _ _ _ _ _ _ _ _ => rfl) _ k none).trans
      (releaseTicket_frame State.cells (fun _ _ _ _ _ _ _ _ _ _ => rfl) _ k.tag k.ticket)
  rw [← State.freeCells_cell]
  exact congrArg (fun m : AMap Cell => mget m d {}) hcells

theorem retired_acct (n : Nat) : (s.retired k).acct n = (s.settleTask k).acct n :=
  congrArg (fun m : AMap Acct => mget m n {}) ((endTask_leaves State.accts (fun _ _ _ _ _ _ _ _ _ _ => rfl) _ k none).trans
    (releaseTicket_frame State.accts (fun _ _ _ _ _ _ _ _ _ _ => rfl) _ k.tag k.ticket))

variable {s k}

/-- The meters of a committing gang are booked to the account of its task. -/
theorem settleTask_committing (hst : k.st = .committing) :
    (s.settleTask k).acct (s.entryOf k).acct
      = (s.acct (s.entryOf k).acct).settle ((k.gang.map fun c => (s.cell c).meter).map Meter.bal).sum
          ((k.gang.map fun c => (s.cell c).meter).map fun m => m.decl + m.topped).sum := by
  have hms : s.metersOf k = k.gang.map fun c => (s.cell c).meter := by
    unfold State.metersOf
    rw [hst]
  unfold State.settleTask
  dsimp only
  rw [State.acct_updAcct, if_pos rfl, hms, List.sum_eq_foldl, List.sum_eq_foldl]

variable (hk : s.task? s.cur.subject = some k) (hst : k.st = .committing) (hvest : ∀ c ∈ k.gang, (s.cell c).vest = [])
  (htrap : k.trapOf = none)
include hk hst hvest htrap

/-- The commit point of a task that answers for no other, all its vestibules being drained. -/
theorem exec_commitPoint :
    ∃ m, exec .commitPoint s = .next (State.retired { s.unmarked k with cells := m } k)
      ∧ ∀ d, mget m d {} = (s.unmarked k).cell d := by
  have hdrained : ∀ c ∈ k.gang, ((s.unmarked k).cell c).vest = [] := fun c hc =>
    (congrArg Cell.vest (unmarked_cell s k c)).trans (hvest c hc)
  obtain ⟨m, hall, hm⟩ := releaseAll_drained k k.gang (s.unmarked k) hdrained
  have hspawns : (k.gang.any fun c => (s.cell c).vest.any fun e => !e.isSpawn) = false := by
    rw [List.any_eq_false]
    intro c hc
    rw [hvest c hc]
    exact Bool.false_ne_true
  have hready : ¬ (k.st ≠ .committing ∨ (k.gang.any fun c => (s.cell c).vest.any fun e => !e.isSpawn) = true) := by
    rw [hst, hspawns]
    decide
  refine ⟨m, ?_, hm⟩
  show execCommitPoint s = _
  unfold execCommitPoint
  rw [hk]
  dsimp only
  rw [if_neg hready]
  change Host.Outcome.next (if (!((s.unmarked k).releaseAll k k.gang).2) = true then ((s.unmarked k).releaseAll k k.gang).1
    else (((s.unmarked k).releaseAll k k.gang).1.retired k).afterHandler k) = _
  rw [hall]
  refine congrArg Host.Outcome.next ((if_neg Bool.false_ne_true).trans ?_)
  unfold State.afterHandler
  rw [htrap]

theorem commitPoint_facts :
    let ms := k.gang.map fun c => (s.cell c).meter
    ∃ t, exec .commitPoint s = .next t ∧ t.mem = s.mem ∧ t.tags = s.tags ∧ (∀ u ∈ t.tasks, u.id ≠ k.id)
      ∧ (∀ d, (s.cell d).owner = some k.id → (t.cell d).owner = none)
      ∧ (∀ d w, (t.cell d).spad.tentBy w ≠ some k.id ∧ (t.cell d).spad.word w = (s.cell d).spad.word w)
      ∧ t.acct (s.entryOf k).acct
        = (s.acct (s.entryOf k).acct).settle (ms.map Meter.bal).sum (ms.map fun m => m.decl + m.topped).sum := by
  intro ms
  obtain ⟨m, hexec, hm⟩ := exec_commitPoint hk hst hvest htrap
  have hback := retired_keeps { s.unmarked k with cells := m } k
  have hcell : ∀ d, ((State.retired { s.unmarked k with cells := m } k).cell d)
      = Cell.freedFrom k.id { s.cell d with spad := (s.cell d).spad.settle k.id } := fun d => by
    rw [retired_cell, ← unmarked_cell, ← hm]
    rfl
  refine ⟨_, hexec, hback.mem.trans (unmarked_keeps s k).mem, hback.tags.trans (unmarked_keeps s k).tags, endTask_noTask none,
    fun d hd => ?_, fun d w => ?_, ?_⟩
  · rw [hcell, Cell.freedFrom_owner, if_pos hd]
  · obtain ⟨hword, hmark⟩ := Cell.freedFrom_spad k.id { s.cell d with spad := (s.cell d).spad.settle k.id } w
    rw [hcell, hword, hmark]
    exact ⟨Spad.settle_unmarked _ _ _, Spad.settle_word _ _ _⟩
  · have hentry : State.entryOf { s.unmarked k with cells := m } k = s.entryOf k := (unmarked_keeps s k).entries k.tag k.gen
    have hmeters : (k.gang.map fun c => (State.cell { s.unmarked k with cells := m } c).meter) = ms :=
      List.map_congr_left fun c _ => (congrArg Cell.meter (hm c)).trans (by rw [unmarked_cell])
    have hacct : State.acct { s.unmarked k with cells := m } (s.entryOf k).acct = s.acct (s.entryOf k).acct :=
      congrArg (fun a : AMap Acct => mget a (s.entryOf k).acct {}) (unmarked_accts s k)
    have hbooked := settleTask_committing (s := { s.unmarked k with cells := m }) hst
    rw [hentry, hmeters, hacct] at hbooked
    rw [retired_acct, hbooked]

end

end Sys2Proof.Machine
end

section
/-! SUPPORT. The age horizon, pre-emption, saved contexts and parking (R96, R124, R200, R268, R269); and O42. -/

namespace Sys2Proof.Machine

/-! ### Gatings and withdrawals (R200, R268) -/

/-- A change of each cell of a gang changes cells alone. -/
theorem updGang_eq (s : State) (k : Task) (f : Cell → Cell) : s.updGang k f = s.updCells k.gang fun _ => f :=
  foldState_updCell (fun _ _ => f) (fun _ _ => rfl) s k.gang

/-- A withdrawal of a gang's operations keeps memory and the tasks, and marks every operation of the gang to be issued again. -/
theorem withdrawAll_facts (s : State) (k : Task) :
    (s.withdrawAll k).mem = s.mem ∧ (s.withdrawAll k).tasks = s.tasks
      ∧ ∀ o ∈ (s.withdrawAll k).ops, o.task = k.id → o.replay = true := by
  unfold State.withdrawAll
  dsimp only
  rw [updGang_eq]
  refine ⟨rfl, rfl, fun o ho htask => ?_⟩
  obtain ⟨p, -, rfl⟩ := List.mem_map.1 ho
  split
  · rfl
  next hother =>
    rw [if_neg hother] at htask
    exact absurd htask hother

/-- A task gated with a purpose. -/
def Task.gatedFor (g : Gate) (k : Task) : Task := { k with gate := g }

/-- A gating of a task changes cells of its gang and its gate alone. -/
theorem gateTask_eq (s : State) (k : Task) (g : Gate) :
    ∃ cs, s.gateTask k g = State.updTask { s with cells := cs } k.id (Task.gatedFor g) := by
  unfold State.gateTask State.gateDomains
  rw [updGang_eq, updGang_eq]
  exact ⟨_, rfl⟩

section
variable {s : State} {k : Task} (hk : s.task? s.cur.subject = some k)
include hk

/-! ### The age horizon (R96) -/

theorem exec_ageHorizon (hpast : s.pastHorizon k.age = true) :
    exec .ageHorizon s = .next (if k.st = .queued then
      (s.report k.tag 0x01 k.pid (reportBody k.age 0 0 0 0 k.restarts 0x0B)).endTask k (some 0x01) else s.vanish k.id .aged) := by
  rw [State.task?_id hk]
  show execAgeHorizon s = _
  unfold execAgeHorizon
  dsimp only
  rw [hk]
  dsimp only
  rw [hpast]
  rfl

theorem ageHorizon_queued (hpast : s.pastHorizon k.age = true) (hst : k.st = .queued) :
    ∃ t, exec .ageHorizon s = .next t ∧ t.mem = s.mem ∧ ∀ u ∈ t.tasks, u.id ≠ k.id := by
  refine ⟨_, (exec_ageHorizon hk hpast).trans (congrArg Host.Outcome.next (if_pos hst)), ?_, endTask_noTask _⟩
  exact ((VanishKeeps.refl s).report.endTask).mem

theorem ageHorizon_running (hpast : s.pastHorizon k.age = true) (hst : k.st = .running) (htrap : k.trapOf = none) :
    ∃ t, exec .ageHorizon s = .next t ∧ t.mem = s.mem ∧ (∀ u ∈ t.tasks, u.id ≠ k.id)
      ∧ ∀ d, (s.cell d).owner = some k.id → (t.cell d).owner = none := by
  have hid : s.task? k.id = some k := State.task?_id hk ▸ hk
  have hend : s.mayRestart k .aged = false := by simp [State.mayRestart]
  obtain ⟨hmem, -, hfree, hgone⟩ := vanish1_vanished (s := s) (k := k) (c := .aged)
  rw [hend, if_neg Bool.false_ne_true] at hgone
  rw [← vanish_eq hid hst htrap] at hmem hfree hgone
  have hrun : ¬ k.st = .queued := by
    rw [hst]
    decide
  exact ⟨_, (exec_ageHorizon hk hpast).trans (congrArg Host.Outcome.next (if_neg hrun)), hmem, hgone, hfree⟩

/-! ### Pre-emption (R200, R268) -/

/-- A task that is pre-empted, its context to be written. -/
def Task.preempted (k : Task) : Task := { k with st := .preempted, gate := .none, saving := true, run := .preempted }

section
variable (hst : k.st = .running) (hfrozen : k.frozen = false) (hhalted : k.halted = false) (hgate : k.gate = .preempt)
  (hfaults : k.faults = []) (hquiet : s.gangQuiet k = true)
include hst hfrozen hhalted hgate hfaults hquiet

theorem exec_preemptQuiescent : exec .preemptQuiescent s = .next ((s.withdrawAll k).updTask k.id Task.preempted) := by
  show execPreemptQuiescent s = _
  unfold execPreemptQuiescent
  rw [hk]
  dsimp only
  rw [if_pos ⟨hst, hfrozen, hhalted, .inl hgate, by rw [hfaults]; rfl, hquiet⟩]
  unfold State.beginSave
  rw [hgate, if_neg (by decide)]
  rfl

theorem preemptQuiescent_facts :
    ∃ t u, exec .preemptQuiescent s = .next t ∧ t.task? k.id = some u ∧ u.st = .preempted ∧ u.saving = true ∧ u.gate = .none
      ∧ (∀ o ∈ t.ops, o.task = k.id → o.replay = true) ∧ t.mem = s.mem := by
  obtain ⟨hmem, htasks, hops⟩ := withdrawAll_facts s k
  have hid : (s.withdrawAll k).task? k.id = some k := by
    unfold State.task?
    rw [htasks, State.task?_id hk]
    exact hk
  exact ⟨_, k.preempted, exec_preemptQuiescent hk hst hfrozen hhalted hgate hfaults hquiet, State.task?_changed hid fun _ => rfl,
    rfl, rfl, rfl, hops, hmem⟩

end

/-! ### Saved contexts (R124, R269) -/

/-- A task whose context is written. -/
def Task.savedWith (x : Ctx) (k : Task) : Task := { k with ctx := some x, saving := false }

/-- The operations of a task have left for its context. -/
def State.withoutOps (s : State) (k : Task) : State := { s with ops := s.ops.filter fun o => o.task != k.id }

/-- The context of a task is written and its cells are free; its room is yet to be charged. -/
def State.saved (s : State) (k : Task) : State := ((s.withoutOps k).updTask k.id (Task.savedWith (s.contextOf k))).freeCells k

section
variable (hst : k.st = .preempted) (hsaving : k.saving = true) (hreqs : ∀ q ∈ s.sched.reqs, q.task ≠ k.id)
include hst hsaving hreqs

theorem exec_contextSaveComplete :
    exec .contextSaveComplete s = .next (((s.saved k).houseDebit k.room (8 * k.contextBlocks)).touchWm k.tag) := by
  have hasks : (s.sched.reqs.any fun q => q.task == k.id) = false := by
    rw [List.any_eq_false]
    intro q hq
    simpa using hreqs q hq
  have hready : ¬ (k.saving = false ∨ (k.st ≠ .preempted ∧ k.st ≠ .parked)
      ∨ (s.sched.reqs.any fun q => q.task == k.id) = true) := by
    rw [hst, hsaving, hasks]
    decide
  show execContextSaveComplete s = _
  unfold execContextSaveComplete
  rw [hk]
  exact congrArg Host.Outcome.next (if_neg hready)

theorem contextSaveComplete_facts :
    ∃ t u x, exec .contextSaveComplete s = .next t ∧ t.task? k.id = some u ∧ u.saving = false ∧ u.ctx = some x
      ∧ x.cells = k.gang.map (fun c => (k.posOf c, s.cell c)) ∧ x.ops = s.ops.filter (fun o => o.task == k.id)
      ∧ (∀ o ∈ t.ops, o.task ≠ k.id) ∧ (∀ d, (s.cell d).owner = some k.id → (t.cell d).owner = none)
      ∧ HearthPays s t k.room (8 * (k.contextBytes / 64)) ∧ t.mem = s.mem := by
  have hid : (s.withoutOps k).task? k.id = some k := State.task?_id hk ▸ hk
  have hkeeps : VanishKeeps s (s.saved k) := (VanishKeeps.refl s).frame.freeCells
  have hfree : ∀ d, (s.cell d).owner = some k.id → ((s.saved k).cell d).owner = none := fun d hd =>
    freeCells_owner ((s.withoutOps k).updTask k.id (Task.savedWith (s.contextOf k))) k hd
  have hgone : ∀ o ∈ (s.saved k).ops, o.task ≠ k.id := fun o ho => by simpa using (List.mem_filter.1 ho).2
  have htask : (s.saved k).task? k.id = some (k.savedWith (s.contextOf k)) := State.task?_changed hid fun _ => rfl
  have hpays : HearthPays s ((s.saved k).houseDebit k.room (8 * k.contextBlocks)) k.room (8 * k.contextBlocks) :=
    houseDebit_pays rfl rfl _ _
  exact ⟨_, k.savedWith (s.contextOf k), s.contextOf k, exec_contextSaveComplete hk hst hsaving hreqs, htask, rfl, rfl, rfl, rfl, hgone,
    hfree, hpays, hkeeps.mem⟩

end

end

/-! ### Parking (R124, R187) -/

section
variable {s : State} {o : Op} {k : Task} {m w : Nat}

/-- An LDWF or an LDTK waits on its own word. -/
theorem waitWord_load (hw : s.waitWord o m = some w) (hopc : o.opc = 0x42 ∨ o.opc = 0x43) : w = o.ea / 4 := by
  have hnot : ¬ ((o.opc = 0x55 ∨ o.opc = 0x56) ∧ 1 < (s.waitWords o m).length) := by omega
  unfold State.waitWord at hw
  dsimp only at hw
  rw [if_neg hnot] at hw
  unfold State.waitWords at hw
  dsimp only at hw
  rw [if_pos hopc] at hw
  split at hw
  · cases hw
  · exact (Option.some.inj hw).symm

/-- A task that is to park at a word for which an operation waits. -/
def Task.parkedFor (o : Op) (m w : Nat) (k : Task) : Task :=
  { k with wake := false, parkWord := some (m, w), parkOp := o.opc, parkId := o.id }

/-- A PARK entry of a task for a word (R123). -/
def State.parkEntry (s : State) (k : Task) (m w : Nat) : State :=
  s.updRoom k.room fun r => { r with waitTab := r.waitTab ++ [.park k.id m w] }

theorem parkEntry_waitTab (s : State) (k : Task) (m w : Nat) :
    ((s.parkEntry k m w).room k.room).waitTab = (s.room k.room).waitTab ++ [.park k.id m w] := by
  unfold State.parkEntry
  rw [State.room_updRoom, if_pos rfl]

/-- A wait outside the gang that has lasted longer than the threshold of the room. -/
theorem exec_park (ho : s.op? o.id = some o) (hk : s.task? o.task = some k) (hspad : o.spad = some m) (hwaits : o.waits = true)
    (hw : s.waitWord o m = some w) (hout : k.holds m = false) (hst : k.st = .running) (hfrozen : k.frozen = false)
    (hpaused : s.paused k = false) (hgate : k.gate = .none) (hthresh : (s.room k.room).parkThresh ≠ 0)
    (hlong : o.since + (s.room k.room).parkThresh < s.clock.tick) (htab : (s.room k.room).waitTab.length < 64)
    (hpool : k.contextBytes ≤ s.poolFree) :
    exec (.park o.id) s = .next (((s.parkEntry k m w).gateTask k .park).updTask k.id (Task.parkedFor o m w)) := by
  show execPark o.id s = _
  unfold execPark
  rw [ho]
  dsimp only
  rw [hk, hspad]
  dsimp only
  rw [hw]
  exact congrArg Host.Outcome.next (if_pos ⟨hwaits, rfl, hout, hst, hfrozen, hpaused, hgate, hthresh, hlong, htab, hpool⟩)

/-- The state of a task gated to park: its gate, the word that it waits for, and its PARK entry. -/
theorem parked_facts (hk : s.task? k.id = some k) (o : Op) (m w : Nat) :
    let t := ((s.parkEntry k m w).gateTask k .park).updTask k.id (Task.parkedFor o m w)
    t.task? k.id = some ((k.gatedFor .park).parkedFor o m w)
      ∧ (t.room k.room).waitTab = (s.room k.room).waitTab ++ [.park k.id m w] ∧ t.mem = s.mem ∧ t.ops = s.ops := by
  obtain ⟨cs, hgated⟩ := gateTask_eq (s.parkEntry k m w) k .park
  have hid : State.task? { s.parkEntry k m w with cells := cs } k.id = some k := hk
  dsimp only
  rw [hgated]
  exact ⟨State.task?_changed (State.task?_changed hid (f := Task.gatedFor .park) fun _ => rfl) fun _ => rfl,
    parkEntry_waitTab s k m w, rfl, rfl⟩

end

end Sys2Proof.Machine

namespace Sys2Proof.Proofs
open Sys2Proof.Machine

/-- Settles O42: each end of a task by what its event makes of the state. -/
theorem tasksEnd : Obligations.TasksEnd := by
  unfold Obligations.TasksEnd
  intro s k
  refine ⟨fun hk => ⟨commitPoint_facts hk,
    fun hpast htrap => ⟨ageHorizon_queued hk hpast, fun hst => ageHorizon_running hk hpast hst htrap⟩,
    preemptQuiescent_facts hk, contextSaveComplete_facts hk⟩, ?_⟩
  intro o m w ho hk hspad hwaits hw hout hst hfrozen hpaused hgate hthresh hlong htab hpool
  obtain ⟨htask, htable, hmem, hops⟩ := parked_facts (State.task?_id hk ▸ hk) o m w
  exact ⟨_, _, exec_park ho hk hspad hwaits hw hout hst hfrozen hpaused hgate hthresh hlong htab hpool, htask, rfl, rfl, waitWord_load hw,
    htable, hmem, hops⟩

end Sys2Proof.Proofs
end

section
/-! SUPPORT. What a step makes of a move: the element's turn, the hearth's and an event (R128, R171, R281, R300). -/

namespace Sys2Proof.Machine

/-! ### Decoding the bytes of a word (R281, R298) -/

/-- The eight bytes of an element word decode as the word. -/
theorem decode_slotBytes {w : Nat} (hw : w < 2 ^ 64) : decode (natToBytes 8 w) = decodeSlot w := by
  unfold decode
  rw [if_pos (length_natToBytes 8 w), bytesToNat_natToBytes, Nat.mod_eq_of_lt (by omega)]

/-- The sixteen bytes of a hearth command decode as the command. -/
theorem decode_commandBytes {w : Nat} (hw : w < 2 ^ 128) : decode (natToBytes 16 w) = decodeHearth w := by
  have hlen := length_natToBytes 16 w
  unfold decode
  rw [if_neg (by omega), if_pos hlen, bytesToNat_natToBytes, Nat.mod_eq_of_lt (by omega)]

variable {s u t : State} {i : Instr}

/-! ### A step by the outcome of its move's turn -/

theorem nextMove_cons {m : Move} {rest : List Move} (hm : s.agenda = m :: rest) : s.nextMove = (m, { s with agenda := rest }) := by
  rw [State.nextMove, hm]

theorem step_of_run {m : Move} (hm : s.nextMove = (m, u)) (h : u.turn m = .run i t) : step s = exec i t := by
  unfold step
  simp only [hm, h]

theorem step_of_done {m : Move} (hm : s.nextMove = (m, u)) (h : u.turn m = .done t) : step s = .next t := by
  unfold step
  simp only [hm, h]

theorem turn_element {c e : Nat} (hon : s.power.off = false) : s.turn (.element c e) = s.elementTurn c e := if_neg (by simp [hon])

theorem turn_hearth {r : Nat} (hon : s.power.off = false) : s.turn (.hearth r) = s.hearthTurn r := if_neg (by simp [hon])

theorem turn_event {subject : Nat} (hon : s.power.off = false) (hi : encodable i = false) :
    s.turn (.event subject i) = .run i { s with cur := { s.cur with subject := subject } } := if_neg (by simp [hon, hi])

/-! ### An element's turn (R128, R281) -/

theorem slotWord_lt (c e k : Nat) : s.slotWord c e k < 2 ^ 64 := BitVec.isLt _

/-- An element whose chosen slot decodes runs it, at its site and with its turn noted. -/
theorem elementTurn_run {c e k : Nat} (hc : c < 4096) (he : e < elemCount c) (hk : (s.beginTurn c e).chooseSlot c e = some k)
    (hi : decode (natToBytes 8 ((s.beginTurn c e).slotWord c e k)) = .ok i) :
    s.elementTurn c e = .run i (((s.beginTurn c e).noteTurn c e ((s.beginTurn c e).slotEngine c e k)).atSite c e k) := by
  rw [decode_slotBytes (slotWord_lt c e k)] at hi
  unfold State.elementTurn
  rw [if_neg (by omega)]
  simp only [hk, hi]

/-- A step whose move is an element's turn. -/
theorem step_element {c e k : Nat} (hm : s.nextMove = (.element c e, u)) (hon : u.power.off = false) (hc : c < 4096)
    (he : e < elemCount c) (hk : (u.beginTurn c e).chooseSlot c e = some k)
    (hi : decode (natToBytes 8 ((u.beginTurn c e).slotWord c e k)) = .ok i) :
    step s = exec i (((u.beginTurn c e).noteTurn c e ((u.beginTurn c e).slotEngine c e k)).atSite c e k) :=
  step_of_run hm ((turn_element hon).trans (elementTurn_run hc he hk hi))

/-! ### A hearth's turn (R171, R300) -/

/-- A room whose hearth has passed the wait of a command: the semaphore tested, the threshold consumed where the command says so. -/
def Room.passed (w : BitVec 128) (k : Room) : Room :=
  let sem := natField w.toNat 114 8
  let n := natField w.toNat 98 16
  { (if n = 0 then k else k.test sem) with
    sems := if w.getLsbD 97 then mput k.sems sem (k.sem sem - n) 0 else k.sems
    hearth := { k.hearth with st := .exec, exec := none } }

theorem passWait_met {k : Room} {w : BitVec 128} (hst : k.hearth.st = .wait)
    (hsem : natField w.toNat 98 16 ≤ k.sem (natField w.toNat 114 8)) : k.passWait w = some (k.passed w) := by
  unfold Room.passWait
  exact if_neg (by simp [hst, hsem])

theorem passWait_unmet {k : Room} {w : BitVec 128} (hsem : k.sem (natField w.toNat 114 8) < natField w.toNat 98 16) :
    k.passWait w = none := by
  unfold Room.passWait
  exact if_pos (.inr hsem)

section
variable {r : Nat} {w : BitVec 128} (hm : s.nextMove = (.hearth r, u)) (hon : u.power.off = false) (hr : r < 64)
  (hst : (u.room r).hearth.st = .wait) (hw : (u.room r).hearth.prog[(u.room r).hearth.pos]? = some w)
  (hi : decode (natToBytes 16 w.toNat) = .ok i)
include hm hon hr hst hw

include hi in
/-- A hearth whose wait is met runs the command at POS. -/
theorem step_hearth_met (hsem : natField w.toNat 98 16 ≤ (u.room r).sem (natField w.toNat 114 8)) :
    step s = exec i (State.updRoom { u with cur := { u.cur with subject := r } } r (Room.passed w)) := by
  rw [decode_commandBytes w.isLt] at hi
  refine step_of_run hm ((turn_hearth hon).trans ?_)
  unfold State.hearthTurn
  simp only [hst, hw, hi, passWait_met hst hsem]
  rw [if_neg (by omega), if_neg (by decide)]
  rfl

/-- A hearth whose wait is not met does nothing. -/
theorem step_hearth_unmet (hsem : (u.room r).sem (natField w.toNat 114 8) < natField w.toNat 98 16) : step s = .next u := by
  refine step_of_done hm ((turn_hearth hon).trans ?_)
  unfold State.hearthTurn
  simp only [hst, hw, passWait_unmet hsem]
  rw [if_neg (by omega), if_neg (by decide)]

end

end Sys2Proof.Machine
end

section
/-! SUPPORT. The step of a placed word (R76, R303): what the beginning of a turn leaves unchanged, and the placed commands and element
words; and O58. -/

namespace Sys2Proof.Machine

variable {s : State} {i : Instr}

/-! ### What the beginning of a turn leaves unchanged (R129, R284) -/

/-- A part of the state that no change of a cell touches is untouched by a control token of the cell. -/
theorem controlNow_frame {β : Type} (g : State → β) (c : Nat) (hg : ∀ u f, g (State.updCell u c f) = g u) (u : State) (e key : Nat) :
    g (u.controlNow c e key) = g u := by
  unfold State.controlNow
  split
  · exact hg _ _
  · exact hg _ _

theorem beginStep_frame {β : Type} (g : State → β) (c : Nat) (hg : ∀ u f, g (State.updCell u c f) = g u) (s : State) :
    g (s.beginStep c) = g s := by
  unfold State.beginStep
  exact (hg _ _).trans (foldState_frame g _ (fun _ u => controlNow_frame g c hg u _ _) _ _)

/-- A part of the state that no change of a cell touches is untouched by the beginning of a turn in the cell. -/
theorem beginTurn_frame {β : Type} (g : State → β) (c e : Nat) (hg : ∀ u f, g (State.updCell u c f) = g u) (s : State) :
    g (s.beginTurn c e) = g s := by
  unfold State.beginTurn
  split
  · exact beginStep_frame g c hg s
  · rfl

theorem slotWord_updCell {c d k j : Nat} {f : Cell → Cell} (hf : (f (s.cell c)).elems = (s.cell c).elems) :
    (s.updCell c f).slotWord d k j = s.slotWord d k j := by
  unfold State.slotWord
  rw [State.elem_updCell_keeps s c d k f hf]

theorem control_slots (el : Elem) (n : Nat) : (el.control n).slots = el.slots := by
  unfold Elem.control
  split <;> rfl

theorem slotWord_controlNow (u : State) (c e key d k j : Nat) : (u.controlNow c e key).slotWord d k j = u.slotWord d k j := by
  unfold State.controlNow
  split
  · exact slotWord_updCell rfl
  · unfold State.slotWord
    rw [State.elem_updElem]
    split
    next h => rw [control_slots, h.1, h.2]
    · rfl

theorem slotWord_beginStep (c d k j : Nat) : (s.beginStep c).slotWord d k j = s.slotWord d k j := by
  unfold State.beginStep
  refine (slotWord_updCell ?_).trans ?_
  · rfl
  · exact foldState_frame (fun u => State.slotWord u d k j) _ (fun _ u => slotWord_controlNow u c _ _ d k j) _ _

/-- The beginning of a turn leaves the words of the slots. -/
theorem slotWord_beginTurn (c e d k j : Nat) : (s.beginTurn c e).slotWord d k j = s.slotWord d k j := by
  unfold State.beginTurn
  split
  · exact slotWord_beginStep c d k j
  · rfl

/-! ### A placed hearth command (R300) -/

/-- The room of a placed command: its hearth waits on the command alone. -/
def Room.placedFor (w : Nat) (k : Room) : Room :=
  let n := natField w 114 8
  { k with
    hearth := { k.hearth with st := .wait, pos := 0, prog := [BitVec.ofNat 128 w], exec := none }
    sems := mput k.sems n (max (k.sem n) (natField w 98 16)) 0 }

/-- The semaphore of a placed command has reached its threshold. -/
theorem placedFor_sem (k : Room) (w : Nat) : natField w 98 16 ≤ (k.placedFor w).sem (natField w 114 8) := by
  have hsem : (k.placedFor w).sem (natField w 114 8) = max (k.sem (natField w 114 8)) (natField w 98 16) := mget_mput_self ..
  rw [hsem]
  exact Nat.le_max_right ..

/-- The state in which a placed command runs. -/
def State.commandRun (s : State) (w : Nat) : State :=
  State.updRoom { s.updRoom 0 (Room.placedFor w) with cur := { s.cur with subject := 0 } } 0 (Room.passed (BitVec.ofNat 128 w))

/-- The next step runs a placed command in room 0. -/
theorem step_placedCommand {w : Nat} (hw : w < 2 ^ 128) (hi : decode (natToBytes 16 w) = .ok i) (hon : s.power.off = false) :
    step (s.withFetchWord 128 w) = exec i (s.commandRun w) := by
  have htoNat : (BitVec.ofNat 128 w).toNat = w := by rw [BitVec.toNat_ofNat, Nat.mod_eq_of_lt hw]
  have hroom : (s.updRoom 0 (Room.placedFor w)).room 0 = (s.room 0).placedFor w := by rw [State.room_updRoom, if_pos rfl]
  exact step_hearth_met (u := s.updRoom 0 (Room.placedFor w)) rfl hon (by decide) (by rw [hroom]; rfl) (by rw [hroom]; rfl)
    (by rw [htoNat]; exact hi) (by rw [hroom, htoNat]; exact placedFor_sem _ w)

theorem commandRun_room (w : Nat) : (s.commandRun w).room 0 = ((s.room 0).placedFor w).passed (BitVec.ofNat 128 w) := by
  unfold State.commandRun
  rw [State.room_updRoom, if_pos rfl]
  exact congrArg _ (mget_mset_self ..)

/-! ### A placed element word (R128, R281) -/

/-- A word is placed in a cell of the device whose kind has elements. -/
theorem placeCell_bounds (op : Nat) : placeCell op < 4096 ∧ 0 < elemCount (placeCell op) := by
  have hcells : ∀ c ∈ [cellAt 0 1, cellAt 1 0, cellAt 0 0], c < 4096 ∧ 0 < elemCount c := by decide
  refine hcells _ ?_
  unfold placeCell
  split
  · split
    · simp
    · split <;> simp
  · simp

/-- The state in which the turn of a placed word's element begins. -/
def State.wordPlaced (s : State) (w : Nat) : State := { s.withFetchWord 64 w with agenda := s.agenda }

theorem wordPlaced_nextMove (w : Nat) : (s.withFetchWord 64 w).nextMove = (.element (placeCell (opOfBits w)) 0, s.wordPlaced w) := rfl

/-- Placing an element word changes the cell that takes it alone. -/
theorem wordPlaced_cell_ne {w d : Nat} (hd : d ≠ placeCell (opOfBits w)) : (s.wordPlaced w).cell d = s.cell d := mget_mset_ne _ _ _ hd

/-- Slot 0 of the element that takes a word holds it. -/
theorem wordPlaced_slotWord {w : Nat} (hw : w < 2 ^ 64) : (s.wordPlaced w).slotWord (placeCell (opOfBits w)) 0 0 = w := by
  have hcell : (s.wordPlaced w).cell (placeCell (opOfBits w)) = placedCell w s.clock.nextId := mget_mset_self ..
  have hslot : (s.wordPlaced w).slotWord (placeCell (opOfBits w)) 0 0 = (BitVec.ofNat 64 w).toNat := by
    unfold State.slotWord State.elem
    rw [hcell]
    rfl
  rw [hslot, BitVec.toNat_ofNat, Nat.mod_eq_of_lt hw]

/-- The state in which a placed word runs, once its element has chosen it. -/
def State.placedRun (s : State) (w : Nat) : State :=
  let c := placeCell (opOfBits w)
  let u := (s.wordPlaced w).beginTurn c 0
  (u.noteTurn c 0 (u.slotEngine c 0 0)).atSite c 0 0

/-- The next step runs a placed word that its element chooses. -/
theorem step_placedWord {w : Nat} (hw : w < 2 ^ 64) (hi : decode (natToBytes 8 w) = .ok i) (hon : s.power.off = false)
    (hk : ((s.wordPlaced w).beginTurn (placeCell (opOfBits w)) 0).chooseSlot (placeCell (opOfBits w)) 0 = some 0) :
    step (s.withFetchWord 64 w) = exec i (s.placedRun w) := by
  obtain ⟨hc, he⟩ := placeCell_bounds (opOfBits w)
  refine step_element (wordPlaced_nextMove w) hon hc he hk ?_
  rw [slotWord_beginTurn, wordPlaced_slotWord hw]
  exact hi

/-- What neither a change of the cell that takes a word nor the site touches is, when the word runs, as it was placed. -/
theorem placedRun_frame {β : Type} (g : State → β) (w : Nat) (hg : ∀ u f, g (State.updCell u (placeCell (opOfBits w)) f) = g u)
    (hsite : ∀ u : State, g (u.atSite (placeCell (opOfBits w)) 0 0) = g u) : g (s.placedRun w) = g (s.wordPlaced w) :=
  (hsite _).trans ((hg _ _).trans (beginTurn_frame g _ 0 hg _))

theorem placedRun_cell_ne {w d : Nat} (hd : d ≠ placeCell (opOfBits w)) : (s.placedRun w).cell d = s.cell d :=
  (placedRun_frame (fun u => u.cell d) w (fun u f => by simp only [State.cell_updCell, if_neg hd]) fun _ => rfl).trans
    (wordPlaced_cell_ne hd)

/-! ### The plain words of the opcodes after reset (R281, R292) -/

theorem opOfBits_plain {op : Nat} (hop : op < 256) : opOfBits (op * 2 ^ 30 + 1) = op := by
  unfold opOfBits natField
  omega

/-- Whether the plain word of an opcode is chosen where it is placed after reset. -/
def plainChosen (op : Nat) : Bool :=
  let w := op * 2 ^ 30 + 1
  let c := placeCell (opOfBits w)
  ((State.reset.wordPlaced w).beginTurn c 0).chooseSlot c 0 == some 0

/-- The plain word of every opcode is chosen, by the readiness rule on each opcode of the table in turn. -/
theorem plainChosen_all : (List.range 256).all plainChosen = true := by decide +kernel

/-- The next step after reset runs the plain word of an opcode. -/
theorem step_plainWord {op : Nat} (hop : op < 256) (hi : decode (natToBytes 8 (op * 2 ^ 30 + 1)) = .ok i) :
    step (State.reset.withFetchWord 64 (op * 2 ^ 30 + 1)) = exec i (State.reset.placedRun (op * 2 ^ 30 + 1)) := by
  have hchosen : plainChosen op = true := List.all_eq_true.1 plainChosen_all op (List.mem_range.2 hop)
  exact step_placedWord (by omega) hi rfl (eq_of_beq hchosen)

end Sys2Proof.Machine

namespace Sys2Proof.Proofs
open Sys2Proof.Machine

/-- Settles O58: the turn of each kind of move, a placed word as a turn of the element or the hearth that takes it, and the plain
words by the opcode table. -/
theorem stepRunsDecoded : Obligations.StepRunsDecoded := by
  unfold Obligations.StepRunsDecoded
  intro s i
  refine ⟨fun m rest hm hon => ⟨?_, ?_, ?_⟩, ?_, ?_, ?_⟩
  · rintro c e k rfl hc he
    exact fun hk hi => step_element (nextMove_cons hm) hon hc he hk hi
  · rintro r w rfl hr hst hw hi
    exact ⟨fun hsem => step_hearth_met (nextMove_cons hm) hon hr hst hw hi hsem,
      fun hsem => step_hearth_unmet (nextMove_cons hm) hon hr hst hw hsem⟩
  · rintro subject rfl hi
    exact step_of_run (nextMove_cons hm) (turn_event hon hi)
  · exact fun w hw hi hon => ⟨_, step_placedCommand hw hi hon, rfl, rfl, rfl, rfl, by rw [commandRun_room]; rfl,
      by rw [commandRun_room]; rfl⟩
  · exact fun w hw hi hon hk => ⟨_, step_placedWord hw hi hon hk, placedRun_frame State.mem w (fun _ _ => rfl) fun _ => rfl,
      placedRun_frame State.rooms w (fun _ _ => rfl) fun _ => rfl, placedRun_frame State.ops w (fun _ _ => rfl) fun _ => rfl,
      fun d hd => placedRun_cell_ne hd, rfl, rfl, rfl⟩
  · exact fun op hop hi => ⟨_, step_plainWord hop hi, congrArg placeCell (opOfBits_plain hop), rfl, rfl⟩

end Sys2Proof.Proofs
end

section
/-! SUPPORT. Settlements, physical-mode stops and brownouts of a meter (R134, R135, R143 to R148, R458); and O41. -/

namespace Sys2Proof.Machine

/-- A record in a log of the host changes the host's memory alone. -/
theorem appendLog_hostMem (s : State) (lg : HostLog) (n : Nat) (bytes : List Byte) :
    ∃ hostMem, (s.appendLog lg n bytes).2 = { s with hostMem := hostMem } := by
  unfold State.appendLog
  split
  · exact ⟨_, rfl⟩
  · exact ⟨s.hostMem, rfl⟩

/-! ### A vanish that follows other effects of its event -/

/-- A vanish from a state with the memory, owners, next identifier and restarts of another is a vanish from that one. -/
theorem Vanished.of_start {s u t : State} {k : Task} {c : Cause} (h : Vanished u t k c) (hmem : u.mem = s.mem) (htags : u.tags = s.tags)
    (hown : ∀ d, (u.cell d).owner = (s.cell d).owner) (hid : u.clock.nextId = s.clock.nextId)
    (hrestart : u.mayRestart k c = s.mayRestart k c) : Vanished s t k c := by
  obtain ⟨hm, ht, hfree, hgone⟩ := h
  rw [hrestart, hid] at hgone
  exact ⟨hm.trans hmem, ht.trans htags, fun d hd => hfree d ((hown d).trans hd), hgone⟩

section
variable {s : State} {k : Task} (hk : s.task? k.id = some k) (hrun : k.st = .running) (htrap : k.trapOf = none)
include hk hrun htrap

/-- A running task that answers for no other vanishes alone, whatever shortfall its report names. -/
theorem vanishN_alone (fuel : Nat) (c : Cause) (short : Nat) :
    s.vanishN (fuel + 1) k.id c false short = s.vanish1 k c false short := by
  unfold State.vanishN
  rw [hk]
  dsimp only
  rw [hrun, if_neg (by decide), htrap]
  split
  · rfl
  · rfl

theorem vanishN_vanished (fuel : Nat) (c : Cause) (short : Nat) : Vanished s (s.vanishN (fuel + 1) k.id c false short) k c := by
  rw [vanishN_alone hk hrun htrap]
  have hkeeps : VanishKeeps s (s.vanish1 k c false short) := (VanishKeeps.refl s).vanish1
  refine ⟨hkeeps.mem, hkeeps.tags, fun d => vanish1_owner s k c false short, ?_⟩
  unfold State.vanish1
  rw [Bool.not_false, Bool.and_true]
  by_cases hm : s.mayRestart k c = true
  · rw [if_pos hm, if_pos hm]
    exact ⟨(s.rollTask k).clock.nextId, ((VanishKeeps.refl s).rollTask).nextId, List.mem_append_right _ (List.mem_singleton_self _)⟩
  · rw [if_neg hm, if_neg hm]
    exact endTask_noTask _

/-- The stop record goes to the host's log alone, and the task vanishes with SHORT (R148, R151). -/
theorem meterStop_vanished (c cost : Nat) (atEntry : Bool) : Vanished s (s.meterStop k c cost atEntry) k .short := by
  obtain ⟨hostMem, hlog⟩ := appendLog_hostMem s s.logs.meter 64
    (stopRecord k (s.entryOf k) c (s.cell c).meter (stopFigs k.iters (s.govExtent k) (s.cell c).meter cost atEntry) cost atEntry)
  unfold State.meterStop
  dsimp only
  rw [hlog]
  refine Vanished.of_start (vanishN_vanished ?_ hrun htrap _ _ _) rfl rfl (fun _ => rfl) rfl rfl
  exact hk

end

/-! ### Top-up requests (R143, R144, R146, R347) -/

/-- What stands in a meter's way to a grant of a number of packets: its account and its 32-bit figures. -/
theorem grant_iff (a : Acct) (m : Meter) (mu : Nat) :
    (a.canDraw mu && m.takesGrant mu) = true ↔ a.canDraw mu = true ∧ m.bal + mu < 2 ^ 32 ∧ m.topped + mu < 2 ^ 32 := by
  simp only [Meter.takesGrant, Bool.and_eq_true, decide_eq_true_eq]

/-- The state with the requests that remain after one has been taken. -/
def State.withReqs (s : State) (reqs : List TopReq) : State := { s with sched := { s.sched with reqs := reqs } }

/-- The state after a grant, before what a meter that it leaves STALLED does. -/
def State.granting (s : State) (q : TopReq) : State :=
  ((s.updAcct q.acct fun a => a.draw (64 * q.packets)).updMeter q.cell fun m => m.granted (64 * q.packets)).endStep q.cell

/-- The state after a denial, before what a meter that it leaves STALLED does. -/
def State.denying (s : State) (q : TopReq) : State := (s.updMeter q.cell Meter.refused).endStep q.cell

/-- A cell after a change of its meter that begins a new step. -/
theorem cell_meterStep (s : State) (c d : Nat) (f : Meter → Meter) :
    ((s.updMeter c f).endStep c).cell d = if d = c then { s.cell c with meter := f (s.cell c).meter, turned := none } else s.cell d := by
  unfold State.endStep
  rw [State.cell_updCell, State.cell_updMeter, State.cell_updMeter, if_pos rfl]
  split
  · rfl
  · rfl

theorem stillStalled_paying {s : State} {c : Nat} (h : (s.cell c).meter.st = .paying) (k : Task) (grant : Bool) :
    s.stillStalled k c grant = s := if_pos (by rw [h]; decide)

section
variable {s : State} {k : Task} {n : Nat} {q : TopReq} {rest : List TopReq} (htake : takeReq n s.sched.reqs = some (q, rest))
  (hdest : q.dest = none) (hk : s.task? q.task = some k) (hown : (s.cell q.cell).owner = some k.id)
include htake hdest hk hown

/-- The settlement of the first request of an account, of a task whose cell asked for it. -/
theorem exec_topupSettle : exec (.topupSettle n) s = .next (
    if ((s.acct q.acct).canDraw (64 * q.packets) && (s.cell q.cell).meter.takesGrant (64 * q.packets)) = true
    then ((s.withReqs rest).granting q).stillStalled k q.cell true
    else ((s.withReqs rest).denying q).stillStalled k q.cell false) := by
  show Host.Outcome.next (s.settleNext n) = _
  unfold State.settleNext
  rw [htake]
  dsimp only
  rw [hdest]
  show Host.Outcome.next ((s.withReqs rest).settleTopup q) = _
  unfold State.settleTopup
  rw [show (s.withReqs rest).task? q.task = some k from hk]
  dsimp only
  exact congrArg Host.Outcome.next (if_neg (not_not.2 hown))

variable (hpend : (s.cell q.cell).meter.st = .pending)

section
include hpend

theorem topupSettle_grants
    (hfits : ((s.acct q.acct).canDraw (64 * q.packets) && (s.cell q.cell).meter.takesGrant (64 * q.packets)) = true) :
    let m := (s.cell q.cell).meter
    let a := s.acct q.acct
    ∃ t, exec (.topupSettle n) s = .next t
      ∧ t.acct q.acct = { a with balance := a.balance - 64 * q.packets, out := a.out + 64 * q.packets }
      ∧ (∀ j, j ≠ q.acct → t.acct j = s.acct j)
      ∧ (t.cell q.cell).meter = { m with bal := m.bal + 64 * q.packets, topped := m.topped + 64 * q.packets, pend := false, st := .paying }
      ∧ (∀ c, c ≠ q.cell → t.cell c = s.cell c) ∧ t.sched.reqs = rest ∧ t.mem = s.mem ∧ t.tasks = s.tasks := by
  intro m a
  have hmeter : (((s.withReqs rest).granting q).cell q.cell).meter
      = { m with bal := m.bal + 64 * q.packets, topped := m.topped + 64 * q.packets, pend := false, st := .paying } := by
    unfold State.granting
    rw [cell_meterStep, if_pos rfl]
    show Meter.granted m (64 * q.packets) = _
    unfold Meter.granted
    dsimp only
    rw [if_pos (Or.inl hpend)]
  have hacct : ∀ j, ((s.withReqs rest).granting q).acct j = if j = q.acct then a.draw (64 * q.packets) else s.acct j := fun j =>
    State.acct_updAcct (s.withReqs rest) q.acct j fun a => a.draw (64 * q.packets)
  refine ⟨_, (exec_topupSettle htake hdest hk hown).trans (congrArg Host.Outcome.next (if_pos hfits)), ?_⟩
  rw [stillStalled_paying (congrArg Meter.st hmeter)]
  refine ⟨(hacct q.acct).trans (if_pos rfl), fun j hj => (hacct j).trans (if_neg hj), hmeter, fun c hc => ?_, rfl, rfl, rfl⟩
  exact (cell_meterStep _ _ _ _).trans (if_neg hc)

theorem topupSettle_denies
    (hnot : ¬ ((s.acct q.acct).canDraw (64 * q.packets) && (s.cell q.cell).meter.takesGrant (64 * q.packets)) = true) :
    ∃ t, exec (.topupSettle n) s = .next t
      ∧ (t.cell q.cell).meter = { (s.cell q.cell).meter with denied := true, pend := false, st := .paying }
      ∧ (∀ c, c ≠ q.cell → t.cell c = s.cell c) ∧ t.sched.reqs = rest ∧ t.accts = s.accts ∧ t.mem = s.mem ∧ t.tasks = s.tasks := by
  have hmeter : (((s.withReqs rest).denying q).cell q.cell).meter
      = { (s.cell q.cell).meter with denied := true, pend := false, st := .paying } := by
    unfold State.denying
    rw [cell_meterStep, if_pos rfl]
    show Meter.refused (s.cell q.cell).meter = _
    unfold Meter.refused
    rw [if_pos hpend]
  refine ⟨_, (exec_topupSettle htake hdest hk hown).trans (congrArg Host.Outcome.next (if_neg hnot)), ?_⟩
  rw [stillStalled_paying (congrArg Meter.st hmeter)]
  exact ⟨hmeter, fun c hc => (cell_meterStep _ _ _ _).trans (if_neg hc), rfl, rfl, rfl, rfl⟩

end

/-- A denied meter that is STALLED stops its task with SHORT (R146). -/
theorem topupSettle_stops (hstalled : (s.cell q.cell).meter.st = .stalled) (hrun : k.st = .running) (htrap : k.trapOf = none)
    (hnot : ¬ ((s.acct q.acct).canDraw (64 * q.packets) && (s.cell q.cell).meter.takesGrant (64 * q.packets)) = true) :
    ∃ t, exec (.topupSettle n) s = .next t ∧ Vanished s t k .short := by
  have hcell : ∀ d, ((s.withReqs rest).denying q).cell d = if d = q.cell then
      { s.cell q.cell with meter := (s.cell q.cell).meter.refused, turned := none } else s.cell d := fun d => cell_meterStep _ _ d _
  have hst : (((s.withReqs rest).denying q).cell q.cell).meter.st = .stalled := by
    rw [hcell, if_pos rfl]
    show (if (s.cell q.cell).meter.st = .pending then MeterSt.paying else (s.cell q.cell).meter.st) = .stalled
    rw [hstalled]
    rfl
  have howner : ∀ d, (((s.withReqs rest).denying q).cell d).owner = (s.cell d).owner := fun d => by
    rw [hcell]
    split
    next hd => rw [hd]
    next => rfl
  refine ⟨_, (exec_topupSettle htake hdest hk hown).trans (congrArg Host.Outcome.next (if_neg hnot)), ?_⟩
  unfold State.stillStalled
  dsimp only
  rw [if_neg (not_not.2 hst), Bool.false_and, if_neg Bool.false_ne_true]
  have hid : ((s.withReqs rest).denying q).task? k.id = some k := State.task?_id hk ▸ hk
  exact Vanished.of_start (meterStop_vanished hid hrun htrap _ _ _) rfl rfl howner rfl rfl

end

/-! ### Moves between accounts (R171, R458) -/

theorem exec_topupSettle_moves {s : State} {q : TopReq} {d : Nat} {rest : List TopReq}
    (htake : takeReq q.acct s.sched.reqs = some (q, rest)) (hdest : q.dest = some d)
    (hother : (takeReq d s.sched.reqs).map (·.1) = some q) :
    exec (.topupSettle q.acct) s = .next ((s.withReqs rest).moveMu q d) := by
  show Host.Outcome.next (s.settleNext q.acct) = _
  unfold State.settleNext
  rw [htake]
  dsimp only
  rw [hdest]
  dsimp only
  rw [if_pos rfl, if_pos hother]
  rfl

theorem acct_updRoom (s : State) (r n : Nat) (f : Room → Room) : (s.updRoom r f).acct n = s.acct n := rfl

/-- What moves between two accounts, and what the hearth that asked for it reads back. -/
theorem moveMu_facts (s : State) (q : TopReq) {d : Nat} (hd : d ≠ q.acct) :
    let n := min (mget (s.room q.room).hearth.h q.ha 0).toNat (s.acct q.acct).balance
    ((s.moveMu q d).acct q.acct).balance = (s.acct q.acct).balance - n
      ∧ ((s.moveMu q d).acct d).balance = min ((s.acct d).balance + n) (2 ^ 48 - 1)
      ∧ mget ((s.moveMu q d).room q.room).hearth.h q.ha 0 = (if (s.room q.room).hearth.exec.any (fun x => x.moves q.task)
          then BitVec.ofNat 64 n else mget (s.room q.room).hearth.h q.ha 0) := by
  intro n
  unfold State.moveMu
  dsimp only
  rw [if_neg hd.symm]
  refine ⟨?_, ?_, ?_⟩
  · rw [acct_updRoom, State.acct_updAcct, if_neg hd.symm, State.acct_updAcct, if_pos rfl]
  · rw [acct_updRoom, State.acct_updAcct, if_pos rfl, State.acct_updAcct, if_neg hd]
  · rw [State.room_updRoom, if_pos rfl]
    show mget (Room.hearth (if ((s.room q.room).hearth.exec.any fun x => x.moves q.task) = true then _ else _)).h q.ha 0 = _
    split
    · exact mget_mput_self _ _ _ _
    · rfl

/-! ### Physical-mode stops and brownouts (R134, R135, R146) -/

section
variable {s : State} {k : Task} (hown : s.owner? s.cur.subject = some k) (hrun : k.st = .running)
include hown hrun

theorem exec_physicalStop (hmode : (s.entryOf k).mmode = true) (hfrozen : k.frozen = false)
    (hlow : (s.cell s.cur.subject).meter.bal < 64) (hspawn : (s.cell s.cur.subject).spawning s.clock.tick = false) :
    exec .physicalStop s = .next (
      if (s.cell s.cur.subject).meter.st = .pending then s.updMeter s.cur.subject fun m => { m with st := .stalled }
      else if (s.cell s.cur.subject).meter.st = .paying then s.meterStop k s.cur.subject 0 false else s) := by
  have hgo : ¬ (k.st ≠ .running ∨ k.frozen = true ∨ (s.entryOf k).mmode = false ∨ 64 ≤ (s.cell s.cur.subject).meter.bal
      ∨ (s.cell s.cur.subject).spawning s.clock.tick = true) := by
    simp only [hrun, hfrozen, hmode, hspawn, not_le.2 hlow]
    decide
  show execPhysicalStop s = _
  unfold execPhysicalStop
  dsimp only
  rw [hown]
  exact congrArg Host.Outcome.next (if_neg hgo)

/-- The lodge has logged a brownout of a cell and is to test the cell (R134, R272). -/
def State.brownedOut (s : State) (c : Nat) : State :=
  { s.logError c 2 with lodge := { (s.logError c 2).lodge with pendingTests := s.lodge.pendingTests ++ [c] } }

theorem brownout_facts (hmode : (s.entryOf k).mmode = false) (hcov : s.coveredFiring s.cur.subject = true) (htrap : k.trapOf = none) :
    ∃ t, exec .brownout s = .next t ∧ Vanished s t k .fault
      ∧ (s.lodge.st ≠ 6 → t.lodge.errLog = s.lodge.errLog ++ [(s.cur.subject, 2)])
      ∧ t.lodge.pendingTests = s.lodge.pendingTests ++ [s.cur.subject] := by
  have hexec : exec .brownout s = .next ((s.brownedOut s.cur.subject).vanish k.id .fault) := by
    show execBrownout s = _
    unfold execBrownout
    dsimp only
    rw [hown]
    exact congrArg Host.Outcome.next (if_pos ⟨hrun, hmode, hcov⟩)
  have hid : (s.brownedOut s.cur.subject).task? k.id = some k := (owner?_eq_some hown).2
  obtain ⟨lost, hlodge⟩ := ((VanishKeeps.refl (s.brownedOut s.cur.subject)).vanish (id := k.id) (c := .fault)).lodge
  refine ⟨_, hexec, Vanished.of_start (vanishN_vanished hid hrun htrap _ _ _) rfl rfl (fun _ => rfl) rfl rfl, fun hst => ?_, ?_⟩
  · rw [hlodge]
    show (Lodge.errLog (if s.lodge.st = 6 then _ else _)) = _
    rw [if_neg hst]
  · rw [hlodge]
    rfl

end

end Sys2Proof.Machine

namespace Sys2Proof.Proofs
open Sys2Proof.Machine

/-- Settles O41: each settlement by its outcome (grant, denial, stop, move), and the two stops that the floor of a cistern makes. -/
theorem metersSettle : Obligations.MetersSettle := by
  unfold Obligations.MetersSettle
  intro s k
  refine ⟨?_, ?_, ?_⟩
  · intro n q rest htake hdest hk hown
    dsimp only
    rw [← grant_iff]
    exact ⟨fun hfits hpend => topupSettle_grants htake hdest hk hown hpend hfits,
      fun hnot hpend => topupSettle_denies htake hdest hk hown hpend hnot,
      fun hnot hstalled hrun htrap => topupSettle_stops htake hdest hk hown hstalled hrun htrap hnot⟩
  · intro q d rest htake hdest hd hother
    obtain ⟨hfrom, hto, hback⟩ := moveMu_facts (s.withReqs rest) q hd
    exact ⟨_, exec_topupSettle_moves htake hdest hother, hfrom, hto, hback, rfl, rfl, rfl⟩
  · intro hown hrun
    refine ⟨fun hmode hfrozen hlow hspawn => ⟨fun hpend => ?_, fun hpaying htrap => ?_⟩, brownout_facts hown hrun⟩
    · refine ⟨_, (exec_physicalStop hown hrun hmode hfrozen hlow hspawn).trans (congrArg Host.Outcome.next (if_pos hpend)), ?_, rfl⟩
      rw [State.cell_updMeter, if_pos rfl]
    · have hnot : ¬ (s.cell s.cur.subject).meter.st = .pending := by
        rw [hpaying]
        decide
      exact ⟨_, (exec_physicalStop hown hrun hmode hfrozen hlow hspawn).trans
        (congrArg Host.Outcome.next ((if_neg hnot).trans (if_pos hpaying))),
        meterStop_vanished (owner?_eq_some hown).2 hrun htrap _ 0 false⟩

end Sys2Proof.Proofs
end

section
/-! SUPPORT. A debit of an engine that its meter takes (R135 to R137, R146), and the deadlock count that its step resets (R264). -/

namespace Sys2Proof.Machine

/-- A debit that is covered is taken, from BAL to CONS. -/
theorem State.pay_paid (s : State) (t : Task) (c cost : Nat) (hf : t.frozen = false) (ht : (s.cell c).meter.takes = true)
    (h : (s.entryOf t).mmode = true ∨ cost ≤ (s.cell c).meter.bal) :
    ∃ u, s.pay t c cost = .paid u ∧ DebitFrame s u ∧ MeterPaid s u t c cost := by
  obtain ⟨u, hu, hframe⟩ := s.pay_covered t c cost hf ht h
  refine ⟨u, hu, hframe, ?_⟩
  have hst : (s.cell c).meter.st = .paying ∨ (s.cell c).meter.st = .pending := by simpa [Meter.takes] using ht
  unfold State.pay at hu
  unfold MeterPaid
  dsimp only at hu ⊢
  rw [if_neg (by simp [hf]), if_pos hst] at hu
  by_cases hm : (s.entryOf t).mmode = true
  · rw [if_pos hm] at hu ⊢
    obtain ⟨hbal, hcons⟩ := (s.pumped c).autoTopup_figures t c
    rw [← Pay.paid.inj hu, hbal, hcons]
    refine ⟨s.free.1.toNat % ((s.cell c).meter.bal / 64 + 1), Nat.le_of_lt_succ (Nat.mod_lt _ (Nat.succ_pos _)), ?_⟩
    have hcell : (s.pumped c).cell c = { s.cell c with
        meter := (s.cell c).meter.debit (64 * (s.free.1.toNat % ((s.cell c).meter.bal / 64 + 1))) } :=
      (State.cell_updCell _ _ _ _).trans (if_pos rfl)
    rw [hcell]
    exact ⟨rfl, rfl⟩
  · have hb : cost ≤ (s.cell c).meter.bal := h.resolve_left hm
    rw [if_neg hm, if_pos hb] at hu
    rw [if_neg hm]
    obtain ⟨hbal, hcons⟩ := (s.updMeter c fun m => m.debit cost).autoTopup_figures t c
    rw [← Pay.paid.inj hu, hbal, hcons, State.cell_updMeter, if_pos rfl]
    exact ⟨rfl, rfl⟩

/-- A reset of the deadlock count of a task is no more than what a debit may change. -/
theorem State.calm_debitFrame (s : State) (i : Nat) : DebitFrame s (s.updTask i fun t => { t with dcount := 0 }) := by
  refine ⟨⟨rfl, ?_, rfl, rfl, rfl⟩, SameEngines.refl s, fun _ _ => rfl⟩
  show (s.tasks.map fun t => if t.id = i then { t with dcount := 0 } else t).map Task.calm = _
  rw [List.map_map]
  refine List.map_congr_left fun t _ => ?_
  show (if t.id = i then { t with dcount := 0 } else t).calm = t.calm
  split
  · rfl
  · rfl

section
variable {s : State} {k : Task} {c key cost : Nat} (h : MeterPays s k c key cost)
include h

theorem MeterPays.payEngine : ∃ u, s.payEngine k c key cost = .paid u ∧ DebitFrame s u ∧ MeterPaid s u k c cost := by
  obtain ⟨hfrozen, hheld, hby, htakes, hcost⟩ := h
  obtain ⟨u, hu, hframe, hpaid⟩ := s.pay_paid k c cost hfrozen htakes hcost
  have hfree : (s.cell c).heldFor key = false := by
    unfold Cell.heldFor
    rw [Bool.or_eq_false_iff]
    constructor
    · rw [List.any_eq_false]
      intro p hp
      simp [hheld p hp]
    · cases hk : (s.cell c).meter.heldBy with
      | none => rfl
      | some j => simp [hby j hk]
  refine ⟨u, ?_, hframe, hpaid⟩
  unfold State.payEngine
  rw [if_neg (by simp [hfree]), hu]

/-- An engine's step goes on from a state in which its debit is made. -/
theorem MeterPays.step (f : State → State) :
    ∃ u, (s.payEngine k c key cost).step k.id f = f u ∧ DebitFrame s u ∧ MeterPaid s u k c cost := by
  obtain ⟨u, hu, hframe, hpaid⟩ := MeterPays.payEngine h
  exact ⟨_, by rw [hu]; rfl, hframe.trans (u.calm_debitFrame k.id), hpaid⟩

end

/-- A debit is seen after steps that leave the meter of the cell alone. -/
theorem MeterPaid.keeps {s u t : State} {k : Task} {c cost : Nat} (h : MeterPaid s u k c cost)
    (hm : (t.cell c).meter = (u.cell c).meter) : MeterPaid s t k c cost := by
  unfold MeterPaid at h ⊢
  rwa [hm]

end Sys2Proof.Machine
end

section
/-! SUPPORT. The step of a domain of the DDA (R197, R228, R434): its integrators, and what it leaves unchanged; and O37. -/

namespace Sys2Proof.Machine

/-! ### The integrators of a step (R228) -/

/-- What an integrator holds: Y, Q, its increment and its count. -/
def Dda.held (d : Dda) (i : Nat) : Word × Word × Int × Word := (mget d.y i 0, mget d.q i 0, mget d.emit i 0, mget d.cnt i 0)

theorem Dda.held_eq_iff (d : Dda) (i : Nat) (y q : Word) (dz : Int) (n : Word) : d.held i = (y, q, dz, n) ↔
    mget d.y i 0 = y ∧ mget d.q i 0 = q ∧ mget d.emit i 0 = dz ∧ mget d.cnt i 0 = n := by
  simp only [Dda.held, Prod.mk.injEq]

/-- The step of an integrator of domain n from the increments of d. -/
def Dda.moves (d : Dda) (n i : Nat) : Int × Int × Int × List Nat :=
  integrate (mget d.y i 0).toInt (mget d.q i 0).toInt
    ((List.range 4).map fun j => (d.increment n (patchDy (d.entry i) j), patchSh (d.entry i) j)) (d.increment n (patchDx (d.entry i)))

/-- What an integrator with a count holds after its step. -/
def Dda.heldAfter (d : Dda) (n i : Nat) (count : Word) : Word × Word × Int × Word :=
  let r := d.moves n i
  (BitVec.ofInt 32 r.1, BitVec.ofInt 32 r.2.1, r.2.2.1, count + BitVec.ofInt 32 r.2.2.1)

/-- The patch table and the domain controllers. -/
def Dda.wiring (d : Dda) : AMap (BitVec 128) × AMap Dom := (d.patch, d.doms)

theorem Dda.stepOne_held (d : Dda) (n j : Nat) (acc : Dda × List StepFault) (i : Nat) :
    (d.stepOne n j acc).1.held i = if i = j then d.heldAfter n j (mget acc.1.cnt j 0) else acc.1.held i := by
  unfold Dda.held Dda.stepOne
  dsimp only
  rw [mget_mput, mget_mput, mget_mput, mget_mput]
  split
  · rfl
  · rfl

/-- In a fold over integrators each makes its one step. -/
theorem Dda.stepAll_held (d : Dda) (n : Nat) {l : List Nat} (hl : l.Nodup) (acc : Dda × List StepFault) (i : Nat) :
    (l.foldl (fun a j => d.stepOne n j a) acc).1.held i =
      if i ∈ l then d.heldAfter n i (mget acc.1.cnt i 0) else acc.1.held i := by
  induction l generalizing acc with
  | nil => rfl
  | cons j l ih =>
    obtain ⟨hj, hrest⟩ := List.nodup_cons.1 hl
    rw [List.foldl_cons, ih hrest, Dda.stepOne_held]
    by_cases hi : i = j
    · subst hi
      rw [if_neg hj, if_pos rfl, if_pos List.mem_cons_self]
    · have hcount : mget (d.stepOne n j acc).1.cnt i 0 = mget acc.1.cnt i 0 := mget_mput_ne _ _ _ hi
      rw [hcount, if_neg hi]
      simp only [List.mem_cons, hi, false_or]

theorem Dda.stepAll_wiring (d : Dda) (n : Nat) (l : List Nat) (acc : Dda × List StepFault) :
    (l.foldl (fun a j => d.stepOne n j a) acc).1.wiring = acc.1.wiring :=
  List.foldlRecOn (motive := fun a : Dda × List StepFault => a.1.wiring = acc.1.wiring) l _ rfl fun _ h _ _ => h

/-- The latches that a domain's increments enter are no part of what an integrator holds, nor of the wiring (R197). -/
theorem Dda.fillLatches_keeps (acc : Dda × List StepFault) (n i : Nat) :
    (Dda.fillLatches acc n i).1.held = acc.1.held ∧ (Dda.fillLatches acc n i).1.wiring = acc.1.wiring := by
  unfold Dda.fillLatches
  dsimp only
  split
  · exact ⟨rfl, rfl⟩
  · refine List.foldlRecOn (motive := fun a : Dda × List StepFault => a.1.held = acc.1.held ∧ a.1.wiring = acc.1.wiring) _ _
      ⟨rfl, rfl⟩ fun a h e _ => ?_
    split
    · exact h
    · exact h

theorem Dda.step_keeps (d : Dda) (n : Nat) :
    (d.step n).1.held = ((d.members n).foldl (fun a j => d.stepOne n j a) (d, [])).1.held ∧ (d.step n).1.wiring = d.wiring := by
  unfold Dda.step
  dsimp only
  refine List.foldlRecOn (motive := fun a : Dda × List StepFault =>
    a.1.held = ((d.members n).foldl (fun a j => d.stepOne n j a) (d, [])).1.held ∧ a.1.wiring = d.wiring) _ _ ?_ fun a h i _ => ?_
  · exact ⟨rfl, d.stepAll_wiring n _ _⟩
  · obtain ⟨hheld, hwiring⟩ := Dda.fillLatches_keeps a n i
    exact ⟨hheld.trans h.1, hwiring.trans h.2⟩

/-- After a step of a domain its integrators have moved and every other one is as it was (R197, R228). -/
theorem Dda.step_held (d : Dda) (n : Nat) {i : Nat} (hi : i < 256) :
    (d.step n).1.held i = if d.domOf i = n then d.heldAfter n i (mget d.cnt i 0) else d.held i := by
  have hmem : i ∈ d.members n ↔ d.domOf i = n := by
    unfold Dda.members upTo
    rw [List.mem_filter, List.mem_range, beq_iff_eq]
    exact and_iff_right hi
  have hnodup : (d.members n).Nodup := List.nodup_range.filter _
  rw [(d.step_keeps n).1, d.stepAll_held n hnodup]
  simp only [hmem]

/-! ### The state after the step of a free domain (R434) -/

/-- The DDA after a step of a domain without a fault: the step is counted, and the next one planned. -/
def Dda.stepped (d : Dda) (n tick : Nat) : Dda :=
  (d.step n).1.updDom n fun o => { o with count := (o.count + 1) % 2 ^ 32, next := tick + 2 ^ o.div }

theorem Dda.stepped_dom (d : Dda) (n tick j : Nat) : (d.stepped n tick).dom j =
    if j = n then { d.dom n with count := ((d.dom n).count + 1) % 2 ^ 32, next := tick + 2 ^ (d.dom n).div } else d.dom j := by
  have hdoms : (d.step n).1.doms = d.doms := congrArg Prod.snd (d.step_keeps n).2
  have hdom : ∀ m, (d.step n).1.dom m = d.dom m := fun m => congrArg (fun l : AMap Dom => mget l m {}) hdoms
  unfold Dda.stepped
  show mget (mset (d.step n).1.doms n _) j {} = _
  rw [mget_mset, hdom, hdoms]
  rfl

/-- A free domain's step without a fault changes the DDA alone. -/
theorem State.domStep_free {s : State} {c n : Nat} (k : Task) (hmode : ((s.cell c).dda.dom n).mode = .free)
    (hok : ((s.cell c).dda.step n).2 = []) :
    s.domStep k c n = s.updDda c fun _ => (s.cell c).dda.stepped n s.clock.tick := by
  have hfree : ¬ (((((s.updDda c fun _ => (s.cell c).dda.stepped n s.clock.tick).cell c).dda.dom n).mode = .counted)
      ∧ (((s.updDda c fun _ => (s.cell c).dda.stepped n s.clock.tick).cell c).dda.dom n).count
        = (((s.updDda c fun _ => (s.cell c).dda.stepped n s.clock.tick).cell c).dda.dom n).n) := by
    rintro ⟨h, -⟩
    unfold State.updDda at h
    rw [State.cell_updCell, if_pos rfl, Dda.stepped_dom, if_pos rfl] at h
    exact absurd (hmode.symm.trans h) (by decide)
  unfold State.domStep
  dsimp only
  rw [hok]
  exact if_neg hfree

theorem exec_ddaDomainStep {s : State} {c n : Nat} {k : Task} (hk : s.newFiringTask c 11 = some k) (hn : n < 4)
    (hrun : ((s.cell c).dda.dom n).st = .running) (hmode : ((s.cell c).dda.dom n).mode = .free) (hgate : k.gate = .none) :
    exec (.ddaDomainStep c n) s = .next ((s.payEngine k c (16 + n) (((s.cell c).dda.active n + 3) / 4)).step k.id fun u =>
      u.domStep k c n) := by
  show execDdaDomainStep c n s = _
  unfold execDdaDomainStep
  rw [hk]
  dsimp only
  rw [hrun, hmode, hgate, decide_eq_false (not_le.2 hn)]
  rfl

/-- A change of the DDA of a cell changes nothing else. -/
theorem State.updDda_facts (s : State) (c : Nat) (d : Dda) :
    let t := s.updDda c fun _ => d
    (t.cell c).dda = d ∧ Cell.engines { t.cell c with dda := (s.cell c).dda } = (s.cell c).engines
      ∧ (∀ e, e ≠ c → (t.cell e).engines = (s.cell e).engines) ∧ SameDevice s t ∧ (t.cell c).meter = (s.cell c).meter := by
  intro t
  have hcell : ∀ e, t.cell e = if e = c then { s.cell c with dda := d } else s.cell e := fun e => State.cell_updCell s c e _
  refine ⟨?_, ?_, fun e he => ?_, ⟨rfl, rfl, rfl, rfl, rfl⟩, ?_⟩
  · rw [hcell, if_pos rfl]
  · rw [hcell, if_pos rfl]
  · rw [hcell, if_neg he]
  · rw [hcell, if_pos rfl]

end Sys2Proof.Machine

namespace Sys2Proof.Proofs
open Sys2Proof.Machine

/-- Settles O37: the debit is made, and from the same increments each integrator of the domain makes its one step. -/
theorem domainSteps : Obligations.DomainSteps := by
  unfold Obligations.DomainSteps
  intro s c n k
  dsimp only
  intro hk hn hrun hmode hgate hpays hok
  obtain ⟨u, hstep, ⟨hdev, heng, -⟩, hpaid⟩ := MeterPays.step hpays fun u => u.domStep k c n
  have hdda : (u.cell c).dda = (s.cell c).dda := by
    have h := congrArg Cell.dda (heng c)
    exact h
  have hfree : u.domStep k c n = u.updDda c fun _ => (s.cell c).dda.stepped n u.clock.tick := by
    rw [← hdda] at hmode hok ⊢
    exact State.domStep_free k hmode hok
  obtain ⟨hd, hself, hother, hrest, hmeter⟩ := u.updDda_facts c ((s.cell c).dda.stepped n u.clock.tick)
  rw [hdda] at hself
  refine ⟨_, (exec_ddaDomainStep hk hn hrun hmode hgate).trans (congrArg Host.Outcome.next (hstep.trans hfree)),
    fun i hi => ?_, ?_, ?_, ?_, fun j hj => ?_, hself.trans (heng c), fun e he => (hother e he).trans (heng e), hdev.trans hrest,
    MeterPaid.keeps hpaid hmeter⟩
  · have hheld : ((s.cell c).dda.stepped n u.clock.tick).held i = _ := (s.cell c).dda.step_held n hi
    rw [hd]
    by_cases hdom : (s.cell c).dda.domOf i = n
    · rw [if_pos hdom] at hheld ⊢
      exact (Dda.held_eq_iff _ i _ _ _ _).1 hheld
    · rw [if_neg hdom] at hheld ⊢
      exact (Dda.held_eq_iff _ i _ _ _ _).1 hheld
  · rw [hd, Dda.stepped_dom, if_pos rfl]
  · rw [hd, Dda.stepped_dom, if_pos rfl]
    exact hrun
  · rw [hd]
    exact congrArg Prod.fst ((s.cell c).dda.step_keeps n).2
  · rw [hd, Dda.stepped_dom, if_neg hj]

end Sys2Proof.Proofs
end

section
/-! SUPPORT. Sparse data written key by key, listed by position and filtered; and lists of groups of one length. -/

namespace Sys2Proof.Machine

section
variable {α ι : Type} {d : α} {put : AMap α → Nat → α → AMap α} (hput : ∀ m k j v, mget (put m k v) j d = if j = k then v else mget m j d)
include hput

/-- A key at which none of the writes is made is read as before them. -/
theorem mget_foldl_put_ne (key : ι → Nat) (v : ι → α) {k : Nat} {l : List ι} (h : ∀ x ∈ l, key x ≠ k) (m : AMap α) :
    mget (l.foldl (fun a x => put a (key x) (v x)) m) k d = mget m k d := by
  induction l generalizing m with
  | nil => rfl
  | cons x l ih =>
    rw [List.foldl_cons, ih fun y hy => h y (List.mem_cons_of_mem _ hy), hput, if_neg (h x List.mem_cons_self).symm]

/-- Writes at different keys, one after another. -/
theorem mget_foldl_put [DecidableEq ι] {key : ι → Nat} (hkey : Function.Injective key) (v : ι → α) (l : List ι) (m : AMap α) (x : ι) :
    mget (l.foldl (fun a y => put a (key y) (v y)) m) (key x) d = if x ∈ l then v x else mget m (key x) d := by
  induction l generalizing m with
  | nil => rfl
  | cons y l ih =>
    rw [List.foldl_cons, ih, hput]
    by_cases hx : x = y
    · subst hx
      rw [if_pos rfl, if_pos List.mem_cons_self, ite_self]
    · rw [if_neg fun h => hx (hkey h)]
      simp only [List.mem_cons, hx, false_or]

end

section
variable {α : Type}

theorem mget_filterKeys (q : Nat → Bool) (m : AMap α) (k : Nat) (d : α) :
    mget (m.filter fun p => q p.1) k d = if q k then mget m k d else d := by
  unfold mget
  rw [mfind_filterKeys]
  cases q k with
  | true => rfl
  | false => rfl

/-- A list entered by position from n on, without what reads as the default anyway. -/
theorem mget_numbered (keep : α → Bool) (d : α) (hkeep : ∀ v, keep v = false → v = d) (l : List α) (n i : Nat) :
    mget (((List.range' n l.length).zip l).filter fun p => keep p.2) (n + i) d = l.getD i d := by
  induction l generalizing n i with
  | nil => rfl
  | cons v l ih =>
    rw [List.length_cons, List.range'_succ, List.zip_cons_cons, List.filter_cons]
    cases i with
    | zero =>
      have hnone : mfind (((List.range' (n + 1) l.length).zip l).filter fun p => keep p.2) n = none := by
        refine mfind_none_of_notMem fun h => ?_
        obtain ⟨⟨j, w⟩, hp, rfl⟩ := List.mem_map.1 h
        have hj : j ∈ List.range' (j + 1) l.length := (List.of_mem_zip (List.mem_filter.1 hp).1).1
        rw [List.mem_range'_1] at hj
        omega
      rw [List.getD_cons_zero, Nat.add_zero]
      cases hv : keep v with
      | true => simp [mget, mfind]
      | false => simp [mget, hnone, hkeep v hv]
    | succ i =>
      have hrest := ih (n + 1) i
      rw [show n + 1 + i = n + (i + 1) by omega] at hrest
      rw [List.getD_cons_succ, ← hrest]
      split
      · simp [mget, mfind]
      · rfl

theorem mget_listed (keep : α → Bool) (d : α) (hkeep : ∀ v, keep v = false → v = d) (l : List α) (i : Nat) :
    mget (((upTo l.length).zip l).filter fun p => keep p.2) i d = l.getD i d := by
  have hnumbered := mget_numbered keep d hkeep l 0 i
  rwa [← List.range_eq_range', Nat.zero_add] at hnumbered

/-- The element at a place of one of a list of groups that have one length. -/
theorem getD_flatMap_groups {ι : Type} (f : ι → List α) (n : Nat) {l : List ι} (h : ∀ x ∈ l, (f x).length = n) (d : α) {i j : Nat}
    (hi : i < l.length) (hj : j < n) : (l.flatMap f).getD (n * i + j) d = (f l[i]).getD j d := by
  induction l generalizing i with
  | nil => cases hi
  | cons x l ih =>
    have hx : (f x).length = n := h x List.mem_cons_self
    rw [List.flatMap_cons]
    cases i with
    | zero =>
      rw [Nat.mul_zero, Nat.zero_add]
      exact List.getD_append _ _ _ _ (by omega)
    | succ i =>
      rw [List.getD_append_right _ _ _ _ (by rw [hx, Nat.mul_succ]; omega), hx,
        show n * (i + 1) + j - n = n * i + j by rw [Nat.mul_succ]; omega]
      exact ih (fun y hy => h y (List.mem_cons_of_mem _ hy)) (Nat.lt_of_succ_lt_succ hi)

end

end Sys2Proof.Machine
end

section
/-! SUPPORT. The matrix engine's rows, drains and weight loads (R192, R226, R406, R409, R412); and O38. -/

namespace Sys2Proof.Machine

/-! ### Regions and the states of their cells (R407) -/

theorem Region.mem_groups (r : Region) (g : Nat) : g ∈ r.groups ↔ r.cg0 ≤ g ∧ g ≤ r.cg0 + r.ncg := by
  simp only [Region.groups, upTo, List.mem_map, List.mem_range]
  exact ⟨fun ⟨i, hi, hg⟩ => by omega, fun h => ⟨g - r.cg0, by omega, by omega⟩⟩

theorem Region.mem_columns (r : Region) (col : Nat) : col ∈ r.columns ↔ r.hasColumn col = true := by
  simp only [Region.columns, Region.hasColumn, upTo, List.mem_map, List.mem_range, Bool.and_eq_true, decide_eq_true_eq]
  exact ⟨fun ⟨i, hi, hc⟩ => by omega, fun h => ⟨col - 16 * r.cg0, by omega, by omega⟩⟩

theorem Region.column_lt {r : Region} (hr : r.cg0 + r.ncg ≤ 7) {col : Nat} (h : r.hasColumn col = true) : col < 128 := by
  simp only [Region.hasColumn, Bool.and_eq_true, decide_eq_true_eq] at h
  omega

/-- A cell of a row of groups. -/
theorem Region.mem_rowCells {r : Region} (hr : r.cg0 + r.ncg ≤ 7) (row i : Nat) {g : Nat} (hg : g < 8) :
    8 * i + g ∈ (r.groups.map fun x => 8 * row + x) ↔ i = row ∧ g ∈ r.groups := by
  rw [List.mem_map]
  constructor
  · rintro ⟨x, hx, he⟩
    obtain ⟨-, hle⟩ := (r.mem_groups x).1 hx
    have hi : i = row := by omega
    have hgx : g = x := by omega
    exact ⟨hi, hgx ▸ hx⟩
  · rintro ⟨rfl, h⟩
    exact ⟨g, h, rfl⟩

theorem Region.mem_cells {r : Region} (hr : r.cg0 + r.ncg ≤ 7) (i : Nat) {g : Nat} (hg : g < 8) :
    8 * i + g ∈ r.cells ↔ i ∈ r.rows ∧ g ∈ r.groups := by
  unfold Region.cells
  rw [List.mem_flatMap]
  constructor
  · rintro ⟨row, hrow, h⟩
    obtain ⟨rfl, hgr⟩ := (Region.mem_rowCells hr row i hg).1 h
    exact ⟨hrow, hgr⟩
  · rintro ⟨hi, hgr⟩
    exact ⟨i, hi, (Region.mem_rowCells hr i i hg).2 ⟨rfl, hgr⟩⟩

theorem Mx.mark_cell (m : Mx) (cells : List Nat) (st : AccSt) (row g : Nat) :
    (m.mark cells st).cell row g = if 8 * row + g ∈ cells then st else m.cell row g :=
  mget_foldl_put (fun m k j v => mget_mput m k j v .empty) Function.injective_id (fun _ => st) cells m.st (8 * row + g)

/-! ### What a debit leaves unchanged, and the beginning of a step -/

theorem engines_matrix {a b : Cell} (h : a.engines = b.engines) : a.mx = b.mx ∧ a.tiles = b.tiles ∧ a.vec = b.vec := by
  have hmx := congrArg Cell.mx h
  have htiles := congrArg Cell.tiles h
  have hvec := congrArg Cell.vec h
  exact ⟨hmx, htiles, hvec⟩

theorem SameDevice.memory {s t : State} (h : SameDevice s t) : t.mem = s.mem ∧ t.ops = s.ops ∧ t.rooms = s.rooms := by
  obtain ⟨hrest, -⟩ := h
  have hmem := congrArg State.mem hrest
  have hops := congrArg State.ops hrest
  have hrooms := congrArg State.rooms hrest
  exact ⟨hmem, hops, hrooms⟩

theorem endStep_updCell (s : State) (c : Nat) (f : Cell → Cell) :
    ((s.endStep c).updCell c f).cell c = f { s.cell c with turned := none } := by
  unfold State.endStep
  rw [State.cell_updCell, if_pos rfl, State.cell_updCell, if_pos rfl]

/-- A cell whose step has ended: the next turn of any of its elements begins a new one. -/
theorem newStep_of_turned {cl : Cell} (h : cl.turned = none) (e : Nat) : cl.newStep e = true := by
  unfold Cell.newStep
  rw [h]
  rfl

/-! ### A row of a rule (R226, R227, R409) -/

/-- The word that a column's dot product leaves where it held `old`. -/
def Mx.rowWord (m : Mx) (els : List (Nat × Nat × Int)) (col : Nat) (old : Word) : Word :=
  if groupBad (els.map elemVal) then BitVec.ofNat 32 FFmt.fp32.nanBits
  else m.column m.afmt ((List.range 8).map fun j => actGroup m.afmt ((els.drop (16 * j)).take 16)) col old

theorem Mx.fireRow_acc (m : Mx) {r : Region} (hr : r.cg0 + r.ncg ≤ 7) (row : Nat) (els : List (Nat × Nat × Int)) (i : Nat) {col : Nat}
    (hcol : col < 128) : mget (m.fireRow r row els).acc (128 * i + col) 0 =
      if i = row ∧ r.hasColumn col = true then m.rowWord els col (mget m.acc (128 * i + col) 0) else mget m.acc (128 * i + col) 0 := by
  have hput := fun (a : AMap Word) (k j : Nat) (v : Word) => mget_mput a k j v 0
  have hkey : Function.Injective fun c : Nat => 128 * row + c := fun a b h => Nat.add_left_cancel h
  by_cases hi : i = row
  · subst hi
    refine (mget_foldl_put hput hkey (fun c => m.rowWord els c (mget m.acc (128 * i + c) 0)) r.columns m.acc col).trans ?_
    simp only [r.mem_columns, true_and]
  · rw [if_neg fun h => hi h.1]
    refine mget_foldl_put_ne hput (fun c => 128 * row + c) (fun c => m.rowWord els c (mget m.acc (128 * row + c) 0)) (fun c hc h => ?_) m.acc
    have hlt : c < 128 := Region.column_lt hr ((r.mem_columns c).1 hc)
    omega

/-- A cell whose matrix engine has fired the next row of rule n. -/
def Cell.rowFired (n : Nat) (r : MxRule) (els : List (Nat × Nat × Int)) (cl : Cell) : Cell :=
  let m := cl.mx.fireRow r.region (r.region.row0 + r.row) els
  let m1 := { m with fired := mset m.fired n (mget m.fired n 0 + 1), rules := mset m.rules n { r with row := r.row + 1 } }
  let k1 := { cl with mx := m1 }
  if r.row = r.region.nrow then k1.ruleDone n r else k1

section
variable (n : Nat) (r : MxRule) (els : List (Nat × Nat × Int)) (cl : Cell)

theorem Cell.rowFired_keeps :
    (cl.rowFired n r els).mx.acc = (cl.mx.fireRow r.region (r.region.row0 + r.row) els).acc
      ∧ (cl.rowFired n r els).mx.fired = mset cl.mx.fired n (mget cl.mx.fired n 0 + 1)
      ∧ (cl.rowFired n r els).turned = cl.turned ∧ (cl.rowFired n r els).vec = cl.vec ∧ (cl.rowFired n r els).meter = cl.meter := by
  unfold Cell.rowFired Cell.ruleDone
  dsimp only
  split
  · split
    · split
      · exact ⟨rfl, rfl, rfl, rfl, rfl⟩
      · exact ⟨rfl, rfl, rfl, rfl, rfl⟩
    · split
      · exact ⟨rfl, rfl, rfl, rfl, rfl⟩
      · exact ⟨rfl, rfl, rfl, rfl, rfl⟩
  · exact ⟨rfl, rfl, rfl, rfl, rfl⟩

/-- A row before the last leaves its rule armed for the next one. -/
theorem Cell.rowFired_armed (h : r.row ≠ r.region.nrow) :
    mfind (cl.rowFired n r els).mx.rules n = some { r with row := r.row + 1 } ∧ (cl.rowFired n r els).tiles = cl.tiles := by
  unfold Cell.rowFired
  dsimp only
  rw [if_neg h]
  exact ⟨(mfind_mset _ _ _ _).trans (if_pos rfl), rfl⟩

/-- The last row disarms its rule, and releases the slot of the activations where the rule asks for it. -/
theorem Cell.rowFired_disarmed (h : r.row = r.region.nrow) :
    mfind (cl.rowFired n r els).mx.rules n = none ∧ (r.rel = true → (cl.rowFired n r els).tile r.aslot = {})
      ∧ (r.rel = false → (cl.rowFired n r els).tiles = cl.tiles) := by
  have hrules : ∀ m : AMap MxRule, mfind (mdel m n) n = none := fun m => (mfind_mdel m n n).trans (if_pos rfl)
  unfold Cell.rowFired Cell.ruleDone
  dsimp only
  rw [if_pos h]
  cases hrel : r.rel with
  | true =>
    rw [if_pos rfl]
    refine ⟨?_, fun _ => mget_mset_self _ _ _ _, fun h => absurd h (by decide)⟩
    cases r.hold with
    | true => exact hrules _
    | false => exact hrules _
  | false =>
    rw [if_neg (by decide)]
    refine ⟨?_, fun h => absurd h (by decide), fun _ => rfl⟩
    cases r.hold with
    | true => exact hrules _
    | false => exact hrules _

theorem Cell.rowFired_cell (hr : r.region.cg0 + r.region.ncg ≤ 7) (row : Nat) {g : Nat} (hg : g < 8) :
    (cl.rowFired n r els).mx.cell row g =
      if r.row = r.region.nrow ∧ r.hold = true ∧ row ∈ r.region.rows ∧ g ∈ r.region.groups then .held
      else if row = r.region.row0 + r.row ∧ g ∈ r.region.groups then .accum else cl.mx.cell row g := by
  have hfired : (cl.mx.fireRow r.region (r.region.row0 + r.row) els).cell row g =
      if row = r.region.row0 + r.row ∧ g ∈ r.region.groups then .accum else cl.mx.cell row g := by
    refine (Mx.mark_cell _ _ _ row g).trans ?_
    simp only [Region.mem_rowCells hr _ row hg]
    rfl
  by_cases hheld : r.row = r.region.nrow ∧ r.hold = true
  · obtain ⟨hlast, hhold⟩ := hheld
    have hst : (cl.rowFired n r els).mx.st = (Mx.mark (cl.mx.fireRow r.region (r.region.row0 + r.row) els) r.region.cells .held).st := by
      unfold Cell.rowFired Cell.ruleDone
      dsimp only
      rw [if_pos hlast, if_pos hhold]
      split
      · rfl
      · rfl
    refine (congrArg (fun st => mget st (8 * row + g) AccSt.empty) hst).trans ((Mx.mark_cell _ _ _ row g).trans ?_)
    rw [hfired]
    simp only [Region.mem_cells hr row hg, hlast, hhold, true_and]
  · rw [if_neg fun h => hheld ⟨h.1, h.2.1⟩, ← hfired]
    refine congrArg (fun st => mget st (8 * row + g) AccSt.empty) ?_
    unfold Cell.rowFired Cell.ruleDone
    dsimp only
    split
    next hlast =>
      rw [if_neg fun hhold => hheld ⟨hlast, hhold⟩]
      split
      · rfl
      · rfl
    next => rfl

end

theorem exec_rowFire {s : State} {k : Task} {n : Nat} {r : MxRule} {els : List (Nat × Nat × Int)}
    (hk : s.newFiringTask s.cur.subject 10 = some k) (hr : s.nextRule s.cur.subject = some (n, r))
    (hels : rowElems (s.cell s.cur.subject).mx.afmt ((s.cell s.cur.subject).tile r.aslot) r.row = .ok els) :
    exec .rowFire s = .next ((s.payEngine k s.cur.subject 10 (64 * actWidth (s.cell s.cur.subject).mx.afmt)).step k.id fun u =>
      (u.endStep s.cur.subject).updCell s.cur.subject (Cell.rowFired n r els)) := by
  show execRowFire s = _
  unfold execRowFire
  dsimp only
  rw [hk, hr]
  dsimp only
  rw [hels]
  rfl

/-! ### A drained row (R412) -/

section
variable (cl : Cell) (d : Drain)

theorem Cell.drainRow_acc (r : Nat) {col : Nat} (hcol : col < 128) :
    mget (cl.drainRow d).mx.acc (128 * r + col) 0 =
      if r = d.region.row0 + d.row ∧ d.region.hasColumn col = true then 0 else mget cl.mx.acc (128 * r + col) 0 := by
  refine (mget_filterKeys (fun k => !(k / 128 == d.region.row0 + d.row && d.region.hasColumn (k % 128))) cl.mx.acc _ 0).trans ?_
  have hrow : (128 * r + col) / 128 = r := by omega
  have hmod : (128 * r + col) % 128 = col := by omega
  rw [hrow, hmod]
  by_cases h : r = d.region.row0 + d.row ∧ d.region.hasColumn col = true
  · simp [h]
  · rw [if_neg h, if_pos]
    rw [Bool.not_eq_true', ← Bool.not_eq_true, Bool.and_eq_true, beq_iff_eq]
    exact h

theorem Cell.drainRow_cell {g : Nat} (hg : g ∈ d.region.groups) : (cl.drainRow d).mx.cell (d.region.row0 + d.row) g = .empty :=
  (Mx.mark_cell _ _ _ _ g).trans (if_pos (List.mem_map_of_mem hg))

theorem Cell.drainRow_tile : (cl.drainRow d).tile d.slot =
    { cl.tile d.slot with
      blocks := (upTo (d.region.ncg + 1)).foldl (fun b j => mset b (d.row * (d.region.ncg + 1) + j)
        (cl.mx.drainBlock (d.region.row0 + d.row) (d.region.cg0 + j))) (cl.tile d.slot).blocks
      st := if decide (d.row = d.region.nrow) = true then .ready else (cl.tile d.slot).st } := mget_mset_self _ _ _ _

theorem Cell.drainRow_block {j : Nat} (hj : j ≤ d.region.ncg) :
    mget ((cl.drainRow d).tile d.slot).blocks (d.row * (d.region.ncg + 1) + j) {} =
      cl.mx.drainBlock (d.region.row0 + d.row) (d.region.cg0 + j) := by
  rw [Cell.drainRow_tile]
  refine (mget_foldl_put (fun m k j v => mget_mset m k j v {}) (key := fun i => d.row * (d.region.ncg + 1) + i)
    (fun a b h => Nat.add_left_cancel h) (fun i => cl.mx.drainBlock (d.region.row0 + d.row) (d.region.cg0 + i)) _ _ j).trans ?_
  exact if_pos (List.mem_range.2 (Nat.lt_succ_of_le hj))

theorem Cell.drainRow_last (h : d.row = d.region.nrow) :
    ((cl.drainRow d).tile d.slot).st = .ready ∧ (cl.drainRow d).mx.drains = cl.mx.drains.tail := by
  have hlast : decide (d.row = d.region.nrow) = true := decide_eq_true h
  refine ⟨?_, ?_⟩
  · rw [Cell.drainRow_tile]
    exact if_pos hlast
  · rw [← List.drop_one]
    exact if_pos hlast

theorem Cell.drainRow_next (h : d.row ≠ d.region.nrow) :
    ((cl.drainRow d).tile d.slot).st = (cl.tile d.slot).st
      ∧ (cl.drainRow d).mx.drains = { d with row := d.row + 1 } :: cl.mx.drains.tail := by
  have hlast : ¬ decide (d.row = d.region.nrow) = true := by simpa using h
  refine ⟨?_, ?_⟩
  · rw [Cell.drainRow_tile]
    exact if_neg hlast
  · rw [← List.drop_one]
    exact if_neg hlast

end

theorem State.op?_id {s : State} {i : Nat} {o : Op} (h : s.op? i = some o) : o.id = i := by
  have hid := List.find?_some h
  exact eq_of_beq hid

/-- A writeback changes neither the matrix engine nor the slots of a cell, and begins no step. -/
theorem State.writeback_matrix (s : State) (o : Op) (c : Nat) :
    ((s.writeback o).cell c).mx = (s.cell c).mx ∧ ((s.writeback o).cell c).tiles = (s.cell c).tiles
      ∧ ((s.cell c).turned = none → ((s.writeback o).cell c).turned = none) := by
  by_cases hc : c = o.cell
  · subst hc
    have h := s.writeback_engines_self o
    have hmx := congrArg Cell.mx h
    have htiles := congrArg Cell.tiles h
    have hturned := congrArg Cell.turned h
    exact ⟨hmx, htiles, fun _ => hturned⟩
  · have h := s.writeback_engines_ne o hc
    have hmx := congrArg Cell.mx h
    have htiles := congrArg Cell.tiles h
    have hturned := congrArg Cell.turned h
    exact ⟨hmx, htiles, hturned.trans⟩

theorem State.writeback_mem (s : State) (o : Op) : (s.writeback o).mem = s.mem ∧ (s.writeback o).rooms = s.rooms := by
  have h := s.writeback_rest o
  have hmem := congrArg State.mem h
  have hrooms := congrArg State.rooms h
  exact ⟨hmem, hrooms⟩

/-- The state after a drained row; the drain completes with its last row. -/
def State.rowDrained (c : Nat) (d : Drain) (o : Op) (s : State) : State :=
  let s1 := (s.endStep c).updCell c fun cl => cl.drainRow d
  if d.row = d.region.nrow then s1.writeback o else s1

theorem State.rowDrained_facts (s : State) (c : Nat) (d : Drain) (o : Op) :
    ((s.rowDrained c d o).cell c).mx = ((s.cell c).drainRow d).mx ∧ ((s.rowDrained c d o).cell c).tiles = ((s.cell c).drainRow d).tiles
      ∧ ((s.rowDrained c d o).cell c).turned = none ∧ ((s.rowDrained c d o).cell c).meter = (s.cell c).meter
      ∧ (s.rowDrained c d o).ops = (if d.row = d.region.nrow then s.ops.filter fun p => p.id != o.id else s.ops)
      ∧ (s.rowDrained c d o).mem = s.mem ∧ (s.rowDrained c d o).rooms = s.rooms := by
  have hcell := endStep_updCell s c fun cl => cl.drainRow d
  unfold State.rowDrained
  dsimp only
  split
  · obtain ⟨hmx, htiles, hturned⟩ := State.writeback_matrix ((s.endStep c).updCell c fun cl => cl.drainRow d) o c
    obtain ⟨hmem, hrooms⟩ := State.writeback_mem ((s.endStep c).updCell c fun cl => cl.drainRow d) o
    rw [hmx, htiles, State.writeback_meter, State.writeback_ops, hmem, hrooms]
    rw [hcell] at hturned ⊢
    exact ⟨rfl, rfl, hturned rfl, rfl, rfl, rfl, rfl⟩
  · rw [hcell]
    exact ⟨rfl, rfl, rfl, rfl, rfl, rfl, rfl⟩

/-- The rows of a drain after the first are debited. -/
theorem exec_drainRow {s : State} {k : Task} {d : Drain} {o : Op} (hk : s.engineTask s.cur.subject 10 = some k)
    (hd : (s.cell s.cur.subject).mx.drains.head? = some d) (ho : s.op? d.op = some o) (hreplay : o.replay = false)
    (hpays : d.row = 0 ∨ (s.droopHold s.cur.subject = false ∧ MeterPays s k s.cur.subject (4096 + d.op) 32)) :
    ∃ u, exec .drainRow s = .next (u.rowDrained s.cur.subject d o) ∧ DebitFrame s u
      ∧ (d.row ≠ 0 → MeterPaid s u k s.cur.subject 32) := by
  have hready : ¬ (o.replay = true ∨ (d.row ≠ 0 ∧ s.droopHold s.cur.subject = true)) := by
    rintro (h | ⟨hrow, hdroop⟩)
    · exact absurd (hreplay.symm.trans h) (by decide)
    · exact absurd ((hpays.resolve_left hrow).1.symm.trans hdroop) (by decide)
  have hexec : exec .drainRow s = .next (if d.row = 0 then s.rowDrained s.cur.subject d o
      else (s.payEngine k s.cur.subject o.payKey 32).step k.id (State.rowDrained s.cur.subject d o)) := by
    show execDrainRow s = _
    unfold execDrainRow
    dsimp only
    rw [hk, hd]
    dsimp only
    rw [ho]
    exact congrArg Host.Outcome.next (if_neg hready)
  by_cases hrow : d.row = 0
  · exact ⟨s, hexec.trans (congrArg Host.Outcome.next (if_pos hrow)), DebitFrame.refl s, fun h => absurd hrow h⟩
  · have hkey : MeterPays s k s.cur.subject o.payKey 32 := by
      unfold Op.payKey
      rw [State.op?_id ho]
      exact (hpays.resolve_left hrow).2
    obtain ⟨u, hu, hframe, hpaid⟩ := MeterPays.step hkey (State.rowDrained s.cur.subject d o)
    exact ⟨u, hexec.trans (congrArg Host.Outcome.next ((if_neg hrow).trans hu)), hframe, fun _ => hpaid⟩

/-! ### The end of a weight load (R406) -/

theorem alignB_length (vs : List (Nat × FVal)) : (alignB vs).1.length = vs.length := by
  unfold alignB alignGroup
  dsimp only
  split
  · rw [List.length_map, List.length_map]
  · rw [List.length_map, List.length_map]

/-- The weights of group i of those that a load reads. -/
def loadGroup (els : List (Nat × Nat × Int)) (i : Nat) : List (Nat × FVal) := ((els.drop (16 * i)).take 16).map fun x => (x.1, elemVal x)

theorem loadGroup_length {els : List (Nat × Nat × Int)} (h : 16384 ≤ els.length) {i : Nat} (hi : i < 1024) :
    (loadGroup els i).length = 16 := by
  unfold loadGroup
  rw [List.length_map, List.length_take, List.length_drop]
  omega

theorem Mx.weights_keeps (m : Mx) (els : List (Nat × Nat × Int)) :
    (m.weights els).acc = m.acc ∧ (m.weights els).st = m.st ∧ (m.weights els).rules = m.rules := by
  unfold Mx.weights
  dsimp only
  exact ⟨rfl, rfl, rfl⟩

theorem Mx.weights_facts (m : Mx) {els : List (Nat × Nat × Int)} (h : 16384 ≤ els.length) {i : Nat} (hi : i < 1024) :
    (∀ j < 16, mget (m.weights els).mb (16 * i + j) 0 = (alignB (loadGroup els i)).1.getD j 0)
      ∧ mget (m.weights els).exps i 0 = (alignB (loadGroup els i)).2 + ((((els.drop (16 * i)).take 16).head?.map fun x => x.2.2).getD 0)
      ∧ mget (m.weights els).bad i false = groupBad ((loadGroup els i).map (·.2)) := by
  have hnumber : ∀ (l : List Int) (i : Nat), mget (((upTo l.length).zip l).filter fun p => p.2 != 0) i 0 = l.getD i 0 :=
    mget_listed (fun v => v != 0) 0 fun v hv => by simpa using hv
  have hflag : ∀ (l : List Bool) (i : Nat), mget (((upTo l.length).zip l).filter fun p => p.2) i false = l.getD i false :=
    mget_listed (fun v => v) false fun v hv => hv
  have hgroup : ∀ {α : Type} (f : Nat → α) (d : α), ((upTo 1024).map f).getD i d = f i := by
    intro α f d
    simp [upTo, List.getD_eq_getElem?_getD, hi]
  have hlen : ∀ x ∈ upTo 1024, (weightGroup ((els.drop (16 * x)).take 16)).1.length = 16 := fun x hx =>
    (alignB_length _).trans (loadGroup_length h (List.mem_range.1 hx))
  unfold Mx.weights
  dsimp only
  rw [hnumber, hflag, List.map_map, List.map_map, List.flatMap_map, hgroup, hgroup]
  refine ⟨fun j hj => ?_, rfl, rfl⟩
  rw [hnumber, getD_flatMap_groups _ 16 hlen 0 (by simpa [upTo] using hi) hj]
  simp only [upTo, List.getElem_range]
  rfl

theorem exec_mxldbComplete {s : State} {l : MxLoad} {o : Op} (hl : (s.cell s.cur.subject).mx.load = some l)
    (ho : s.op? l.op = some o) (hreplay : o.replay = false) :
    exec .mxldbComplete s = .next ((s.updMx s.cur.subject fun m =>
      { m.weights (l.blocks.flatMap (blockElems m.bfmt)) with load := none }).writeback o) := by
  show execMxldbComplete s = _
  unfold execMxldbComplete
  dsimp only
  rw [hl]
  dsimp only
  rw [ho]
  exact congrArg Host.Outcome.next (if_neg (by simp [hreplay]))

end Sys2Proof.Machine

namespace Sys2Proof.Proofs
open Sys2Proof.Machine

/-- Settles O38: a row's sums stand in its columns and its cells in their states, a load's weights in their groups, a drained row's words
in its slot, each after the debit that its meter takes. -/
theorem matrixEngineSteps : Obligations.MatrixEngineSteps := by
  unfold Obligations.MatrixEngineSteps
  intro s k
  refine ⟨?_, ?_, ?_⟩
  · intro n r els hk hrule hels hregion hpays
    dsimp only
    obtain ⟨u, hstep, ⟨hdev, heng, -⟩, hpaid⟩ := MeterPays.step hpays fun u =>
      (u.endStep s.cur.subject).updCell s.cur.subject (Cell.rowFired n r els)
    obtain ⟨hmx, htiles, hvec⟩ := engines_matrix (heng s.cur.subject)
    obtain ⟨hmem, hops, hrooms⟩ := SameDevice.memory hdev
    have hcell := endStep_updCell u s.cur.subject (Cell.rowFired n r els)
    obtain ⟨hacc, hfired, hturned, hvec', hmeter⟩ :=
      Cell.rowFired_keeps n r els { u.cell s.cur.subject with turned := none }
    refine ⟨_, (exec_rowFire hk hrule hels).trans (congrArg Host.Outcome.next hstep), fun row col hcol => ?_, ?_, fun hrow => ?_,
      fun hrow => ?_, fun row g hg => ?_, fun e => ?_, MeterPaid.keeps hpaid ?_, ?_, hmem, hops, hrooms⟩
    all_goals rw [hcell]
    · rw [hacc, Mx.fireRow_acc _ hregion _ _ _ hcol]
      dsimp only
      rw [hmx]
      rfl
    · rw [hfired]
      dsimp only
      rw [hmx, mget_mset_self]
    · obtain ⟨hrules, hslots⟩ := Cell.rowFired_armed n r els { u.cell s.cur.subject with turned := none } hrow
      exact ⟨hrules, hslots.trans htiles⟩
    · obtain ⟨hrules, hrel, hkept⟩ := Cell.rowFired_disarmed n r els { u.cell s.cur.subject with turned := none } hrow
      exact ⟨hrules, hrel, fun h => (hkept h).trans htiles⟩
    · rw [Cell.rowFired_cell n r els _ hregion row hg]
      dsimp only
      rw [hmx]
    · exact newStep_of_turned hturned e
    · exact hmeter
    · exact hvec'.trans hvec
  · intro l o hl ho hreplay
    dsimp only
    intro hels
    have hcell : (s.updMx s.cur.subject fun m => { m.weights (l.blocks.flatMap (blockElems m.bfmt)) with load := none }).cell s.cur.subject
        = { s.cell s.cur.subject with mx := { (s.cell s.cur.subject).mx.weights
            (l.blocks.flatMap (blockElems (s.cell s.cur.subject).mx.bfmt)) with load := none } } :=
      (State.cell_updCell _ _ _ _).trans (if_pos rfl)
    obtain ⟨hacc, hst, hrules⟩ := Mx.weights_keeps (s.cell s.cur.subject).mx
      (l.blocks.flatMap (blockElems (s.cell s.cur.subject).mx.bfmt))
    refine ⟨_, exec_mxldbComplete hl ho hreplay, ?_, fun p hp => ?_, fun i hi => ?_, ?_, ?_, ?_, (State.writeback_mem _ _).1⟩
    · rw [(State.writeback_matrix _ _ _).1, hcell]
    · rw [State.writeback_ops, State.op?_id ho] at hp
      simpa using (List.mem_filter.1 hp).2
    · rw [(State.writeback_matrix _ _ _).1, hcell]
      dsimp only
      exact Mx.weights_facts _ hels hi
    all_goals
      rw [(State.writeback_matrix _ _ _).1, hcell]
      dsimp only
    · exact hacc
    · exact hst
    · exact hrules
  · intro d o hk hd ho hreplay hpays hregion
    dsimp only
    obtain ⟨u, hexec, ⟨hdev, heng, -⟩, hpaid⟩ := exec_drainRow hk hd ho hreplay hpays
    obtain ⟨hmx, htiles, -⟩ := engines_matrix (heng s.cur.subject)
    obtain ⟨hmem, hops, hrooms⟩ := SameDevice.memory hdev
    obtain ⟨hmx', htiles', hturned, hmeter, hops', hmem', hrooms'⟩ := State.rowDrained_facts u s.cur.subject d o
    have htile : ∀ i, ((u.rowDrained s.cur.subject d o).cell s.cur.subject).tile i = ((u.cell s.cur.subject).drainRow d).tile i :=
      fun i => congrArg (fun m : AMap Tile => mget m i {}) htiles'
    have hslot : (u.cell s.cur.subject).tile d.slot = (s.cell s.cur.subject).tile d.slot :=
      congrArg (fun m : AMap Tile => mget m d.slot {}) htiles
    refine ⟨_, hexec, fun j hj => ?_, fun r col hcol => ?_, fun g hg => ?_, fun hrow => ?_, fun hrow => ?_,
      fun hrow => MeterPaid.keeps (hpaid hrow) hmeter, newStep_of_turned hturned, hmem'.trans hmem, hrooms'.trans hrooms⟩
    · rw [htile, Cell.drainRow_block _ _ hj, hmx]
    · rw [hmx', Cell.drainRow_acc _ _ r hcol, hmx]
    · rw [hmx']
      exact Cell.drainRow_cell _ _ hg
    · obtain ⟨hready, hdrains⟩ := Cell.drainRow_last (u.cell s.cur.subject) d hrow
      rw [htile, hmx', hdrains, hmx, hops', if_pos hrow]
      refine ⟨hready, rfl, fun p hp => ?_⟩
      rw [State.op?_id ho] at hp
      simpa using (List.mem_filter.1 hp).2
    · obtain ⟨hst, hdrains⟩ := Cell.drainRow_next (u.cell s.cur.subject) d hrow
      rw [htile, hst, hslot, hmx', hdrains, hmx, hops', if_neg hrow]
      exact ⟨rfl, rfl, hops⟩

end Sys2Proof.Proofs
end

section
/-! SUPPORT. Operations in the list of those under way, scratchpad words, and bytes written under a mask (R186, R205, R364). -/

namespace Sys2Proof.Machine

/-! ### A performed operation (R362, R364) -/

/-- An operation found after a change that keeps identifiers. -/
theorem State.op?_updOp {s : State} {i : Nat} {o : Op} (h : s.op? i = some o) {f : Op → Op} (hf : ∀ p, (f p).id = p.id) :
    (s.updOp i f).op? i = some (f o) := by
  have hkey : ∀ p : Op, (if p.id = i then f p else p).id = p.id := fun p => by
    split
    · exact hf p
    · rfl
  have hid : o.id = i := State.op?_id h
  unfold State.op? at h ⊢
  unfold State.updOp
  rw [List.find?_map]
  simp only [Function.comp_def, hkey]
  rw [h, Option.map_some, if_pos hid]

/-- An operation of a scratchpad performed with a result, its reply injected under a number in a tick. -/
def Op.performedWith (o : Op) (x : Out) (n tick : Nat) : Op :=
  { o with phase := .performed, r := x.r, c := x.c, status := x.status, engv := x.engv, vres := x.vres, fflag := x.fflag, limit := none,
           retry := false, asleep := false, awaits := false, inj := n, sent := tick }

section
variable {s u : State} {o : Op} (x : Out)

theorem settle_ok_op (ho : u.op? o.id = some o) {m : Nat} (hspad : o.spad = some m) :
    (s.settle o (.ok u x)).op? o.id = some (o.performedWith x u.clock.nextId u.clock.tick) := by
  have hlocal : ((u.inject o.id).isRemote ((u.inject o.id).task o.task) o) = false := by
    unfold State.isRemote
    rw [hspad]
    rfl
  have hinject : (u.inject o.id).op? o.id = some { o with inj := u.clock.nextId, sent := u.clock.tick } :=
    State.op?_updOp (s := u.fresh.2) ho fun _ => rfl
  have hawaits : (takesReply o.opc && u.isRemote (u.task o.task) o) = false := by
    rw [show u.isRemote (u.task o.task) o = false from hlocal, Bool.and_false]
  unfold State.settle
  dsimp only
  unfold State.perform
  rw [hawaits]
  exact State.op?_updOp hinject (f := fun q => { q with
    phase := .performed, r := x.r, c := x.c, status := x.status, engv := x.engv, vres := x.vres, fflag := x.fflag, limit := none,
    retry := false, asleep := false, awaits := false }) fun _ => rfl

end

/-! ### Words of a scratchpad (R186, R205) -/

theorem Mem.readLE_writeLE (m : Mem) (a v : Nat) : (m.writeLE a 4 v).readLE a 4 = v % 2 ^ 32 := by
  have hlen : 0 + 4 ≤ (natToBytes 4 v).length := by rw [length_natToBytes]
  refine (readLE_writeBytes m a (natToBytes 4 v) hlen).trans ?_
  unfold bodyField
  rw [List.drop_zero, List.take_of_length_le (by rw [length_natToBytes]), bytesToNat_natToBytes]
  rfl

theorem Mem.readLE_writeLE_ne (m : Mem) {a b v : Nat} (h : b + 4 ≤ a ∨ a + 4 ≤ b) : (m.writeLE a 4 v).readLE b 4 = m.readLE b 4 := by
  unfold Mem.readLE Mem.writeLE
  rw [Mem.readBytes_eq, Mem.readBytes_eq]
  refine congrArg bytesToNat (List.map_congr_left fun i hi => ?_)
  have hlt : i < 4 := List.mem_range.1 hi
  rw [Mem.read_writeBytes, length_natToBytes, if_neg (by omega)]

theorem Spad.setWord_word (p : Spad) (w j : Nat) (v : Word) (st : WordSt) :
    (p.setWord w v st).word j = if j = w then v else p.word j := by
  show BitVec.ofNat 32 ((p.bytes.writeLE (4 * w) 4 v.toNat).readLE (4 * j) 4) = _
  by_cases hj : j = w
  · subst hj
    rw [if_pos rfl, Mem.readLE_writeLE, Nat.mod_eq_of_lt v.isLt, BitVec.ofNat_toNat, BitVec.setWidth_eq]
  · rw [if_neg hj, Mem.readLE_writeLE_ne _ (by omega)]
    rfl

theorem Spad.setWord_wst (p : Spad) (w j : Nat) (v : Word) (st : WordSt) :
    (p.setWord w v st).wst j = if j = w then st else p.wst j := mget_mput p.words w j st {}

/-! ### Bytes written under a mask (R154) -/

/-- The byte of a line that a mask writes at an address. -/
def lineByte (pa : Nat) (data : BitVec 512) (a : Nat) : Byte := BitVec.ofNat 8 (data.toNat / 2 ^ (8 * (a - pa)))

theorem ofNat_natField (n lo : Nat) : BitVec.ofNat 8 (natField n lo 8) = BitVec.ofNat 8 (n / 2 ^ lo) := by
  apply BitVec.eq_of_toNat_eq
  rw [BitVec.toNat_ofNat, BitVec.toNat_ofNat]
  exact Nat.mod_mod _ _

/-- Some bytes of a line written in memory that is not the host's. -/
theorem putMasked_part (s : State) (pa : Nat) (mask : BitVec 64) (data : BitVec 512) (l : List Nat)
    (h : ∀ i ∈ l, s.level (pa + i) ≠ .host) :
    ∃ mem, (foldState l s fun i st =>
        if mask.getLsbD i then st.putPhys (pa + i) (BitVec.ofNat 8 (natField data.toNat (8 * i) 8)) else st) = { s with mem := mem }
      ∧ ∀ a, mem.read a = if pa ≤ a ∧ a - pa ∈ l ∧ mask.getLsbD (a - pa) = true then lineByte pa data a else s.mem.read a := by
  induction l generalizing s with
  | nil => exact ⟨s.mem, rfl, fun a => by simp⟩
  | cons i l ih =>
    have hrest : ∀ j ∈ l, s.level (pa + j) ≠ .host := fun j hj => h j (List.mem_cons_of_mem _ hj)
    cases hmask : mask.getLsbD i with
    | false =>
      obtain ⟨mem, hfold, hread⟩ := ih s hrest
      refine ⟨mem, ?_, fun a => (hread a).trans ?_⟩
      · exact (congrArg (fun t => foldState l t _) (if_neg (by simp [hmask]))).trans hfold
      · by_cases ha : a - pa = i
        · rw [ha, hmask]
          simp
        · simp only [List.mem_cons, ha, false_or]
    | true =>
      have hput : s.putPhys (pa + i) (BitVec.ofNat 8 (natField data.toNat (8 * i) 8))
          = { s with mem := s.mem.write (pa + i) (BitVec.ofNat 8 (natField data.toNat (8 * i) 8)) } :=
        if_neg (h i List.mem_cons_self)
      obtain ⟨mem, hfold, hread⟩ := ih { s with mem := s.mem.write (pa + i) (BitVec.ofNat 8 (natField data.toNat (8 * i) 8)) } hrest
      refine ⟨mem, ?_, fun a => (hread a).trans ?_⟩
      · exact (congrArg (fun t => foldState l t _) ((if_pos hmask).trans hput)).trans hfold
      · rw [Mem.read_write, ofNat_natField]
        by_cases ha : a = pa + i
        · have hi : a - pa = i := by omega
          have hbyte : BitVec.ofNat 8 (data.toNat / 2 ^ (8 * i)) = lineByte pa data a := by rw [lineByte, hi]
          rw [if_pos ha, hbyte, ite_self, hi, if_pos ⟨by omega, List.mem_cons_self, hmask⟩]
        · have hi : pa ≤ a → a - pa ≠ i := by omega
          rw [if_neg ha]
          refine if_congr (and_congr_right fun hle => ?_) rfl rfl
          simp only [List.mem_cons, hi hle, false_or]

/-- A line written under its mask in memory that is not the host's. -/
theorem putMasked_eq {s : State} {pa : Nat} (h : ∀ i < 64, s.level (pa + i) ≠ .host) (mask : BitVec 64) (data : BitVec 512) :
    ∃ mem, s.putMasked pa mask data = { s with mem := mem }
      ∧ ∀ a, mem.read a = if pa ≤ a ∧ a < pa + 64 ∧ mask.getLsbD (a - pa) = true then lineByte pa data a else s.mem.read a := by
  obtain ⟨mem, hfold, hread⟩ := putMasked_part s pa mask data (upTo 64) fun i hi => h i (List.mem_range.1 hi)
  refine ⟨mem, hfold, fun a => (hread a).trans (if_congr (and_congr_right fun hle => and_congr_left fun _ => ?_) rfl rfl)⟩
  rw [upTo, List.mem_range]
  omega

end Sys2Proof.Machine
end

section
/-! SUPPORT. An access at its scratchpad word (R160, R187, R365, R367), and the drain of a line (R160); with O34. -/

namespace Sys2Proof.Machine

/-! ### An access that nothing stands before (R189, R240, R241) -/

section
variable {s : State} {o : Op} {m : Nat} {k : Task} (h : AtSpad s o m k)
include h

/-- A load, an LDWF or an STFL that stands at its word is performed there, with its arrival recorded. -/
theorem homeOp_atSpad (hopc : o.opc = 0x40 ∨ o.opc = 0x42 ∨ o.opc = 0x45) (hph : o.phase = .issued ∨ o.phase = .waiting) :
    s.homeOp o = (s.arrive (s.arrivals k o)).settle o ((s.arrive (s.arrivals k o)).performOp o k) := by
  obtain ⟨ho, hspad, hcombo, horphan, hk, hmay, hawake, hlate, hfirst, hlimit⟩ := h
  have hhome : o.atHome = true := by
    unfold Op.atHome
    obtain h | h | h := hopc <;> rw [h] <;> rfl
  have hatom : o.isAtom = false := by
    unfold Op.isAtom
    obtain h | h | h := hopc <;> rw [h] <;> rfl
  have hplace : o.placeless = false := by
    unfold Op.placeless
    rw [hspad]
    obtain h | h | h := hopc <;> rw [h] <;> rfl
  have hspawn : o.opc ≠ 0xF6 := by omega
  have hpassed : s.limitPassed o = false := by
    unfold State.limitPassed
    cases hl : o.limit with
    | none => rfl
    | some l => exact decide_eq_false (not_lt.2 (hlimit l hl))
  have hgo : (!(o.atHome || o.orphan.isSome) || o.phase == .held || o.phase == .waitSet || o.phase == .performed || s.limitPassed o) = false := by
    rw [hhome, hpassed]
    obtain h | h := hph <;> rw [h] <;> rfl
  have hperformed : (o.phase == .performed || !s.mayGo o) = false := by
    rw [hmay]
    obtain h | h := hph <;> rw [h] <;> rfl
  have hturn : (o.phase == .issued && s.tooLate (s.arrivals k o)) = false := by
    obtain h | h := hph
    · rw [hlate h, Bool.and_false]
    · rw [h]
      rfl
  have hself : ((s.arrive (s.arrivals k o)).op? o.id).getD o = o := by
    rw [show (s.arrive (s.arrivals k o)).op? o.id = some o from ho]
    rfl
  unfold State.homeOp
  rw [hgo, if_neg Bool.false_ne_true, hcombo, horphan]
  dsimp only
  rw [if_neg fun h => hspawn h.1, hatom, if_neg Bool.false_ne_true, hplace, if_neg Bool.false_ne_true]
  unfold State.attempt
  rw [hk]
  dsimp only
  rw [hperformed, if_neg Bool.false_ne_true, hspad]
  dsimp only
  rw [hawake, if_neg Bool.false_ne_true, hturn, if_neg Bool.false_ne_true, hself, if_neg hspawn, hfirst, if_neg Bool.false_ne_true]

theorem exec_homeAccess_atSpad (hopc : o.opc = 0x40 ∨ o.opc = 0x42 ∨ o.opc = 0x45) (hph : o.phase = .issued) :
    exec (.homeAccess (.op o.id)) s
      = .next ((s.arrive (s.arrivals k o)).settle o ((s.arrive (s.arrivals k o)).performOp o k)) := by
  rw [← homeOp_atSpad h hopc (.inl hph)]
  obtain ⟨ho, -⟩ := h
  show execHomeAccess (.op o.id) s = _
  unfold execHomeAccess
  dsimp only
  rw [ho]

theorem exec_waitRetry_atSpad (hopc : o.opc = 0x42) (hph : o.phase = .waiting) :
    exec (.waitRetry o.id) s = .next ((s.arrive (s.arrivals k o)).settle o ((s.arrive (s.arrivals k o)).performOp o k)) := by
  rw [← homeOp_atSpad h (.inr (.inl hopc)) (.inr hph)]
  obtain ⟨ho, -⟩ := h
  have hcopy : ¬ o.opc = 0x51 := by omega
  show execWaitRetry o.id s = _
  unfold execWaitRetry
  rw [ho]
  dsimp only
  rw [if_neg (not_not.2 hph), if_neg hcopy]

/-- The state in which an access has bound a value at its word: nothing but the operation, its arrival and the next identifier differ. -/
theorem bound_atSpad (v : Word) : let t := (s.arrive (s.arrivals k o)).settle o (.ok (s.arrive (s.arrivals k o)) { r := v })
    t.op? o.id = some { o with phase := .performed, r := v, c := false, status := 0, engv := none, vres := 0, fflag := false,
                               limit := none, retry := false, asleep := false, awaits := false,
                               inj := s.clock.nextId, sent := s.clock.tick }
      ∧ { t with ops := s.ops, served := s.served, clock := { t.clock with nextId := s.clock.nextId } } = s := by
  obtain ⟨ho, hspad, -⟩ := h
  exact ⟨settle_ok_op (s := s.arrive (s.arrivals k o)) { r := v } ho hspad, rfl⟩

end

/-! ### What an access comes to at its word (R187, R365, R367) -/

theorem loadValue_eq (f : Slot) (bytes : List Byte) : loadValue f bytes =
    if f.src2.toNat % 8 = 4 then BitVec.ofInt 32 (natToInt 8 (bytesToNat bytes))
    else if f.src2.toNat % 8 = 5 then BitVec.ofInt 32 (natToInt 16 (bytesToNat bytes)) else BitVec.ofNat 32 (bytesToNat bytes) := by
  unfold loadValue
  dsimp only
  split
  next h => rw [if_pos h]
  next h => rw [if_neg (by omega), if_pos h]
  next h4 h5 => rw [if_neg h4, if_neg h5]

section
variable {s : State} {o : Op} {m : Nat} {k : Task} (hspad : o.spad = some m)
include hspad

theorem performOp_load (hopc : o.opc = 0x40) (hpoison : s.poisonIn k o.cell { spad := some m, ea := o.ea } o.len = none) :
    s.performOp o k = .ok s { r := loadValue o.f ((s.cell m).spad.viewBytes o.ea o.len (some k.id)) } := by
  unfold State.performOp
  dsimp only
  rw [if_pos (.inl hopc)]
  unfold State.performLoad State.readBytes
  rw [hspad]
  dsimp only
  rw [hpoison]
  rfl

/-- A full/empty or counting operation is performed on its word. -/
theorem performOp_word (hopc : o.opc = 0x42 ∨ o.opc = 0x45) : s.performOp o k = s.performWord o k m := by
  unfold State.performOp
  dsimp only
  rw [if_neg (by omega), if_neg (by omega), if_neg (by omega), if_neg (by omega), if_pos (by omega), hspad]
  rfl

theorem performOp_ldwf (hopc : o.opc = 0x42) (hpoison : s.poisonIn k o.cell { spad := some m, ea := o.ea } 4 = none)
    (hfull : wordFull ((s.cell m).spad.viewSt (o.ea / 4) (some k.id)) ((s.cell m).spad.viewWord (o.ea / 4) (some k.id)) = true) :
    s.performOp o k = .ok s { r := (s.cell m).spad.viewWord (o.ea / 4) (some k.id) } := by
  rw [performOp_word hspad (.inl hopc)]
  unfold State.performWord
  dsimp only
  rw [hopc, hfull, hpoison]
  rfl

/-- An STFL of an unguarded task fills an EMPTY word, and wakes whoever is parked on it. -/
theorem performOp_stfl (hopc : o.opc = 0x45) (hguard : s.isGuarded k = false) (hhid : (s.cell m).spad.hidden (o.ea / 4) (some k.id) = false)
    (hempty : (s.cell m).spad.wst (o.ea / 4) = {}) :
    s.performOp o k = .ok (s.setSpad m ((s.cell m).spad.setWord (o.ea / 4) (o.args.getD 1 0) { full := true })).wakeParks {} := by
  have hst : (s.cell m).spad.viewSt (o.ea / 4) (some k.id) = {} := by
    unfold Spad.viewSt
    rw [hhid, hempty]
    rfl
  have hwriter : s.writerOf k = none := by
    unfold State.writerOf
    rw [hguard]
    rfl
  rw [performOp_word hspad (.inr hopc)]
  unfold State.performWord
  dsimp only
  rw [hopc, hhid, hst]
  dsimp only
  rw [if_neg Bool.false_ne_true, if_neg Bool.false_ne_true, if_neg Bool.false_ne_true]
  unfold State.spadWord State.spadPut
  rw [hwriter]
  rfl

end

/-- The cells after an STFL has filled its word. -/
theorem filled_cells (s u : State) (o : Op) (m w : Nat) (v : Word) :
    let t := s.settle o (.ok (u.setSpad m ((u.cell m).spad.setWord w v { full := true })).wakeParks {})
    (t.cell m).spad.word w = v ∧ (t.cell m).spad.wst w = { full := true }
      ∧ (∀ j, j ≠ w → (t.cell m).spad.word j = (u.cell m).spad.word j ∧ (t.cell m).spad.wst j = (u.cell m).spad.wst j)
      ∧ ∀ c, c ≠ m → t.cell c = u.cell c := by
  intro t
  have hcell : ∀ c, t.cell c = if c = m then { u.cell m with spad := (u.cell m).spad.setWord w v { full := true } } else u.cell c :=
    fun c => State.cell_updCell u m c fun cl => { cl with spad := (u.cell m).spad.setWord w v { full := true } }
  rw [hcell, if_pos rfl]
  refine ⟨?_, ?_, fun j hj => ⟨?_, ?_⟩, fun c hc => (hcell c).trans (if_neg hc)⟩
  · exact (Spad.setWord_word _ _ _ _ _).trans (if_pos rfl)
  · exact (Spad.setWord_wst _ _ _ _ _).trans (if_pos rfl)
  · exact (Spad.setWord_word _ _ _ _ _).trans (if_neg hj)
  · exact (Spad.setWord_wst _ _ _ _ _).trans (if_neg hj)

/-! ### The drain of a line (R160) -/

/-- A watchpoint of a home whose log is off leaves the host's memory as it was (R280). -/
theorem State.homeWatch_unlogged {s : State} (h : s.logs.wlog.en = false) (pa n : Nat) (wr : Bool) (ag : Agent) :
    (s.homeWatch pa n wr ag).hostMem = s.hostMem := by
  unfold State.homeWatch
  split
  · rfl
  · refine (foldState_keeps (fun t => t.hostMem = s.hostMem ∧ t.logs.wlog.en = false) _ (fun i t ht => ?_) _ (s.useRange pa n) ⟨rfl, h⟩).1
    obtain ⟨hmem, hoff⟩ := ht
    have hnone : ∀ bytes, t.appendLog t.logs.wlog 32 bytes = (t.logs.wlog, t) := fun bytes => if_neg (by simp [hoff])
    split
    · dsimp only
      rw [hnone]
      exact ⟨hmem, hoff⟩
    · exact ⟨hmem, hoff⟩

/-- No byte of a line of the landing, the cellar or the attic is the host's (R13). -/
theorem line_ne_host {s : State} {pa : Nat} (h : s.level pa ∈ [Level.landing, .cellar, .attic]) {i : Nat} (hi : i < 64) :
    s.level (pa + i) ≠ .host := by
  have hlocal : localLevel (localOf pa) = .landing ∨ localLevel (localOf pa) = .cellar ∨ localLevel (localOf pa) = .attic := by
    unfold State.level at h
    split at h
    · simp at h
    · split at h
      · simpa using h
      · simp at h
  have hbound : localOf pa + i < 0xC0000000000 := by
    rw [localLevel_eq_landing, localLevel_eq_cellar, localLevel_eq_attic] at hlocal
    omega
  have haddr : pa + i = pa / 2 ^ 44 * 2 ^ 44 + (localOf pa + i) := by
    unfold localOf
    omega
  rw [haddr]
  refine s.level_ne_host _ _ (by omega) ?_
  rw [Ne, localLevel_eq_host]
  omega

/-- The state after a line of a vestibule has been performed at its home, without an error there. -/
theorem drainLine_facts {s : State} {pa : Nat} (hlevel : s.level pa ∈ [Level.landing, .cellar, .attic]) (hlog : s.logs.wlog.en = false)
    (k : Task) (c : Nat) (mask : BitVec 64) (data : BitVec 512) (tag : Option (BitVec 16)) :
    let t := s.drainEntry k c [] (.line pa mask data tag)
    (∀ a, t.physByte a = if pa ≤ a ∧ a < pa + 64 ∧ mask.getLsbD (a - pa) = true then lineByte pa data a else s.physByte a)
      ∧ (∀ g, tag = some g → t.physTag pa = g) ∧ (tag = none → t.tags = s.tags)
      ∧ t.tasks = s.tasks ∧ t.rooms = s.rooms ∧ t.ops = s.ops ∧ t.cells = s.cells := by
  have hline : ∀ i < 64, s.level (pa + i) ≠ .host := fun i => line_ne_host hlevel
  obtain ⟨mem, hput, hread⟩ := putMasked_eq hline mask data
  obtain ⟨tags, hwritten, hsome, hnone⟩ : ∃ tags, s.drainEntry k c [] (.line pa mask data tag)
        = ({ s with mem := mem, tags := tags } : State).homeWatch pa 64 true (s.elemAgent 1 k c 0xFF)
      ∧ (∀ g, tag = some g → mget tags (pa / 64) 0 = g) ∧ (tag = none → tags = s.tags) := by
    unfold State.drainEntry
    dsimp only
    rw [hput]
    cases tag with
    | none => exact ⟨s.tags, rfl, nofun, fun _ => rfl⟩
    | some g =>
      have htag : ({ s with mem := mem } : State).putTag pa g = { s with mem := mem, tags := mput s.tags (pa / 64) g 0 } :=
        if_neg (hline 0 (by decide))
      refine ⟨mput s.tags (pa / 64) g 0, ?_, fun _ h => ?_, nofun⟩
      · dsimp only
        rw [htag]
        rfl
      · cases h
        exact mget_mput_self _ _ _ _
  intro t
  have ht : t = ({ s with mem := mem, tags := tags } : State).homeWatch pa 64 true (s.elemAgent 1 k c 0xFF) := hwritten
  have htags : t.tags = tags := by rw [ht, State.homeWatch_tags]
  have hhost : t.hostMem = s.hostMem := by
    rw [ht]
    exact State.homeWatch_unlogged (s := { s with mem := mem, tags := tags }) hlog _ _ _ _
  refine ⟨fun a => ?_, fun g hg => ?_, fun hg => htags.trans (hnone hg), ?_, ?_, ?_, ?_⟩
  · have hmem : t.mem = mem := by rw [ht, State.homeWatch_mem]
    have hlvl : t.level a = s.level a := by
      rw [ht]
      unfold State.level
      rw [State.homeWatch_devNum]
    unfold State.physByte
    rw [hlvl, hhost, hmem, hread]
    split
    next hh =>
      refine (if_neg fun hin => ?_).symm
      have hi := hline (a - pa) (by omega)
      rw [show pa + (a - pa) = a by omega] at hi
      exact hi hh
    next => rfl
  · unfold State.physTag
    rw [htags, hsome g hg]
  · rw [ht, State.homeWatch_tasks]
  · rw [ht]
    exact State.homeWatch_frame State.rooms (fun _ _ _ _ => rfl) ..
  · rw [ht]
    exact State.homeWatch_frame State.ops (fun _ _ _ _ => rfl) ..
  · rw [ht]
    exact State.homeWatch_frame State.cells (fun _ _ _ _ => rfl) ..

/-- The state in which a line has left the vestibule of a cell and has arrived at its home. -/
def State.lineSent (s : State) (c pa : Nat) (rest : List VEntry) : State :=
  ((s.arrive (s.memArrivals [(pa, 64)] (homeKey c 0xFF))).useRanges [(pa, 64)]).updCell c fun cl => { cl with vest := rest }

theorem exec_drainLine {s : State} {c pa : Nat} {mask : BitVec 64} {data : BitVec 512} {tag : Option (BitVec 16)} {rest : List VEntry}
    {k : Task} (hk : s.owner? c = some k) (hst : k.st = .committing) (hvest : (s.cell c).vest = .line pa mask data tag :: rest)
    (hpath : s.pathBusy [] s.clock.nextId (s.entryLegs c (.line pa mask data tag)) = false) (htake : HomesTake s [(pa, 64)] (homeKey c 0xFF)) :
    exec (.homeAccess (.drain c [])) s = .next ((s.lineSent c pa rest).drainEntry k c [] (.line pa mask data tag)) := by
  obtain ⟨hpieces, hlate⟩ := htake
  obtain ⟨hrouted, hawake⟩ := hpieces (pa, 64) List.mem_cons_self
  have hvest' : (((s.arrive (s.memArrivals [(pa, 64)] (homeKey c 0xFF))).useRanges [(pa, 64)]).cell c).vest
      = .line pa mask data tag :: rest := hvest
  show Host.Outcome.next (s.drain c []) = _
  unfold State.drain
  rw [hk]
  dsimp only
  rw [if_neg (not_not.2 hst), hvest]
  show Host.Outcome.next (if s.pathBusy [] s.clock.nextId (s.entryLegs c (.line pa mask data tag)) = true then s else
    s.arriveAt [(pa, 64)] (homeKey c 0xFF) fun s1 => (s1.updCell c fun cl => { cl with vest := dropOut cl.vest }).drainEntry k c []
      (.line pa mask data tag)) = _
  rw [hpath, if_neg Bool.false_ne_true]
  unfold State.arriveAt
  simp only [List.any_cons, List.any_nil, List.flatMap_cons, List.flatMap_nil, hrouted, hawake, hlate, List.append_nil, List.isEmpty_nil,
    Bool.not_true, Bool.or_false, Bool.false_eq_true, if_false]
  unfold State.lineSent State.updCell
  dsimp only
  rw [hvest']
  rfl

end Sys2Proof.Machine

namespace Sys2Proof.Proofs
open Sys2Proof.Machine

/-- Settles O34: what an access that stands at its word comes to there, and what the drain of a line writes at its home. -/
theorem accessesAtHome : Obligations.AccessesAtHome := by
  unfold Obligations.AccessesAtHome
  intro s
  refine ⟨?_, ?_, ?_⟩
  · intro o m k h hpoison
    obtain ⟨-, hspad, -⟩ := id h
    refine ⟨fun hopc hph => ?_, fun hopc hlen hfull => ⟨fun hph => ?_, fun hph => ?_⟩⟩
    · rw [← loadValue_eq]
      refine ⟨_, (exec_homeAccess_atSpad h (.inl hopc) hph).trans ?_, bound_atSpad h _⟩
      rw [performOp_load (s := s.arrive (s.arrivals k o)) hspad hopc hpoison]
      rfl
    · rw [hlen] at hpoison
      refine ⟨_, (exec_homeAccess_atSpad h (.inr (.inl hopc)) hph).trans ?_, bound_atSpad h _⟩
      rw [performOp_ldwf (s := s.arrive (s.arrivals k o)) hspad hopc hpoison hfull]
      rfl
    · rw [hlen] at hpoison
      refine ⟨_, (exec_waitRetry_atSpad h hopc hph).trans ?_, bound_atSpad h _⟩
      rw [performOp_ldwf (s := s.arrive (s.arrivals k o)) hspad hopc hpoison hfull]
      rfl
  · intro o m k h hopc hph hguard hhid hempty
    obtain ⟨ho, hspad, -⟩ := id h
    obtain ⟨hword, hwst, hrest, hcells⟩ :=
      filled_cells (s.arrive (s.arrivals k o)) (s.arrive (s.arrivals k o)) o m (o.ea / 4) (o.args.getD 1 0)
    refine ⟨_, (exec_homeAccess_atSpad h (.inr (.inr hopc)) hph).trans (congrArg Host.Outcome.next (congrArg _
      (performOp_stfl (s := s.arrive (s.arrivals k o)) hspad hopc hguard hhid hempty))), hword, hwst, hrest, hcells, rfl, rfl, _,
      settle_ok_op {} ho hspad, rfl⟩
  · intro c pa mask data tag rest k hk hst hvest hlevel _ hlog hpath htake
    obtain ⟨hbytes, htag, htags, htasks, hrooms, hops, hcells⟩ := drainLine_facts (s := s.lineSent c pa rest) hlevel hlog k c mask data tag
    have hcell : ∀ d, ((s.lineSent c pa rest).drainEntry k c [] (.line pa mask data tag)).cell d
        = if d = c then { s.cell c with vest := rest } else s.cell d := fun d =>
      (congrArg (fun m : AMap Cell => mget m d {}) hcells).trans (mget_mset _ _ _ _ _)
    refine ⟨_, exec_drainLine hk hst hvest hpath htake, ?_, hbytes, htag, htags, htasks, hrooms, hops, fun d hd => ?_⟩
    · rw [hcell, if_pos rfl]
    · rw [hcell, if_neg hd]

end Sys2Proof.Proofs
end

section
/-! SUPPORT. A SEMSET after a signal of increment 0 (R171, R457); and O28. -/

namespace Sys2Proof.Machine

/-- A SEMSET of semaphore 0 with a signal on semaphore 0. -/
def semsetSignalling : HCmd := { sen := true }

/-- Reset, with the hearth of room 0 at a command that has not begun: it has tested semaphore 0 in this tick, after a signal of
increment 0 on it. -/
def State.zeroSignalTested : State :=
  { State.reset.updRoom 0 fun k => { k.addSem 0 0 with hearth := { k.hearth with st := .exec, exec := none }, tested := [0] } with
    cur := { State.reset.cur with subject := 0 } }

theorem zeroSignalTested_runs : HearthRuns State.zeroSignalTested 0 := ⟨rfl, rfl, rfl⟩

/-- A signal of increment 0 is listed among the increments of the tick. -/
theorem zeroSignalTested_semInc : (State.zeroSignalTested.room 0).semInc = [(0, 0)] := by decide

/-- A SEMSET takes the semaphore off the list, and an increment of 0 does not put it there again. -/
theorem exec_semset_zeroSignal : ∃ t, exec (.semset semsetSignalling) State.zeroSignalTested = .next t ∧ (t.room 0).semInc = [] :=
  ⟨_, rfl, by decide⟩

end Sys2Proof.Machine
namespace Sys2Proof.Proofs
open Sys2Proof.Machine

/-- Refutes O28: a signal of increment 0 leaves its semaphore listed with 0 among the tick's increments. -/
theorem not_hearthCommandsComplete : ¬ Obligations.HearthCommandsComplete := by
  unfold Obligations.HearthCommandsComplete
  intro h
  obtain ⟨-, -, -, -, -, hsemset, -⟩ := h semsetSignalling State.zeroSignalTested 0 zeroSignalTested_runs
  obtain ⟨t, ht, ⟨-, hdone⟩, -, -⟩ := hsemset (by decide)
  obtain ⟨t', ht', hnone⟩ := exec_semset_zeroSignal
  obtain rfl : t' = t := Host.Outcome.next.inj (ht'.symm.trans ht)
  rw [if_pos (by decide)] at hdone
  have hlisted : (t'.room 0).semInc = [(0, 0)] := (congrArg Room.semInc hdone).trans zeroSignalTested_semInc
  exact absurd (hnone.symm.trans hlisted) (by decide)

end Sys2Proof.Proofs
end

section
/-! SUPPORT. Arriving tokens, control tokens and the elements of inbound edge ports (R177, R179, R180, R320); and O36. -/

namespace Sys2Proof.Machine

variable {s : State}

/-! ### Tokens on their way (R177) -/

/-- The first token on its way enters the channel behind those that wait. -/
def Input.arrived (x : Input) : Input :=
  match x.transit with
  | [] => x
  | k :: ks => { x with q := x.q ++ [k], transit := ks }

theorem Input.arrived_cons {x : Input} {k : Token} {ks : List Token} (h : x.transit = k :: ks) :
    x.arrived = { x with q := x.q ++ [k], transit := ks } := by
  unfold Input.arrived
  rw [h]

theorem exec_channelTokenArrive (c e i : Nat) :
    exec (.channelTokenArrive c e i) s = .next (s.updInputAt c e i Input.arrived) := rfl

/-- The channel of an element input is what `inputAt` reads there. -/
theorem inputAt_input {c e : Nat} (h : isEdge c e = false) (i : Nat) : s.inputAt c e i = (s.elem c e).input i := by
  unfold State.inputAt
  rw [h, if_neg Bool.false_ne_true]

/-- The queue of an edge port is what `inputAt` reads there. -/
theorem inputAt_edge {c e : Nat} (h : isEdge c e = true) (i : Nat) : s.inputAt c e i = ((s.cell c).edge (e - 4)).inq := by
  unfold State.inputAt
  rw [h, if_pos rfl]

theorem elem_updInputAt_ne {c e d k : Nat} (h : ¬ (d = c ∧ k = e)) (i : Nat) (f : Input → Input) :
    (s.updInputAt c e i f).elem d k = s.elem d k := by
  unfold State.updInputAt
  split
  · exact State.elem_updCell_keeps _ _ _ _ _ rfl
  · rw [State.elem_updElem, if_neg h]

theorem elems_updInputAt_edge {c e : Nat} (h : isEdge c e = true) (i : Nat) (f : Input → Input) :
    ((s.updInputAt c e i f).cell c).elems = (s.cell c).elems := by
  unfold State.updInputAt
  rw [if_pos h, State.cell_updCell, if_pos rfl]

/-! ### Control tokens (R179, R180) -/

/-- A predicate set: its bit is true and every other bit is as before. -/
theorem setPred_true (pb : BitVec 8) (p b : Nat) (hb : b < 8) : (setPred pb p true).getLsbD b = (pb.getLsbD b || decide (b = p)) := by
  unfold setPred
  rw [if_pos rfl, BitVec.getLsbD_or, BitVec.getLsbD_shiftLeft]
  by_cases h : b = p
  · simp [h, show p < 8 by omega]
  · by_cases hp : b < p
    · simp [h, hp]
    · simp [h, show ¬ b - p = 0 by omega]

/-- The element with one control token fewer on its way to a control input. -/
def Elem.ctlTaken (el : Elem) (i : Nat) : Elem := { el with ctlIn := mput el.ctlIn i (mget el.ctlIn i 0 - 1) 0 }

theorem exec_controlTokenArrive {c e i : Nat} (h : mget (s.elem c e).ctlIn i 0 ≠ 0) :
    exec (.controlTokenArrive c e i) s = .next ((s.updElem c e fun el => el.ctlTaken i).controlArrive c e i) := by
  refine congrArg Host.Outcome.next ((if_neg h).trans ?_)
  rfl

/-- A control token at an element that fires no SPAWN in the tick sets its mapped predicate. -/
theorem controlArrive_pred {c e i p : Nat} (hi : i < 8) (hspawn : s.spawning c e = false) (hmap : mfind (s.elem c e).ctlMap i = some p) :
    s.controlArrive c e i = s.updElem c e fun el => { el with pb := setPred el.pb p true } := by
  have hnow : s.controlArrive c e i = s.updElem c e fun el => el.control i := by
    unfold State.controlArrive State.controlNow
    rw [if_neg (by rw [hspawn]; simp), if_neg (by omega)]
  have hel : (s.elem c e).control i = { s.elem c e with pb := setPred (s.elem c e).pb p true } := by
    unfold Elem.control
    rw [hmap]
  rw [hnow]
  exact congrArg (fun el => s.setCell c { s.cell c with elems := mset (s.cell c).elems e el }) hel

/-- A control token at a START input is for the counter set. -/
theorem controlArrive_start {c e i : Nat} (hi : 8 ≤ i) : s.controlArrive c e i = s.updCtr c (i - 8) CtrSet.startToken := by
  unfold State.controlArrive State.controlNow
  rw [if_neg (fun h => by omega), if_pos hi]

theorem ctr_updCtr (s : State) (c n : Nat) (f : CtrSet → CtrSet) (j : Nat) :
    ((s.updCtr c n f).cell c).ctr j = if j = n then f ((s.cell c).ctr n) else (s.cell c).ctr j := by
  unfold State.updCtr
  rw [State.cell_updCell, if_pos rfl]
  exact mget_mset ..

theorem ctr_updElem (s : State) (c e : Nat) (f : Elem → Elem) (d j : Nat) : ((s.updElem c e f).cell d).ctr j = (s.cell d).ctr j := by
  rw [State.cell_updElem]
  split
  next h => rw [h]; rfl
  next => rfl

theorem startToken_eq (k : CtrSet) : k.startToken = if k.started = true ∧ k.isDone = false then k
    else { k with n := k.ext.map fun _ => 0, started := true, isDone := false } := by
  unfold CtrSet.startToken
  simp only [Bool.and_eq_true, Bool.not_eq_true']
  rfl

/-! ### Elements of inbound edge ports (R320) -/

theorem exec_edgePortAdvance_performed {c p n : Nat} {k : Task} {g : Edge} {o : Op} (hk : s.engineTask c 8 = some k)
    (hg : mfind (s.cell c).edges p = some g) (hop : g.op = some n) (ho : s.op? n = some o) (hph : o.phase = .performed) :
    exec (.edgePortAdvance c p) s = .next (s.edgeFinish k c p o) := by
  show execEdgePortAdvance c p s = _
  simp only [execEdgePortAdvance, hk, hg, hop, ho, hph, if_true]

/-- A performed access of an inbound port ends: its element leaves in the space kept for it. -/
theorem edgeFinish_inbound {c p : Nat} {k : Task} {o : Op} (hout : ((s.cell c).edge p).out = false) :
    s.edgeFinish k c p o = (((s.unreserve k ((s.cell c).port (4 + p))).send k c ((s.cell c).port (4 + p)) { val := o.r }).delOp
      o.id).updEdge c p fun e => { e with op := none } := by
  unfold State.edgeFinish
  dsimp only
  rw [hout, if_neg Bool.false_ne_true]

/-- A change of an edge port is no change of an element's channel. -/
theorem inputAt_updEdge {c e : Nat} (h : isEdge c e = false) (d p : Nat) (f : Edge → Edge) (i : Nat) :
    (s.updEdge d p f).inputAt c e i = s.inputAt c e i := by
  rw [inputAt_input h, inputAt_input h]
  exact congrArg (fun el : Elem => el.input i) (State.elem_updCell_keeps s d c e _ rfl)

theorem edge_updEdge_self (s : State) (c p : Nat) (f : Edge → Edge) : ((s.updEdge c p f).cell c).edge p = f ((s.cell c).edge p) := by
  unfold State.updEdge
  rw [State.cell_updCell, if_pos rfl]
  exact mget_mset_self ..

/-- An element's channel after the element of its only destination has left within the cell. -/
theorem inputAt_elementSent {c : Nat} {k : Task} {d : Dest} (hd : k.cellAt d.x d.y = c) (tok : Token) :
    ((s.unreserve k [d]).send k c [d] tok).inputAt c d.e d.i =
      { s.inputAt c d.e d.i with
        q := (s.inputAt c d.e d.i).q ++ [tok]
        reserved := (s.inputAt c d.e d.i).reserved - 1 } := by
  have hfeeds : d.feeds k c d.e d.i = true := by simp [Dest.feeds, hd]
  rw [State.inputAt_send, State.inputAt_unreserve]
  simp [Input.entered, hfeeds]

end Sys2Proof.Machine

namespace Sys2Proof.Proofs
open Sys2Proof.Machine

/-- Settles O36: what each kind of arrival does to the one channel, predicate, counter set or port that it is for. -/
theorem tokensArrive : Obligations.TokensArrive := by
  unfold Obligations.TokensArrive
  intro s c e i
  refine ⟨?_, ?_, ?_, ?_, ?_⟩
  · intro k ks hedge htransit
    have hframe := s.updInputAt_channel c e i Input.arrived
    have hin : ∀ j, ((s.updInputAt c e i Input.arrived).elem c e).input j =
        if i = j then ((s.elem c e).input j).arrived else (s.elem c e).input j := fun j => by
      rw [← inputAt_input hedge, ← inputAt_input hedge, State.inputAt_updInputAt]
      simp [hedge]
    refine ⟨_, exec_channelTokenArrive c e i, ?_, fun j hj => ?_, hframe.2.2.2 c e, fun d f h => elem_updInputAt_ne h _ _, hframe.1⟩
    · rw [hin, if_pos rfl, Input.arrived_cons htransit]
    · rw [hin, if_neg (Ne.symm hj)]
  · intro k ks hedge htransit
    refine ⟨_, exec_channelTokenArrive c e i, ?_, elems_updInputAt_edge hedge _ _, (s.updInputAt_channel c e i Input.arrived).1⟩
    rw [← inputAt_edge hedge i, ← inputAt_edge hedge i, State.inputAt_updInputAt, if_pos ⟨rfl, rfl, .inl hedge⟩]
    rw [← inputAt_edge hedge i] at htransit
    exact Input.arrived_cons htransit
  · intro p hi hspawn hin hmap
    have hself : (s.updElem c e fun el => el.ctlTaken i).elem c e = (s.elem c e).ctlTaken i := by simp [State.elem_updElem]
    have hspawn' : (s.updElem c e fun el => el.ctlTaken i).spawning c e = false := by
      unfold State.spawning
      rw [hself]
      exact hspawn
    have harrive := controlArrive_pred hi hspawn' (p := p) (by rw [hself]; exact hmap)
    rw [exec_controlTokenArrive hin, harrive]
    refine ⟨_, rfl, ?_⟩
    simp only [State.elem_updElem, true_and, if_true]
    refine ⟨fun b hb => setPred_true _ p b hb, mget_mput_self .., rfl, rfl, fun d f h => ?_, rfl⟩
    rw [if_neg h, if_neg h]
  · intro hi hin k
    rw [exec_controlTokenArrive hin, controlArrive_start hi]
    refine ⟨_, rfl, ?_, fun j hj => ?_, rfl⟩
    · rw [ctr_updCtr, if_pos rfl, ctr_updElem]
      exact startToken_eq _
    · rw [ctr_updCtr, if_neg hj, ctr_updElem]
  · intro k g n o d p hk hg hop ho hph hout hport hd hedge
    have hid : o.id = n := State.op?_id ho
    have hedge0 : (s.cell c).edge p = g := by simp [Cell.edge, mget, hg]
    have hframe : ChannelFrame s ((s.unreserve k [d]).send k c [d] { val := o.r }) :=
      (State.unreserve_channel _ _ _).trans (State.send_channel _ _ _ _ _)
    rw [exec_edgePortAdvance_performed hk hg hop ho hph, edgeFinish_inbound (by rw [hedge0]; exact hout), hport]
    have hinput := (inputAt_updEdge (s := ((s.unreserve k [d]).send k c [d] { val := o.r }).delOp o.id) hedge c p
      (fun e => { e with op := none }) d.i).trans (inputAt_elementSent hd { val := o.r })
    rw [inputAt_input hedge, inputAt_input hedge] at hinput
    refine ⟨_, rfl, congrArg Input.q hinput, congrArg Input.reserved hinput, fun q hq => ?_, ?_, ?_, ?_⟩
    · have hne := (List.mem_filter.1 hq).2
      rw [hid] at hne
      simpa using hne
    · rw [edge_updEdge_self]
    · have hmem := congrArg State.mem hframe.1
      exact hmem
    · have hrooms := congrArg State.rooms hframe.1
      exact hrooms

end Sys2Proof.Proofs
end

section
/-! SUPPORT. Tokens sent within a cell, the keys and pairs of a sort, and the scan unit between its blocks (R193, R199, R413, R418); and O39. -/

namespace Sys2Proof.Machine

/-! ### Tokens sent within a cell (R137, R176) -/

/-- The tokens that wait at the element input of a destination within cell c. -/
def State.queueAt (s : State) (c : Nat) (d : Dest) : List Token := ((s.elem c d.e).input d.i).q

section
variable {s u : State} {k : Task} {c : Nat} {d d' : Dest} (hd : k.cellAt d.x d.y = c) (hedge : isEdge c d.e = false)

include hd in
/-- A destination within the cell is no crossing. -/
theorem crossings_within : crossings k c [d] = 0 := by simp [crossings, hd]

include hedge in
theorem queueAt_eq : s.queueAt c d = (s.inputAt c d.e d.i).q := by
  unfold State.queueAt
  rw [inputAt_input hedge]

include hd hedge in
/-- A token sent to one destination within the cell waits there, behind those before it. -/
theorem queueAt_send (tok : Token) : (s.send k c [d] tok).queueAt c d = s.queueAt c d ++ [tok] := by
  have hfeeds : d.feeds k c d.e d.i = true := by simp [Dest.feeds, hd]
  rw [queueAt_eq hedge, queueAt_eq hedge, State.inputAt_send]
  simp [Input.entered, hfeeds]

include hedge in
/-- A token sent to a destination of another input enters no queue of this one. -/
theorem queueAt_send_ne (hne : (d'.e, d'.i) ≠ (d.e, d.i)) (tok : Token) : (s.send k c [d'] tok).queueAt c d = s.queueAt c d := by
  have hfeeds : d'.feeds k c d.e d.i = false := by
    rw [← Bool.not_eq_true]
    simp only [Dest.feeds, hedge, Bool.false_or, Bool.and_eq_true, beq_iff_eq]
    rintro ⟨⟨-, he⟩, hi⟩
    exact hne (by rw [he, hi])
  rw [queueAt_eq hedge, queueAt_eq hedge, State.inputAt_send]
  simp [Input.entered, hfeeds]

theorem queueAt_updCell (f : Cell → Cell) (hf : (f (s.cell c)).elems = (s.cell c).elems) : (s.updCell c f).queueAt c d = s.queueAt c d := by
  unfold State.queueAt
  rw [State.elem_updCell_keeps _ _ _ _ _ hf]

theorem DebitFrame.queueAt (h : DebitFrame s u) : u.queueAt c d = s.queueAt c d := by
  unfold State.queueAt
  rw [h.2.2]

end

/-- What the sending of tokens leaves of a state: its device and the engines of its cells. -/
theorem send_keeps (s : State) (k : Task) (c : Nat) (ds : List Dest) (tok : Token) :
    SameDevice s (s.send k c ds tok) ∧ SameEngines s (s.send k c ds tok) :=
  ⟨(State.send_channel s k c ds tok).sameDevice, (State.send_channel s k c ds tok).2.1⟩

/-! ### Sort mode (R193, R413) -/

theorem cell_updMx_self (s : State) (c : Nat) (f : Mx → Mx) : (s.updMx c f).cell c = { s.cell c with mx := f (s.cell c).mx } :=
  (State.cell_updCell _ _ _ _).trans (if_pos rfl)

/-- A change of a matrix engine is of its cell alone. -/
theorem updMx_sameDevice (s : State) (c : Nat) (f : Mx → Mx) : SameDevice s (s.updMx c f) := ⟨rfl, rfl, rfl, rfl, rfl⟩

/-- The pair of tokens that a sort sends in a step. -/
def State.pairSent (s : State) (k : Task) (c : Nat) (d1 d2 : Dest) (t1 t2 : Token) : State := (s.send k c [d1] t1).send k c [d2] t2

/-- A pair sent to two inputs within the cell: each queue has its token, and the engines and the device are as before. -/
theorem pairSent_facts {s u : State} (h : DebitFrame s u) {k : Task} {c : Nat} {d1 d2 : Dest} (h1 : k.cellAt d1.x d1.y = c ∧ isEdge c d1.e = false)
    (h2 : k.cellAt d2.x d2.y = c ∧ isEdge c d2.e = false) (hne : (d1.e, d1.i) ≠ (d2.e, d2.i)) (t1 t2 : Token) :
    (u.pairSent k c d1 d2 t1 t2).queueAt c d1 = s.queueAt c d1 ++ [t1] ∧ (u.pairSent k c d1 d2 t1 t2).queueAt c d2 = s.queueAt c d2 ++ [t2]
      ∧ ((u.pairSent k c d1 d2 t1 t2).cell c).mx = (s.cell c).mx ∧ SameDevice s (u.pairSent k c d1 d2 t1 t2) := by
  obtain ⟨hdev1, heng1⟩ := send_keeps u k c [d1] t1
  obtain ⟨hdev2, heng2⟩ := send_keeps (u.send k c [d1] t1) k c [d2] t2
  unfold State.pairSent
  refine ⟨?_, ?_, ?_, (h.1.trans hdev1).trans hdev2⟩
  · rw [queueAt_send_ne h1.2 hne.symm, queueAt_send h1.1 h1.2, h.queueAt]
  · rw [queueAt_send h2.1 h2.2, queueAt_send_ne h2.2 hne, h.queueAt]
  · exact (engines_matrix (((heng2 c).trans (heng1 c)).trans (h.2.1 c))).1

section
variable {s : State} {k : Task} {j : SortJob} (hk : s.engineTask s.cur.subject 10 = some k) (hj : (s.cell s.cur.subject).mx.sort = some j)
include hk hj

theorem exec_sortKeyEnter (hlt : j.entered < j.keys.length) (hdroop : s.droopHold s.cur.subject = false)
    (hreplay : ∀ o, s.op? j.op = some o → o.replay = false) :
    exec .sortKeyEnter s = .next ((s.payEngine k s.cur.subject (4096 + j.op) 64).step k.id fun u =>
      u.updMx s.cur.subject fun m => { m with sort := some { j with entered := j.entered + 1 } }) := by
  have hgo : ¬ (decide (j.keys.length ≤ j.entered) || s.droopHold s.cur.subject || (s.op? j.op).any Op.replay) = true := by
    rw [hdroop, decide_eq_false (by omega)]
    cases ho : s.op? j.op with
    | none => simp
    | some o => simp [hreplay o ho]
  show execSortKeyEnter s = _
  unfold execSortKeyEnter
  dsimp only
  rw [hk, hj]
  exact congrArg Host.Outcome.next (if_neg hgo)

/-- What a sort sends when its keys are in: the next pair, or the tokens of its end. -/
theorem exec_sortEmit {o : Op} {d1 d2 : Dest} (ho : s.op? j.op = some o) (hreplay : o.replay = false) (hin : j.keys.length ≤ j.entered)
    (hp1 : (s.cell s.cur.subject).port 1 = [d1]) (hp2 : (s.cell s.cur.subject).port 2 = [d2])
    (h1 : k.cellAt d1.x d1.y = s.cur.subject) (h2 : k.cellAt d2.x d2.y = s.cur.subject)
    (hs1 : s.space k [d1] = true) (hs2 : s.space k [d2] = true) :
    exec .sortEmit s = .next ((s.payEngine k s.cur.subject (4096 + j.op) 0).step k.id fun u =>
      match j.order[j.emitted]? with
      | some q => (u.pairSent k s.cur.subject d1 d2 { val := BitVec.ofNat 32 q.2 } { val := BitVec.ofNat 32 ((j.ibase + q.1) % 2 ^ 16) }).updMx
          s.cur.subject fun m => { m with sort := some { j with emitted := j.emitted + 1 } }
      | none => ((u.pairSent k s.cur.subject d1 d2 { val := BitVec.ofNat 32 j.keys.length, tag := 5 }
          { val := BitVec.ofNat 32 j.keys.length, tag := 5 }).updMx s.cur.subject fun m => { m with sort := none }).writeback o) := by
  have hgo : ¬ (decide (j.entered < j.keys.length) || o.replay || !s.space k [d1] || !s.space k [d2]) = true := by
    rw [hreplay, hs1, hs2, decide_eq_false (by omega)]
    decide
  show execSortEmit s = _
  unfold execSortEmit
  dsimp only
  rw [hk, hj]
  dsimp only
  rw [ho]
  dsimp only
  rw [hp1, hp2, crossings_within h1, crossings_within h2]
  refine congrArg Host.Outcome.next ((if_neg hgo).trans ?_)
  cases hq : j.order[j.emitted]? with
  | none => rfl
  | some q => rfl

end

/-- The writeback of an operation that has no result and orders nothing leaves every queue. -/
theorem queueAt_writeback_silent (s : State) (o : Op) (hop : o.opc = 0xC6) {c : Nat} {d : Dest} (hedge : isEdge c d.e = false) :
    (s.writeback o).queueAt c d = s.queueAt c d := by
  have hsrc : (rdSrc o.f.src1).result = false := by
    unfold rdSrc rdG
    split
    · rfl
    · split
      · rfl
      · rfl
  have hresult : (needsOf o.opc o.f).result = false := by
    rw [needsOf_result, hop]
    simp [engNeeds, hsrc]
  have hnone : s.tokensOfOp o = [] := by
    unfold State.tokensOfOp dstOut orderOut
    rw [hresult, hop]
    rfl
  rw [queueAt_eq hedge, queueAt_eq hedge, State.writeback_inputAt s o (by omega) (by omega), hnone]
  simp [Input.entered]

/-! ### The scan unit (R199, R418) -/

theorem cell_updScan_self (s : State) (c : Nat) (f : Scan → Scan) : ((s.updScan c f).cell c).scan = f (s.cell c).scan := by
  unfold State.updScan
  rw [State.cell_updCell, if_pos rfl]

section
variable {s : State} {k : Task} (hk : s.engineTask s.cur.subject 13 = some k) (hbusy : (s.cell s.cur.subject).scan.busy = true)
  (hgate : k.gate = .none) (hnone : (s.cell s.cur.subject).scan.op = none)
include hk hbusy hgate hnone

/-- The turn of a scan unit that reads no block: its next block, or its end. -/
theorem exec_scanToken_idle : exec .scanToken s = .next (
    if (s.cell s.cur.subject).scan.read < (s.cell s.cur.subject).scan.n then s.scanBegin k s.cur.subject (s.cell s.cur.subject).scan
    else s.scanEnd k s.cur.subject (s.cell s.cur.subject).scan) := by
  have hgo : ¬ (!(s.cell s.cur.subject).scan.busy || k.gate != .none) = true := by
    rw [hbusy, hgate]
    decide
  show execScanToken s = _
  unfold execScanToken
  dsimp only
  rw [hk]
  dsimp only
  rw [if_neg hgo, hnone]

end

/-- The read that the scan unit of a cell begins. -/
def State.scanRead (s : State) (k : Task) (c : Nat) (q : Scan) : Op :=
  { id := s.clock.nextId, inj := s.clock.nextId, sent := s.clock.tick, cell := c, elem := scanElem, opc := 0x100, task := k.id, spad := q.spad,
    ea := q.pos, len := 64 }

theorem scanBegin_sound {s : State} {k : Task} {c : Nat} {q : Scan} (hpos : ∀ m, q.spad = some m → q.pos < 2 ^ 20)
    (hbind : s.bindCheck k { spad := q.spad, ea := q.pos } 64 .load = none) :
    s.scanBegin k c q = ({ s.fresh.2 with ops := s.ops ++ [s.scanRead k c q] } : State).updScan c fun q => { q with op := some s.clock.nextId } := by
  have hin : ¬ (q.spad.isSome = true ∧ 2 ^ 20 ≤ q.pos) := by
    rintro ⟨hspad, hle⟩
    obtain ⟨m, hm⟩ := Option.isSome_iff_exists.1 hspad
    exact absurd (hpos m hm) (by omega)
  unfold State.scanBegin
  rw [if_neg hin, hbind]
  rfl

/-- The closing token of a scan leaves where its port has space within the cell. -/
theorem scanEnd_within {s : State} {k : Task} {c : Nat} {q : Scan} {d : Dest} (hport : (s.cell c).port 3 = [d])
    (hd : k.cellAt d.x d.y = c) (hspace : s.space k [d] = true) :
    s.scanEnd k c q = (s.payEngine k c 13 0).step k.id fun u =>
      (u.send k c [d] { val := BitVec.ofNat 32 q.emitted, tag := 5 }).updScan c fun q => { q with busy := false, op := none } := by
  unfold State.scanEnd
  dsimp only
  rw [hport, hspace, crossings_within hd]
  rfl

end Sys2Proof.Machine

namespace Sys2Proof.Proofs
open Sys2Proof.Machine

/-- Settles O39: each step of a sort and of a scan goes on from the state in which its debit is made, to its tokens or its read. -/
theorem sortAndScanStep : Obligations.SortAndScanStep := by
  unfold Obligations.SortAndScanStep
  intro s k
  refine ⟨?_, ?_, ?_⟩
  · intro j hk hj
    refine ⟨?_, ?_, ?_⟩
    · intro hlt hdroop hreplay hpays
      obtain ⟨u, hstep, ⟨hdev, heng, -⟩, hpaid⟩ := MeterPays.step hpays fun u =>
        u.updMx s.cur.subject fun m => { m with sort := some { j with entered := j.entered + 1 } }
      refine ⟨_, (exec_sortKeyEnter hk hj hlt hdroop hreplay).trans (congrArg Host.Outcome.next hstep), ?_,
        hdev.trans (updMx_sameDevice _ _ _), MeterPaid.keeps hpaid (by rw [cell_updMx_self])⟩
      rw [cell_updMx_self, ← (engines_matrix (heng s.cur.subject)).1]
    · intro o d1 d2 q ho hreplay hin hp1 hp2 h1 h2 hne hs1 hs2 hpays hq
      have hexec := exec_sortEmit hk hj ho hreplay hin hp1 hp2 h1.1 h2.1 hs1 hs2
      rw [hq] at hexec
      obtain ⟨u, hstep, hframe, -⟩ := MeterPays.step hpays fun u =>
        (u.pairSent k s.cur.subject d1 d2 { val := BitVec.ofNat 32 q.2 } { val := BitVec.ofNat 32 ((j.ibase + q.1) % 2 ^ 16) }).updMx
          s.cur.subject fun m => { m with sort := some { j with emitted := j.emitted + 1 } }
      obtain ⟨hq1, hq2, hmx, hdev⟩ := pairSent_facts hframe h1 h2 hne { val := BitVec.ofNat 32 q.2 }
        { val := BitVec.ofNat 32 ((j.ibase + q.1) % 2 ^ 16) }
      refine ⟨_, hexec.trans (congrArg Host.Outcome.next hstep), ?_, ?_, ?_, hdev.trans (updMx_sameDevice _ _ _)⟩
      · exact (queueAt_updCell _ rfl).trans hq1
      · exact (queueAt_updCell _ rfl).trans hq2
      · rw [cell_updMx_self, hmx]
    · intro o d1 d2 ho hop hreplay hin hp1 hp2 h1 h2 hne hs1 hs2 hpays hq
      have hexec := exec_sortEmit hk hj ho hreplay hin hp1 hp2 h1.1 h2.1 hs1 hs2
      rw [hq] at hexec
      obtain ⟨u, hstep, hframe, -⟩ := MeterPays.step hpays fun u =>
        ((u.pairSent k s.cur.subject d1 d2 { val := BitVec.ofNat 32 j.keys.length, tag := 5 }
          { val := BitVec.ofNat 32 j.keys.length, tag := 5 }).updMx s.cur.subject fun m => { m with sort := none }).writeback o
      obtain ⟨hq1, hq2, -, hdev⟩ := pairSent_facts hframe h1 h2 hne { val := BitVec.ofNat 32 j.keys.length, tag := 5 }
        { val := BitVec.ofNat 32 j.keys.length, tag := 5 }
      obtain ⟨hmem, -, -⟩ := SameDevice.memory hdev
      refine ⟨_, hexec.trans (congrArg Host.Outcome.next hstep), ?_, ?_, ?_, fun p hp => ?_, (State.writeback_mem _ _).1.trans hmem⟩
      · exact (queueAt_writeback_silent _ o hop h1.2).trans ((queueAt_updCell _ rfl).trans hq1)
      · exact (queueAt_writeback_silent _ o hop h2.2).trans ((queueAt_updCell _ rfl).trans hq2)
      · rw [(State.writeback_matrix _ _ _).1, cell_updMx_self]
      · rw [State.writeback_ops, State.op?_id ho] at hp
        simpa using (List.mem_filter.1 hp).2
  · intro hk hbusy hgate hnone hpos hread hbind
    have hexec := exec_scanToken_idle hk hbusy hgate hnone
    rw [if_pos hread, scanBegin_sound hpos hbind] at hexec
    exact ⟨_, hexec, rfl, cell_updScan_self _ _ _, rfl⟩
  · intro d hk hbusy hgate hnone hread hport hd hspace hpays
    have hexec := exec_scanToken_idle hk hbusy hgate hnone
    rw [if_neg (by omega), scanEnd_within hport hd.1 hspace] at hexec
    obtain ⟨u, hstep, hframe, -⟩ := MeterPays.step hpays fun u =>
      (u.send k s.cur.subject [d] { val := BitVec.ofNat 32 (s.cell s.cur.subject).scan.emitted, tag := 5 }).updScan s.cur.subject
        fun q => { q with busy := false, op := none }
    obtain ⟨hmem, hops, -⟩ := SameDevice.memory (hframe.1.trans (send_keeps u k s.cur.subject [d]
      { val := BitVec.ofNat 32 (s.cell s.cur.subject).scan.emitted, tag := 5 }).1)
    refine ⟨_, hexec.trans (congrArg Host.Outcome.next hstep), ?_, ?_, hmem, hops⟩
    · exact (queueAt_updCell _ rfl).trans ((queueAt_send hd.1 hd.2 _).trans (congrArg (· ++ _) hframe.queueAt))
    · rw [cell_updScan_self]

end Sys2Proof.Proofs
end

section
/-! SUPPORT. An issue after a change of engines, the lanes of a register, and the spill map (R185, R284, R402); and O20. -/

namespace Sys2Proof.Machine

/-! ### A change of engines between a firing and its end -/

/-- Only the engines of cells differ: elements, channels and meters are as before. -/
def EngineChange (u v : State) : Prop :=
  { v with cells := u.cells } = u ∧ (∀ c e, v.elem c e = u.elem c e) ∧ (∀ c, (v.cell c).meter = (u.cell c).meter)
    ∧ ∀ c e i, v.inputAt c e i = u.inputAt c e i

/-- A change of a cell that keeps its elements, its meter and its edge ports is one of engines. -/
theorem engineChange_updCell (u : State) (c : Nat) {f : Cell → Cell} (helems : (f (u.cell c)).elems = (u.cell c).elems)
    (hmeter : (f (u.cell c)).meter = (u.cell c).meter) (hedges : (f (u.cell c)).edges = (u.cell c).edges) :
    EngineChange u (u.updCell c f) := by
  refine ⟨rfl, fun d e => State.elem_updCell_keeps u c d e f helems, fun d => ?_, State.inputAt_updCell_keeps u c f helems hedges⟩
  rw [State.cell_updCell]
  split
  next h => rw [hmeter, h]
  next => rfl

theorem EngineChange.trans {u v w : State} (h1 : EngineChange u v) (h2 : EngineChange v w) : EngineChange u w := by
  obtain ⟨hr1, he1, hm1, hi1⟩ := h1
  obtain ⟨hr2, he2, hm2, hi2⟩ := h2
  refine ⟨?_, fun c e => (he2 c e).trans (he1 c e), fun c => (hm2 c).trans (hm1 c), fun c e i => (hi2 c e i).trans (hi1 c e i)⟩
  have hrest := hr1
  rw [← hr2] at hrest
  exact hrest

theorem EngineChange.sameDevice {u v : State} (h : EngineChange u v) : SameDevice u v := by
  obtain ⟨hrest, -⟩ := h
  have hclock : v.clock = u.clock := by have := congrArg State.clock hrest; exact this
  have htasks : v.tasks = u.tasks := by have := congrArg State.tasks hrest; exact this
  have hsched : v.sched = u.sched := by have := congrArg State.sched hrest; exact this
  refine ⟨?_, by rw [htasks], by rw [hsched], by rw [hclock], by rw [hclock]⟩
  rw [← hclock, ← htasks, ← hsched]
  exact hrest

/-- An issue after a debit, a mark and a change of engines, seen from the state before the firing. -/
theorem issue_afterChange {s v : State} {x : Fire} {cost : Nat} (hready : s.ready x = true) (hafford : s.Affords x cost)
    (hchange : EngineChange ((s.debited x cost).fired x) v) (o : Op) :
    Issued s (v.issue x o) x o 0 ∧ IssueFrame s (v.issue x o) x cost ∧
      ∀ c, ((v.issue x o).cell c).engines = if c = x.c then
          { (v.cell c).engines with vec := { (v.cell c).vec with pendV := (v.cell c).vec.pendV ||| (destOf x.op x.f).v,
                                                                  pendM := (v.cell c).vec.pendM ||| (destOf x.op x.f).m } }
        else (v.cell c).engines := by
  obtain ⟨-, hframe⟩ := State.offer_affords hready hafford id
  obtain ⟨hdev, -, hstill, hins⟩ := State.debited_fired hframe
  obtain ⟨hrest, helem, hmeter, -⟩ := id hchange
  have hdevv : SameDevice s v := hdev.trans hchange.sameDevice
  have hel : (v.elem x.c x.e).still = (s.elem x.c x.e).still := by rw [helem, hstill]
  obtain ⟨hgreg, -, hpb, hsticky, heng, -⟩ := Elem.still_facts hel
  have hpendG : (v.elem x.c x.e).pendG = (s.elem x.c x.e).pendG := by have := congrArg Elem.pendG hel; exact this
  have hpendP : (v.elem x.c x.e).pendP = (s.elem x.c x.e).pendP := by have := congrArg Elem.pendP hel; exact this
  have hid : v.clock.nextId = s.clock.nextId := by
    have hclock : v.clock = ((s.debited x cost).fired x).clock := by have := congrArg State.clock hrest; exact this
    rw [hclock]
    exact State.debited_nextId hready hafford
  obtain ⟨-, hops, -⟩ := SameDevice.memory hdevv
  obtain ⟨iops, ipendG, ipendP, iq, igreg, ipb, isticky, ieng, idev, ielems, iengines⟩ := State.issue_spec v x o
  refine ⟨⟨?_, by rw [ipendG, hpendG], by rw [ipendP, hpendP], fun i hi => ?_, fun d => ?_, ipb.trans hpb, isticky.trans hsticky,
    ieng.trans heng⟩, ⟨?_, fun c e hce => ?_, ?_⟩, iengines⟩
  · rw [iops, hops, hid, hdevv.2.2.2.1]
  · rw [iq i hi, helem]
    simp only [Elem.input, hins]
  · have hzero : (s.elem x.c x.e).greg d + BitVec.ofNat 32 0 = (s.elem x.c x.e).greg d := BitVec.add_zero _
    rw [igreg, hgreg, hzero, ite_self]
  · rw [hops] at idev
    exact hdevv.trans idev
  · rw [ielems c e hce, helem]
    exact hstill c e
  · exact (State.debited_debits hready hafford).keeps ((State.issue_meter _ _ _ _).trans (hmeter _))

/-- The vector destinations of an operation are those of its class; the predicate of PMODE adds none. -/
theorem destOf_vector (op : Nat) (f : Slot) :
    (destOf op f).v = (if op < 0x80 then memDest op f else if op < 0xC0 then vecDest op f else engDest op f).v
      ∧ (destOf op f).m = (if op < 0x80 then memDest op f else if op < 0xC0 then vecDest op f else engDest op f).m := by
  unfold destOf
  by_cases h : f.pmode = 0
  · rw [if_pos h]
    exact ⟨rfl, rfl⟩
  · rw [if_neg h]
    exact ⟨BitVec.or_zero, BitVec.or_zero⟩

/-- An operation without a vector destination leaves the engines, under its issue, as the change made them. -/
theorem issue_afterChange_engines {s v : State} {x : Fire} {cost : Nat} (hready : s.ready x = true) (hafford : s.Affords x cost)
    (hchange : EngineChange ((s.debited x cost).fired x) v) (o : Op) (hdest : (destOf x.op x.f).v = 0 ∧ (destOf x.op x.f).m = 0) (c : Nat) :
    ((v.issue x o).cell c).engines = (v.cell c).engines := by
  obtain ⟨-, -, hengines⟩ := issue_afterChange hready hafford hchange o
  rw [hengines c, hdest.1, hdest.2, BitVec.ofNat_eq_ofNat, BitVec.ofNat_eq_ofNat, BitVec.or_zero, BitVec.or_zero]
  split
  · rfl
  · rfl

/-! ### Lanes -/

/-- The word that holds some lanes of b bits, the first one lowest. -/
def packed (b : Nat) (ls : List Nat) : Nat := ls.foldr (fun x acc => x % 2 ^ b + 2 ^ b * acc) 0

theorem packed_lt (b : Nat) : ∀ ls : List Nat, packed b ls < 2 ^ (b * ls.length)
  | [] => by simp [packed]
  | x :: ls => by
    have ih := packed_lt b ls
    have hx : x % 2 ^ b < 2 ^ b := Nat.mod_lt _ (Nat.two_pow_pos b)
    have hstep : packed b (x :: ls) = x % 2 ^ b + 2 ^ b * packed b ls := rfl
    have hpow : 2 ^ (b * (x :: ls).length) = 2 ^ b * 2 ^ (b * ls.length) := by
      rw [← Nat.pow_add, List.length_cons, Nat.mul_succ, Nat.add_comm]
    rw [hstep, hpow]
    calc x % 2 ^ b + 2 ^ b * packed b ls < 2 ^ b + 2 ^ b * packed b ls := Nat.add_lt_add_right hx _
      _ = 2 ^ b * (packed b ls + 1) := by ring
      _ ≤ 2 ^ b * 2 ^ (b * ls.length) := Nat.mul_le_mul_left _ ih

theorem packed_lane (b : Nat) : ∀ (ls : List Nat) (i : Nat), packed b ls / 2 ^ (b * i) % 2 ^ b = ls.getD i 0 % 2 ^ b
  | [], i => by simp [packed]
  | x :: ls, 0 => by
    have hstep : packed b (x :: ls) = x % 2 ^ b + 2 ^ b * packed b ls := rfl
    rw [hstep, Nat.mul_zero, Nat.pow_zero, Nat.div_one, Nat.add_mul_mod_self_left, Nat.mod_mod]
    rfl
  | x :: ls, i + 1 => by
    have hstep : packed b (x :: ls) = x % 2 ^ b + 2 ^ b * packed b ls := rfl
    have hx : x % 2 ^ b / 2 ^ b = 0 := Nat.div_eq_of_lt (Nat.mod_lt _ (Nat.two_pow_pos b))
    have hpow : 2 ^ (b * (i + 1)) = 2 ^ b * 2 ^ (b * i) := by rw [← Nat.pow_add, Nat.mul_succ, Nat.add_comm]
    rw [hstep, hpow, ← Nat.div_div_eq_div_mul, Nat.add_mul_div_left _ _ (Nat.two_pow_pos b), hx, Nat.zero_add, packed_lane b ls i]
    rfl

/-- A number that fits a width is its value there. -/
theorem toNat_ofNat_fits {w n : Nat} (h : n < 2 ^ w) : (BitVec.ofNat w n).toNat = n :=
  (BitVec.toNat_ofNat _ _).trans (Nat.mod_eq_of_lt h)

/-- A lane of a register made of 32 words is its word. -/
theorem laneAt_ofLanes (w : Nat → Word) {i : Nat} (hi : i < 32) :
    laneAt 0 (ofLanes 0 ((upTo 32).map fun i => (w i).toNat)) i = (w i).toNat := by
  have hlt : packed 32 ((upTo 32).map fun i => (w i).toNat) < 2 ^ 1024 := by
    refine lt_of_lt_of_eq (packed_lt _ _) ?_
    rw [List.length_map, upTo, List.length_range]
  have hword : ((upTo 32).map fun i => (w i).toNat).getD i 0 = (w i).toNat := by
    simp [upTo, List.getD_eq_getElem?_getD, hi]
  have hreg : (ofLanes 0 ((upTo 32).map fun i => (w i).toNat)).toNat = packed 32 ((upTo 32).map fun i => (w i).toNat) :=
    toNat_ofNat_fits hlt
  unfold laneAt
  rw [hreg]
  refine (packed_lane 32 _ i).trans ?_
  rw [hword]
  exact Nat.mod_eq_of_lt (w i).isLt

/-- A lane of a register in the list of its lanes. -/
theorem lanesOf_getD (v : BitVec 1024) {i : Nat} (hi : i < 32) : (lanesOf 0 v).getD i 0 = laneAt 0 v i := by
  have hcount : laneCount 0 = 32 := rfl
  unfold lanesOf laneAt
  simp [upTo, List.getD_eq_getElem?_getD, hcount, hi, natField]

/-! ### The spill map (R185, R402) -/

/-- A VPARK leaves nothing of the vector pipe pending. -/
theorem destOf_vpark (f : Slot) : (destOf 0xA5 f).v = 0 ∧ (destOf 0xA5 f).m = 0 := destOf_vector 0xA5 f

/-- A VUNPARK leaves its register pending. -/
theorem destOf_vunpark (f : Slot) : (destOf 0xA6 f).v = 1#16 <<< f.dst.toNat ∧ (destOf 0xA6 f).m = 0 := destOf_vector 0xA6 f

/-- What lets a VPARK of register a into a column and quarter pass (R402). -/
theorem parkRefused_false {cl : Cell} {a col q : Nat} (hcol : col ≤ 127) (hrules : ∀ p ∈ cl.mx.rules, p.2.region.hasColumn col = false)
    (hspill : ∀ p ∈ cl.vec.spill, ¬ (p.2.col = col ∧ p.2.quarter = q) ∧ p.2.reg ≠ a) (hfull : cl.vec.spill.length < 16) :
    parkRefused cl a col q = false := by
  have hr : (cl.mx.rules.any fun p => p.2.region.hasColumn col) = false := List.any_eq_false.2 fun p hp => by simp [hrules p hp]
  have hs : (cl.vec.spill.any fun p => (p.2.col == col && p.2.quarter == q) || p.2.reg == a) = false :=
    List.any_eq_false.2 fun p hp => by simpa using hspill p hp
  unfold parkRefused
  rw [hr, hs, decide_eq_false (by omega), decide_eq_false (by omega)]
  rfl

/-- The lowest free entry of the spill map. -/
theorem spillFree {m : AMap Spill} {n : Nat} (hn : n < 16) (hfree : mfind m n = none) (hlow : ∀ j < n, mfind m j ≠ none) :
    (upTo 16).find? (fun i => (mfind m i).isNone) = some n := by
  refine List.find?_range_eq_some.2 ⟨?_, List.mem_range.2 hn, fun j hj => ?_⟩
  · rw [hfree]
    rfl
  · have hsome : (mfind m j).isSome = true := Option.isSome_iff_ne_none.2 (hlow j hj)
    simpa using hsome

section
variable {cl : Cell} {n : Nat} (hn : n < 16) (hfree : mfind cl.vec.spill n = none) (hlow : ∀ j < n, mfind cl.vec.spill j ≠ none)
  (a col q : Nat)
include hn hfree hlow

/-- A parked register is entered in the lowest free entry, and nothing else of the vector pipe changes. -/
theorem parkReg_vec : (cl.parkReg a col q).vec =
    { cl.vec with spill := mset cl.vec.spill n { reg := a, col := col, quarter := q } } := by
  unfold Cell.parkReg
  dsimp only
  rw [spillFree hn hfree hlow]
  rfl

end

section
variable (cl : Cell) (a col q : Nat)

/-- Each lane of a parked register stands in its row of the column. -/
theorem parkReg_acc {i : Nat} (hi : i < 32) :
    mget (cl.parkReg a col q).mx.acc (128 * (32 * q + i) + col) 0 = BitVec.ofNat 32 (laneAt 0 (mget cl.vec.v a 0) i) := by
  have hkey : Function.Injective fun i : Nat => 128 * (32 * q + i) + col := fun a b h => by
    have heq : 128 * (32 * q + a) + col = 128 * (32 * q + b) + col := h
    omega
  refine (mget_foldl_put (fun m k j v => mget_mput m k j v 0) hkey (fun i => BitVec.ofNat 32 ((lanesOf 0 (cl.vec.reg a)).getD i 0))
    (upTo 32) cl.mx.acc i).trans ?_
  rw [if_pos (show i ∈ upTo 32 from List.mem_range.2 hi), lanesOf_getD _ hi]
  rfl

/-- Every other word of the accumulator array is as before. -/
theorem parkReg_acc_ne {j : Nat} (hj : ∀ i < 32, j ≠ 128 * (32 * q + i) + col) :
    mget (cl.parkReg a col q).mx.acc j 0 = mget cl.mx.acc j 0 :=
  mget_foldl_put_ne (fun m k j v => mget_mput m k j v 0) (fun i => 128 * (32 * q + i) + col)
    (fun i => BitVec.ofNat 32 ((lanesOf 0 (cl.vec.reg a)).getD i 0)) (fun i hi => (hj i (List.mem_range.1 hi)).symm) cl.mx.acc

/-- What parking does to the engines of a cell depends on them alone. -/
theorem parkReg_engines {cl' : Cell} (h : cl'.engines = cl.engines) : (cl'.parkReg a col q).engines = (cl.parkReg a col q).engines := by
  have hparked := congrArg (fun k : Cell => (k.parkReg a col q).engines) h
  exact hparked

/-- Parking changes nothing of a matrix engine but its accumulators. -/
theorem parkReg_mx : { (cl.parkReg a col q).mx with acc := cl.mx.acc } = cl.mx := rfl

end

/-- The firing of a VPARK that passes. -/
theorem exec_vpark {f : Slot} {s : State} {x : Fire} (hx : s.Fires 0xA5 f x) (ha : s.Affords x 48)
    (hpass : parkRefused (s.cell x.c) f.dst.toNat ((s.elem x.c x.e).greg (f.src1.toNat - 16)).toNat (f.src2.toNat % 4) = false) :
    exec (.vpark f) s = .next ((((s.debited x 48).fired x).updCell x.c fun cl =>
      cl.parkReg f.dst.toNat ((s.elem x.c x.e).greg (f.src1.toNat - 16)).toNat (f.src2.toNat % 4)).issue x
        { opOf x [BitVec.ofNat 32 ((s.elem x.c x.e).greg (f.src1.toNat - 16)).toNat, (mget (s.cell x.c).vec.v f.dst.toNat 0).truncate 32] with
          phase := .performed }) := by
  show execVpark f s = _
  unfold execVpark
  rw [State.fire_fires hx]
  dsimp only
  rw [hpass, if_neg Bool.false_ne_true, (State.offer_affords hx.2 ha _).1]
  rfl

/-- A cell with an entry of its spill map removed. -/
def Cell.unparked (n : Nat) (cl : Cell) : Cell := { cl with vec := { cl.vec with spill := mdel cl.vec.spill n } }

/-- The engines of a cell with an entry removed and a register pending, from those of before. -/
theorem unparked_engines {cl cl' : Cell} (h : cl'.engines = cl.engines) (n : Nat) (v : BitVec 16) :
    ({ (cl'.unparked n).engines with vec := { (cl'.unparked n).vec with
        pendV := (cl'.unparked n).vec.pendV ||| v, pendM := (cl'.unparked n).vec.pendM ||| 0 } } : Cell) =
      { (cl.unparked n).engines with vec := { (cl.unparked n).vec with pendV := cl.vec.pendV ||| v } } := by
  have hmask : ∀ k : Cell, (k.unparked n).vec.pendM ||| 0 = k.vec.pendM := fun k => BitVec.or_zero
  rw [hmask]
  have hparts := congrArg (fun k : Cell => { (k.unparked n).engines with vec := { (k.unparked n).vec with pendV := k.vec.pendV ||| v } }) h
  exact hparts

/-- The operation of a VUNPARK, with the words of its rows as its result. -/
def Fire.unparkOp (x : Fire) (acc : AMap Word) (p : Spill) : Op :=
  { opOf x [] with
    phase := .performed
    vres := ofLanes 0 ((upTo 32).map fun i => (mget acc (128 * (32 * p.quarter + i) + p.col) 0).toNat) }

/-- The firing of a VUNPARK of a register that is parked. -/
theorem exec_vunpark {f : Slot} {s : State} {x : Fire} {n : Nat} {p : Spill} (hx : s.Fires 0xA6 f x) (ha : s.Affords x 48)
    (hp : ((s.cell x.c).vec.spill.find? fun e => e.2.reg == f.dst.toNat) = some (n, p)) :
    exec (.vunpark f) s = .next ((((s.debited x 48).fired x).updCell x.c (Cell.unparked n)).issue x
      (x.unparkOp (s.cell x.c).mx.acc p)) := by
  show execVunpark f s = _
  unfold execVunpark
  rw [State.fire_fires hx]
  dsimp only
  rw [hp]
  dsimp only
  rw [(State.offer_affords hx.2 ha _).1]
  rfl

/-- Between a firing and its end the engines of every cell are those of before. -/
theorem debited_engines {s : State} {x : Fire} {cost : Nat} (hready : s.ready x = true) (hafford : s.Affords x cost) :
    SameEngines s ((s.debited x cost).fired x) :=
  (State.debited_fired (State.offer_affords hready hafford id).2).2.1

end Sys2Proof.Machine

namespace Sys2Proof.Proofs
open Sys2Proof.Machine

/-- Settles O20: an issue after the change that parks or takes back a register, whose lanes and rows are the same words. -/
theorem vectorParkCompletes : Obligations.VectorParkCompletes := by
  unfold Obligations.VectorParkCompletes
  intro f s x
  refine ⟨?_, ?_⟩
  · intro n
    dsimp only
    intro hx ha hcol hrules hspill hn hfree hlow hfull
    obtain ⟨hop, hf, -⟩ := hx.site
    obtain ⟨col, hcolEq⟩ : ∃ col, col = ((s.elem x.c x.e).greg (f.src1.toNat - 16)).toNat := ⟨_, rfl⟩
    have hexec := exec_vpark hx ha (parkRefused_false hcol hrules hspill hfull)
    rw [← hcolEq] at hexec ⊢
    have heng := debited_engines hx.2 ha
    obtain ⟨hmx, -, hvec⟩ := engines_matrix (heng x.c)
    have hchange : EngineChange ((s.debited x 48).fired x)
        (((s.debited x 48).fired x).updCell x.c fun cl => cl.parkReg f.dst.toNat col (f.src2.toNat % 4)) :=
      engineChange_updCell _ x.c rfl rfl rfl
    obtain ⟨hissued, hframe, -⟩ := issue_afterChange hx.2 ha hchange
      { opOf x [BitVec.ofNat 32 col, (mget (s.cell x.c).vec.v f.dst.toNat 0).truncate 32] with phase := .performed }
    have hengines := issue_afterChange_engines hx.2 ha hchange
      { opOf x [BitVec.ofNat 32 col, (mget (s.cell x.c).vec.v f.dst.toNat 0).truncate 32] with phase := .performed }
      (by rw [hop, hf]; exact destOf_vpark f)
    obtain ⟨t, ht⟩ : ∃ t, t = (((s.debited x 48).fired x).updCell x.c fun cl =>
      cl.parkReg f.dst.toNat col (f.src2.toNat % 4)).issue x
        { opOf x [BitVec.ofNat 32 col, (mget (s.cell x.c).vec.v f.dst.toNat 0).truncate 32] with phase := .performed } := ⟨_, rfl⟩
    rw [← ht] at hexec hissued hframe hengines
    have hself : (t.cell x.c).engines = ((s.cell x.c).parkReg f.dst.toNat col (f.src2.toNat % 4)).engines := by
      rw [hengines, State.cell_updCell, if_pos rfl]
      exact parkReg_engines _ _ _ _ (heng x.c)
    obtain ⟨hmx, -, hvec⟩ := engines_matrix hself
    have hspills := parkReg_vec hn hfree hlow f.dst.toNat col (f.src2.toNat % 4)
    rw [hspills] at hvec
    have hmxKeeps := parkReg_mx (s.cell x.c) f.dst.toNat col (f.src2.toNat % 4)
    refine ⟨t, hexec, hissued, hframe, ?_, fun j hj => ?_, fun i hi => ?_, fun j hj => ?_, ?_, ?_, fun c hc => ?_, ?_⟩
    · rw [hvec]
      exact (mfind_mset _ _ _ _).trans (if_pos rfl)
    · rw [hvec]
      exact (mfind_mset _ _ _ _).trans (if_neg hj)
    · rw [hmx]
      exact parkReg_acc _ _ _ _ hi
    · rw [hmx]
      exact parkReg_acc_ne _ _ _ _ hj
    · rw [hvec]
    · rw [hmx]
      exact hmxKeeps
    · rw [hengines, State.cell_updCell, if_neg hc]
      exact heng c
    · have hrest := congrArg (fun cl : Cell => { cl with vec := (s.cell x.c).vec, mx := (s.cell x.c).mx }) hself
      exact hrest
  · intro n p hx ha hp
    obtain ⟨hop, hf, -⟩ := hx.site
    have heng := debited_engines hx.2 ha
    have hchange : EngineChange ((s.debited x 48).fired x) (((s.debited x 48).fired x).updCell x.c (Cell.unparked n)) :=
      engineChange_updCell _ x.c rfl rfl rfl
    obtain ⟨hissued, hframe, hengines⟩ := issue_afterChange hx.2 ha hchange (x.unparkOp (s.cell x.c).mx.acc p)
    have hexec := exec_vunpark hx ha hp
    obtain ⟨t, ht⟩ : ∃ t, t = (((s.debited x 48).fired x).updCell x.c (Cell.unparked n)).issue x (x.unparkOp (s.cell x.c).mx.acc p) :=
      ⟨_, rfl⟩
    rw [← ht] at hexec hissued hframe hengines
    have hself : (t.cell x.c).engines = { ((s.cell x.c).unparked n).engines with
        vec := { ((s.cell x.c).unparked n).vec with pendV := (s.cell x.c).vec.pendV ||| 1#16 <<< f.dst.toNat } } := by
      obtain ⟨hv, hm⟩ := destOf_vunpark f
      rw [hengines, if_pos rfl, State.cell_updCell, if_pos rfl, hop, hf, hv, hm]
      exact unparked_engines (heng x.c) n _
    obtain ⟨hmx, -, hvec⟩ := engines_matrix (b := { (s.cell x.c).unparked n with
      vec := { ((s.cell x.c).unparked n).vec with pendV := (s.cell x.c).vec.pendV ||| 1#16 <<< f.dst.toNat } }) hself
    refine ⟨t, x.unparkOp (s.cell x.c).mx.acc p, hexec, hissued, hframe, rfl, fun i hi => ?_, ?_, fun j hj => ?_, ?_, ?_, hmx,
      fun c hc => ?_, ?_⟩
    · exact laneAt_ofLanes (fun i => mget (s.cell x.c).mx.acc (128 * (32 * p.quarter + i) + p.col) 0) hi
    · rw [hvec]
      exact (mfind_mdel _ _ _).trans (if_pos rfl)
    · rw [hvec]
      exact (mfind_mdel _ _ _).trans (if_neg hj)
    · rw [hvec]
      rfl
    · rw [hvec]
    · rw [hengines, if_neg hc, State.cell_updCell, if_neg hc]
      exact heng c
    · have hrest := congrArg (fun cl : Cell => { cl with vec := (s.cell x.c).vec, mx := (s.cell x.c).mx }) hself
      exact hrest

end Sys2Proof.Proofs
end

section
/-! SUPPORT. An engine operation that completes in its step, and what starts the converter and the scan unit (R199, R362, R415 to R420); and O23. -/

namespace Sys2Proof.Machine

/-! ### An engine operation that completes in its step, after a change of engines (R284, R362) -/

/-- A result written to an element that has the registers and outputs of another state's, whose channels are the same. -/
theorem Wrote.from_registers {s u t : State} {x : Fire} {r : Res} {tnt : Bool} (hgreg : (u.elem x.c x.e).greg = (s.elem x.c x.e).greg)
    (htaint : (u.elem x.c x.e).taint = (s.elem x.c x.e).taint) (hpb : (u.elem x.c x.e).pb = (s.elem x.c x.e).pb)
    (hsticky : (u.elem x.c x.e).sticky = (s.elem x.c x.e).sticky) (houts : (u.elem x.c x.e).outs = (s.elem x.c x.e).outs)
    (hin : ∀ c e i, u.inputAt c e i = s.inputAt c e i) (h : Wrote u t x r tnt) : Wrote s t x r tnt := by
  obtain ⟨h1, h2, h3, h4, h5⟩ := h
  rw [hgreg] at h1
  rw [htaint] at h2
  rw [hpb] at h3
  rw [hsticky] at h4
  refine ⟨h1, h2, h3, h4, fun c e i => ?_⟩
  have hsent := h5 c e i
  rw [hin, State.tokensOf_outs houts] at hsent
  exact hsent

/-- A status word in ENG is no change of a channel. -/
theorem inputAt_updEng (s : State) (d k : Nat) (w : Word) (c e i : Nat) :
    (s.updElem d k fun el => { el with eng := w }).inputAt c e i = s.inputAt c e i := by
  rw [State.inputAt_updElem]
  split
  next h =>
    obtain ⟨rfl, rfl, hedge⟩ := h
    rw [inputAt_input hedge]
    rfl
  next => rfl

/-- An engine operation that completes in its step after a debit, a mark and a change of engines, seen from the state before the
firing. -/
theorem finishEng_afterChange {s v : State} {x : Fire} {cost : Nat} (hready : s.ready x = true) (hafford : s.Affords x cost)
    (hchange : EngineChange ((s.debited x cost).fired x) v) (r : Res) (status : Nat) :
    WroteEng s (v.finishEng x r status) x r status ∧ EngFrame s (v.finishEng x r status) x
      ∧ (∀ c, ((v.finishEng x r status).cell c).engines = (v.cell c).engines) ∧ Debits s (v.finishEng x r status) x cost := by
  obtain ⟨-, hframe⟩ := State.offer_affords hready hafford id
  obtain ⟨hdev, -, hstill, -⟩ := State.debited_fired hframe
  obtain ⟨-, helem, hmeter, hinput⟩ := id hchange
  obtain ⟨w, hw⟩ : ∃ w, w = v.updElem x.c x.e fun el => { el with eng := engWord x.op x.k status } := ⟨_, rfl⟩
  have ht : v.finishEng x r status = w.finish x r x.tnt := by rw [hw]; rfl
  have hself : w.elem x.c x.e = { v.elem x.c x.e with eng := engWord x.op x.k status } := by
    rw [hw, State.elem_updElem, if_pos ⟨rfl, rfl⟩]
  have hother : ∀ c e, ¬ (c = x.c ∧ e = x.e) → w.elem c e = v.elem c e := fun c e hce => by rw [hw, State.elem_updElem, if_neg hce]
  have hin : ∀ c e i, w.inputAt c e i = s.inputAt c e i := fun c e i => by
    rw [hw, inputAt_updEng, hinput]
    exact State.debited_inputs hready hafford c e i
  have hwmeter : ∀ c, (w.cell c).meter = (v.cell c).meter := fun c => by
    rw [hw, State.cell_updElem]
    split
    next h => rw [h]
    next => rfl
  have hwengines : ∀ c, (w.cell c).engines = (v.cell c).engines := fun c => by
    rw [hw, State.cell_updElem]
    split
    next h => rw [h]; rfl
    next => rfl
  have hel : (v.elem x.c x.e).still = (s.elem x.c x.e).still := by rw [helem, hstill]
  obtain ⟨hgreg, htaint, hpb, hsticky, -, -, -, hfixed⟩ := Elem.still_facts hel
  have houts : (v.elem x.c x.e).outs = (s.elem x.c x.e).outs := by have := congrArg Elem.outs hel; exact this
  obtain ⟨hwrote, hdevice, hengines, helems, hrest⟩ := State.finish_spec w x r x.tnt
  have hwdev : SameDevice v w := by rw [hw]; exact ⟨rfl, rfl, rfl, rfl, rfl⟩
  rw [ht]
  refine ⟨⟨Wrote.from_registers ?_ ?_ ?_ ?_ ?_ hin hwrote, ?_⟩, ⟨((hdev.trans hchange.sameDevice).trans hwdev).trans hdevice,
    fun c e hce => ?_, ?_⟩, fun c => (hengines c).trans (hwengines c), ?_⟩
  · rw [hself, ← hgreg]
    rfl
  · rw [hself, ← htaint]
  · rw [hself, ← hpb]
  · rw [hself, ← hsticky]
  · rw [hself, ← houts]
  · have heng := congrArg Elem.eng hrest
    rw [hself] at heng
    exact heng
  · rw [helems c e hce, hother c e hce, helem]
    exact hstill c e
  · have hnow := congrArg (fun el : Elem => { el with eng := 0 }) hrest
    rw [hself] at hnow
    have hthen := congrArg (fun el : Elem => { el with eng := 0 }) hfixed
    exact Eq.trans hnow hthen
  · exact (State.debited_debits hready hafford).keeps
      ((State.finish_meter _ _ _ _ _).trans ((hwmeter _).trans (hmeter _)))

/-- Engines that come from those of before by a change that looks at nothing else of the cell. -/
theorem enginesBy_updCell {s u t : State} (h : SameEngines s u) (c : Nat) (g : Cell → Cell)
    (hg : ∀ a b : Cell, a.engines = b.engines → (g a).engines = (g b).engines)
    (ht : ∀ d, (t.cell d).engines = ((u.updCell c g).cell d).engines) : EnginesBy s t c g := by
  intro d
  rw [ht, State.cell_updCell]
  split
  next hd => rw [hd]; exact hg _ _ (h c)
  next => exact h d

/-! ### The converter (R198, R415, R416) -/

theorem natField_low (n k : Nat) : natField n 0 k = n % 2 ^ k := by
  unfold natField
  rw [Nat.pow_zero, Nat.div_one]

/-- A control word that breaks none of the rules of R415. -/
theorem convFault_none {w : Word} (h31 : w.toNat < 2 ^ 31) (htag : w.toNat / 2 ^ 19 % 8 ≠ 7) (hzero : w.toNat / 2 ^ 16 % 8 = 0)
    (hscale : w.toNat / 2 ^ 8 % 256 ≠ 0x80) (hfmt : numericFmt (natField w.toNat 0 8) = true) : convFault w = none := by
  have hbit : natBit w.toNat 31 = false := Nat.testBit_lt_two_pow h31
  unfold convFault
  dsimp only
  rw [if_neg, hfmt]
  · rfl
  · rintro (hb | ht | hz | hs)
    · exact absurd hb (by rw [hbit]; decide)
    · exact htag ht
    · exact hz hzero
    · exact hscale hs

/-- A stream whose blocks are all typed, and none poisoned, has no fault (R222, R224). -/
theorem streamFault_none {ok : Nat → Bool} : ∀ {bs : List Block} (i : Nat),
    (∀ b ∈ bs, tagPoison b.tag = false ∧ ok (tagFmt b.tag) = true) → streamFault ok i bs = none
  | [], _, _ => rfl
  | b :: bs, i, h => by
    obtain ⟨hpoison, hok⟩ := h b List.mem_cons_self
    have hblock : blockFault ok i b = none := by
      unfold blockFault
      rw [hpoison, hok]
      rfl
    unfold streamFault
    rw [hblock]
    exact streamFault_none (i + 1) fun a ha => h a (List.mem_cons_of_mem _ ha)

theorem anyTyped_iff (f : Nat) : anyTyped f = true ↔ numericFmt f = true ∨ f = 0x1F := by
  unfold anyTyped
  rw [Bool.or_eq_true, beq_iff_eq]

/-- The address of a conversion in memory, where its window names memory and its binding passes. -/
theorem convAddress_ok {s : State} {x : Fire} {n : Nat} {tg : Target}
    (haddr : windowAddr x.t x.c (natField x.a.toNat 28 2) (s.window x (natField x.a.toNat 28 2)) x.b 64 = .ok tg) (hspad : tg.spad = none)
    (hbind : s.bindCheck x.t tg (64 * n) .store = none) : s.convAddress x n = .ok tg := by
  unfold State.convAddress
  dsimp only
  rw [haddr]
  dsimp only
  rw [hspad, hbind]
  rfl

/-- A cell whose converter has begun a conversion of some blocks under a control word. -/
def Cell.convBegun (w id : Nat) (bs : List Block) (mem : Bool) (cl : Cell) : Cell :=
  { cl with
    conv := { cl.conv with
      fmt := natField w 0 8
      scale := natToInt 8 (natField w 8 8)
      tg := BitVec.ofNat 3 (natField w 19 3)
      index := 0
      job := some { op := id, blocks := bs, memMode := mem, dst := natField w 25 3 } } }

theorem convBegun_eq (w id : Nat) (bs : List Block) (mem : Bool) (cl : Cell) : cl.convBegun w id bs mem =
    { cl with
      conv := { cl.conv with
        fmt := w % 256
        scale := natToInt 8 (w / 2 ^ 8 % 256)
        tg := BitVec.ofNat 3 (w / 2 ^ 19 % 8)
        index := 0
        job := some { op := id, blocks := bs, memMode := mem, dst := w / 2 ^ 25 % 8 } } } := by
  unfold Cell.convBegun
  rw [natField_low]
  rfl

/-- What the beginning of a conversion does to the engines of a cell depends on them alone. -/
theorem convBegun_engines (w id : Nat) (bs : List Block) (mem : Bool) {a b : Cell} (h : a.engines = b.engines) :
    (a.convBegun w id bs mem).engines = (b.convBegun w id bs mem).engines := by
  have hbegun := congrArg (fun cl : Cell => (cl.convBegun w id bs mem).engines) h
  exact hbegun

theorem setTile_engines (i : Nat) (k : Tile) {a b : Cell} (h : a.engines = b.engines) :
    (a.setTile i k).engines = (b.setTile i k).engines := by
  have hset := congrArg (fun cl : Cell => (cl.setTile i k).engines) h
  exact hset

/-- The operation of a conversion with n blocks to write. -/
def Fire.convOp (x : Fire) (n ea len : Nat) : Op := { opOf x [x.a, x.b] with ea := ea, len := len, left := upTo n }

/-- A conversion to a slot begins: the slot is FILLING. -/
theorem convStart_slot (u : State) (x : Fire) (bs : List Block) (n : Nat) :
    u.convStart x bs n false 0 = ((u.updCell x.c (Cell.convBegun x.a.toNat u.clock.nextId bs false)).updCell x.c fun cl =>
      cl.setTile (natField x.a.toNat 25 3) { st := .filling, len := n }).issue x (x.convOp n 0 0) := rfl

theorem convStart_memory (u : State) (x : Fire) (bs : List Block) (n ea : Nat) :
    u.convStart x bs n true ea = (u.updCell x.c (Cell.convBegun x.a.toNat u.clock.nextId bs true)).issue x (x.convOp n ea (64 * n)) := rfl

/-- A result destination is no vector register and no mask. -/
theorem wrDst_vector (code : BitVec 5) : (wrDst code).v = 0 ∧ (wrDst code).m = 0 := by
  unfold wrDst
  split
  · exact ⟨rfl, rfl⟩
  · split
    · exact ⟨rfl, rfl⟩
    · exact ⟨rfl, rfl⟩

theorem destOf_cvcfg (f : Slot) : (destOf 0xC8 f).v = 0 ∧ (destOf 0xC8 f).m = 0 := by
  obtain ⟨hv, hm⟩ := destOf_vector 0xC8 f
  obtain ⟨hv0, hm0⟩ := wrDst_vector f.dst
  exact ⟨hv.trans hv0, hm.trans hm0⟩

section
variable {f : Slot} {s : State} {x : Fire} {bs : List Block} {n : Nat} (hx : s.Fires 0xC8 f x) (ha : s.Affords x 8)
  (hfault : convFault x.a = none) (hbs : bs = ((s.cell x.c).tile (natField x.a.toNat 22 3)).stream)
  (hn : n = convBlocks (natField x.a.toNat 0 8) bs) (hstream : streamFault anyTyped 0 bs = none)
include hx ha hfault hbs hn hstream

theorem exec_cvcfg_slot (hmem : natBit x.a.toNat 30 = false) (hfits : n ≤ 256) :
    exec (.cvcfg f) s = .next (((s.debited x 8).fired x).convStart x bs n false 0) := by
  show execCvcfg f s = _
  unfold execCvcfg
  rw [State.fire_fires hx]
  dsimp only
  rw [hfault]
  dsimp only
  rw [← hbs, ← hn, hstream]
  dsimp only
  rw [hmem, if_neg Bool.false_ne_true, if_neg (by omega), (State.offer_affords hx.2 ha _).1]

theorem exec_cvcfg_memory {tg : Target} (hmem : natBit x.a.toNat 30 = true) (haddr : s.convAddress x n = .ok tg) :
    exec (.cvcfg f) s = .next (((s.debited x 8).fired x).convStart x bs n true tg.ea) := by
  show execCvcfg f s = _
  unfold execCvcfg
  rw [State.fire_fires hx]
  dsimp only
  rw [hfault]
  dsimp only
  rw [← hbs, ← hn, hstream]
  dsimp only
  rw [hmem, if_pos rfl, haddr]
  dsimp only
  rw [(State.offer_affords hx.2 ha _).1]

theorem cvcfg_starts_slot (hmem : natBit x.a.toNat 30 = false) (hfits : n ≤ 256) :
    ∃ t, exec (.cvcfg f) s = .next t ∧ Issued s t x (x.convOp n 0 0) 0 ∧ IssueFrame s t x 8 ∧ EnginesBy s t x.c fun cl =>
      (cl.convBegun x.a.toNat s.clock.nextId bs false).setTile (natField x.a.toNat 25 3) { st := .filling, len := n } := by
  obtain ⟨hop, hf, -⟩ := hx.site
  have hexec := exec_cvcfg_slot hx ha hfault hbs hn hstream hmem hfits
  have hid : ((s.debited x 8).fired x).clock.nextId = s.clock.nextId := State.debited_nextId hx.2 ha
  rw [convStart_slot, hid] at hexec
  have hchange := (engineChange_updCell ((s.debited x 8).fired x) x.c (f := Cell.convBegun x.a.toNat s.clock.nextId bs false)
      rfl rfl rfl).trans (engineChange_updCell _ x.c (f := fun cl => cl.setTile (natField x.a.toNat 25 3) { st := .filling, len := n })
      rfl rfl rfl)
  obtain ⟨hissued, hframe, -⟩ := issue_afterChange hx.2 ha hchange (x.convOp n 0 0)
  refine ⟨_, hexec, hissued, hframe, fun d => ?_⟩
  rw [issue_afterChange_engines hx.2 ha hchange _ (by rw [hop, hf]; exact destOf_cvcfg f), State.cell_updCell]
  split
  next hd =>
    rw [State.cell_updCell, if_pos rfl, hd]
    exact setTile_engines _ _ (convBegun_engines _ _ _ _ (debited_engines hx.2 ha x.c))
  next hd =>
    rw [State.cell_updCell, if_neg hd]
    exact debited_engines hx.2 ha d

theorem cvcfg_starts_memory {tg : Target} (hmem : natBit x.a.toNat 30 = true) (haddr : s.convAddress x n = .ok tg) :
    ∃ t, exec (.cvcfg f) s = .next t ∧ Issued s t x (x.convOp n tg.ea (64 * n)) 0 ∧ IssueFrame s t x 8
      ∧ EnginesBy s t x.c (Cell.convBegun x.a.toNat s.clock.nextId bs true) := by
  obtain ⟨hop, hf, -⟩ := hx.site
  have hexec := exec_cvcfg_memory hx ha hfault hbs hn hstream hmem haddr
  have hid : ((s.debited x 8).fired x).clock.nextId = s.clock.nextId := State.debited_nextId hx.2 ha
  rw [convStart_memory, hid] at hexec
  have hchange := engineChange_updCell ((s.debited x 8).fired x) x.c (f := Cell.convBegun x.a.toNat s.clock.nextId bs true) rfl rfl rfl
  obtain ⟨hissued, hframe, -⟩ := issue_afterChange hx.2 ha hchange (x.convOp n tg.ea (64 * n))
  exact ⟨_, hexec, hissued, hframe, enginesBy_updCell (debited_engines hx.2 ha) x.c _ (fun a b h => convBegun_engines _ _ _ _ h)
    (issue_afterChange_engines hx.2 ha hchange _ (by rw [hop, hf]; exact destOf_cvcfg f))⟩

end

/-! ### The scan unit and TAGQ (R199, R418, R420) -/

/-- A cell whose scan unit stands at k. -/
def Cell.withScan (k : Scan) (cl : Cell) : Cell := { cl with scan := k }

theorem withScan_engines (k : Scan) {a b : Cell} (h : a.engines = b.engines) : (a.withScan k).engines = (b.withScan k).engines := by
  have hset := congrArg (fun cl : Cell => (cl.withScan k).engines) h
  exact hset

/-- The scan that a ZSCAN of a target with a format and a count starts. -/
def scanFrom (tg : Target) (g : Nat) : Scan :=
  { busy := true, spad := tg.spad, pos := tg.ea, fmt := natField g 24 8, n := natField g 0 24 }

theorem exec_zscan {f : Slot} {s : State} {x : Fire} {tg : Target} (hx : s.Fires 0xCA f x) (ha : s.Affords x 8)
    (haddr : windowAddr x.t x.c (lowWindow f) (s.window x (lowWindow f)) x.a 64 = .ok tg)
    (hn : natField ((s.elem x.c x.e).greg (f.src1.toNat + 1)).toNat 0 24 ≠ 0)
    (hfmt : numericFmt (natField ((s.elem x.c x.e).greg (f.src1.toNat + 1)).toNat 24 8) = true) :
    exec (.zscan f) s = .next ((((s.debited x 8).fired x).updCell x.c
      (Cell.withScan (scanFrom tg ((s.elem x.c x.e).greg (f.src1.toNat + 1)).toNat))).finishEng x {} 0) := by
  have hgo : ¬ (natField ((s.elem x.c x.e).greg (f.src1.toNat + 1)).toNat 0 24 = 0 ∨
      (!numericFmt (natField ((s.elem x.c x.e).greg (f.src1.toNat + 1)).toNat 24 8)) = true) := by
    rw [hfmt]
    simp [hn]
  show execZscan f s = _
  unfold execZscan
  rw [State.fire_fires hx]
  dsimp only
  rw [haddr]
  dsimp only
  rw [if_neg hgo, (State.offer_affords hx.2 ha _).1]
  rfl

theorem exec_tagq {f : Slot} {s : State} {x : Fire} {tg : Target} (hx : s.Fires 0xCC f x) (ha : s.Affords x 8)
    (haddr : windowAddr x.t x.c (lowWindow f) (s.window x (lowWindow f)) x.a 1 = .ok tg) :
    exec (.tagq f) s = .next (((s.debited x 8).fired x).issue x { opOf x [x.a] with spad := tg.spad, ea := tg.ea, len := 1 }) := by
  show execTagq f s = _
  unfold execTagq
  rw [State.fire_fires hx]
  dsimp only
  rw [haddr]
  dsimp only
  rw [(State.offer_affords hx.2 ha _).1]

theorem EngineChange.refl (u : State) : EngineChange u u := ⟨rfl, fun _ _ => rfl, fun _ => rfl, fun _ _ _ => rfl⟩

end Sys2Proof.Machine

namespace Sys2Proof.Proofs
open Sys2Proof.Machine

/-- Settles O23: the checks of each instruction pass, and its issue or end follows the change that starts its engine. -/
theorem converterAndScanStart : Obligations.ConverterAndScanStart := by
  unfold Obligations.ConverterAndScanStart
  intro f
  refine ⟨?_, ?_, ?_⟩
  · intro s x
    dsimp only
    intro hx ha h31 htag hzero hscale hfmt htyped
    obtain ⟨hop, hf, -⟩ := hx.site
    have hlow : natField x.a.toNat 0 8 = x.a.toNat % 256 := natField_low _ _
    have hfault : convFault x.a = none := convFault_none h31 htag hzero hscale (by rw [hlow]; exact hfmt)
    have hstream : streamFault anyTyped 0 ((s.cell x.c).tile (x.a.toNat / 2 ^ 22 % 8)).stream = none :=
      streamFault_none 0 fun b hb => ⟨(htyped b hb).1, (anyTyped_iff _).2 (htyped b hb).2⟩
    refine ⟨fun hmem hfits => ?_, fun tg hmem haddr hspad hbind => ?_⟩
    · obtain ⟨t, hexec, hissued, hframe, hengines⟩ := cvcfg_starts_slot hx ha hfault rfl (by rw [hlow]; rfl) hstream
        ((natBit_toNat _ _).trans hmem) hfits
      simp only [convBegun_eq] at hengines
      exact ⟨t, hexec, hissued, hframe, hengines⟩
    · obtain ⟨t, hexec, hissued, hframe, hengines⟩ := cvcfg_starts_memory hx ha hfault rfl (by rw [hlow]; rfl) hstream
        ((natBit_toNat _ _).trans hmem) (convAddress_ok haddr hspad hbind)
      refine ⟨t, hexec, hissued, hframe, fun d => ?_⟩
      rw [hengines d]
      dsimp only
      rw [convBegun_eq]
      rfl
  · intro tg s x hx ha hpre
    obtain ⟨haddr, hn, hfmt⟩ := hpre
    have hsize : natField ((s.elem x.c x.e).greg (f.src1.toNat + 1)).toNat 24 8
        = ((s.elem x.c x.e).greg (f.src1.toNat + 1)).toNat / 2 ^ 24 :=
      Nat.mod_eq_of_lt (by have := ((s.elem x.c x.e).greg (f.src1.toNat + 1)).isLt; omega)
    have hchange : EngineChange ((s.debited x 8).fired x) (((s.debited x 8).fired x).updCell x.c
        (Cell.withScan (scanFrom tg ((s.elem x.c x.e).greg (f.src1.toNat + 1)).toNat))) := engineChange_updCell _ x.c rfl rfl rfl
    have hscan : ({ busy := true, spad := tg.spad, pos := tg.ea, fmt := ((s.elem x.c x.e).greg (f.src1.toNat + 1)).toNat / 2 ^ 24,
                    n := ((s.elem x.c x.e).greg (f.src1.toNat + 1)).toNat % 2 ^ 24 } : Scan)
        = scanFrom tg ((s.elem x.c x.e).greg (f.src1.toNat + 1)).toNat := by
      unfold scanFrom
      rw [hsize, natField_low]
    obtain ⟨hwrote, hframe, hengines, hdebits⟩ := finishEng_afterChange hx.2 ha hchange {} 0
    refine ⟨_, exec_zscan hx ha haddr (by rw [natField_low]; exact hn) (by rw [hsize]; exact hfmt), ⟨hwrote, hframe, ?_⟩, hdebits⟩
    rw [hscan]
    exact enginesBy_updCell (debited_engines hx.2 ha) x.c _ (fun a b h => withScan_engines _ h) hengines
  · intro tg s x hx ha haddr
    obtain ⟨hop, hf, -⟩ := hx.site
    obtain ⟨hissued, hframe, hengines⟩ := issue_afterChange hx.2 ha (EngineChange.refl _)
      { opOf x [x.a] with spad := tg.spad, ea := tg.ea, len := 1 }
    refine ⟨_, exec_tagq hx ha haddr, hissued, hframe, fun d => ?_⟩
    have heng := debited_engines hx.2 ha d
    obtain ⟨-, -, hvec⟩ := engines_matrix heng
    rw [hengines, hop, hf, heng, hvec]
    split
    · rfl
    · rfl

end Sys2Proof.Proofs
end

section
/-! SUPPORT. A slot that becomes READY, the blocks of a conversion, and those of tile copies at a scratchpad (R198, R379, R380, R416); and O40. -/

namespace Sys2Proof.Machine

/-! ### A cell whose slot is READY from its next step on (R183, R379, R416) -/

theorem tile_setTile (cl : Cell) (i : Nat) (k : Tile) (j : Nat) : (cl.setTile i k).tile j = if j = i then k else cl.tile j :=
  mget_mset ..

/-- A slot that holds one block more, with a state. -/
def Tile.withBlock (k : Tile) (i : Nat) (b : Block) (st : TileSt) : Tile := { k with blocks := mset k.blocks i b, st := st }

theorem withBlock_block (k : Tile) (i : Nat) (b : Block) (st : TileSt) (n : Nat) :
    mget (k.withBlock i b st).blocks n {} = if n = i then b else mget k.blocks n {} := mget_mset ..

/-- A cell of which a slot is READY. -/
def Cell.slotDone (i : Nat) (cl : Cell) : Cell := cl.setTile i { cl.tile i with st := .ready }

/-- The state in which a cell's step ends with a slot READY. -/
def State.slotDone (s : State) (c i : Nat) : State := (s.endStep c).updCell c (Cell.slotDone i)

theorem slotDone_cell (s : State) (c i : Nat) : (s.slotDone c i).cell c = Cell.slotDone i { s.cell c with turned := none } :=
  endStep_updCell s c (Cell.slotDone i)

theorem slotDone_cell_ne (s : State) {c d : Nat} (i : Nat) (h : d ≠ c) : (s.slotDone c i).cell d = s.cell d := by
  unfold State.slotDone State.endStep
  rw [State.cell_updCell, if_neg h, State.cell_updCell, if_neg h]

/-- A slot that has been made READY keeps its blocks, and the cell's next turn begins a new step. -/
theorem slotDone_facts (s : State) (c i : Nat) :
    (((s.slotDone c i).cell c).tile i).st = .ready ∧ (((s.slotDone c i).cell c).tile i).blocks = ((s.cell c).tile i).blocks
      ∧ ∀ e, ((s.slotDone c i).cell c).newStep e = true := by
  rw [slotDone_cell]
  unfold Cell.slotDone
  rw [tile_setTile, if_pos rfl]
  exact ⟨rfl, rfl, newStep_of_turned rfl⟩

/-- Slots are no part of a scratchpad. -/
theorem slotDone_spad (s : State) (c i d : Nat) : ((s.slotDone c i).cell d).spad = (s.cell d).spad := by
  by_cases h : d = c
  · rw [h, slotDone_cell]
    rfl
  · rw [slotDone_cell_ne s i h]

/-! ### A conversion (R198, R416) -/

section
variable {s : State} {o : Op} {j : ConvJob} (ho : s.op? o.id = some o) (hreplay : o.replay = false)
  (hjob : (s.cell s.cur.subject).conv.job = some j) (hj : j.op = o.id) (htokens : j.tokens = [])
include ho hreplay hjob hj htokens

theorem exec_convertBlock {k : Task} (hk : s.task? o.task = some k) (hhalt : k.halted = false) (hcell : (s.cell s.cur.subject).halted = false)
    (hph : o.phase = .issued) (hlt : j.next < o.left.length) :
    exec .convertBlock s = .next (s.convWrite k o j) := by
  have htask : s.task o.task = k := by
    unfold State.task
    rw [hk]
    rfl
  have hgo : ¬ (o.replay || k.halted || (s.cell s.cur.subject).halted || o.phase == .held || o.phase == .waitSet) = true := by
    rw [hreplay, hhalt, hcell, hph]
    decide
  show execConvertBlock s = _
  unfold execConvertBlock
  dsimp only
  rw [hjob]
  dsimp only
  rw [hj, ho]
  dsimp only
  rw [htask, if_neg hgo, htokens]
  exact congrArg Host.Outcome.next (if_pos hlt)

theorem exec_convertComplete (hdone : o.left.length ≤ j.next) (hctl : mget (s.cell s.cur.subject).ctl 0x28 [] = []) :
    exec .convertComplete s = .next ((s.updConv s.cur.subject fun v => { v with job := none }).writeback
      { o with r := BitVec.ofNat 32 j.saturated, c := j.saturated != 0, sticky := j.sticky }) := by
  have hgo : ¬ (o.replay || !j.tokens.isEmpty || decide (j.next < o.left.length)) = true := by
    rw [hreplay, htokens, decide_eq_false (by omega)]
    decide
  have hsilent : (s.updConv s.cur.subject fun v => { v with job := none }).sendControl (s.task o.task) s.cur.subject 0x28
      = s.updConv s.cur.subject fun v => { v with job := none } := by
    unfold State.sendControl State.updConv
    rw [State.cell_updCell, if_pos rfl, hctl]
    rfl
  show execConvertComplete s = _
  unfold execConvertComplete
  dsimp only
  rw [hjob]
  dsimp only
  rw [hj, ho]
  dsimp only
  rw [if_neg hgo, hsilent]

end

/-- The cell of a conversion to a slot once its next block is written. -/
theorem convWrite_cell {s : State} {k : Task} {o : Op} {j : ConvJob} (hmem : j.memMode = false) :
    ∃ routed, s.convWrite k o j = (((s.endStep o.cell).updCell o.cell fun cl => cl.setTile j.dst ((cl.tile j.dst).withBlock j.next
        (((s.cell o.cell).conv.block j j.next).1) (if decide (j.next + 1 = o.left.length) = true then .ready else (cl.tile j.dst).st))).updConv
        o.cell fun w => w.wrote j routed) := by
  unfold State.convWrite
  dsimp only
  rw [hmem, if_neg Bool.false_ne_true]
  exact ⟨_, rfl⟩

/-- A converter after a block: one block further, with what it saturated and set. -/
theorem wrote_job (v : Conv) (j : ConvJob) (routed : Bool) : ∃ j', (v.wrote j routed).job = some j' ∧ j'.next = j.next + 1
    ∧ j'.saturated = j.saturated + (v.block j j.next).2.2.1 ∧ j'.sticky = j.sticky ||| (v.block j j.next).2.2.2 :=
  ⟨_, rfl, rfl, rfl, rfl⟩

theorem writeback_conv (s : State) (o : Op) (c : Nat) : ((s.writeback o).cell c).conv = (s.cell c).conv := by
  by_cases hc : c = o.cell
  · subst hc
    have hconv := congrArg Cell.conv (s.writeback_engines_self o)
    exact hconv
  · have hconv := congrArg Cell.conv (s.writeback_engines_ne o hc)
    exact hconv

/-- The register of DST holds the result of an operation of an opcode with a result destination, and every other register is kept. -/
theorem writeback_greg {s : State} {o : Op} (hop : o.opc = 0xC8) {d : Nat} (hd : d < 16) :
    ((s.writeback o).elem o.cell o.elem).greg d = if d = o.f.dst.toNat then o.r else (s.elem o.cell o.elem).greg d := by
  have hresult : (destOf o.opc o.f).result = true := by
    rw [destOf_result, hop]
    exact wrDst_result _
  obtain ⟨hg, -⟩ := (s.elem o.cell o.elem).writeBack_facts o (by omega) (by omega)
  obtain ⟨hquiet, -⟩ := Elem.quiet_facts (s.writeback_quiet o)
  have hgreg : ((s.writeback o).elem o.cell o.elem).greg d = ((s.elem o.cell o.elem).writeBack o (destOf o.opc o.f)).greg d := by
    unfold Elem.greg
    rw [hquiet]
  rw [hgreg, hg d hd]
  simp only [Op.writesG, hresult, or_true, and_true]

/-! ### The blocks of a tile copy (R379, R380) -/

section
variable {s : State} {o : Op} {k : Task} {m i : Nat} (hspad : o.spad = some m) (hph : o.phase = .issued)

include hspad hph in
/-- A block of a copy at a scratchpad that nothing stands before. -/
theorem blockAttempt_atSpad (hk : s.task? o.task = some k) (hi : i ∈ o.left) (hmay : s.mayGo o = true)
    (hlate : s.tooLate (s.arrivals k (o.oneBlock i)) = false)
    (hfirst : (s.arrive (s.arrivals k (o.oneBlock i))).servedFirst (o.oneBlock i) = false) (hret : s.retained (.spad m) = false)
    (go : Task → State → State) : s.blockAttempt o i go = go k (s.arrive (s.arrivals k (o.oneBlock i))) := by
  have hgo : ¬ (!(o.left.contains i) || o.phase == .waitSet || o.phase == .held || !s.mayGo o) = true := by
    rw [hmay, hph, List.contains_iff_mem.2 hi]
    decide
  unfold State.blockAttempt
  rw [hk]
  dsimp only
  rw [if_neg hgo, hspad]
  dsimp only
  rw [hret, if_neg Bool.false_ne_true, hlate, Bool.and_false, if_neg Bool.false_ne_true, hfirst, if_neg Bool.false_ne_true]

/-- The blocks that a copy has left after one of them. -/
def Op.leftAfter (o : Op) (i : Nat) : List Nat := o.left.filter fun n => n != i

/-- The state in which a copy has one block fewer to go. -/
def State.blockOff (s : State) (o : Op) (i : Nat) : State :=
  s.updOp o.id fun p => { p with left := o.leftAfter i, phase := .issued }

include hph in
theorem blockDone_eq (i : Nat) (last : State → State) :
    s.blockDone o i last = if (o.leftAfter i).isEmpty then last ((s.blockOff o i).perform o id) else s.blockOff o i := by
  unfold State.blockDone
  dsimp only
  rw [hph]
  rfl

theorem op?_blockOff (ho : s.op? o.id = some o) : (s.blockOff o i).op? o.id = some { o with left := o.leftAfter i, phase := .issued } :=
  State.op?_updOp ho fun _ => rfl

/-- An operation that is performed keeps the blocks that it has left. -/
theorem op?_perform {p : Op} (h : s.op? o.id = some p) : ∃ q, (s.perform o id).op? o.id = some q ∧ q.left = p.left ∧ q.phase = .performed :=
  ⟨_, State.op?_updOp (s := s.inject o.id) (State.op?_updOp (s := s.fresh.2) h fun _ => rfl) fun _ => rfl, rfl, rfl⟩

end

section
variable {s : State} {o : Op} (ho : s.op? o.id = some o) (hph : o.phase = .issued) (i c slot : Nat)
include ho hph

/-- After one block of a copy: the operation has it off its list, and the last one leaves it performed and the slot READY. -/
theorem blockDone_ready : let t := s.blockDone o i fun st => st.slotDone c slot
    (∃ p, t.op? o.id = some p ∧ p.left = o.leftAfter i
      ∧ (p.left = [] → p.phase = .performed ∧ ((t.cell c).tile slot).st = .ready ∧ ∀ e, (t.cell c).newStep e = true)
      ∧ (p.left ≠ [] → p.phase = .issued ∧ ((t.cell c).tile slot).st = ((s.cell c).tile slot).st))
    ∧ ((t.cell c).tile slot).blocks = ((s.cell c).tile slot).blocks ∧ (∀ d, (t.cell d).spad = (s.cell d).spad)
    ∧ { t with cells := s.cells, ops := s.ops, clock := { t.clock with nextId := s.clock.nextId } } = s := by
  intro t
  have ht : t = _ := blockDone_eq hph i fun st => st.slotDone c slot
  have hoff := op?_blockOff (i := i) ho
  by_cases hlast : (o.leftAfter i).isEmpty = true
  · have hnil : o.leftAfter i = [] := List.isEmpty_iff.1 hlast
    obtain ⟨q, hq, hleft, hperformed⟩ := op?_perform hoff
    obtain ⟨hready, hblocks, hstep⟩ := slotDone_facts ((s.blockOff o i).perform o id) c slot
    rw [if_pos hlast] at ht
    rw [ht]
    exact ⟨⟨q, hq, hleft, fun _ => ⟨hperformed, hready, hstep⟩, fun hne => absurd (hleft.trans hnil) hne⟩, hblocks,
      fun d => slotDone_spad _ c slot d, rfl⟩
  · have hne : o.leftAfter i ≠ [] := fun h => hlast (List.isEmpty_iff.2 h)
    rw [if_neg hlast] at ht
    rw [ht]
    exact ⟨⟨_, hoff, rfl, fun h => absurd h hne, fun _ => ⟨rfl, rfl⟩⟩, rfl, fun _ => rfl, rfl⟩

end

/-- The state in which a block stands in its slot. -/
def State.blockIn (s : State) (c slot i : Nat) (b : Block) : State :=
  s.updCell c fun cl => cl.setTile slot ((cl.tile slot).withBlock i b (cl.tile slot).st)

theorem blockIn_tile (s : State) (c slot i : Nat) (b : Block) :
    ((s.blockIn c slot i b).cell c).tile slot = ((s.cell c).tile slot).withBlock i b ((s.cell c).tile slot).st := by
  unfold State.blockIn
  rw [State.cell_updCell, if_pos rfl, tile_setTile, if_pos rfl]

section
variable {s : State} {o : Op} {k : Task} {m i : Nat} (ho : s.op? o.id = some o) (hspad : o.spad = some m) (hph : o.phase = .issued)
  (hk : s.task? o.task = some k) (hi : i ∈ o.left) (hmay : s.mayGo o = true) (hlate : s.tooLate (s.arrivals k (o.oneBlock i)) = false)
  (hfirst : (s.arrive (s.arrivals k (o.oneBlock i))).servedFirst (o.oneBlock i) = false) (hret : s.retained (.spad m) = false)
include ho hspad hph hk hi hmay hlate hfirst hret

theorem exec_tileBlockArrive (hop : o.opc = 0x50) :
    exec (.tileBlockArrive o.id i) s = .next (((s.arrive (s.arrivals k (o.oneBlock i))).blockIn o.cell (dstSlot o.f) i
      ((s.cell m).spad.viewBlock ((o.ea + 64 * i) / 64) (some k.id))).blockDone o i fun st => st.slotDone o.cell (dstSlot o.f)) := by
  have hfill : (!isFill o) = false := by
    unfold isFill
    rw [hop]
    rfl
  have hself : ((s.arrive (s.arrivals k (o.oneBlock i))).op? o.id).getD o = o := by
    rw [show (s.arrive (s.arrivals k (o.oneBlock i))).op? o.id = some o from ho]
    rfl
  have hcells : (s.arrive (s.arrivals k (o.oneBlock i))).copyCells k o = [o.cell] := by
    unfold State.copyCells
    rw [hop]
    rfl
  show execTileBlockArrive o.id i s = _
  unfold execTileBlockArrive
  rw [ho]
  dsimp only
  rw [hfill, if_neg Bool.false_ne_true, blockAttempt_atSpad hspad hph hk hi hmay hlate hfirst hret, hself, hcells, hspad]
  rfl

/-- A block of a TSTORE that no counting word and no mark holds back, of an unguarded task. -/
theorem exec_tileBlockPerformed (hop : o.opc = 0x51)
    (hguard : s.isGuarded k = false) (hcounting : ∀ n ∈ o.left, (s.cell m).spad.countingIn ((o.ea + 64 * n) / 4) 16 (some k.id) = none)
    (hhidden : ∀ n ∈ o.left, n = i ∨ o.left.length = o.len / 64 → (s.cell m).spad.hiddenIn ((o.ea + 64 * n) / 4) 16 (some k.id) = false)
    {q : Spad} (hq : (s.cell m).spad.writeBlock none ((o.ea + 64 * i) / 64) (mget ((s.cell o.cell).tile (dstSlot o.f)).blocks i {}) = some q) :
    exec (.tileBlockPerformed o.id i) s = .next ((((s.arrive (s.arrivals k (o.oneBlock i))).setSpad m q).wakeParks).blockDone o i
      fun st => st.slotDone o.cell (dstSlot o.f)) := by
  have hself : ((s.arrive (s.arrivals k (o.oneBlock i))).op? o.id).getD o = o := by
    rw [show (s.arrive (s.arrivals k (o.oneBlock i))).op? o.id = some o from ho]
    rfl
  have hcount : (s.arrive (s.arrivals k (o.oneBlock i))).storeCounting o k m = none := List.findSome?_eq_none_iff.2 hcounting
  have hwait : (s.arrive (s.arrivals k (o.oneBlock i))).storeWaits o k m i = false := by
    have hself : (s.cell m).spad.hiddenIn ((o.ea + 64 * i) / 4) 16 (some k.id) = false := hhidden i hi (.inl rfl)
    show ((s.cell m).spad.hiddenIn ((o.ea + 64 * i) / 4) 16 (some k.id) || (o.left.length == o.len / 64
      && o.left.any fun n => (s.cell m).spad.hiddenIn ((o.ea + 64 * n) / 4) 16 (some k.id))) = false
    rw [hself, Bool.false_or]
    by_cases hfull : o.left.length = o.len / 64
    · rw [List.any_eq_false.2 fun n hn => by simp [hhidden n hn (.inr hfull)], Bool.and_false]
    · rw [beq_eq_false_iff_ne.2 hfull, Bool.false_and]
  have hwriter : (s.arrive (s.arrivals k (o.oneBlock i))).writerOf k = none := by
    show (if s.isGuarded k then some k.id else none) = none
    rw [hguard, if_neg Bool.false_ne_true]
  have hstore : (s.arrive (s.arrivals k (o.oneBlock i))).storeBlock o k i
      = .ok ((s.arrive (s.arrivals k (o.oneBlock i))).setSpad m q).wakeParks {} := by
    unfold State.storeBlock
    dsimp only
    rw [hspad]
    dsimp only
    rw [hcount]
    dsimp only
    rw [hwait, if_neg Bool.false_ne_true, hwriter]
    unfold State.spadPut
    rw [show (((s.arrive (s.arrivals k (o.oneBlock i))).cell m).spad.writeBlock none ((o.ea + 64 * i) / 64)
      (mget (((s.arrive (s.arrivals k (o.oneBlock i))).cell o.cell).tile (dstSlot o.f)).blocks i {})) = some q from hq]
    dsimp only
    rw [hwriter]
    rfl
  show execTileBlockPerformed o.id i s = _
  unfold execTileBlockPerformed State.storeTile
  rw [ho]
  dsimp only
  rw [if_neg (not_not.2 hop), blockAttempt_atSpad hspad hph hk hi hmay hlate hfirst hret, hself, hstore]
  rfl

end

/-! ### A block written to a scratchpad by an immediate writer (R157, R168, R205) -/

theorem writeBytes_immediate (a : Nat) (bs : List Byte) (p : Spad) :
    p.writeBytes none a bs = some { p with bytes := p.bytes.writeBytes a bs } := by
  induction bs generalizing a p with
  | nil => rfl
  | cons b bs ih => exact ih (a + 1) { p with bytes := p.bytes.write a b }

/-- A byte of a number, little-endian. -/
theorem natToBytes_getD (n v : Nat) {i : Nat} (hi : i < n) : (natToBytes n v).getD i 0 = BitVec.ofNat 8 (v / 2 ^ (8 * i)) := by
  induction n generalizing v i with
  | zero => omega
  | succ n ih =>
    cases i with
    | zero => simp [natToBytes]
    | succ i =>
      have hpow : 2 ^ (8 * (i + 1)) = 256 * 2 ^ (8 * i) := by
        rw [Nat.mul_succ, Nat.add_comm, Nat.pow_add]
      rw [natToBytes, List.getD_cons_succ, ih _ (by omega), hpow, Nat.div_div_eq_div_mul]

/-- A block that an immediate writer writes: its bytes, its tag, and no word's state. -/
theorem writeBlock_immediate (p : Spad) (blk : Nat) (b : Block) :
    ∃ q, p.writeBlock none blk b = some q ∧ (∀ a, q.bytes.read a = if 64 * blk ≤ a ∧ a < 64 * blk + 64 then
        BitVec.ofNat 8 (b.data.toNat / 2 ^ (8 * (a - 64 * blk))) else p.bytes.read a)
      ∧ mget q.tags blk 0 = b.tag ∧ q.words = p.words := by
  refine ⟨{ p with bytes := p.bytes.writeBytes (64 * blk) (natToBytes 64 b.data.toNat), tags := mput p.tags blk b.tag 0 }, ?_,
    fun a => ?_, mget_mput_self .., rfl⟩
  · unfold Spad.writeBlock
    rw [writeBytes_immediate]
    rfl
  · show (p.bytes.writeBytes (64 * blk) (natToBytes 64 b.data.toNat)).read a = _
    rw [Mem.read_writeBytes, length_natToBytes]
    split
    next h => exact natToBytes_getD 64 _ (by omega)
    next => rfl

end Sys2Proof.Machine

namespace Sys2Proof.Proofs
open Sys2Proof.Machine

/-- Settles O40: the block of each kind of transfer in its slot or scratchpad, and the slot made READY with the last one. -/
theorem blocksMove : Obligations.BlocksMove := by
  unfold Obligations.BlocksMove
  intro s o k
  dsimp only
  intro ho hk hreplay
  refine ⟨?_, ?_, ?_⟩
  · intro j hjob hj hhalt hcell hph htokens hmem hc
    refine ⟨fun hlt => ?_, fun hdone hctl hop => ?_⟩
    · have hexec := exec_convertBlock ho hreplay hjob hj htokens hk hhalt hcell hph hlt
      obtain ⟨routed, hwrite⟩ := convWrite_cell (s := s) (k := k) (o := o) hmem
      rw [hwrite, hc] at hexec
      obtain ⟨j', hj', hnext, hsat, hsticky⟩ := wrote_job (s.cell s.cur.subject).conv j routed
      refine ⟨_, hexec, ?_⟩
      unfold State.updConv
      rw [State.cell_updCell, if_pos rfl, endStep_updCell]
      refine ⟨?_, fun n hn => ?_, ?_, newStep_of_turned rfl, ⟨j', hj', hnext, hsat, hsticky⟩, rfl⟩
      · show mget (Cell.tile (Cell.setTile _ _ _) _).blocks _ _ = _
        rw [tile_setTile, if_pos rfl, withBlock_block, if_pos rfl]
      · show mget (Cell.tile (Cell.setTile _ _ _) _).blocks _ _ = _
        rw [tile_setTile, if_pos rfl, withBlock_block, if_neg hn]
        rfl
      · show (Cell.tile (Cell.setTile _ _ _) _).st = _
        rw [tile_setTile, if_pos rfl]
        exact if_congr decide_eq_true_iff rfl rfl
    · have hexec := exec_convertComplete ho hreplay hjob hj htokens hdone hctl
      obtain ⟨u, hu⟩ : ∃ u, u = s.updConv s.cur.subject fun v => { v with job := none } := ⟨_, rfl⟩
      obtain ⟨p, hp⟩ : ∃ p, p = { o with r := BitVec.ofNat 32 j.saturated, c := j.saturated != 0, sticky := j.sticky } := ⟨_, rfl⟩
      rw [← hu, ← hp] at hexec
      have hcellp : p.cell = s.cur.subject := by rw [hp]; exact hc
      have hconv : (u.cell s.cur.subject).conv.job = none := by
        rw [hu]
        unfold State.updConv
        rw [State.cell_updCell, if_pos rfl]
      have helem : u.elem s.cur.subject o.elem = s.elem s.cur.subject o.elem := by
        rw [hu]
        exact State.elem_updCell_keeps _ _ _ _ _ rfl
      have hgreg := fun (d : Nat) (hd : d < 16) => writeback_greg (s := u) (o := p) (by rw [hp]; exact hop) hd
      refine ⟨_, hexec, by rw [writeback_conv, hconv], fun q hq => ?_, fun d hd => ?_, ?_⟩
      · rw [State.writeback_ops, hp] at hq
        simpa using (List.mem_filter.1 hq).2
      · rw [← helem, ← hcellp]
        have hreg := hgreg d hd
        rw [hp] at hreg ⊢
        exact hreg
      · rw [(State.writeback_mem _ _).1, hu]
        rfl
  · intro m i hop hspad hph hi hmay hturn
    obtain ⟨hlate, hfirst, hret⟩ := hturn
    have hexec := exec_tileBlockArrive ho hspad hph hk hi hmay hlate hfirst hret hop
    obtain ⟨u, hu⟩ : ∃ u, u = (s.arrive (s.arrivals k (o.oneBlock i))).blockIn o.cell (dstSlot o.f) i
      ((s.cell m).spad.viewBlock ((o.ea + 64 * i) / 64) (some k.id)) := ⟨_, rfl⟩
    have htile : (u.cell o.cell).tile (dstSlot o.f) = ((s.cell o.cell).tile (dstSlot o.f)).withBlock i
        ((s.cell m).spad.viewBlock ((o.ea + 64 * i) / 64) (some k.id)) ((s.cell o.cell).tile (dstSlot o.f)).st := by
      rw [hu]
      exact blockIn_tile _ _ _ _ _
    have hops : u.op? o.id = some o := by rw [hu]; exact ho
    rw [← hu] at hexec
    obtain ⟨⟨p, hp, hleft, hlast, hmore⟩, hblocks, -, hframe⟩ := blockDone_ready hops hph i o.cell (dstSlot o.f)
    have hst : ((u.cell o.cell).tile (dstSlot o.f)).st = ((s.cell o.cell).tile (dstSlot o.f)).st := by rw [htile]; rfl
    refine ⟨_, hexec, ?_, fun n hn => ?_, ⟨p, hp, hleft, hlast, fun hne => ?_⟩, ?_⟩
    · exact (congrArg (fun b => mget b i {}) hblocks).trans (by rw [htile, withBlock_block, if_pos rfl])
    · exact (congrArg (fun b => mget b n {}) hblocks).trans (by rw [htile, withBlock_block, if_neg hn])
    · obtain ⟨hissued, hkept⟩ := hmore hne
      exact ⟨hissued, hkept.trans hst⟩
    · subst hu
      have hkept := congrArg (fun w : State => { w with cells := s.cells, served := s.served }) hframe
      exact hkept
  · intro m i hop hspad hph hi hmay hturn hguard halign hfree
    obtain ⟨hlate, hfirst, hret⟩ := hturn
    obtain ⟨q, hq, hbytes, htag, hwords⟩ := writeBlock_immediate (s.cell m).spad ((o.ea + 64 * i) / 64)
      (mget ((s.cell o.cell).tile (dstSlot o.f)).blocks i {})
    have hexec := exec_tileBlockPerformed ho hspad hph hk hi hmay hlate hfirst hret hop hguard (fun n hn => (hfree n hn).1)
      (fun n hn => (hfree n hn).2) hq
    obtain ⟨u, hu⟩ : ∃ u, u = ((s.arrive (s.arrivals k (o.oneBlock i))).setSpad m q).wakeParks := ⟨_, rfl⟩
    have hops : u.op? o.id = some o := by rw [hu]; exact ho
    have hspads : (u.cell m).spad = q := by
      rw [hu]
      exact congrArg Cell.spad ((State.cell_updCell _ m m fun cl => { cl with spad := q }).trans (if_pos rfl))
    have hmem : u.mem = s.mem ∧ u.hostMem = s.hostMem := by rw [hu]; exact ⟨rfl, rfl⟩
    rw [← hu] at hexec
    obtain ⟨⟨p, hp, hleft, hlast, -⟩, -, hspad', hframe⟩ := blockDone_ready hops hph i o.cell (dstSlot o.f)
    have haddr : 64 * ((o.ea + 64 * i) / 64) = o.ea + 64 * i := by omega
    refine ⟨_, hexec, fun a => ?_, ?_, ?_, ⟨p, hp, hleft, hlast⟩, ?_, ?_⟩
    · rw [hspad' m, hspads, hbytes, haddr]
      rfl
    · rw [hspad' m, hspads]
      exact htag
    · rw [hspad' m, hspads]
      exact hwords
    · have hkept := congrArg State.mem hframe
      exact Eq.trans hkept hmem.1
    · have hkept := congrArg State.hostMem hframe
      exact Eq.trans hkept hmem.2

end Sys2Proof.Proofs
end

section
/-! SUPPORT. A hearth's command that begins, sends, ends and signals (R171, R172, R300), gatings of a gang, GANGRUN and CTXLOAD (R448 to R453); and O30. -/

namespace Sys2Proof.Machine

/-! ### A command of a hearth runs, and ends (R139, R171, R172, R300) -/

/-- The command of a hearth that runs pays 8 mu and takes its effect. -/
theorem command_runs {s : State} {r : Nat} (h : HearthRuns s r) (body : Nat → State → State) :
    s.command body = body r (s.houseDebit r 8) := by
  obtain ⟨rfl, hst, hexec⟩ := h
  exact if_pos ⟨hst, hexec⟩

/-- The room of a hearth with its command in execution, or with none. -/
def Room.withExec (k : Room) (e : Option HExec) : Room := { k with hearth := { k.hearth with exec := e } }

/-- The rooms are as before, but for the command in execution in room r. -/
def ExecIn (s u : State) (r : Nat) (e : Option HExec) : Prop :=
  ∀ q, u.room q = if q = r then (s.room r).withExec e else s.room q

theorem ExecIn.of_rooms {s u : State} {r : Nat} (h : u.rooms = s.rooms) (hexec : (s.room r).hearth.exec = none) :
    ExecIn s u r none := by
  have hrooms : ∀ q, u.room q = s.room q := fun q => congrArg (fun m : AMap Room => mget m q {}) h
  intro q
  rw [hrooms]
  split
  next hq => rw [hq, Room.withExec, ← hexec]
  next => rfl

theorem ExecIn.beginCmd {s u : State} {r : Nat} {e : Option HExec} (h : ExecIn s u r e) (i : Instr) (task : Nat) :
    ExecIn s (u.beginCmd r i task) r (some { instr := i, since := u.clock.tick, task := task }) := by
  intro q
  show (u.updRoom r _).room q = _
  rw [State.room_updRoom]
  split
  next => rw [h r, if_pos rfl]; rfl
  next hq => rw [h q, if_neg hq]

theorem ExecIn.congr {s u v : State} {r : Nat} {e : Option HExec} (h : ExecIn s u r e) (hv : v.rooms = u.rooms) :
    ExecIn s v r e :=
  fun q => (congrArg (fun m : AMap Room => mget m q {}) hv).trans (h q)

theorem ExecIn.hearth_pos {s u : State} {r : Nat} {e : Option HExec} (h : ExecIn s u r e) :
    (u.hearth r).pos = (s.room r).hearth.pos := by
  rw [State.hearth, h r, if_pos rfl]
  rfl

/-- A command begins: its hearth's command is in execution, and it has paid. -/
theorem hearthBegun_beginCmd {s u : State} {r : Nat} (hrun : HearthRuns s r) (hrooms : u.rooms = s.rooms)
    (hclock : u.clock = s.clock) (haccts : u.accts = (s.houseDebit r 8).accts) (i : Instr) (task : Nat) :
    HearthBegun s (u.beginCmd r i task) r i task := by
  have hexec := (ExecIn.of_rooms hrooms hrun.2.2).beginCmd i task
  rw [hclock] at hexec
  have hroom := (hexec r).trans (if_pos rfl)
  refine ⟨?_, ?_, fun q hq => (hexec q).trans (if_neg hq), fun n => ?_⟩
  · rw [hroom]; rfl
  · rw [hroom]; rfl
  · have hacct : (u.beginCmd r i task).acct n = (s.houseDebit r 8).acct n := congrArg (fun m : AMap Acct => mget m n {}) haccts
    rw [hacct]
    exact houseDebit_pays rfl rfl r 8 n

/-! ### A command ends with its signal (R171, R172, R300) -/

theorem addSem_sem (k : Room) (i inc n : Nat) :
    (k.addSem i inc).sem n = if n = i then min (k.sem n + inc) 0xFFFF else k.sem n := by
  unfold Room.addSem
  dsimp only
  split
  next hle =>
    refine (mget_mput k.sems i n (k.sem i + inc) 0).trans ?_
    split
    next hn => rw [hn, Nat.min_eq_left hle]
    next => rfl
  next hgt =>
    refine (mget_mput k.sems i n 0xFFFF 0).trans ?_
    split
    next hn => rw [hn, Nat.min_eq_right (Nat.le_of_not_le hgt)]
    next => rfl

theorem addSem_rest (k : Room) (i inc : Nat) :
    { k.addSem i inc with hearth := k.hearth, sems := k.sems, semInc := k.semInc } = k := by
  unfold Room.addSem
  dsimp only
  split
  · rfl
  · rfl

theorem addSem_hearth {k : Room} (hst : k.hearth.st = .exec) (i inc : Nat) :
    (k.addSem i inc).hearth = if 0xFFFF < k.sem i + inc then { k.hearth with st := .trapped, cause := 1 } else k.hearth := by
  unfold Room.addSem
  dsimp only
  split
  next hle => rw [if_neg (Nat.not_lt.2 hle)]
  next hgt => rw [if_pos (Nat.not_le.1 hgt), if_pos (.inr hst)]

/-- The signal of a command, where it makes one. -/
def Room.signal (k : Room) (c : HCmd) : Room := if c.sen then k.addSem c.ssem.toNat c.sinc.toNat else k

theorem signal_sem (k : Room) (c : HCmd) (n : Nat) :
    (k.signal c).sem n = if c.sen = true ∧ n = c.ssem.toNat then min (k.sem n + c.sinc.toNat) 0xFFFF else k.sem n := by
  unfold Room.signal
  cases c.sen
  · rfl
  · simpa using addSem_sem k c.ssem.toNat c.sinc.toNat n

theorem signal_rest (k : Room) (c : HCmd) :
    { k.signal c with hearth := k.hearth, sems := k.sems, semInc := k.semInc } = k := by
  unfold Room.signal
  split
  · exact addSem_rest k _ _
  · rfl

theorem signal_hearth {k : Room} (hst : k.hearth.st = .exec) (c : HCmd) :
    (k.signal c).hearth = if c.sen = true ∧ 0xFFFF < k.sem c.ssem.toNat + c.sinc.toNat then
      { k.hearth with st := .trapped, cause := 1 } else k.hearth := by
  unfold Room.signal
  cases c.sen
  · rfl
  · simpa using addSem_hearth hst c.ssem.toNat c.sinc.toNat

/-- A hearth whose command has made its signal: past the command, or TRAPPED at it. -/
def Hearth.past (h : Hearth) (pos : Nat) : Hearth := if h.st = .exec then h.goto pos else { h with exec := none }

/-- A room in which a command ends that does not wait for the next tick. -/
def Room.ends (k : Room) (c : HCmd) (pos : Nat) : Room := { k.signal c with hearth := (k.signal c).hearth.past pos }

theorem ends_sem (k : Room) (c : HCmd) (pos n : Nat) : (k.ends c pos).sem n = (k.signal c).sem n := rfl

theorem ends_hearth {k : Room} (hst : k.hearth.st = .exec) (c : HCmd) (pos : Nat) :
    (k.ends c pos).hearth =
      if c.sen = true ∧ 0xFFFF < k.sem c.ssem.toNat + c.sinc.toNat then { k.hearth with st := .trapped, cause := 1, exec := none }
      else { k.hearth with pos := pos, st := if pos < k.hearth.prog.length then .wait else .ended, exec := none } := by
  show (k.signal c).hearth.past pos = _
  rw [signal_hearth hst c]
  split
  · rfl
  · unfold Hearth.past
    rw [if_pos hst]
    rfl

theorem ends_rest (k : Room) (c : HCmd) (pos : Nat) :
    { k.ends c pos with hearth := k.hearth, sems := k.sems, semInc := k.semInc } = k := signal_rest k c

/-- A command ends in the room of its hearth. -/
theorem room_endCmd (u : State) (r : Nat) (c : HCmd) (pos q : Nat) :
    (u.endCmd r c pos).room q = if q = r then
      (if (c.sen && (u.room r).tested.contains c.ssem.toNat) = true then
        { u.room r with hearth := (u.room r).hearth.endLater c pos } else (u.room r).ends c pos) else u.room q :=
  State.room_updRoom u r q _

/-- A command whose hearth alone may have been in execution completes with no other effect on its room. -/
theorem hearthDone_endCmd {s u : State} {r : Nat} {e : Option HExec} (hrun : HearthRuns s r) (hu : ExecIn s u r e) (c : HCmd)
    (pos : Nat) : HearthDone s (u.endCmd r c pos) r c pos id := by
  obtain ⟨-, hst, -⟩ := hrun
  have hroom := (hu r).trans (if_pos rfl)
  have hend := (room_endCmd u r c pos r).trans (if_pos rfl)
  have hst' : ((s.room r).withExec e).hearth.st = .exec := hst
  rw [hroom] at hend
  refine ⟨fun q hq => ?_, ?_⟩
  · rw [room_endCmd, if_neg hq, hu q, if_neg hq]
  split
  next htest =>
    have hcond : (c.sen && ((s.room r).withExec e).tested.contains c.ssem.toNat) = true := by
      rw [htest.1]
      exact List.contains_iff_mem.2 htest.2
    rw [hend, if_pos hcond]
    rfl
  next htest =>
    have hcond : ¬ (c.sen && ((s.room r).withExec e).tested.contains c.ssem.toNat) = true := by
      intro hc
      rw [Bool.and_eq_true, List.contains_iff_mem] at hc
      exact htest hc
    rw [hend, if_neg hcond]
    refine ⟨fun n => signal_sem _ c n, (ends_hearth hst' c pos).trans rfl, ?_⟩
    exact congrArg (fun k : Room => { k with hearth := (s.room r).hearth }) (ends_rest ((s.room r).withExec e) c pos)

/-- A command that moves POS by one completes so. -/
theorem hearthDone_finishCmd {s u : State} {r : Nat} {e : Option HExec} (hrun : HearthRuns s r) (hu : ExecIn s u r e) (c : HCmd) :
    HearthDone s (u.finishCmd r c) r c ((s.room r).hearth.pos + 1) id := by
  show HearthDone s (u.endCmd r c ((u.hearth r).pos + 1)) r c _ id
  rw [hu.hearth_pos]
  exact hearthDone_endCmd hrun hu c _

/-- What has the accounts of a hearth that paid has paid. -/
theorem hearthPays_of_accts {s u : State} {r : Nat} (haccts : u.accts = (s.houseDebit r 8).accts) : HearthPays s u r 8 := fun n =>
  (congrArg (fun m : AMap Acct => mget m n {}) haccts).trans (houseDebit_pays rfl rfl r 8 n)

/-! ### What gates a gang, and what ends a gating (R200, R201, R448, R452) -/

/-- Only cells, operations under way and tasks differ. -/
def GatingFrame (s t : State) : Prop := { t with cells := s.cells, ops := s.ops, tasks := s.tasks } = s

/-- Only cells differ. -/
def CellsFrame (s t : State) : Prop := { t with cells := s.cells } = s

theorem GatingFrame.trans {s t u : State} (h1 : GatingFrame s t) (h2 : GatingFrame t u) : GatingFrame s u := by
  unfold GatingFrame at h1 h2 ⊢
  rw [← h2] at h1
  exact h1

theorem CellsFrame.refl (s : State) : CellsFrame s s := rfl

theorem CellsFrame.trans {s t u : State} (h1 : CellsFrame s t) (h2 : CellsFrame t u) : CellsFrame s u := by
  unfold CellsFrame at h1 h2 ⊢
  rw [← h2] at h1
  exact h1

theorem CellsFrame.foldState {α : Type} {s u : State} (h : CellsFrame s u) {l : List α} {f : α → State → State}
    (hf : ∀ a v, CellsFrame v (f a v)) : CellsFrame s (foldState l u f) :=
  foldState_keeps (CellsFrame s) f (fun a v hv => hv.trans (hf a v)) l u h

theorem CellsFrame.tasks {s t : State} (h : CellsFrame s t) : t.tasks = s.tasks := by
  rw [← show { t with cells := s.cells } = s from h]

theorem CellsFrame.ops {s t : State} (h : CellsFrame s t) : t.ops = s.ops := by
  rw [← show { t with cells := s.cells } = s from h]

theorem GatingFrame.cellsFrame {s t u : State} (h : GatingFrame s t) (hu : CellsFrame t u) : GatingFrame s u := by
  unfold CellsFrame at hu
  unfold GatingFrame at h ⊢
  rw [← hu] at h
  exact h

theorem reissueAll_frame (s : State) (k : Task) : GatingFrame s (s.reissueAll k) := rfl

theorem forwardPorts_frame (s : State) (k : Task) : CellsFrame s (s.forwardPorts k) := by
  unfold State.forwardPorts
  refine CellsFrame.foldState (.refl _) fun c u => CellsFrame.foldState (.refl _) fun p v => ?_
  dsimp only
  split
  · exact rfl
  · exact CellsFrame.trans (t := v.updCell c fun n => { n with fwdPorts := n.fwdPorts ++ [p] }) rfl
      (State.send_channel _ _ _ _ _).1

theorem gateTask_frame (s : State) (k : Task) (g : Gate) : GatingFrame s (s.gateTask k g) := by
  obtain ⟨cs, hcs⟩ := gateTask_eq s k g
  rw [hcs]
  rfl

theorem gateTask_ops (s : State) (k : Task) (g : Gate) : (s.gateTask k g).ops = s.ops := by
  obtain ⟨cs, hcs⟩ := gateTask_eq s k g
  rw [hcs]
  rfl

theorem task?_gateTask {s : State} {k t : Task} (h : s.task? k.id = some t) (g : Gate) :
    (s.gateTask k g).task? k.id = some (t.gatedFor g) := by
  obtain ⟨cs, hcs⟩ := gateTask_eq s k g
  rw [hcs]
  exact State.task?_changed (s := { s with cells := cs }) h fun _ => rfl

/-- A switch begins with the gating of its task; the rest is in its cells. -/
theorem beginSwitch_frame (s : State) (k : Task) : CellsFrame (s.gateTask k .switch) (s.beginSwitch k) := by
  unfold State.beginSwitch
  refine CellsFrame.trans (CellsFrame.foldState (.refl _) fun c u => CellsFrame.foldState (.refl _) fun e v => ?_)
    (forwardPorts_frame _ k)
  split
  · exact rfl
  · exact rfl

theorem task?_beginSwitch {s : State} {k t : Task} (h : s.task? k.id = some t) :
    (s.beginSwitch k).task? k.id = some (t.gatedFor .switch) := by
  unfold State.task?
  rw [(beginSwitch_frame s k).tasks]
  exact task?_gateTask h .switch

/-- The end of a task's gating changes cells of its gang and its gate alone. -/
theorem ungateTask_eq (s : State) (k : Task) :
    ∃ cs, s.ungateTask k = State.updTask { s with cells := cs } k.id (Task.gatedFor .none) := by
  unfold State.ungateTask State.ungateDomains
  rw [updGang_eq]
  exact ⟨_, rfl⟩

theorem ungateTask_frame (s : State) (k : Task) : GatingFrame s (s.ungateTask k) := by
  obtain ⟨cs, hcs⟩ := ungateTask_eq s k
  rw [hcs]
  rfl

theorem task?_ungateTask {s : State} {k t : Task} (h : s.task? k.id = some t) :
    (s.ungateTask k).task? k.id = some (t.gatedFor .none) := by
  obtain ⟨cs, hcs⟩ := ungateTask_eq s k
  rw [hcs]
  exact State.task?_changed (s := { s with cells := cs }) h fun _ => rfl

section
variable {s t : State} (h : GatingFrame s t)
include h

theorem GatingFrame.same {β : Type} (f : State → β)
    (hf : ∀ (u : State) cs os ts, f { u with cells := cs, ops := os, tasks := ts } = f u) : f t = f s :=
  (hf t s.cells s.ops s.tasks).symm.trans (congrArg f (show { t with cells := s.cells, ops := s.ops, tasks := s.tasks } = s from h))

theorem GatingFrame.rooms : t.rooms = s.rooms := h.same State.rooms fun _ _ _ _ => rfl
theorem GatingFrame.accts : t.accts = s.accts := h.same State.accts fun _ _ _ _ => rfl
theorem GatingFrame.clock : t.clock = s.clock := h.same State.clock fun _ _ _ _ => rfl
theorem GatingFrame.mem : t.mem = s.mem := h.same State.mem fun _ _ _ _ => rfl
theorem GatingFrame.hostMem : t.hostMem = s.hostMem := h.same State.hostMem fun _ _ _ _ => rfl

end

/-! ### The gang of a region -/

theorem gangAt_mem {s : State} {r : Nat} {g : Nat × Nat × Nat × Nat} {k : Task} (h : s.gangAt r g = some k) : k ∈ s.tasks :=
  List.mem_of_find?_eq_some h

/-- A task of a device is found by its number, or another of that number. -/
theorem exists_task? {s : State} {k : Task} (h : k ∈ s.tasks) : ∃ t, s.task? k.id = some t := by
  refine Option.isSome_iff_exists.1 (List.find?_isSome.2 ⟨k, h, ?_⟩)
  exact beq_self_eq_true k.id

theorem withRegion_some {s : State} {r : Nat} {c : HCmd} {g : Nat × Nat × Nat × Nat}
    (h : regionWord (mget (s.room r).hearth.h c.ha.toNat 0) = some g) (cmd : Nat) (go : Nat × Nat × Nat × Nat → State) :
    s.withRegion r cmd c go = go g := by
  unfold State.withRegion
  rw [show regionWord ((s.hearth r).hreg c.ha.toNat) = some g from h]

/-! ### CFGSWITCH (R448) -/

/-- The gating with which a CFGSWITCH begins. -/
def State.gateForSwitch (s : State) (k : Task) : State :=
  match k.gate with
  | .none => s.beginSwitch k
  | .quiesce => (s.reissueAll k).beginSwitch k
  | _ => s

theorem gateForSwitch_frame (s : State) (k : Task) : GatingFrame s (s.gateForSwitch k) := by
  unfold State.gateForSwitch
  split
  · exact (gateTask_frame s k .switch).cellsFrame (beginSwitch_frame s k)
  · exact (GatingFrame.trans (reissueAll_frame s k) (gateTask_frame _ k .switch)).cellsFrame (beginSwitch_frame _ k)
  · exact rfl

theorem gateForSwitch_ops {s : State} {k : Task} (hgate : k.gate ≠ .quiesce) : (s.gateForSwitch k).ops = s.ops := by
  unfold State.gateForSwitch
  split
  · exact (beginSwitch_frame s k).ops.trans (gateTask_ops s k .switch)
  next hq => exact absurd hq hgate
  · rfl

theorem task?_gateForSwitch {s : State} {k t : Task} (h : s.task? k.id = some t) (hgate : k.gate = .none ∨ k.gate = .quiesce) :
    (s.gateForSwitch k).task? k.id = some (t.gatedFor .switch) := by
  unfold State.gateForSwitch
  obtain hnone | hquiesce := hgate
  · rw [hnone]
    exact task?_beginSwitch h
  · rw [hquiesce]
    exact task?_beginSwitch (s := s.reissueAll k) h

section
variable {c : HCmd} {s : State} {r : Nat} {g : Nat × Nat × Nat × Nat} {k : Task} (hrun : HearthRuns s r)
  (hg : regionWord (mget (s.room r).hearth.h c.ha.toNat 0) = some g) (hk : s.gangAt r g = some k)
include hrun hg hk

theorem exec_cfgswitch_begins (hstandby : ∀ d ∈ k.gang, (s.cell d).standby ≠ none) :
    exec (.cfgswitch c) s = .next (((s.houseDebit r 8).gateForSwitch k).beginCmd r (.cfgswitch c) k.id) := by
  have hplanes : ¬ (k.gang.any fun d => ((s.houseDebit r 8).cell d).standby.isNone) = true :=
    fun hany => (List.any_eq_true.1 hany).elim fun d hd => hstandby d hd.1 (Option.isNone_iff_eq_none.1 hd.2)
  show execCfgswitch c s = _
  unfold execCfgswitch
  rw [command_runs hrun, withRegion_some (s := s.houseDebit r 8) hg]
  dsimp only
  rw [show (s.houseDebit r 8).gangAt r g = some k from hk]
  exact congrArg Host.Outcome.next (if_neg hplanes)

theorem cfgswitch_begins (hstandby : ∀ d ∈ k.gang, (s.cell d).standby ≠ none) :
    ∃ t, exec (.cfgswitch c) s = .next t ∧ HearthBegun s t r (.cfgswitch c) k.id
      ∧ (k.gate = .none ∨ k.gate = .quiesce → ∃ u, t.task? k.id = some u ∧ u.gate = .switch)
      ∧ t.mem = s.mem ∧ t.hostMem = s.hostMem ∧ (k.gate ≠ .quiesce → t.ops = s.ops) := by
  have hframe := gateForSwitch_frame (s.houseDebit r 8) k
  obtain ⟨u, hu⟩ := exists_task? (gangAt_mem hk)
  exact ⟨_, exec_cfgswitch_begins hrun hg hk hstandby, hearthBegun_beginCmd hrun hframe.rooms hframe.clock hframe.accts _ _,
    fun hgate => ⟨_, task?_gateForSwitch (s := s.houseDebit r 8) hu hgate, rfl⟩, hframe.mem, hframe.hostMem,
    fun hgate => gateForSwitch_ops (s := s.houseDebit r 8) hgate⟩

/-! ### QUIESCE (R452) -/

theorem exec_quiesce_gates (hgates : c.imm.getLsbD 32 = false) :
    exec (.quiesce c) s = .next ((if k.gate = .none then (s.houseDebit r 8).gateTask k .quiesce
      else s.houseDebit r 8).beginCmd r (.quiesce c) k.id) := by
  have hbit : natBit c.imm.toNat 32 = false := by
    rw [← hgates]
    rfl
  show execQuiesce c s = _
  unfold execQuiesce
  rw [command_runs hrun, withRegion_some (s := s.houseDebit r 8) hg]
  rw [show (s.houseDebit r 8).gangAt r g = some k from hk]
  dsimp only
  rw [hbit]
  rfl

theorem quiesce_gates (hgates : c.imm.getLsbD 32 = false) :
    ∃ t, exec (.quiesce c) s = .next t ∧ HearthBegun s t r (.quiesce c) k.id
      ∧ (k.gate = .none → ∃ u, t.task? k.id = some u ∧ u.gate = .quiesce)
      ∧ t.mem = s.mem ∧ t.hostMem = s.hostMem ∧ t.ops = s.ops := by
  obtain ⟨u, hu⟩ := exists_task? (gangAt_mem hk)
  refine ⟨_, exec_quiesce_gates hrun hg hk hgates, ?_⟩
  by_cases hgate : k.gate = .none
  · have hframe := gateTask_frame (s.houseDebit r 8) k .quiesce
    rw [if_pos hgate]
    exact ⟨hearthBegun_beginCmd hrun hframe.rooms hframe.clock hframe.accts _ _,
      fun _ => ⟨_, task?_gateTask (s := s.houseDebit r 8) hu .quiesce, rfl⟩, hframe.mem, hframe.hostMem, gateTask_ops _ k .quiesce⟩
  · rw [if_neg hgate]
    exact ⟨hearthBegun_beginCmd (u := s.houseDebit r 8) hrun rfl rfl rfl _ _, fun h => absurd h hgate, rfl, rfl, rfl⟩

theorem exec_quiesce_releases (hgate : k.gate = .quiesce) (hreleases : c.imm.getLsbD 32 = true)
    (hlimit : natField c.imm.toNat 0 32 = 0) :
    exec (.quiesce c) s = .next ((((s.houseDebit r 8).reissueAll k).ungateTask k).finishCmd r c) := by
  have hbit : natBit c.imm.toNat 32 = true := by
    rw [← hreleases]
    rfl
  show execQuiesce c s = _
  unfold execQuiesce
  rw [command_runs hrun, withRegion_some (s := s.houseDebit r 8) hg]
  rw [show (s.houseDebit r 8).gangAt r g = some k from hk]
  dsimp only
  rw [hbit, if_pos rfl, if_pos ⟨hgate, hlimit⟩]

theorem quiesce_releases (hgate : k.gate = .quiesce) (hreleases : c.imm.getLsbD 32 = true)
    (hlimit : natField c.imm.toNat 0 32 = 0) :
    ∃ t, exec (.quiesce c) s = .next t ∧ HearthDone s t r c ((s.room r).hearth.pos + 1) id ∧ HearthPays s t r 8
      ∧ (∃ u, t.task? k.id = some u ∧ u.gate = .none) ∧ t.mem = s.mem ∧ t.hostMem = s.hostMem := by
  have hframe := ungateTask_frame ((s.houseDebit r 8).reissueAll k) k
  obtain ⟨u, hu⟩ := exists_task? (gangAt_mem hk)
  exact ⟨_, exec_quiesce_releases hrun hg hk hgate hreleases hlimit,
    hearthDone_finishCmd hrun (.of_rooms hframe.rooms hrun.2.2) c, hearthPays_of_accts hframe.accts,
    ⟨_, task?_ungateTask (s := (s.houseDebit r 8).reissueAll k) hu, rfl⟩, hframe.mem, hframe.hostMem⟩

end

/-! ### CTXLOAD (R453) -/

/-- A command in execution in a room keeps what a room says of where a task may stand. -/
theorem ExecIn.stands {s u : State} {r : Nat} {e : Option HExec} (h : ExecIn s u r e) (q : Nat) :
    (u.room q).store = (s.room q).store ∧ (u.room q).absent = (s.room q).absent := by
  rw [h q]
  split
  next hq => rw [hq]; exact ⟨rfl, rfl⟩
  next => exact ⟨rfl, rfl⟩

/-- What a hearth's turn is before its command takes effect: a debit, and the command in execution. -/
def State.turned (s : State) (r : Nat) (i : Instr) : State := (s.houseDebit r 8).beginCmd r i 0

theorem turned_exec {s : State} {r : Nat} (hrun : HearthRuns s r) (i : Instr) :
    ExecIn s (s.turned r i) r (some { instr := i, since := s.clock.tick }) :=
  (ExecIn.of_rooms (u := s.houseDebit r 8) rfl hrun.2.2).beginCmd i 0

theorem resident_turned {s : State} {r : Nat} (hrun : HearthRuns s r) (i : Instr) : (s.turned r i).resident = s.resident := by
  funext q ctn img
  unfold State.resident
  rw [((turned_exec hrun i).stands q).1]

theorem roomMay_turned {s : State} {r : Nat} (hrun : HearthRuns s r) (i : Instr) (k : Task) (q : Nat) :
    (s.turned r i).roomMay k q = s.roomMay k q := by
  unfold State.roomMay
  rw [resident_turned hrun, ((turned_exec hrun i).stands q).2]
  rfl

theorem positionOk_turned {s : State} {r : Nat} (hrun : HearthRuns s r) (i : Instr) (k : Task) (q x y : Nat) :
    (s.turned r i).positionOk k q x y = s.positionOk k q x y := by
  unfold State.positionOk
  rw [resident_turned hrun]
  rfl

theorem draws_rooms (s : State) (acct mu i : Nat) (cs : List Nat) (as : List RetArray) :
    (s.draws acct mu i cs as).rooms = s.rooms := rfl

theorem putStaged_rooms (s : State) (k u : Task) : (s.putStaged k u).rooms = s.rooms := rfl

theorem stageAt_staged {s : State} {k : Task} (hk : k ∈ s.tasks) (r x y : Nat) :
    (s.stageAt k r x y).task? k.id = some (s.stagedTask k r x y) ∧ (s.stageAt k r x y).rooms = s.rooms
      ∧ (s.stageAt k r x y).mem = s.mem ∧ (s.stageAt k r x y).ops = s.ops := by
  rw [stageAt_eq]
  have hu : (s.stagedTask k r x y).id = k.id := rfl
  generalize s.stagedTask k r x y = u at hu ⊢
  obtain ⟨-, hmem, hops, htasks⟩ := draws_frame (s := s) (s.entryOf k).acct (s.drawOf k) k.id u.gang u.spads
  have hrooms := draws_rooms s (s.entryOf k).acct (s.drawOf k) k.id u.gang u.spads
  generalize s.draws (s.entryOf k).acct (s.drawOf k) k.id u.gang u.spads = v at *
  obtain ⟨-, hmem', hops', -, -⟩ := putStaged_frame (s := v) k u
  exact ⟨putStaged_task hu (htasks ▸ hk), (putStaged_rooms v k u).trans hrooms, hmem'.trans hmem, hops'.trans hops⟩

theorem ctxload_stages {c : HCmd} {s : State} {r : Nat} {g : Nat × Nat × Nat × Nat} {k : Task} (hrun : HearthRuns s r)
    (hg : regionWord (mget (s.room r).hearth.h c.ha.toNat 0) = some g)
    (hk : s.tasks.find? (fun u => u.st == .preempted && !u.saving
      && u.age == (mget (s.room r).hearth.h c.hb.toNat 0).toNat) = some k)
    (hshape : s.shape k = (g.1, g.2.1)) (hroom : s.roomMay k r = true) (hpos : s.positionOk k r g.2.2.1 g.2.2.2 = true)
    (hhold : s.sched.hold = false) :
    ∃ t u, exec (.ctxload c) s = .next t ∧ HearthDone s t r c ((s.room r).hearth.pos + 1) id ∧ t.task? k.id = some u
      ∧ u.st = .staged ∧ u.room = r ∧ u.x0 = g.2.2.1 ∧ u.y0 = g.2.2.2 ∧ t.mem = s.mem ∧ t.ops = s.ops := by
  have hin := turned_exec hrun (.ctxload c)
  obtain ⟨htask, hrooms, hmem, hops⟩ :=
    stageAt_staged (s := s.turned r (.ctxload c)) (List.mem_of_find?_eq_some hk) r g.2.2.1 g.2.2.2
  refine ⟨(((s.turned r (.ctxload c)).stageAt k r g.2.2.1 g.2.2.2).finishCmd r c), _, ?_,
    hearthDone_finishCmd hrun (hin.congr hrooms) c, htask, rfl, rfl, rfl, rfl, hmem, hops⟩
  have hage : ((s.turned r (.ctxload c)).hearth r).hreg c.hb.toNat = mget (s.room r).hearth.h c.hb.toNat 0 := by
    rw [State.hearth, hin r, if_pos rfl]
    rfl
  have hfind : (s.turned r (.ctxload c)).tasks.find? (fun u => u.st == .preempted && !u.saving
      && u.age == (((s.turned r (.ctxload c)).hearth r).hreg c.hb.toNat).toNat) = some k := by
    rw [hage]
    exact hk
  have hstands : ¬ ((s.turned r (.ctxload c)).sched.hold = true ∨ (s.turned r (.ctxload c)).shape k ≠ (g.1, g.2.1)
      ∨ (s.turned r (.ctxload c)).roomMay k r = false ∨ (s.turned r (.ctxload c)).positionOk k r g.2.2.1 g.2.2.2 = false) := by
    rw [roomMay_turned hrun, positionOk_turned hrun, hroom, hpos]
    rintro (h | h | h | h)
    · exact nomatch hhold.symm.trans h
    · exact h hshape
    · exact nomatch h
    · exact nomatch h
  show execCtxload c s = _
  unfold execCtxload
  rw [command_runs hrun, withRegion_some (s := s.houseDebit r 8) hg]
  refine congrArg Host.Outcome.next ?_
  show (s.turned r (.ctxload c)).ctxloadStep r c g = _
  unfold State.ctxloadStep
  dsimp only
  rw [hfind]
  exact if_neg hstands

/-! ### The ways of messages where only rooms and accounts differ (R9, R241, R266) -/

/-- A state with other rooms and accounts. -/
def State.withRooms (s : State) (R : AMap Room) (A : AMap Acct) : State := { s with rooms := R, accts := A }

section
variable {s : State} {R : AMap Room} (A : AMap Acct)
  (hR : ∀ q, (mget R q {}).tlb = (s.room q).tlb ∧ (mget R q {}).watch = (s.room q).watch)
include hR

theorem cached_withRooms : (s.withRooms R A).cached = s.cached := by
  funext t ea
  unfold State.cached Room.tlbFind
  rw [show ((s.withRooms R A).room t.room).tlb = (s.room t.room).tlb from (hR t.room).1]
  rfl

theorem missing_withRooms : (s.withRooms R A).missing = s.missing := by
  unfold State.missing
  rw [cached_withRooms A hR]

theorem physPieces_withRooms : (s.withRooms R A).physPieces = s.physPieces := by
  unfold State.physPieces
  rw [cached_withRooms A hR]

theorem watched_withRooms : (s.withRooms R A).watched = s.watched := by
  funext t wr rs
  unfold State.watched Room.watchHit
  rw [physPieces_withRooms A hR, show ((s.withRooms R A).room t.room).watch = (s.room t.room).watch from (hR t.room).2]

theorem meets_withRooms : (s.withRooms R A).meets = s.meets := by
  unfold State.meets
  rw [missing_withRooms A hR, physPieces_withRooms A hR]
  rfl

theorem mayGo_withRooms : (s.withRooms R A).mayGo = s.mayGo := by
  unfold State.mayGo State.blockedByEarlier
  rw [meets_withRooms A hR]
  rfl

theorem underWay_withRooms : (s.withRooms R A).underWay = s.underWay := by
  unfold State.underWay
  rw [mayGo_withRooms A hR, missing_withRooms A hR, watched_withRooms A hR, physPieces_withRooms A hR]
  rfl

theorem inFlight_withRooms : (s.withRooms R A).inFlight = s.inFlight := by
  unfold State.inFlight
  rw [underWay_withRooms A hR]
  rfl

theorem legs_withRooms : (s.withRooms R A).legs = s.legs := by
  unfold State.legs
  rw [physPieces_withRooms A hR]
  rfl

theorem setLegs_withRooms : (s.withRooms R A).setLegs = s.setLegs := by
  unfold State.setLegs State.lockPa
  rw [cached_withRooms A hR]
  rfl

theorem legsOut_withRooms : (s.withRooms R A).legsOut = s.legsOut := by
  unfold State.legsOut State.replyLegs
  rw [inFlight_withRooms A hR, legs_withRooms A hR, setLegs_withRooms A hR]
  rfl

theorem pathBusy_withRooms : (s.withRooms R A).pathBusy = s.pathBusy := by
  unfold State.pathBusy
  rw [legsOut_withRooms A hR]
  rfl

end

/-! ### What an operation waits for at its home does not depend on rooms and accounts (R158, R187, R364) -/

/-- Two branches that wait alike. -/
theorem Perf.waits_ite {c : Prop} [Decidable c] {a b a' b' : Perf} (ha : a.waits = a'.waits) (hb : b.waits = b'.waits) :
    (if c then a else b).waits = (if c then a' else b').waits := by
  split
  · exact ha
  · exact hb

section
variable (s : State) (t : Task) (m w : Nat)

theorem spadPut_waits (p : Option Spad) : (s.spadPut t m p).waits = false := by
  cases p with
  | none => rfl
  | some q => rfl

theorem andThen_waits {p : Perf} {f : State → Out → Perf} (hp : p.waits = false) (hf : ∀ u x, (f u x).waits = false) :
    (p.andThen f).waits = false := by
  cases p with
  | ok u x => exact hf u x
  | wait => exact nomatch hp
  | fault a => rfl
  | stop u => rfl

theorem spadWord_waits (v : Word) (st : WordSt) (x : Out) : (s.spadWord t m w v st x).waits = false :=
  andThen_waits (spadPut_waits s t m _) fun _ _ => rfl

theorem emptyWord_waits (x : Out) : (s.emptyWord t m w x).waits = false := by
  unfold State.emptyWord
  dsimp only
  split
  · exact andThen_waits (spadPut_waits s t m _) fun _ _ => rfl
  · exact spadWord_waits s t m w _ _ x

theorem queueWrite_waits (ws : List (Nat × Word)) (x : Out) : (s.queueWrite t m ws x).waits = false :=
  andThen_waits (spadPut_waits s t m _) fun _ _ => rfl

theorem entryRead_waits (o : Op) {go : Perf} (hgo : go.waits = false) : (s.entryRead t o m w go).waits = false := by
  unfold State.entryRead
  split
  · rfl
  · exact hgo

theorem allocLines_waits (mc n : Nat) {go : State → Perf} (hgo : ∀ u, (go u).waits = false) :
    (s.allocLines t mc n go).waits = false := by
  unfold State.allocLines
  dsimp only
  split_ifs
  · exact hgo s
  · rfl
  · exact hgo s
  · split
    · exact hgo _
    · rfl
    · rfl

theorem storePieces_waits (mc : Nat) (ag : Agent) (ps : List (Nat × List Byte × Option (BitVec 16))) :
    (s.storePieces t mc ag ps).waits = false := allocLines_waits s t mc _ fun _ => rfl

theorem takeRed_waits (mc pa : Nat) (op : BitVec 3) (a : Nat) : (s.takeRed t mc pa op a).waits = false := by
  unfold State.takeRed
  dsimp only
  split
  · rfl
  · split
    · rfl
    · exact allocLines_waits _ t mc 1 fun _ => rfl

theorem performLoad_waits (o : Op) : (s.performLoad o t).waits = false := by
  unfold State.performLoad
  dsimp only
  split
  · rfl
  · rfl

theorem performVld_waits (o : Op) : (s.performVld o t).waits = false := by
  unfold State.performVld
  dsimp only
  split
  · rfl
  · rfl

theorem performVgath_waits (o : Op) : (s.performVgath o t).waits = false := by
  unfold State.performVgath
  split
  · rfl
  · rfl

theorem performEdgeRead_waits (o : Op) : (s.performEdgeRead o t).waits = false := by
  unfold State.performEdgeRead
  dsimp only
  split
  · rfl
  · split
    · rfl
    · rfl

end

section
variable (s : State) (R : AMap Room) (A : AMap Acct) (o : Op) (t : Task) (m : Nat)

theorem spadStore_withRooms (ps : List (Nat × List Byte)) :
    ((s.withRooms R A).spadStore t m ps).waits = (s.spadStore t m ps).waits := by
  unfold State.spadStore
  rw [show (s.withRooms R A).cell = s.cell from rfl]
  dsimp only
  split
  · rfl
  · split
    · rfl
    · rw [spadPut_waits, spadPut_waits]

theorem performCtrinit_withRooms (hOn : ∀ self w, (s.withRooms R A).waitersOn self m w = 0 ↔ s.waitersOn self m w = 0)
    (w : Nat) (target : Word) :
    ((s.withRooms R A).performCtrinit o t m w target).waits = (s.performCtrinit o t m w target).waits := by
  unfold State.performCtrinit
  rw [show (s.withRooms R A).cell = s.cell from rfl]
  dsimp only
  by_cases h : s.waitersOn o.id m w = 0
  · rw [if_neg (not_not.2 h), if_neg (not_not.2 ((hOn o.id w).2 h))]
    split
    · rfl
    · split
      · rfl
      · rw [andThen_waits (spadPut_waits _ _ _ _) fun _ _ => rfl, andThen_waits (spadPut_waits _ _ _ _) fun _ _ => rfl]
  · rw [if_pos h, if_pos (mt (hOn o.id w).1 h)]
    rfl

theorem performWord_withRooms (hOn : ∀ self w, (s.withRooms R A).waitersOn self m w = 0 ↔ s.waitersOn self m w = 0) :
    ((s.withRooms R A).performWord o t m).waits = (s.performWord o t m).waits := by
  have hempty : ∀ w x, ((s.withRooms R A).emptyWord t m w x).waits = (s.emptyWord t m w x).waits := fun w x => by
    rw [emptyWord_waits, emptyWord_waits]
  have hword : ∀ w v st x, ((s.withRooms R A).spadWord t m w v st x).waits = (s.spadWord t m w v st x).waits := fun w v st x => by
    rw [spadWord_waits, spadWord_waits]
  have hpoison : (s.withRooms R A).poisonIn t o.cell { spad := some m, ea := o.ea }
    = s.poisonIn t o.cell { spad := some m, ea := o.ea } := rfl
  unfold State.performWord
  rw [show (s.withRooms R A).cell = s.cell from rfl, hpoison]
  dsimp only
  split
  · refine Perf.waits_ite rfl ?_
    split
    · rfl
    · rfl
  · refine Perf.waits_ite rfl ?_
    split
    · rfl
    · exact hempty _ _
  · exact Perf.waits_ite rfl (Perf.waits_ite rfl (Perf.waits_ite (Perf.waits_ite rfl rfl) (hword _ _ _ _)))
  · exact Perf.waits_ite rfl (Perf.waits_ite rfl (hword _ _ _ _))
  · exact Perf.waits_ite rfl (hempty _ _)
  · split
    · rfl
    · rfl
  · exact performCtrinit_withRooms s R A o t m hOn _ _
  · exact Perf.waits_ite rfl (Perf.waits_ite rfl (Perf.waits_ite rfl (hword _ _ _ _)))

theorem performQueue_withRooms : ((s.withRooms R A).performQueue o t m).waits = (s.performQueue o t m).waits := by
  have hwrite : ∀ ws x, ((s.withRooms R A).queueWrite t m ws x).waits = (s.queueWrite t m ws x).waits := fun ws x => by
    rw [queueWrite_waits, queueWrite_waits]
  have hread : ∀ w ws x, ((s.withRooms R A).entryRead t o m w ((s.withRooms R A).queueWrite t m ws x)).waits
      = (s.entryRead t o m w (s.queueWrite t m ws x)).waits := fun w ws x => by
    rw [entryRead_waits _ t m w o (queueWrite_waits _ t m ws x), entryRead_waits s t m w o (queueWrite_waits s t m ws x)]
  unfold State.performQueue
  rw [show (s.withRooms R A).cell = s.cell from rfl, show (s.withRooms R A).descPoison t o m = s.descPoison t o m from rfl]
  dsimp only
  split
  · rfl
  refine Perf.waits_ite rfl ?_
  split
  · exact Perf.waits_ite rfl (hwrite _ _)
  · exact Perf.waits_ite rfl (hread _ _ _)
  · exact Perf.waits_ite rfl (Perf.waits_ite rfl (hwrite _ _))
  · exact Perf.waits_ite rfl (Perf.waits_ite rfl (hread _ _ _))
  · exact Perf.waits_ite rfl (Perf.waits_ite rfl (hread _ _ _))

theorem saveSpad_withRooms (bs : List Block) : ((s.withRooms R A).saveSpad o t m bs).waits = (s.saveSpad o t m bs).waits := by
  unfold State.saveSpad
  rw [show (s.withRooms R A).cell = s.cell from rfl]
  dsimp only
  split
  · rfl
  · split
    · rfl
    · rw [spadPut_waits, spadPut_waits]

theorem performTransfer_reads (h : o.opc ≠ 0xD7) : (s.performTransfer o t).waits = false := by
  unfold State.performTransfer
  rw [if_neg h]
  split
  · rfl
  · split
    · rfl
    · split
      · rfl
      · rfl

theorem performTransfer_withRooms : ((s.withRooms R A).performTransfer o t).waits = (s.performTransfer o t).waits := by
  by_cases h : o.opc = 0xD7
  · unfold State.performTransfer
    rw [if_pos h, if_pos h]
    dsimp only
    split
    · exact saveSpad_withRooms s R A o t _ _
    · rfl
  · rw [performTransfer_reads _ _ _ h, performTransfer_reads _ _ _ h]

theorem store_withRooms (c e : Nat) (tg : Target) (bytes : List Byte) :
    ((s.withRooms R A).store t c e tg bytes).waits = (s.store t c e tg bytes).waits := by
  unfold State.store
  split
  · exact spadStore_withRooms s R A t _ _
  · exact (storePieces_waits _ _ _ _ _).trans (storePieces_waits _ _ _ _ _).symm

theorem performVst_withRooms : ((s.withRooms R A).performVst o t).waits = (s.performVst o t).waits := by
  unfold State.performVst
  split
  · exact spadStore_withRooms s R A t _ _
  · exact (storePieces_waits _ _ _ _ _).trans (storePieces_waits _ _ _ _ _).symm

/-- Whether an operation waits at its home is the same where only rooms and accounts differ and the same words have waiters. -/
theorem performOp_withRooms (hOn : ∀ self m w, (s.withRooms R A).waitersOn self m w = 0 ↔ s.waitersOn self m w = 0) :
    ((s.withRooms R A).performOp o t).waits = (s.performOp o t).waits := by
  have hpieces : ∀ mc ag ps, ((s.withRooms R A).storePieces t mc ag ps).waits = (s.storePieces t mc ag ps).waits :=
    fun mc ag ps => (storePieces_waits _ t mc ag ps).trans (storePieces_waits s t mc ag ps).symm
  unfold State.performOp
  refine Perf.waits_ite ((performLoad_waits _ t o).trans (performLoad_waits s t o).symm) ?_
  refine Perf.waits_ite (store_withRooms s R A t _ _ _ _) ?_
  refine Perf.waits_ite (Perf.waits_ite rfl rfl) (Perf.waits_ite rfl ?_)
  refine Perf.waits_ite (performWord_withRooms s R A o t _ fun self => hOn self _) ?_
  refine Perf.waits_ite (performQueue_withRooms s R A o t _) ?_
  refine Perf.waits_ite ((takeRed_waits _ t _ _ _ _).trans (takeRed_waits s t _ _ _ _).symm) ?_
  refine Perf.waits_ite ((performVld_waits _ t o).trans (performVld_waits s t o).symm) ?_
  refine Perf.waits_ite (performVst_withRooms s R A o t) ?_
  refine Perf.waits_ite ((performVgath_waits _ t o).trans (performVgath_waits s t o).symm) (Perf.waits_ite rfl ?_)
  refine Perf.waits_ite (performTransfer_withRooms s R A o t) (Perf.waits_ite rfl ?_)
  refine Perf.waits_ite (hpieces _ _ _) ?_
  exact Perf.waits_ite ((performEdgeRead_waits _ t o).trans (performEdgeRead_waits s t o).symm) rfl

end

/-! ### A hearth's own messages while its command begins (R9, R45, R189, R240) -/

/-- The entry at a key has what every entry has, and the value of an unlisted key. -/
theorem mget_of_forall {α : Type} {m : AMap α} {k : Nat} {d : α} {Q : Nat × α → Prop} (hd : Q (k, d)) (h : ∀ p ∈ m, Q p) :
    Q (k, mget m k d) := by
  induction m with
  | nil => exact hd
  | cons p t ih =>
    obtain ⟨hp, ht⟩ := List.forall_mem_cons.1 h
    obtain ⟨j, u⟩ := p
    unfold mget mfind
    by_cases hj : j = k
    · rw [if_pos hj, ← hj]
      exact hp
    · rw [if_neg hj]
      exact ih ht

/-- A property of every entry, after a write that the property does not see. -/
theorem forall_mset {α : Type} {m : AMap α} {k : Nat} {v d : α} {Q : Nat × α → Prop} (hv : Q (k, v) ↔ Q (k, mget m k d))
    (hd : Q (k, d)) : (∀ p ∈ mset m k v, Q p) ↔ ∀ p ∈ m, Q p := by
  induction m with
  | nil => exact ⟨fun _ => List.forall_mem_nil _, fun _ => List.forall_mem_singleton.2 (hv.2 hd)⟩
  | cons p t ih =>
    obtain ⟨j, u⟩ := p
    unfold mget mfind at hv
    by_cases hj : j = k
    · rw [if_pos hj] at hv
      subst hj
      rw [mset, if_pos rfl, List.forall_mem_cons, List.forall_mem_cons, hv]
    · rw [if_neg hj] at hv
      rw [mset, if_neg hj]
      split
      · rw [List.forall_mem_cons, hv]
        exact ⟨And.right, fun h => ⟨mget_of_forall hd (List.forall_mem_cons.1 h).2, h⟩⟩
      · rw [List.forall_mem_cons, List.forall_mem_cons, ih hv]

section
variable {s : State} {r : Nat} (hrun : HearthRuns s r) (i : Instr)
include hrun

omit hrun in
theorem turned_rooms : (s.turned r i).rooms
    = mset s.rooms r ((s.room r).withExec (some { instr := i, since := s.clock.tick })) := rfl

theorem turned_ways (q : Nat) : (mget (s.turned r i).rooms q {}).tlb = (s.room q).tlb
    ∧ (mget (s.turned r i).rooms q {}).watch = (s.room q).watch := by
  have hroom := turned_exec hrun i q
  unfold State.room at hroom
  rw [hroom]
  split
  next hq => rw [hq]; exact ⟨rfl, rfl⟩
  next => exact ⟨rfl, rfl⟩

/-- A command that begins waits on no word. -/
theorem waitersOn_turned (self m w : Nat) : (s.turned r i).waitersOn self m w = 0 ↔ s.waitersOn self m w = 0 := by
  have hexec : (mget s.rooms r {}).hearth.exec = none := hrun.2.2
  unfold State.waitersOn
  rw [turned_rooms]
  simp only [Nat.add_eq_zero_iff, List.length_eq_zero_iff, List.filter_eq_nil_iff, List.flatMap_eq_nil_iff]
  rw [forall_mset (d := {}), forall_mset (d := {})]
  · rfl
  · rfl
  · exact fun _ h => nomatch h
  · rw [hexec]
    exact iff_of_true nofun nofun
  · exact nofun

theorem opWaiters_turned (m : Nat) : (s.turned r i).opWaiters m = s.opWaiters m := by
  have hop : ∀ o t, ((s.turned r i).performOp o t).waits = (s.performOp o t).waits := fun o t =>
    performOp_withRooms s (s.turned r i).rooms (s.turned r i).accts o t (waitersOn_turned hrun i)
  funext o
  unfold State.opWaiters State.ghostWaits
  rw [show (s.turned r i).limitPassed o = s.limitPassed o from rfl]
  split
  · rfl
  split
  next k hk =>
    rw [hop]
    rfl
  next hk =>
    rw [hop]
    rfl

/-- A hearth whose command waits for nothing is no waiter at a scratchpad. -/
theorem waitsBefore_turned (m : Nat) {w : Waiter} (h : s.waitsBefore m w = false) : (s.turned r i).waitsBefore m w = false := by
  have hexec : (mget s.rooms r {}).hearth.exec = none := hrun.2.2
  unfold State.waitsBefore State.waiters at h ⊢
  rw [opWaiters_turned hrun, turned_rooms]
  simp only [List.any_append, List.any_filterMap, Bool.or_eq_false_iff, List.any_eq_false] at h ⊢
  refine ⟨h.1, (forall_mset (d := {}) ?_ ?_).2 h.2⟩
  · rw [hexec]
    exact iff_of_true nofun nofun
  · exact nofun

/-- What a hearth sends passes as it would have before its command began. -/
theorem hearthSends_turned {reads writes : List (HAddr × Nat × Nat)} (h : HearthSends s r reads writes) :
    HearthSends (s.turned r i) r reads writes := by
  obtain ⟨heach, hways, hhomes⟩ := h
  refine ⟨fun x hx => ?_, ?_, hhomes⟩
  · obtain ⟨hawake, hlate, hbehind⟩ := heach x hx
    refine ⟨hawake, hlate, ?_⟩
    obtain ⟨a, off, n⟩ := x
    unfold State.hearthBehind at hbehind ⊢
    have hfrom : (((s.turned r i).hearth r).exec.bind (·.waitFrom)) = (s.hearth r).exec.bind (·.waitFrom) := by
      rw [State.hearth, State.hearth, turned_exec hrun i r, if_pos rfl, hrun.2.2]
      rfl
    rw [hfrom]
    cases a with
    | spad m o => exact waitsBefore_turned hrun i m hbehind
    | phys pa => rfl
  · have hbusy : (s.turned r i).pathBusy = s.pathBusy := pathBusy_withRooms _ (turned_ways hrun i)
    rw [hbusy]
    exact hways

end

/-- The state in which a hearth's message has reached its homes. -/
def State.sent (s : State) (r : Nat) (reads writes : List (HAddr × Nat × Nat)) : State :=
  let pieces (l : List (HAddr × Nat × Nat)) : List (Nat × Nat) := l.flatMap fun x => x.1.pieces x.2.1 x.2.2
  ((s.arrive (s.memArrivals (pieces reads ++ pieces writes) (roomKey r))).useRanges (pieces reads ++ pieces writes)).arrive
    ((reads ++ writes).flatMap fun x => x.1.served r x.2.1 x.2.2)

/-- A message of a hearth that nothing holds back reaches its homes. -/
theorem hearthSend_sends {s : State} {r : Nat} {reads writes : List (HAddr × Nat × Nat)} (h : HearthSends s r reads writes)
    (go : State → State) : s.hearthSend r reads writes go = go (s.sent r reads writes) := by
  obtain ⟨heach, hways, hhomes, hlate⟩ := h
  have hasleep : ((reads ++ writes).flatMap fun x => s.hearthAsleep x.1 x.2.1 x.2.2) = [] :=
    List.flatMap_eq_nil_iff.2 fun x hx => (heach x hx).1
  have hwords : s.tooLate ((reads ++ writes).flatMap fun x => x.1.served r x.2.1 x.2.2) = false := by
    unfold State.tooLate
    rw [List.any_flatMap]
    exact List.any_eq_false.2 fun x hx => by rw [show (x.1.served r x.2.1 x.2.2).any _ = false from (heach x hx).2.1]; decide
  have hbehind : ((reads ++ writes).any fun x => s.hearthBehind r x.1 x.2.1 x.2.2) = false :=
    List.any_eq_false.2 fun x hx => by rw [(heach x hx).2.2]; decide
  unfold State.hearthSend State.sendTo State.arriveAt
  dsimp only
  rw [hasleep, hwords, hbehind, hways, hlate]
  have hrouted : ∀ ps : List (Nat × Nat), (∀ p ∈ ps, s.routed p.1 = true ∧ s.retainedIn p.1 p.2 = []) →
      (ps.any fun p => !s.routed p.1) = false ∧ (ps.flatMap fun p => s.retainedIn p.1 p.2) = [] := fun ps hps =>
    ⟨List.any_eq_false.2 fun p hp => by rw [(hps p hp).1]; decide, List.flatMap_eq_nil_iff.2 fun p hp => (hps p hp).2⟩
  obtain ⟨hroute, hretained⟩ := hrouted _ hhomes
  rw [hroute, hretained]
  rfl

/-! ### GANGRUN (R450) -/

/-- The task of a packet that joins its tag's queue with a position. -/
theorem enqueue_pinned {s : State} {p : Packet} (time : Nat) (pin : Option (Nat × Nat × Nat))
    (hl : (s.rtag p.tag).cur.launch = false) : ∃ k : Task, (s.enqueue p time pin none).tasks = s.tasks ++ [k]
      ∧ k.tag = p.tag ∧ k.pin = pin ∧ k.st = .queued ∧ k.arg = p.body.take p.len ∧ k.pid = p.pid := by
  unfold State.enqueue
  dsimp only
  rw [if_neg (by rw [hl]; decide)]
  exact ⟨_, rfl, rfl, rfl, rfl, rfl, rfl⟩

/-- The tag of sound operands takes no launches. -/
theorem launch_of_gangrunArgs {s : State} {r : Nat} {c : HCmd} {a : (Nat × Nat × Nat × Nat) × Option HAddr}
    (h : s.gangrunArgs r c = .ok a) :
    (s.rtag (natField c.imm.toNat 0 12)).cur.launch = false := by
  unfold State.gangrunArgs at h
  dsimp only at h
  split at h
  · exact nomatch h
  · split at h
    · exact nomatch h
    next hok =>
      rw [Bool.not_eq_true, Bool.not_eq_false'] at hok
      unfold State.gangrunOk at hok
      rw [Bool.and_eq_true, Bool.and_eq_true] at hok
      simpa using hok.1.2

/-- The task that a GANGRUN queues. -/
structure Gangrun (s t : State) (r : Nat) (c : HCmd) (g : Nat × Nat × Nat × Nat) (body : List Byte) (k : Task) : Prop where
  tasks : t.tasks = s.tasks ++ [k]
  tag : k.tag = c.imm.toNat % 4096
  pin : k.pin = some (r, g.2.2.1, g.2.2.2)
  queued : k.st = .queued
  arg : k.arg = body
  pid : k.pid = s.gangrunPid r

/-- The packet of a GANGRUN (R450). -/
def State.gangrunPacket (s : State) (r : Nat) (c : HCmd) (body : List Byte) : Packet :=
  { dev := s.devNum, tag := natField c.imm.toNat 0 12, len := body.length, pid := s.gangrunPid r, body := body }

/-- What only rooms and accounts differ in is the same elsewhere. -/
theorem hearthFrame_same {β : Type} {s u : State} (h : HearthFrame s u) (f : State → β)
    (hf : ∀ (t : State) R A, f { t with rooms := R, accts := A } = f t) : f u = f s :=
  (hf u s.rooms s.accts).symm.trans (congrArg f (show { u with rooms := s.rooms, accts := s.accts } = s from h))

/-- What reads leave as it was. -/
theorem JustReads.same {β : Type} {s u : State} (h : JustReads s u) (f : State → β)
    (hf : ∀ (t : State) ts hm sv p l, f { t with tasks := ts, hostMem := hm, served := sv, power := p, logs := l } = f t) :
    f u = f s :=
  (hf u s.tasks s.hostMem s.served { u.power with sliceUse := s.power.sliceUse } { u.logs with wlog := s.logs.wlog }).symm.trans
    (congrArg f h.1)

/-- The packet of a GANGRUN joins its queue, its command in execution or not, after the reads of its body. -/
theorem gangrunJoin_joins {c : HCmd} {s u w : State} {r : Nat} {e : Option HExec} (hrun : HearthRuns s r) (hin : ExecIn s u r e)
    (hu : HearthFrame s u) (haccts : u.accts = (s.houseDebit r 8).accts) (hreads : JustReads u w)
    (hlaunch : (s.rtag (natField c.imm.toNat 0 12)).cur.launch = false) (hq : 1024 < s.qfree)
    (hcancel : s.gangrunPid r ∉ s.sched.cancels) (g : Nat × Nat × Nat × Nat) (body : List Byte) :
    ∃ k, HearthDone s (w.gangrunJoin r c g body) r c ((s.room r).hearth.pos + 1) id ∧ HearthPays s (w.gangrunJoin r c g body) r 8
      ∧ Gangrun s (w.gangrunJoin r c g body) r c g body k ∧ (w.gangrunJoin r c g body).mem = s.mem
      ∧ (w.gangrunJoin r c g body).cells = s.cells := by
  have hrtags : w.rtags = s.rtags :=
    (hreads.same State.rtags fun _ _ _ _ _ _ => rfl).trans (hearthFrame_same hu State.rtags fun _ _ _ => rfl)
  have hsched : w.sched = s.sched :=
    (hreads.same State.sched fun _ _ _ _ _ _ => rfl).trans (hearthFrame_same hu State.sched fun _ _ _ => rfl)
  have htasks : w.tasks = s.tasks := hreads.2.trans (hearthFrame_same hu State.tasks fun _ _ _ => rfl)
  have hlaunches : w.launches = s.launches :=
    (hreads.same State.launches fun _ _ _ _ _ _ => rfl).trans (hearthFrame_same hu State.launches fun _ _ _ => rfl)
  have hwin : ExecIn s w r e := hin.congr (hreads.same State.rooms fun _ _ _ _ _ _ => rfl)
  have hpid : w.gangrunPid r = s.gangrunPid r := by
    unfold State.gangrunPid
    rw [hwin.hearth_pos]
    rfl
  have hfree : w.qfree = s.qfree := by
    unfold State.qfree
    rw [hsched, htasks, hlaunches]
  have hplace : ¬ (w.qfree ≤ 1024 ∨ w.sched.cancels.contains (w.gangrunPid r) = true) := by
    rw [hfree, hsched, hpid, List.contains_iff_mem]
    exact not_or.2 ⟨Nat.not_le.2 hq, hcancel⟩
  have hlaunch' : (w.rtag (natField c.imm.toNat 0 12)).cur.launch = false := by
    rw [State.rtag, hrtags]
    exact hlaunch
  have hjoin : w.gangrunJoin r c g body =
      (w.enqueue (w.gangrunPacket r c body) w.domainTime (some (r, g.2.2.1, g.2.2.2)) none).finishCmd r c := if_neg hplace
  have hframe {β : Type} (f : State → β)
      (hf : ∀ (t : State) rt ts c sc, f { t with rtags := rt, tasks := ts, clock := c, sched := sc } = f t) :=
    State.enqueue_frame f hf w (w.gangrunPacket r c body) w.domainTime (some (r, g.2.2.1, g.2.2.2)) none hlaunch'
  obtain ⟨k, hjoined, htag, hpin, hst, harg, hkpid⟩ :=
    enqueue_pinned (p := w.gangrunPacket r c body) w.domainTime (some (r, g.2.2.1, g.2.2.2)) hlaunch'
  rw [hjoin]
  refine ⟨k, hearthDone_finishCmd hrun (hwin.congr (hframe State.rooms fun _ _ _ _ _ => rfl)) c,
    hearthPays_of_accts ?_, ⟨?_, ?_, hpin, hst, ?_, ?_⟩, ?_, ?_⟩
  · exact (hframe State.accts fun _ _ _ _ _ => rfl).trans ((hreads.same State.accts fun _ _ _ _ _ _ => rfl).trans haccts)
  · exact hjoined.trans (congrArg (· ++ [k]) htasks)
  · exact htag.trans (natField_low _ _)
  · exact harg.trans (List.take_length)
  · exact hkpid.trans hpid
  · exact (hframe State.mem fun _ _ _ _ _ => rfl).trans 
      ((hreads.same State.mem fun _ _ _ _ _ _ => rfl).trans (hearthFrame_same hu State.mem fun _ _ _ => rfl))
  · exact (hframe State.cells fun _ _ _ _ _ => rfl).trans 
      ((hreads.same State.cells fun _ _ _ _ _ _ => rfl).trans (hearthFrame_same hu State.cells fun _ _ _ => rfl))

theorem hearthRead_reads {s w : State} (h : JustReads s w) (r : Nat) (a : HAddr) (off n : Nat) :
    JustReads s (w.hearthRead r a off n) := by
  cases a with
  | spad m o => exact h
  | phys pa => exact h.homeWatch

theorem sent_reads (s : State) (r : Nat) (reads writes : List (HAddr × Nat × Nat)) : JustReads s (s.sent r reads writes) :=
  JustReads.arrive (JustReads.foldState (JustReads.refl s).arrive fun _ _ h => h.useRange)

section
variable {c : HCmd} {s : State} {r : Nat} {g : Nat × Nat × Nat × Nat} (hrun : HearthRuns s r)
include hrun

/-- The step of a GANGRUN whose operands are sound. -/
theorem exec_gangrun {body : Option HAddr} (hargs : s.gangrunArgs r c = .ok (g, body)) :
    exec (.gangrun c) s = .next ((s.turned r (.gangrun c)).gangrunStep r c g body) := by
  show execGangrun c s = _
  unfold execGangrun
  rw [command_runs hrun, show (s.houseDebit r 8).gangrunArgs r c = .ok (g, body) from hargs]
  rfl

variable (hq : 1024 < s.qfree) (hcancel : s.gangrunPid r ∉ s.sched.cancels)
include hq hcancel

/-- A GANGRUN reads its body, where it has one, before its packet joins. -/
theorem gangrunStep_joins {body : Option HAddr}
    (hsends : ∀ a, body = some a → HearthSends s r [(a, 0, c.imm.toNat / 4096 % 256)] []
      ∧ s.hearthPoison a (c.imm.toNat / 4096 % 256) = false) :
    ∃ w, JustReads (s.turned r (.gangrun c)) w ∧ (s.turned r (.gangrun c)).gangrunStep r c g body
      = w.gangrunJoin r c g ((body.map fun a => s.hearthBytes a (c.imm.toNat / 4096 % 256)).getD []) := by
  cases body with
  | none => exact ⟨_, JustReads.refl _, rfl⟩
  | some a =>
    obtain ⟨hsend, hclean⟩ := hsends a rfl
    have hlen : natField c.imm.toNat 12 8 = c.imm.toNat / 4096 % 256 := rfl
    have hpid : (s.turned r (.gangrun c)).gangrunPid r = s.gangrunPid r := by
      unfold State.gangrunPid
      rw [(turned_exec hrun _).hearth_pos]
      rfl
    have hplace : ¬ (decide ((s.turned r (.gangrun c)).qfree ≤ 1024)
        || (s.turned r (.gangrun c)).sched.cancels.contains (s.gangrunPid r)) = true := by
      rw [Bool.or_eq_true, decide_eq_true_eq, List.contains_iff_mem]
      exact not_or.2 ⟨Nat.not_le.2 hq, hcancel⟩
    refine ⟨_, hearthRead_reads (sent_reads (s.turned r (.gangrun c)) r [(a, 0, c.imm.toNat / 4096 % 256)] []) r a 0
      (c.imm.toNat / 4096 % 256), ?_⟩
    unfold State.gangrunStep
    dsimp only
    rw [hpid, hlen, if_neg hplace, hearthSend_sends (hearthSends_turned hrun _ hsend),
      show (s.turned r (.gangrun c)).hearthPoison a (c.imm.toNat / 4096 % 256) = false from hclean]
    rfl

theorem gangrun_queues {body : Option HAddr} (hargs : s.gangrunArgs r c = .ok (g, body))
    (hsends : ∀ a, body = some a → HearthSends s r [(a, 0, c.imm.toNat / 4096 % 256)] []
      ∧ s.hearthPoison a (c.imm.toNat / 4096 % 256) = false) :
    ∃ t k, exec (.gangrun c) s = .next t ∧ HearthDone s t r c ((s.room r).hearth.pos + 1) id ∧ HearthPays s t r 8
      ∧ Gangrun s t r c g ((body.map fun a => s.hearthBytes a (c.imm.toNat / 4096 % 256)).getD []) k ∧ t.mem = s.mem
      ∧ t.cells = s.cells := by
  obtain ⟨w, hreads, hstep⟩ := gangrunStep_joins hrun hq hcancel (g := g) hsends
  obtain ⟨k, hjoins⟩ := gangrunJoin_joins hrun (turned_exec hrun (.gangrun c)) rfl rfl hreads (launch_of_gangrunArgs hargs) hq hcancel g
    ((body.map fun a => s.hearthBytes a (c.imm.toNat / 4096 % 256)).getD [])
  exact ⟨_, k, (exec_gangrun hrun hargs).trans (congrArg Host.Outcome.next hstep), hjoins⟩

end

end Sys2Proof.Machine

namespace Sys2Proof.Proofs
open Sys2Proof.Machine

/-- Settles O30: a CFGSWITCH and a QUIESCE gate their gang, a release ends the gating, a GANGRUN's packet joins its queue after the read
of its body, and a CTXLOAD stages the task of its age. -/
theorem hearthGangCommandsComplete : Obligations.HearthGangCommandsComplete := by
  intro c s r hrun h v g hg
  refine ⟨fun k hk hstandby => cfgswitch_begins hrun hg hk hstandby, fun k hk hgates => quiesce_gates hrun hg hk hgates,
    fun k hk hgate hreleases hlimit => quiesce_releases hrun hg hk hgate hreleases hlimit,
    fun body hargs hq hcancel hsends => ?_,
    fun k hk hshape hroom hpos hhold => ctxload_stages hrun hg hk hshape hroom hpos hhold⟩
  obtain ⟨t, k, hexec, hdone, hpays, hk, hmem, hcells⟩ := gangrun_queues hrun hq hcancel hargs hsends
  exact ⟨t, k, hexec, hdone, hpays, hk.tasks, hk.tag, hk.pin, hk.queued, hk.arg, hk.pid, hmem, hcells⟩

end Sys2Proof.Proofs
end
